-- ==== Sys2Proof/Word.lean ====
section
/-! DEFINITION. The word types of the engine and their plainest arithmetic: bytes, 64-bit
register doublewords, 512-bit lines, binary32 bit patterns, and the byte order of R380 and
*Scope and orientation* (little-endian unless a format says otherwise). -/

namespace Sys2Proof

/-- One byte. -/
abbrev Byte := BitVec 8

/-- One register doubleword, one sideband word, one score or token record header (R522, R62). -/
abbrev Word := BitVec 64

/-- One 64-byte line: a kiln line, a command record, a bundle, a template, a queue entry
(R214, R380, R29, R38, R234). Byte k is bits `[8k+7:8k]`. -/
abbrev Line := BitVec 512

/-- The bit pattern of a binary32 value (R67). -/
abbrev F32 := BitVec 32

/-- Bits `[hi:lo]` of a word of any width, as a number (the bit ranges of the manual). -/
def bitsOf {w : Nat} (x : BitVec w) (hi lo : Nat) : Nat :=
  (x.toNat >>> lo) % 2 ^ (hi + 1 - lo)

/-- One bit of a word as a Bool. -/
def bitOf {w : Nat} (x : BitVec w) (i : Nat) : Bool := x.getLsbD i

/-- Byte k of a word of any width. -/
def byteOf {w : Nat} (x : BitVec w) (k : Nat) : Byte := BitVec.ofNat 8 (x.toNat >>> (8 * k))

/-- Bytes lo to hi of a line, little-endian, as a number. -/
def bytesOf {w : Nat} (x : BitVec w) (lo hi : Nat) : Nat :=
  bitsOf x (8 * hi + 7) (8 * lo)

/-- A list of bytes read as one little-endian number. -/
def leNat : List Byte → Nat
  | [] => 0
  | b :: bs => b.toNat + 256 * leNat bs

/-- The n low bytes of a number, lowest first. -/
def leBytes : Nat → Nat → List Byte
  | 0, _ => []
  | n + 1, x => BitVec.ofNat 8 x :: leBytes n (x / 256)

/-- A field value shifted to its place. -/
def fieldAt (lo v : Nat) : Nat := v <<< lo

/-- ceil(a / b). -/
def ceilDiv (a b : Nat) : Nat := (a + b - 1) / b

/-- The position of the lowest set bit of the first n bits, if any. -/
def lowestSet (x : Nat) : Nat → Nat → Option Nat
  | 0, _ => none
  | n + 1, i => if x.testBit i then some i else lowestSet x n (i + 1)

/-- The number of set bits among the first n bits. -/
def popCount (x : Nat) : Nat → Nat
  | 0 => 0
  | n + 1 => (if x.testBit n then 1 else 0) + popCount x n

/-- A sign-extended field of n bits read as an integer. -/
def signed (n v : Nat) : Int := if 2 * v < 2 ^ n then v else (v : Int) - 2 ^ n

/-- An integer as the n-bit two's complement pattern. -/
def toPattern (n : Nat) (v : Int) : Nat := (v % (2 ^ n : Nat)).toNat

end Sys2Proof
end

