-- ==== Sys2Proof/Config.lean ====
section
/-! DEFINITION. What an implementation fixes and the manual leaves open: the free values. No
constant here has a body, so a statement about one holds whatever it is. -/

namespace Sys2Proof

/-- A 64-bit value that the manual gives no number for: a draw of the CTR_DRBG (R95, R352, R553), and the others of
notes/assumptions/5.md. Applied to the machine's own counter of free values drawn, so that each may differ. -/
opaque Config.freeValue : Nat → BitVec 64

/-- A byte that stands for what is internal to the engine: the item at a line of the system region (R217, R242). -/
opaque Config.freeByte : Nat → BitVec 8

end Sys2Proof
end

