-- ==== Sys2Proof/Machine/Assoc.lean ====
section
/-! DEFINITION. Tables from numbers to values: lists of (key, value) pairs with strictly rising
keys. `Assoc` is any such table, read with a default for an absent key; `Sparse` is the canonical
form that lists no entry equal to its default, which registers, event counters and memories use. -/

namespace Sys2Proof.Machine

/-- A table from numbers to values, keys strictly rising. -/
abbrev Assoc (α : Type) := List (Nat × α)

namespace Assoc

/-- The entry of a key, if listed. -/
def find? {α : Type} (t : Assoc α) (k : Nat) : Option α :=
  match t with
  | [] => none
  | (j, v) :: r => if j = k then some v else find? r k

/-- The value of a key, the default where it is not listed. -/
def get {α : Type} (d : α) (t : Assoc α) (k : Nat) : α := (find? t k).getD d

/-- The table with the key's value replaced or inserted in order. -/
def set {α : Type} (t : Assoc α) (k : Nat) (v : α) : Assoc α :=
  match t with
  | [] => [(k, v)]
  | (j, w) :: r => if k < j then (k, v) :: (j, w) :: r
                   else if k = j then (k, v) :: r
                   else (j, w) :: set r k v

/-- The table without the key. -/
def erase {α : Type} (t : Assoc α) (k : Nat) : Assoc α := t.filter fun q => q.1 != k

/-- The keys strictly rise. -/
def sorted {α : Type} : Assoc α → Bool
  | [] => true
  | [_] => true
  | (j, _) :: (k, w) :: r => decide (j < k) && sorted ((k, w) :: r)

end Assoc

namespace Sparse

/-- The value of a key in canonical form: `d k` where it is not listed. -/
def get {α : Type} (d : Nat → α) (t : Assoc α) (k : Nat) : α := (Assoc.find? t k).getD (d k)

/-- A write that keeps the canonical form: writing the default removes the entry. -/
def set {α : Type} [DecidableEq α] (d : Nat → α) (t : Assoc α) (k : Nat) (v : α) : Assoc α :=
  if v = d k then Assoc.erase t k else Assoc.set t k v

/-- The canonical form: keys strictly rise and no entry equals its default. -/
def wf {α : Type} [DecidableEq α] (d : Nat → α) (t : Assoc α) : Bool :=
  Assoc.sorted t && t.all fun p => decide (p.2 ≠ d p.1)

end Sparse

end Sys2Proof.Machine
end

