-- ==== Sys2Proof/Machine/Fp.lean ====
section
/-! DEFINITION. The arithmetic of *Scoring and expert selection* and of the element formats of
*Billets and the block-sparse token code*: exact dyadic values, one rounding to nearest-even,
binary32 operations with and without flushing, and the element formats of R127 and R129. -/

namespace Sys2Proof.Machine

/-- A value read out of a bit pattern: NaN, an infinity, or `(-1)^neg * man * 2^exp` exactly. -/
inductive Val where
  | nan
  | inf (neg : Bool)
  | fin (neg : Bool) (man : Nat) (exp : Int)
  deriving DecidableEq, Repr

/-- The number of bits of n: 0 for 0. -/
def bitLen (n : Nat) : Nat := if n = 0 then 0 else Nat.log2 n + 1

/-- `n * 2^e`, plus a nonzero remainder below its last place when `sticky`, rounded once to
nearest-even with p significant bits and no place below `lsbMin`; the exponent is unbounded
above. Answers (q, t) for q * 2^t. -/
def roundMag (p : Nat) (lsbMin : Int) (n : Nat) (e : Int) (sticky : Bool) : Nat × Int :=
  let t := max (e + (bitLen n : Int) - (p : Int)) lsbMin
  if t ≤ e then (n * 2 ^ (e - t).toNat, t)
  else
    let s := (t - e).toNat
    let q := n / 2 ^ s
    let r := n % 2 ^ s
    let h := 2 ^ (s - 1)
    if r > h ∨ (r = h ∧ (sticky = true ∨ q % 2 = 1)) then (q + 1, t) else (q, t)

/-- The binary32 pattern of the rounded magnitude (q, t) with its sign; beyond the range an
infinity (IEEE 754-2019, R67). -/
def pack32 (neg : Bool) (q : Nat) (t : Int) : F32 :=
  let s := if neg then 2 ^ 31 else 0
  if q = 0 then BitVec.ofNat 32 s
  else if (bitLen q : Int) + t > 128 then BitVec.ofNat 32 (s + 255 * 2 ^ 23)
  else if q < 2 ^ 23 then BitVec.ofNat 32 (s + q)
  else
    let q' := if q = 2 ^ 24 then 2 ^ 23 else q
    let t' := if q = 2 ^ 24 then t + 1 else t
    BitVec.ofNat 32 (s + (t' + 150).toNat * 2 ^ 23 + (q' - 2 ^ 23))

/-- The NaN pattern that binary32 results carry (R135). -/
def nan32 : F32 := 0x7FC00000#32
/-- +infinity. -/
def inf32 : F32 := 0x7F800000#32
/-- -infinity. -/
def ninf32 : F32 := 0xFF800000#32
/-- 1.0. -/
def one32 : F32 := 0x3F800000#32

/-- A binary32 pattern read as a value. -/
def val32 (x : F32) : Val :=
  let n := x.toNat
  let neg := x.getLsbD 31
  let e : Nat := (n / 2 ^ 23) % 256
  let m : Nat := n % 2 ^ 23
  if e = 255 then (if m = 0 then .inf neg else .nan)
  else if e = 0 then .fin neg m (-149)
  else .fin neg (2 ^ 23 + m) ((e : Int) - 150)

/-- One rounding of an exact magnitude to binary32 (R67, `rne32`). -/
def rne32 (neg : Bool) (n : Nat) (e : Int) (sticky : Bool) : F32 :=
  let r := roundMag 24 (-149) n e sticky
  pack32 neg r.1 r.2

/-- A value as binary32, rounded once. -/
def ofVal32 : Val → F32
  | .nan => nan32
  | .inf neg => if neg then ninf32 else inf32
  | .fin neg m e => rne32 neg m e false

/-- Whether a binary32 pattern is a NaN. -/
def isNan32 (x : F32) : Bool := decide (val32 x = .nan)

/-- Whether a binary32 pattern is finite. -/
def isFin32 (x : F32) : Bool :=
  match val32 x with
  | .fin _ _ _ => true
  | _ => false

/-- Flush a subnormal to the zero of its sign (`ftz` of *Values entering the gate*). -/
def ftz (x : F32) : F32 :=
  let n := x.toNat
  if (n / 2 ^ 23) % 256 = 0 then BitVec.ofNat 32 (if x.getLsbD 31 then 2 ^ 31 else 0) else x

/-- A signed integer times a power of two, rounded once to binary32; an exact zero takes the
sign given. -/
def rneInt (zeroNeg : Bool) (m : Int) (e : Int) : F32 :=
  if m = 0 then pack32 zeroNeg 0 0 else rne32 (m < 0) m.natAbs e false

/-- A finite value as a signed integer at the exponent e, which is no larger than its own. -/
def scaled (neg : Bool) (m : Nat) (e e0 : Int) : Int :=
  let v : Int := (m : Int) * ((2 ^ (e - e0).toNat : Nat) : Int)
  if neg then -v else v

/-- Exact sum of two values, rounded once (IEEE 754-2019 addition, subnormals kept). -/
def addVal (a b : Val) : F32 :=
  match a, b with
  | .nan, _ => nan32
  | _, .nan => nan32
  | .inf s, .inf t => if s = t then ofVal32 (.inf s) else nan32
  | .inf s, .fin _ _ _ => ofVal32 (.inf s)
  | .fin _ _ _, .inf t => ofVal32 (.inf t)
  | .fin s m e, .fin t n f =>
    let e0 := min e f
    rneInt (s && t) (scaled s m e e0 + scaled t n f e0) e0

/-- Exact product of two values. -/
def mulVal (a b : Val) : Val :=
  match a, b with
  | .nan, _ => .nan
  | _, .nan => .nan
  | .inf s, .inf t => .inf (s != t)
  | .inf s, .fin t n _ => if n = 0 then .nan else .inf (s != t)
  | .fin s m _, .inf t => if m = 0 then .nan else .inf (s != t)
  | .fin s m e, .fin t n f => .fin (s != t) (m * n) (e + f)

/-- Binary32 addition with one rounding, subnormal results kept. -/
def addK (a b : F32) : F32 := addVal (val32 a) (val32 b)

/-- Binary32 fused multiply-add with one rounding, subnormal results kept (R201). -/
def fmaK (a b c : F32) : F32 := addVal (mulVal (val32 a) (val32 b)) (val32 c)

/-- The gate's addition: one rounding, then flushed (R67). -/
def addF (a b : F32) : F32 := ftz (addK a b)

/-- The sign flipped (exact). -/
def neg32 (a : F32) : F32 := a ^^^ 0x80000000#32

/-- The gate's subtraction (R67). -/
def subF (a b : F32) : F32 := addF a (neg32 b)

/-- The gate's multiplication (R67). -/
def mulF (a b : F32) : F32 := ftz (ofVal32 (mulVal (val32 a) (val32 b)))

/-- Correctly rounded division, then flushed (R72). -/
def div32 (a b : F32) : F32 :=
  match val32 a, val32 b with
  | .nan, _ => nan32
  | _, .nan => nan32
  | .inf s, .inf _ => if s then nan32 else nan32
  | .inf s, .fin t _ _ => ofVal32 (.inf (s != t))
  | .fin s _ _, .inf t => pack32 (s != t) 0 0
  | .fin s m e, .fin t n f =>
    if n = 0 then (if m = 0 then nan32 else ofVal32 (.inf (s != t)))
    else
      let k := 60 + bitLen n
      let q := (m * 2 ^ k) / n
      let r := (m * 2 ^ k) % n
      ftz (rne32 (s != t) q (e - f - k) (decide (r ≠ 0)))

/-- NaN ranks and computes as minus infinity (R68). -/
def nanRule (v : F32) : F32 := if isNan32 v then ninf32 else v

/-- The 32-bit rank key: a larger key ranks higher (*Values entering the gate*). -/
def rankKey (v : F32) : Nat :=
  let s := nanRule v
  let b := if s.toNat % 2 ^ 31 = 0 then 0 else s.toNat
  if b < 2 ^ 31 then b + 2 ^ 31 else 2 ^ 32 - 1 - b

/-! ### The exp function (R70, R71) -/

/-- The largest q below `q0 + 2^k` with `(2q-1)^256 ≤ 2^(6144+i)`, by bisection. -/
def expSearch (i : Nat) : Nat → Nat → Nat
  | 0, q => q
  | k + 1, q =>
    let q' := q + 2 ^ k
    if (2 * q' - 1) ^ 256 ≤ 2 ^ (6144 + i) then expSearch i k q' else expSearch i k q

/-- The significand of T[i], an integer of 24 bits: 2^(23 + i/256) to the nearest (R70). -/
def expTabMan (i : Nat) : Nat := expSearch i 23 (2 ^ 23)

/-- T[i] of R70 as a binary32 pattern. -/
def expTab (i : Nat) : F32 := pack32 false (expTabMan i) (-23)

/-- floor(m * 2^e). -/
def floorDy (m : Int) (e : Int) : Int :=
  if 0 ≤ e then m * ((2 ^ e.toNat : Nat) : Int) else m / ((2 ^ (-e).toNat : Nat) : Int)

/-- The exp function of R71, bit for bit. -/
def exp32 (x0 : F32) : F32 :=
  let x := nanRule (ftz x0)
  if x = ninf32 then 0 else
  let t := ofVal32 (mulVal (val32 x) (val32 0x3FB8AA3B#32))
  match val32 t with
  | .nan => 0
  | .inf neg => if neg then 0 else inf32
  | .fin neg m e =>
    let ms : Int := if neg then -(m : Int) else m
    if 128 ≤ floorDy ms e then inf32 else
    let n := floorDy ms e
    if n < -151 then 0 else
    -- r = t - n exactly, as rn * 2^e0
    let e0 := min e 0
    let rn := scaled neg m e e0 - n * ((2 ^ (-e0).toNat : Nat) : Int)
    let i := (floorDy (rn * 256) e0).toNat
    -- f = r - i / 256 exactly, as fn * 2^e1
    let e1 := min e0 (-8)
    let fn := rn * ((2 ^ (e0 - e1).toNat : Nat) : Int) - (i : Int) * ((2 ^ (-8 - e1).toNat : Nat) : Int)
    let f : Val := .fin (fn < 0) fn.natAbs e1
    let p1 := addVal (mulVal (val32 0x3E75FDF0#32) f) (val32 0x3F317218#32)
    let p := addVal (mulVal (val32 p1) f) (val32 one32)
    let y := ofVal32 (mulVal (val32 (expTab i)) (val32 p))
    match val32 y with
    | .fin _ ym ye =>
      let top := (bitLen ym : Int) - 1 + ye + n
      if top < -126 then 0
      else if 128 ≤ top then inf32
      else rne32 false ym (ye + n) false
    | _ => inf32

/-- The sigmoid of R73. -/
def sigmoid32 (x0 : F32) : F32 :=
  let x := nanRule (ftz x0)
  div32 one32 (addF one32 (exp32 (neg32 x)))

/-- One level of the tree of R74: an odd level gets +0 appended, then pairs are added. -/
def treeLevel : List F32 → List F32
  | a :: b :: rest => addF a b :: treeLevel rest
  | [a] => [addF a 0]
  | [] => []

/-- The levels of R74, as many as the fuel allows (13 levels hold 8,192 terms). -/
def treeLevels : Nat → List F32 → F32
  | _, [] => 0
  | _, [a] => a
  | 0, a :: _ => a
  | k + 1, v => treeLevels k (treeLevel v)

/-- The pairwise tree sum of R74. -/
def treeSum (v : List F32) : F32 := treeLevels (bitLen v.length + 1) v

/-! ### Element formats (R127, R129) -/

/-- How an element format spells its special values. -/
inductive Specials where
  /-- infinities and NaNs as IEEE 754 spells them -/
  | ieee
  /-- no infinity; all ones is NaN (E4M3) -/
  | nanOnly
  /-- neither (E3M2, E2M3, E2M1) -/
  | none
  deriving DecidableEq, Repr

/-- A binary floating-point element format. -/
structure MiniFmt where
  ebits : Nat
  mbits : Nat
  bias : Nat
  sp : Specials
  deriving DecidableEq, Repr

/-- The element format of a token format code of R127; MXINT8 (0xA) is handled apart. -/
def miniOf (code : Nat) : MiniFmt :=
  match code with
  | 0x0 => ⟨8, 23, 127, .ieee⟩
  | 0x1 => ⟨8, 7, 127, .ieee⟩
  | 0x2 => ⟨5, 10, 15, .ieee⟩
  | 0x3 => ⟨4, 3, 7, .nanOnly⟩
  | 0x4 => ⟨5, 2, 15, .ieee⟩
  | 0x5 => ⟨4, 3, 7, .nanOnly⟩
  | 0x6 => ⟨5, 2, 15, .ieee⟩
  | 0x7 => ⟨3, 2, 3, .none⟩
  | 0x8 => ⟨2, 3, 1, .none⟩
  | _ => ⟨2, 1, 1, .none⟩

/-- Element width in bits of a token format code (R127). -/
def elemBits (code : Nat) : Nat :=
  match code with
  | 0x0 => 32 | 0x1 => 16 | 0x2 => 16 | 0x3 => 8 | 0x4 => 8 | 0x5 => 8 | 0x6 => 8
  | 0x7 => 6 | 0x8 => 6 | 0x9 => 4 | _ => 8

/-- Whether a format code is one of the MX codes 0x5 to 0xA (R127). -/
def isMx (code : Nat) : Bool := 5 ≤ code && code ≤ 10

/-- Whether a format code is defined (R127). -/
def fmtDefined (code : Nat) : Bool := code ≤ 10

/-- An element pattern read as a value. -/
def decodeMini (f : MiniFmt) (c : Nat) : Val :=
  let neg := (c / 2 ^ (f.ebits + f.mbits)) % 2 = 1
  let e : Nat := (c / 2 ^ f.mbits) % 2 ^ f.ebits
  let m : Nat := c % 2 ^ f.mbits
  let allOnes := decide (e = 2 ^ f.ebits - 1)
  let lsb : Int := 1 - (f.bias : Int) - (f.mbits : Int)
  if allOnes && decide (f.sp = .ieee) then (if m = 0 then .inf neg else .nan)
  else if allOnes && decide (f.sp = .nanOnly) && decide (m = 2 ^ f.mbits - 1) then .nan
  else if e = 0 then .fin neg m lsb
  else .fin neg (2 ^ f.mbits + m) (lsb + e - 1)

/-- An element of a token format code read as a value; MXINT8 is worth code * 2^-6 and -128 is
read as -2.0 (R129). -/
def decodeElem (code c : Nat) : Val :=
  if code = 0xA then
    let v := signed 8 (c % 256)
    .fin (v < 0) v.natAbs (-6)
  else decodeMini (miniOf code) c

/-- The pattern of a rounded magnitude (q, t) that lies in the format's finite range. -/
def encodeMini (f : MiniFmt) (neg : Bool) (q : Nat) (t : Int) : Nat :=
  let s := if neg then 2 ^ (f.ebits + f.mbits) else 0
  if q < 2 ^ f.mbits then s + q
  else
    let carry := decide (q = 2 ^ (f.mbits + 1))
    let q' := if carry then 2 ^ f.mbits else q
    let t' := if carry then t + 1 else t
    s + (t' + (f.mbits : Int) + (f.bias : Int)).toNat * 2 ^ f.mbits + (q' - 2 ^ f.mbits)

/-- The pattern of the largest finite positive element (R129 table; IEEE maxima elsewhere). -/
def largestPattern (code : Nat) : Nat :=
  match code with
  | 0x0 => 0x7F7FFFFF | 0x1 => 0x7F7F | 0x2 => 0x7BFF
  | 0x3 => 0x7E | 0x4 => 0x7B | 0x5 => 0x7E | 0x6 => 0x7B
  | 0x7 => 0x1F | 0x8 => 0x1F | 0x9 => 0x7 | _ => 0x7F

/-- `m * 2^e` compared with `n * 2^f`: less or equal. -/
def leDy (m : Nat) (e : Int) (n : Nat) (f : Int) : Bool :=
  let e0 := min e f
  decide (m * 2 ^ (e - e0).toNat ≤ n * 2 ^ (f - e0).toNat)

/-- The magnitude of a finite value, for comparisons. -/
def magOf : Val → Nat × Int
  | .fin _ m e => (m, e)
  | _ => (0, 0)

/-- An element rounded once to nearest-even in the format, exponent unbounded above (R136). -/
def roundMini (f : MiniFmt) (m : Nat) (e : Int) : Nat × Int :=
  roundMag (f.mbits + 1) (1 - (f.bias : Int) - (f.mbits : Int)) m e false

/-- Conversion to a non-MX format (R135): the pattern and whether it counts as saturated. -/
def convertPlain (code : Nat) (v : Val) : Nat × Bool :=
  let f := miniOf code
  let signBit := fun (neg : Bool) => if neg then 2 ^ (f.ebits + f.mbits) else 0
  let infPat := (2 ^ f.ebits - 1) * 2 ^ f.mbits
  match v with
  | .nan => (match code with
      | 0x0 => (0x7FC00000, false) | 0x1 => (0x7FC0, false) | 0x2 => (0x7E00, false)
      | 0x3 => (0x7F, false) | _ => (0x7E, false))
  | .inf neg => if code = 0x3 then (signBit neg + 0x7E, true) else (signBit neg + infPat, false)
  | .fin neg m e =>
    let r := roundMini f m e
    let big := magOf (decodeMini f (largestPattern code))
    if leDy r.1 r.2 big.1 big.2 then (encodeMini f neg r.1 r.2, false)
    else if code = 0x3 ∨ code = 0x4 then (signBit neg + largestPattern code, true)
    else (signBit neg + infPat, false)

/-- Widening of a score element to binary32, then flushed (R67). -/
def widenScore (sfmt raw : Nat) : F32 :=
  let v := decodeMini (miniOf sfmt) raw
  ftz (match v with
    | .nan => nan32
    | w => ofVal32 w)

end Sys2Proof.Machine
end

