-- ==== Sys2Proof/Machine/Gate.lean ====
section
/-! DEFINITION. Expert selection: softmax, gate functions, groups, top-k and the decision of
R81, the seeded generator of R87, the priority key of R98, the LOCAL_SHARE quota of R99,
renormalisation (R109) and replica choice (R115). Every function is pure. -/

namespace Sys2Proof.Machine

/-- Insertion into a list kept in the order `lt`; equal elements keep their order. -/
def insertBy {α : Type} (lt : α → α → Bool) (x : α) : List α → List α
  | [] => [x]
  | y :: ys => if lt y x then y :: insertBy lt x ys else x :: y :: ys

/-- Stable insertion sort. -/
def sortBy {α : Type} (lt : α → α → Bool) : List α → List α
  | [] => []
  | x :: xs => insertBy lt x (sortBy lt xs)

/-- Element i of a list of binary32 values, +0 beyond its end. -/
def f32At (x : List F32) (i : Nat) : F32 := x.getD i 0

/-- The larger of two binary32 values that are not NaN, by rank key (zeros compare equal). -/
def maxF (a b : F32) : F32 := if rankKey a < rankKey b then b else a

/-- The softmax of R75 over the values named by S, in ascending expert index. -/
def softmax32 (x : List F32) (S : List Nat) : List F32 :=
  let xs := S.map fun j => nanRule (ftz (f32At x j))
  let mx := xs.foldl maxF ninf32
  let ex := xs.map fun v => exp32 (if rankKey v = rankKey mx then 0 else subF v mx)
  let z := treeSum ex
  ex.map fun e => div32 e z

/-- The position of c in a list. -/
def indexOf (l : List Nat) (c : Nat) : Nat :=
  match l with
  | [] => 0
  | y :: ys => if y = c then 0 else indexOf ys c + 1

/-- The gate weights of R76 for the chosen experts in rank order. -/
def gate (fn : Nat) (x wsup : List F32) (chosen : List Nat) (E : Nat) : List F32 :=
  let asc := sortBy (fun a b => decide (a < b)) chosen
  match fn with
  | 0 =>
    let p := softmax32 x (List.range E)
    chosen.map fun c => f32At p c
  | 1 =>
    let p := softmax32 x asc
    chosen.map fun c => f32At p (indexOf asc c)
  | 2 =>
    let z := treeSum (asc.map fun c => sigmoid32 (f32At x c))
    chosen.map fun c => if z = 0 then 0 else div32 (sigmoid32 (f32At x c)) z
  | 3 => chosen.map fun c => sigmoid32 (f32At x c)
  | _ => chosen.map fun c => if isFin32 (f32At wsup c) then f32At wsup c else 0

/-- A bias entry that is NaN or infinite counts as +0 (R68). -/
def fixBias (b : F32) : F32 := if isFin32 b then b else 0

/-- The selection scores of R68. -/
def selScores (x bias : List F32) (E : Nat) : List F32 :=
  (List.range E).map fun e => addF (nanRule (f32At x e)) (fixBias (f32At bias e))

/-- The order of R69 on (rank key, index) pairs: higher key first, then lower index. -/
def ranksBefore (a b : Nat × Nat) : Bool :=
  decide (b.1 < a.1) || (decide (a.1 = b.1) && decide (a.2 < b.2))

/-- What a rank of a decision is (R81, R82): the expert or the null expert, its rank key and
its weight. -/
structure Choice where
  expert : Nat
  rkey : Nat
  weight : F32
  deriving DecidableEq, Repr

/-- The null expert's id (*NaN, infinities, ties and the null expert*). -/
def nullExpert : Nat := 0xFFF

/-- The choice of an all-minus-infinity rank (R82). -/
def nullChoice : Choice := ⟨nullExpert, 0x007FFFFF, 0⟩

/-- The parameters of a layer that selection uses (R39). -/
structure SelParams where
  experts : Nat
  groups : Nat
  groupsPicked : Nat
  groupTop2 : Bool
  k : Nat
  gateFn : Nat
  routeMode : Nat
  deriving DecidableEq, Repr

/-- The experts a token may choose: all, or those of the groups picked (R80, R81). -/
def allowedExperts (p : SelParams) (s : List F32) : List Nat :=
  if p.groups ≤ 1 then List.range p.experts
  else
    let gs := p.experts / p.groups
    let gscore := fun g =>
      let mem := sortBy ranksBefore ((List.range gs).map fun i =>
        (rankKey (f32At s (g * gs + i)), g * gs + i))
      let a := f32At s ((mem.getD 0 (0, 0)).2)
      let b := f32At s ((mem.getD 1 (0, 0)).2)
      if p.groupTop2 then addF a b else a
    let order := sortBy ranksBefore ((List.range p.groups).map fun g => (rankKey (gscore g), g))
    let picked := (order.take p.groupsPicked).map Prod.snd
    (List.range p.experts).filter fun e => picked.contains (e / gs)

/-- The decision of R81: the ranked choices of a token in an EXPERT or SPARSE_KV layer. -/
def decideToken (p : SelParams) (x wsup bias : List F32) : List Choice :=
  let s := selScores x bias p.experts
  let keys := (allowedExperts p s).map fun e => (rankKey (f32At s e), e)
  let chosen := ((sortBy ranksBefore keys).take p.k).map Prod.snd
  let w := if p.routeMode = 0 then gate p.gateFn x wsup chosen p.experts
           else chosen.map fun _ => one32
  (List.range chosen.length).map fun r =>
    let c := chosen.getD r 0
    if f32At s c = ninf32 then nullChoice else ⟨c, rankKey (f32At s c), f32At w r⟩

/-- The offers of a token in an EXPERT_CHOICE layer: every expert whose selection score is not
minus infinity, with its rank key and its gate weight (R86). -/
def offersOf (p : SelParams) (x bias : List F32) : List Choice :=
  let s := selScores x bias p.experts
  let w := if p.gateFn = 0 then softmax32 x (List.range p.experts)
           else (List.range p.experts).map fun e => sigmoid32 (f32At x e)
  ((List.range p.experts).filter fun e => f32At s e ≠ ninf32).map fun e =>
    ⟨e, rankKey (f32At s e), f32At w e⟩

/-- NAN_SCORE of a token: a NaN score, or in a gate-4 record a weight that is not finite (R84). -/
def nanScore (x wsup : List F32) (wts : Bool) : Bool :=
  x.any isNan32 || (wts && wsup.any fun v => !isFin32 v)

/-! ### The seeded generator (R87) -/

/-- mix64 of R87. -/
def mix64 (z0 : Word) : Word :=
  let z1 := z0 ^^^ (z0 >>> 31)
  let z2 := z1 * 0xA3B195E54C7D2F69#64
  let z3 := z2 ^^^ (z2 >>> 29)
  let z4 := z3 * 0xC2B76E1D9F53A48B#64
  z4 ^^^ (z4 >>> 32)

/-- gen of R87. -/
def gen (seed salt step : Word) (purpose layer src token index : Nat) : Word :=
  let w := BitVec.ofNat 64
    ((purpose <<< 56) ||| (layer <<< 46) ||| (src <<< 34) ||| (token <<< 18) ||| index)
  mix64 (mix64 (mix64 (seed ^^^ salt) ^^^ step) ^^^ w)

/-! ### Capacity (R98 to R109) -/

/-- The priority key of R98. -/
def priorityKey (rkey home token : Nat) : Nat :=
  (rkey <<< 32) ||| ((0xFFF - home) <<< 16) ||| (0xFFFF - token)

/-- The sum of the shares over the set (R99). -/
def shareSum (share : Nat → Nat) (n : Nat) : Nat :=
  (List.range n).foldl (fun a i => a + share i) 0

/-- The source rank of source index i for expert e in the layer phase of a step (R99). -/
def sourceRank (step e n i : Nat) : Nat :=
  (((i : Int) - ((step % n : Nat) : Int) - (e : Int)) % (n : Int)).toNat

/-- The quota q(e, s) of the source with index i (R99). -/
def localQuota (cap : Nat) (share : Nat → Nat) (n step e i : Nat) : Nat :=
  let W := shareSum share n
  if W = 0 then 0 else
  let base := fun j => cap * share j / W
  let rem := cap - (List.range n).foldl (fun a j => a + base j) 0
  let order := sortBy (fun a b => decide (a.1 < b.1))
    (((List.range n).filter fun j => decide (0 < share j)).map fun j => (sourceRank step e n j, j))
  base i + (if ((order.take rem).map Prod.snd).contains i then 1 else 0)

/-- Renormalisation of R109 over weights in rank order. -/
def renorm (w : List F32) (skipped : List Bool) : List F32 :=
  let live := (List.range w.length).filter fun r => !(skipped.getD r false)
  if live.length = w.length ∨ live.length = 0 then w else
  let z := treeSum (live.map fun r => f32At w r)
  (List.range w.length).map fun r =>
    if skipped.getD r false then f32At w r
    else if ftz z = 0 ∨ ftz z = 0x80000000#32 then 0 else div32 (f32At w r) z

/-- A replica word of an expert map entry (R118). -/
structure Replica where
  valid : Bool
  node : Nat
  slot : Nat
  deriving DecidableEq, Repr

/-- A replica word read (R118). -/
def Replica.ofNat (n : Nat) : Replica :=
  ⟨n.testBit 31, (n >>> 8) % 4096, n % 256⟩

/-- The replica word of a replica. -/
def Replica.toNat (r : Replica) : Nat :=
  (if r.valid then 2 ^ 31 else 0) + r.node * 256 + r.slot

/-- The distance of a node from home in the sense of R115. -/
def replicaDist (shift home node : Nat) : Nat :=
  if node = home then 0 else if node >>> shift = home >>> shift then 1 else 2

/-- Replica choice of R115 among the valid replicas of an entry. -/
def pickReplica (reps : List Replica) (shift : Nat) (seed salt step : Word)
    (layer home token rank : Nat) : Option Replica :=
  let vs := reps.filter Replica.valid
  let best := vs.foldl (fun a w => min a (replicaDist shift home w.node)) 2
  let eq := vs.filter fun w => replicaDist shift home w.node = best
  if eq.length ≤ 1 then eq.head?
  else
    let h := (gen seed salt step 1 layer home token rank).toNat
    eq[(h * eq.length) >>> 64]?

end Sys2Proof.Machine
end

