-- ==== Sys2Proof/Machine/Codec.lean ====
section
/-! DEFINITION. The block-sparse token code of *Billets and the block-sparse token code*: MX
block encoding and pass-through (R136, R137), pruning (R139), the code of R140 and its decoding
(R138, R146), row images (R181), return codes (R190), the folds of *Returns and combine* (R201,
R204) and combined output (R208). Every function is pure. -/

namespace Sys2Proof.Machine

/-- The constants EMAX of the MX formats (R129). -/
def emax (code : Nat) : Int :=
  match code with
  | 0x5 => 8 | 0x6 => 15 | 0x7 => 4 | 0x8 => 2 | 0x9 => 2 | _ => 0

/-- An MX block: its scale byte and its 32 element codes. -/
structure Block where
  scale : Nat
  codes : List Nat
  deriving DecidableEq, Repr

/-- The NaN block of R136. -/
def nanBlock : Block := ⟨0xFF, List.replicate 32 0⟩

/-- The block a dropped block decodes as (R181): scale 0x00, zero element bytes. -/
def zeroBlock : Block := ⟨0, List.replicate 32 0⟩

/-- The sign bit of an element code. -/
def elemSign (code c : Nat) : Bool :=
  if code = 0xA then decide (128 ≤ c % 256)
  else (c / 2 ^ ((miniOf code).ebits + (miniOf code).mbits)) % 2 = 1

/-- The largest finite element with a sign (R129 table). -/
def largestCode (code : Nat) (neg : Bool) : Nat :=
  if code = 0xA then (if neg then 0x81 else 0x7F)
  else largestPattern code + (if neg then 2 ^ ((miniOf code).ebits + (miniOf code).mbits) else 0)

/-- One element of R136 at the block exponent xe: its code and whether it saturated. -/
def mxElem (code : Nat) (xe : Int) (v : Val) : Nat × Bool :=
  match v with
  | .nan => (0, false)
  | .inf neg => (largestCode code neg, true)
  | .fin neg m e =>
    if code = 0xA then
      -- x * 2^(6 - xe), rounded half to even to an integer
      let r := roundMag (bitLen m + 600) 0 m (e + 6 - xe) false
      let q := r.1 * 2 ^ r.2.toNat
      if 127 < q then (largestCode code neg, true)
      else ((if neg then (256 - q) % 256 else q), false)
    else
      let f := miniOf code
      let r := roundMini f m (e - xe)
      let big := magOf (decodeMini f (largestPattern code))
      if leDy r.1 r.2 big.1 big.2 then (encodeMini f neg r.1 r.2, false)
      else (largestCode code neg, true)

/-- The largest finite magnitude of a list of values, as (mantissa, exponent). -/
def maxMag : List Val → Nat × Int
  | [] => (0, 0)
  | .fin _ m e :: vs =>
    let r := maxMag vs
    if m = 0 then r else if r.1 = 0 then (m, e) else if leDy m e r.1 r.2 then r else (m, e)
  | _ :: vs => maxMag vs

/-- An element widened to binary32 before it is encoded again: one of 2^128 or more, which an MX format reaches at high
scales and binary32 does not hold, counts as infinite, so that no scale passes 0xFE (R129, R136). DESIGN CHOICE: the
spec takes binary32 to hold every such element. -/
def toBinary32 (v : Val) : Val :=
  match v with
  | .fin neg m e => if m ≠ 0 && leDy 1 128 m e then .inf neg else v
  | v => v

/-- The MX encoding of R136: the block and the number of saturated elements. -/
def mxEncode (code : Nat) (v : List Val) : Block × Nat :=
  if v.any (fun x => decide (x = .nan)) then (nanBlock, 0) else
  let a := maxMag v
  let xe : Int := if a.1 = 0 then -127 else max ((bitLen a.1 : Int) - 1 + a.2 - emax code) (-127)
  let es := v.map (mxElem code xe)
  (⟨(xe + 127).toNat, es.map Prod.fst⟩, (es.filter Prod.snd).length)

/-- Whether a block as sent is a NaN block: scale 0xFF, or an element that encodes NaN (R137). -/
def passNan (code : Nat) (b : Block) : Bool :=
  decide (b.scale = 0xFF) || b.codes.any fun c => decide (decodeElem code c = .nan)

/-- The pass-through of R137: the block as coded and the number of saturated elements. -/
def passBlock (code : Nat) (b : Block) : Block × Nat :=
  if passNan code b then (nanBlock, 0)
  else if code = 0x6 then
    let isInf := fun c => match decodeElem code c with | .inf _ => true | _ => false
    (⟨b.scale, b.codes.map fun c => if isInf c then largestCode code (elemSign code c) else c⟩,
      (b.codes.filter isInf).length)
  else (b, 0)

/-- A decoded element of R138: element * 2^(scale - 127), NaN throughout a NaN block. -/
def blockVal (code : Nat) (b : Block) (j : Nat) : Val :=
  if b.scale = 0xFF then .nan else
  match decodeElem code (b.codes.getD j 0) with
  | .fin neg m e => .fin neg m (e + (b.scale : Int) - 127)
  | w => w

/-- The 32 decoded elements of a block. -/
def blockVals (code : Nat) (b : Block) : List Val := (List.range 32).map (blockVal code b)

/-! ### Pruning (R139) -/

/-- What the block scanner records of a block (R133, R139): NaN, all zero, and the largest
magnitude, `none` for infinity. -/
structure BlockScan where
  nan : Bool
  zero : Bool
  amax : Option (Nat × Int)
  deriving DecidableEq, Repr

/-- Whether every element of a list of values is a zero. -/
def allZero (v : List Val) : Bool :=
  v.all fun x => match x with | .fin _ 0 _ => true | _ => false

/-- The scan of a block's values. -/
def scanVals (v : List Val) : BlockScan :=
  let nan := v.any fun x => decide (x = .nan)
  let inf := v.any fun x => match x with | .inf _ => true | _ => false
  ⟨nan, !nan && allZero v, if inf then none else some (maxMag v)⟩

/-- The scan of a pass-through block: zero is judged on the element codes (R139). -/
def scanPass (code : Nat) (b : Block) : BlockScan :=
  if passNan code b then ⟨true, false, none⟩
  else
    let s := scanVals ((List.range 32).map fun j => blockVal code b j)
    { s with zero := b.codes.all fun c => decide (c = 0) }

/-- Magnitudes compared: a ≤ b, with `none` as infinity. -/
def magLe (a b : Option (Nat × Int)) : Bool :=
  match a, b with
  | _, none => true
  | none, some _ => false
  | some x, some y => leDy x.1 x.2 y.1 y.2

/-- The order of best-N pruning (R139): NaN blocks, then larger magnitudes, then lower index. -/
def bestBefore (a b : Nat × BlockScan) : Bool :=
  if a.2.nan ≠ b.2.nan then a.2.nan
  else if a.2.nan then decide (a.1 < b.1)
  else if magLe a.2.amax b.2.amax && magLe b.2.amax a.2.amax then decide (a.1 < b.1)
  else magLe b.2.amax a.2.amax

/-- The blocks kept (R139). -/
def keepBlocks (scan : List BlockScan) (prune : Nat) (tau : F32) (n : Nat) : List Bool :=
  match prune with
  | 0 => scan.map fun b => !b.zero
  | 1 => scan.map fun b => !b.zero && (b.nan || magLe (some (magOf (val32 tau))) b.amax)
  | _ =>
    let cand := (((List.range scan.length).zip scan)).filter fun p => !p.2.zero
    let kept := ((sortBy bestBefore cand).take n).map Prod.fst
    (List.range scan.length).map fun b => kept.contains b

/-! ### The code (R140) -/

/-- Element codes of w bits packed little-endian into bytes (R140, 6). -/
def packElems (w : Nat) (codes : List Nat) : List Byte :=
  let n := codes.foldr (fun c acc => acc * 2 ^ w + c % 2 ^ w) 0
  leBytes (w * codes.length / 8) n

/-- Bytes unpacked into element codes of w bits. -/
def unpackElems (w n : Nat) (bs : List Byte) : List Nat :=
  let v := leNat bs
  (List.range n).map fun j => (v >>> (w * j)) % 2 ^ w

/-- Element bytes of a block of an MX format (R127). -/
def elemBytes (code : Nat) : Nat := 4 * elemBits code

/-- Zero bytes appended to the next multiple of m. -/
def padTo (m : Nat) (bs : List Byte) : List Byte :=
  bs ++ List.replicate ((m - bs.length % m) % m) 0

/-- A list cut into pieces of n, as many as the fuel allows. -/
def chunksOf {α : Type} (n : Nat) : Nat → List α → List (List α)
  | 0, _ => []
  | k + 1, l => if l.isEmpty then [] else l.take n :: chunksOf n k (l.drop n)

/-- One segment: optional MASK, scales of the kept blocks, their element bytes (R140). -/
def segmentBytes (code : Nat) (sparse : Bool) (bs : List (Option Block)) : List Byte :=
  let mask := ((List.range bs.length).zip bs).foldl
    (fun a p => if p.2.isSome then a + 2 ^ p.1 else a) 0
  let kept := bs.filterMap id
  (if sparse then leBytes 2 mask else []) ++ kept.map (fun b => BitVec.ofNat 8 b.scale) ++
    kept.flatMap fun b => packElems (elemBits code) b.codes

/-- The code of the blocks of an MX format; a dropped block is `none` (R140). -/
def mxCode (code : Nat) (sparse : Bool) (bs : List (Option Block)) : List Byte :=
  padTo 16 ((chunksOf 16 (bs.length + 1) bs).flatMap (segmentBytes code sparse))

/-- The code of a plain format (R140, 1): converted elements, padded; with the saturations. -/
def plainCode (code : Nat) (v : List Val) : List Byte × Nat :=
  let cs := v.map (convertPlain code)
  (padTo 16 (cs.flatMap fun c => leBytes (elemBits code / 8) c.1), (cs.filter Prod.snd).length)

/-- CODE_LEN for a code with the given kept counts per segment (R140). -/
def codeLen (code : Nat) (sparse : Bool) (hidden : Nat) (kept : List Nat) : Nat :=
  let raw := if isMx code
    then kept.foldl (fun a k => a + (if sparse then 2 else 0) + k * (1 + elemBytes code)) 0
    else hidden * (elemBits code / 8)
  (raw + 15) / 16 * 16

/-- The largest code a template allows: every block kept (R128). -/
def maxCodeLen (code : Nat) (sparse : Bool) (hidden : Nat) : Nat :=
  let nb := hidden / 32
  codeLen code sparse hidden ((chunksOf 16 (nb + 1) (List.range nb)).map List.length)

/-- The smallest pool class that holds n bytes (R141). -/
def classOf (n : Nat) : Nat :=
  ((List.range 8).find? fun c => decide (n ≤ 256 * 2 ^ c)).getD 8

/-- The kept blocks of one segment read back: the blocks and the bytes after them; `none` when
the bytes end early or a MASK bit names a block that does not exist (R146, CODE). -/
def readSegment (code : Nat) (sparse : Bool) (nblk : Nat) (bs : List Byte) :
    Option (List (Option Block) × List Byte) :=
  let mask := if sparse then leNat (bs.take 2) else 2 ^ nblk - 1
  let rest := if sparse then bs.drop 2 else bs
  let k := popCount mask 16
  if (sparse && decide (bs.length < 2)) || decide (2 ^ nblk ≤ mask) ||
      decide (rest.length < k * (1 + elemBytes code)) then none
  else
    let scales := rest.take k
    let elems := (rest.drop k).take (k * elemBytes code)
    let blk := fun i => (⟨(scales.getD i 0).toNat,
      unpackElems (elemBits code) 32 ((elems.drop (i * elemBytes code)).take (elemBytes code))⟩ : Block)
    let place := (List.range nblk).map fun j =>
      if mask.testBit j then some (blk (popCount mask j)) else none
    some (place, rest.drop (k * (1 + elemBytes code)))

/-- Every segment of an MX code read back; answers the blocks when the code is well formed and
ends in zero bytes only. -/
def readSegments (code : Nat) (sparse : Bool) : Nat → Nat → List Byte → Option (List (Option Block))
  | 0, _, bs => if bs.all (fun b => decide (b = 0)) then some [] else none
  | fuel + 1, nb, bs =>
    if nb = 0 then (if bs.all (fun b => decide (b = 0)) then some [] else none) else
    match readSegment code sparse (min nb 16) bs with
    | none => none
    | some (blks, rest) =>
      match readSegments code sparse fuel (nb - min nb 16) rest with
      | none => none
      | some more => some (blks ++ more)

/-- The blocks of the whole segments at the start of a code of which only a part has come, and their bytes. -/
def landedSegments (code : Nat) (sparse : Bool) : Nat → Nat → List Byte → Nat × Nat
  | 0, _, _ => (0, 0)
  | fuel + 1, nb, bs =>
    if nb = 0 then (0, 0)
    else match readSegment code sparse (min nb 16) bs with
      | none => (0, 0)
      | some (_, rest) =>
        let q := landedSegments code sparse fuel (nb - min nb 16) rest
        (min nb 16 + q.1, bs.length - rest.length + q.2)

/-- The blocks of an MX code of `hidden` elements (R140, R146). -/
def readMxCode (code : Nat) (sparse : Bool) (hidden : Nat) (bs : List Byte) :
    Option (List (Option Block)) :=
  readSegments code sparse (hidden / 512 + 2) (hidden / 32) bs

/-- A decoded code: its elements as exact values (R138); `none` when it breaks R140. -/
def decodeCode (code : Nat) (sparse : Bool) (hidden : Nat) (bs : List Byte) : Option (List Val) :=
  if isMx code then
    (readMxCode code sparse hidden bs).map fun l => l.flatMap fun b => match b with
      | none => List.replicate 32 (Val.fin false 0 0)
      | some b => blockVals code b
  else
    let w := elemBits code / 8
    if bs.length < hidden * w ∨ !((bs.drop (hidden * w)).all fun b => decide (b = 0)) then none
    else some ((List.range hidden).map fun j =>
      decodeMini (miniOf code) (leNat ((bs.drop (j * w)).take w)))

/-! ### Records and encoding of a token (R131, R140, R149) -/

/-- The element area of a record read as blocks (MX input format) of `count` elements: scales,
zero padding to a multiple of `pad`, element bytes (R131, R187). -/
def areaBlocks (code count pad : Nat) (bs : List Byte) : List Block :=
  let nb := count / 32
  let at0 := (nb + pad - 1) / pad * pad
  (List.range nb).map fun b =>
    ⟨(bs.getD b 0).toNat,
      unpackElems (elemBits code) 32 ((bs.drop (at0 + b * elemBytes code)).take (elemBytes code))⟩

/-- Whether the scale padding of an MX area holds a byte that is not zero (R133, MX_PAD). -/
def areaPadBad (count pad : Nat) (bs : List Byte) : Bool :=
  let nb := count / 32
  let at0 := (nb + pad - 1) / pad * pad
  ((bs.take at0).drop nb).any fun b => decide (b ≠ 0)

/-- The element area of a record read as plain elements (R131, R187). -/
def areaVals (code count : Nat) (bs : List Byte) : List Val :=
  let w := elemBits code / 8
  (List.range count).map fun j => decodeMini (miniOf code) (leNat ((bs.drop (j * w)).take w))

/-- The bytes of an element area (R131, R187). -/
def areaLen (code count pad : Nat) : Nat :=
  if isMx code then ((count / 32) + pad - 1) / pad * pad + (count / 32) * elemBytes code
  else count * (elemBits code / 8)

/-- What encoding a vector yields: the code, and the counts of R136 and R149. -/
structure Encoded where
  bytes : List Byte
  kept : Nat
  scanned : Nat
  sat : Nat
  nanBlk : Nat
  deriving DecidableEq, Repr

/-- A vector of `count` elements in format `ifmt`, encoded into format `code` (with its sparse
flag) under R135 to R140; an element beyond binary32 is infinite (`toBinary32`). Only kept blocks are counted (R136). -/
def encodeVec (ifmt code : Nat) (sparse : Bool) (count pad : Nat) (prune : Nat) (tau : F32)
    (bestN : Nat) (area : List Byte) : Encoded :=
  if isMx code then
    let nb := count / 32
    let pass := decide (ifmt = code)
    let inBlocks := areaBlocks ifmt count pad area
    let vals := if isMx ifmt then inBlocks.map fun b => (blockVals ifmt b).map toBinary32
                else chunksOf 32 (nb + 1) (areaVals ifmt count area)
    let scan := if pass then inBlocks.map (scanPass code) else vals.map scanVals
    let enc := if pass then inBlocks.map (passBlock code) else vals.map (mxEncode code)
    let kept := if sparse then keepBlocks scan prune tau bestN else scan.map fun _ => true
    let sel := (kept.zip (enc.zip scan)).map fun p =>
      if p.1 then some (p.2.1, p.2.2) else none
    let ks := sel.filterMap id
    ⟨mxCode code sparse (sel.map fun o => o.map fun p => p.1.1), ks.length, nb,
      ks.foldl (fun a p => a + p.1.2) 0,
      (ks.filter fun p => decide (p.1.1.scale = 0xFF)).length⟩
  else
    let vals := if isMx ifmt then (areaBlocks ifmt count pad area).flatMap (blockVals ifmt)
                else areaVals ifmt count area
    let r := plainCode code vals
    ⟨r.1, 0, 0, r.2, 0⟩

/-! ### Row images (R181) -/

/-- A value delivered in FP32, BF16 or FP16: one rounding, infinities beyond the range (R138). -/
def deliverElem (code : Nat) (v : Val) : Nat := (convertPlain code v).1

/-- The row image of R181 for a billet's header and code. -/
def rowImage (form code : Nat) (sparse : Bool) (hidden : Nat) (header code' : List Byte) : List Byte :=
  match form with
  | 0 =>
    let blks := ((readMxCode code sparse hidden code').getD []).map fun b => b.getD zeroBlock
    padTo 512 (padTo 512 (blks.map fun b => BitVec.ofNat 8 b.scale) ++
      blks.flatMap fun b => packElems (elemBits code) b.codes)
  | 1 => padTo 512 (header ++ code')
  | _ =>
    let out := if form = 2 then 1 else if form = 3 then 2 else 0
    let vs := (decodeCode code sparse hidden code').getD []
    padTo 512 (vs.flatMap fun v => leBytes (elemBits out / 8) (deliverElem out v))

/-- ROW_BEATS: the beats of a row image (R181, R183); for MX_SPARSE the longest row. -/
def rowBeats (form code : Nat) (sparse : Bool) (hidden : Nat) : Nat :=
  match form with
  | 0 => ceilDiv (hidden / 32) 512 + ceilDiv (hidden / 32 * elemBytes code) 512
  | 1 => ceilDiv (64 + maxCodeLen code sparse hidden) 512
  | 4 => ceilDiv (4 * hidden) 512
  | _ => ceilDiv (2 * hidden) 512

/-! ### Combine (R201, R204, R208) -/

/-- One fold of R202: acc[j] = fma(weight, x[j], acc[j]). DESIGN CHOICE: x[j] is exact, also where binary32 does not hold
it (log entry 141). -/
def foldRank (w : F32) (x : List Val) (acc : List F32) : List F32 :=
  (acc.zip x).map fun p => addVal (mulVal (val32 w) p.2) (val32 p.1)

/-- The statistics of one quarter of a tile: M and L (R187). -/
structure KvStat where
  m : F32
  l : F32
  deriving DecidableEq, Repr

/-- fix_l of R204: NaN, infinite or negative becomes +0; answers whether it was replaced. -/
def fixL (l : F32) : F32 × Bool :=
  match val32 l with
  | .fin neg m _ => if neg ∧ m ≠ 0 then (0, true) else (ftz l, false)
  | _ => (0, true)

/-- The weights of one quarter (R204) over the live ranks, `none` when the quarter stays +0. -/
def kvWeights (st : List KvStat) : Option (List F32) :=
  let m := st.map fun s => nanRule (ftz s.m)
  let l := st.map fun s => (fixL s.l).1
  let mx := m.foldl maxF ninf32
  if mx = ninf32 then none else
  let c := (m.zip l).map fun p =>
    mulF (exp32 (if rankKey p.1 = rankKey mx then 0 else subF p.1 mx)) p.2
  let z := treeSum c
  if z &&& 0x7FFFFFFF = 0 then none else some (c.map fun ci => div32 ci z)

/-- The statistics KV_STAT_BAD counts in one quarter (R204). -/
def kvBad (st : List KvStat) : Nat :=
  st.foldl (fun a s => a + (if isNan32 s.m then 1 else 0) + (if (fixL s.l).2 then 1 else 0)) 0

/-- The merge of one tile (R204): per live rank its four statistics and its decoded elements. -/
def kvMerge (ranks : List (List KvStat × List Val)) (n : Nat) : List F32 :=
  (List.range ((n + 127) / 128)).flatMap fun q =>
    let len := min n (128 * q + 128) - 128 * q
    match (if ranks.isEmpty then none
           else kvWeights (ranks.map fun r => r.1.getD q ⟨0, 0⟩)) with
    | none => List.replicate len 0
    | some w => (List.range len).map fun i =>
        (w.zip ranks).foldl (fun acc p =>
          addVal (mulVal (val32 p.1) (p.2.2.getD (128 * q + i) (.fin false 0 0))) (val32 acc)) 0

/-- Combined values in OUT_FORMAT laid out as the element area of R187 (R207, R208), with the
saturations and NaN blocks. -/
def combinedArea (fmt : Nat) (v : List F32) : Encoded :=
  if isMx fmt then
    let bs := (chunksOf 32 (v.length / 32 + 1) (v.map val32)).map (mxEncode fmt)
    ⟨padTo 64 (bs.map fun b => BitVec.ofNat 8 b.1.scale) ++
        bs.flatMap fun b => packElems (elemBits fmt) b.1.codes,
      bs.length, bs.length, bs.foldl (fun a b => a + b.2) 0,
      (bs.filter fun b => decide (b.1.scale = 0xFF)).length⟩
  else
    let cs := v.map fun x => convertPlain fmt (val32 x)
    ⟨cs.flatMap fun c => leBytes (elemBits fmt / 8) c.1, 0, 0, (cs.filter Prod.snd).length, 0⟩

end Sys2Proof.Machine
end

