-- ==== Sys2Proof/Syntax.lean ====
section
/-! DEFINITION. The commands of the block: one constructor per row of spec/opcode_table.json, with
the operands that the event or access brings from outside. The table gives no row any bits, so the
operands are those the rules name. -/

namespace Sys2Proof

/-- Where a register access comes from (R535): the register target port, the IEEE 1500 wrapper, or
a management request. -/
inductive Src where
  | host | ieee1500 | mgmt
  deriving DecidableEq, Repr

/-- Which operation an event carries on: a command by window (0 to 7, 8 is CMD) and host sequence
number, or an XFER lane operation of the running step by its template index (R389, R40). -/
inductive OpRef where
  | cmd (win seq : Nat)
  | lane (tmpl : Nat)
  deriving DecidableEq, Repr

/-- What a read of a protected line finds (R221, R222). -/
inductive ReadFinding where
  | clean | corrected | uncorrectable
  deriving DecidableEq, Repr

/-- What a command's reads find in the stores it uses (R221, R222, R457, R461): nothing wrong; an error, corrected or
not, in a line (of the program store, the queue store, the transit pool, the reply cache, the reduction window, or a
transfer window or partition that the command reads; for the reads of an ember slot a line of the ember store) or in a
word of an internal store (a pool bitmap or reference count, the transit pool's bitmap, a region table entry, an event
counter, a semaphore); an uncorrectable duplicate filter entry; or a parity error of the control state. Where a
command names none, nothing is wrong. -/
inductive StoreRead where
  | clean
  | line (n : Nat) (corrected : Bool)
  | word (n : Nat) (corrected : Bool)
  | filter
  | control
  deriving DecidableEq, Repr

/-- A memory port response (R545, R459): a read beat's data or a write's acknowledgement, an error
response, or poisoned data. -/
inductive MemResp where
  | ok (data : BitVec 1024)
  | error
  | poison
  deriving DecidableEq, Repr

/-- What a use of the test ports does (R487, R556): a register access of the IEEE 1500 wrapper; an instruction register
code with the word shifted into the data register it selects and the level of the tie-off inputs ids_mfr; or, at
INVASIVE, a halt of the sequencer and the command engine, their release, and one step of them. -/
inductive TapOp where
  | access
  | shift (ir : BitVec 8) (dr : Word) (mfr : BitVec 11)
  | halt
  | resume
  | singleStep
  deriving DecidableEq, Repr

/-- The sub-units of a hearth, and its item state, as HEARTH_FAULT entries name them (R468). -/
inductive SubUnit where
  | selection | coder | combine | packer | itemState
  deriving DecidableEq, Repr

/-- The item whose state a hearth holds (R454): an item of the running step by layer phase, lane (0
SCORE to 8 XFER), token, home node and column tile, or a command by window and sequence number. -/
inductive ItemRef where
  | none
  | step (layer lane home token tile : Nat)
  | cmd (win seq : Nat)
  deriving DecidableEq, Repr

/-- What a reset sequence's self-test finds (R503, R507): masks of the hearths, the logical kiln groups and the
ember banks that fail, and other failures: bit 0 control logic, bit 1 an internal store other than the transit
pool bitmap, bit 2 the transit pool bitmap. -/
structure Findings where
  hearths : Nat := 0
  groups : Nat := 0
  embers : Nat := 0
  other : Nat := 0
  deriving DecidableEq, Repr

/-- The commands, in the order of spec/opcode_table.json. -/
inductive Instr where
  /-- POWER_ON_RESET (R503). -/
  | powerOnReset (relay tref : Bool) (found : Findings)
  /-- WARM_RESET (R503). -/
  | warmReset (pin : Bool) (found : Findings)
  /-- RESET_CTRL_WARM (R503). -/
  | resetCtrlWarm (src : Src) (value : Word)
  /-- CORE_FREQ_WRITE (R16). -/
  | coreFreqWrite (src : Src) (value : Word)
  /-- HOST_KICK (R463). -/
  | hostKick (src : Src) (value : Word)
  /-- HOST_LOST (R463). -/
  | hostLost
  /-- REGISTER_WRITE (R531). -/
  | registerWrite (src : Src) (addr : Nat) (be : BitVec 8) (value : Word) (read : Bool := false)
  /-- RWS_WRITE (R537). -/
  | rwsWrite (src : Src) (addr : Nat) (value : Word)
  /-- COMMAND_STAGE (R376). -/
  | commandStage (src : Src) (win k : Nat) (value : Word)
  /-- COMMAND_SUBMIT (R378). -/
  | commandSubmit (src : Src) (win : Nat) (value : Word)
  /-- CMD_SEQ_WRITE (R400). -/
  | cmdSeqWrite (src : Src) (win : Nat) (value : Word)
  /-- EVT_VAL_WRITE (R536). -/
  | evtValWrite (src : Src) (value : Word)
  /-- COMMAND_START (R383). -/
  | commandStart (q : Nat) (read : StoreRead)
  /-- COMPLETION_WRITE (R394). -/
  | completionWrite (ring : Nat)
  /-- RING_TAIL_WRITE (R395). -/
  | ringTailWrite (src : Src) (ring : Nat) (value : Word)
  /-- STEP_RUN (R390). -/
  | stepRun (win seq : Nat)
  /-- LAYER_RUN (R59). -/
  | layerRun (win seq : Nat)
  /-- COLL_A2A (R332). -/
  | collA2a (op : OpRef) (read : StoreRead := .clean)
  /-- COLL_A2AV (R333). -/
  | collA2av (op : OpRef) (read : StoreRead := .clean)
  /-- COLL_REDUCE (R334). -/
  | collReduce (op : OpRef) (read : StoreRead := .clean)
  /-- COLL_BARRIER (R335). -/
  | collBarrier (op : OpRef)
  /-- GROUP_FORM (R322). -/
  | groupForm (win seq : Nat)
  /-- GROUP_REFORM (R325). -/
  | groupReform (win seq : Nat)
  /-- FAB_BATCH (R355). -/
  | fabBatch (win seq : Nat) (read : StoreRead := .clean)
  /-- FENCE (R366). -/
  | fence (win seq : Nat)
  /-- SUBSCRIBE (R367). -/
  | subscribe (win seq : Nat)
  /-- PUBLISH_INVAL (R368). -/
  | publishInval (win seq : Nat)
  /-- OWN_ACQUIRE (R372). -/
  | ownAcquire (win seq : Nat)
  /-- OWN_RELEASE (R373). -/
  | ownRelease (win seq : Nat)
  /-- XFORM (R249). -/
  | xform (op : OpRef) (read : StoreRead := .clean)
  /-- GATHER (R255). -/
  | gather (op : OpRef) (read : StoreRead := .clean)
  /-- SCATTER (R255). -/
  | scatter (op : OpRef) (read : StoreRead := .clean)
  /-- TABLE_LOAD (R122). -/
  | tableLoad (win seq : Nat)
  /-- TABLE_LOAD_ROUTE (R306). -/
  | tableLoadRoute (win seq : Nat)
  /-- PROG_LOAD (R43). -/
  | progLoad (win seq : Nat)
  /-- BIAS_UPDATE (R112). -/
  | biasUpdate (win seq : Nat)
  /-- HINT (R391). -/
  | hint (win seq : Nat)
  /-- EVENT_SIGNAL (R391). -/
  | eventSignal (win seq : Nat) (read : StoreRead)
  /-- EVENT_WAIT (R391). -/
  | eventWait (win seq : Nat)
  /-- SEM_ACQ (R387). -/
  | semAcq (win seq : Nat) (read : StoreRead)
  /-- SEM_REL (R387). -/
  | semRel (win seq : Nat) (read : StoreRead)
  /-- CTX_SAVE (R412). -/
  | ctxSave (win seq : Nat) (read : StoreRead := .clean)
  /-- CTX_SAVE_DRAIN_END (R412). -/
  | ctxSaveDrainEnd (ctx : Nat)
  /-- CTX_RESTORE (R417). -/
  | ctxRestore (win seq : Nat)
  /-- CTX_KILL (R420). -/
  | ctxKill (win seq : Nat)
  /-- QUEUE_FLUSH (R237). -/
  | queueFlush (win seq : Nat)
  /-- BIST_RUN_HEARTH (R518). -/
  | bistRunHearth (win seq : Nat)
  /-- BIST_RUN_KILN (R519). -/
  | bistRunKiln (win seq : Nat)
  /-- BIST_TEST_END (R518). -/
  | bistTestEnd (kiln : Bool) (unit : Nat) (pass : Bool)
  /-- CAL_MEASURE (R294). -/
  | calMeasure (win seq : Nat)
  /-- LOG_SNAPSHOT (R471). -/
  | logSnapshot (win seq : Nat)
  /-- NOP (R388). -/
  | nop (win seq : Nat)
  /-- TICK_EDGE (R25). -/
  | tickEdge
  /-- PERF_SNAP (R541). -/
  | perfSnap (src : Src) (value : Word)
  /-- BUNDLE_COMPLETE (R47). -/
  | bundleComplete (read : StoreRead)
  /-- SLIP_REQUEST (R50). -/
  | slipRequest
  /-- STRETCH_LIMIT_EXPIRY (R51). -/
  | stretchLimitExpiry
  /-- SEED_DRAW (R95). -/
  | seedDraw (src : Src) (ctx : Nat) (value : Word)
  /-- ENTROPY_WORD (R553). -/
  | entropyWord (word : BitVec 32)
  /-- ENTROPY_STALL (R553). -/
  | entropyStall
  /-- CTL_WRITE (R401). -/
  | ctlWrite (src : Src) (ctx : Nat) (value : Word)
  /-- FAULT_CLR (R426). -/
  | faultClr (src : Src) (ctx : Nat) (value : Word)
  /-- SWAP_ADVICE (R428). -/
  | swapAdvice
  /-- SCORE_RECORD (R81). -/
  | scoreRecord (port slot : Nat) (read : StoreRead)
  /-- EOB_MARKER (R64). -/
  | eobMarker (port slot : Nat)
  /-- ADMIT_FLIT_RECEIVE (R107). -/
  | admitFlitReceive (loop : Bool)
  /-- ADMIT_VERDICTS (R105). -/
  | admitVerdicts (layer : Nat)
  /-- AGRANT_RECEIVE (R107). -/
  | agrantReceive
  /-- TOKEN_RECORD (R133). -/
  | tokenRecord (port slot : Nat)
  /-- PACK_ENCODE (R147). -/
  | packEncode (read : ReadFinding)
  /-- CLOSE_MARKER_SEND (R167). -/
  | closeMarkerSend (dest : Nat)
  /-- ASK (R160). -/
  | ask (dest : Nat)
  /-- KINDLE_RECEIVE (R159). -/
  | kindleReceive
  /-- ASK_RECEIVE (R160). -/
  | askReceive
  /-- GRANT_RECEIVE (R157). -/
  | grantReceive
  /-- BILLET_RECEIVE (R171). -/
  | billetReceive (loop : Bool) (read : StoreRead)
  /-- CLOSE_MARKER_RECEIVE (R174). -/
  | closeMarkerReceive (loop : Bool)
  /-- RICK_ROW_DELIVER (R178). -/
  | rickRowDeliver (slot : Nat) (read : ReadFinding)
  /-- RICK_END (R177). -/
  | rickEnd (slot : Nat)
  /-- EXPERT_OUTPUT_RECORD (R189). -/
  | expertOutputRecord (port slot : Nat)
  /-- RETURN_TILE_RECEIVE (R199). -/
  | returnTileReceive (loop : Bool) (read : StoreRead)
  /-- MELD_FOLD (R202). -/
  | meldFold (token colt : Nat) (stage : ReadFinding) (ember : StoreRead)
  /-- KV_MERGE (R205). -/
  | kvMerge (token colt : Nat) (stage : ReadFinding) (ember : StoreRead := .clean)
  /-- COMB_OUT_ACCEPTED (R209). -/
  | combOutAccepted (port : Nat)
  /-- INBOUND_BEAT (R156). -/
  | inboundBeat (port slot : Nat) (first : Bool) (side : Word) (data : BitVec 4096) (par : BitVec 65)
  /-- HOST_CREDIT_RETURN (R151). -/
  | hostCreditReturn (port slot : Nat)
  /-- MEMORY_RESPONSE (R545). -/
  | memoryResponse (port id : Nat) (resp : MemResp)
  /-- MEMORY_TIMEOUT (R459). -/
  | memoryTimeout (id : Nat)
  /-- QUEUE_SPILL (R235). -/
  | queueSpill (q : Nat) (read : StoreRead := .clean)
  /-- QUEUE_FILL (R235). -/
  | queueFill (q : Nat)
  /-- RING_WRITE (R240). -/
  | ringWrite (src : Src) (ring : Nat) (value : Word)
  /-- LINK_ENABLE (R273). -/
  | linkEnable (src : Src) (link : Nat) (value : Word)
  /-- LINK_RETRAIN_REQUEST (R274). -/
  | linkRetrainRequest (src : Src) (link : Nat) (value : Word)
  /-- RETIRE_REQ (R528). -/
  | retireReq (src : Src) (page : Nat) (value : Word)
  /-- QUIESCE (R528). -/
  | quiesce (src : Src) (page : Nat) (value : Word)
  /-- SOFT_RESET (R528). -/
  | softReset (src : Src) (page : Nat) (value : Word)
  /-- EVT_FORCE (R490). -/
  | evtForce (src : Src) (page : Nat) (value : Word)
  /-- PHY_LOCK (R273). -/
  | phyLock (link : Nat)
  /-- PHY_LOCK_LOSS (R274). -/
  | phyLockLoss (link lane : Nat) (tx : Bool)
  /-- PL_ADAPT_ACK (R273). -/
  | plAdaptAck (link : Nat) (rise : Bool)
  /-- LANE_ALIGNED (R271). -/
  | laneAligned (link : Nat) (rx0 rx1 : List (BitVec 256))
  /-- TS_FLIT_RECEIVE (R273). -/
  | tsFlitReceive (link pos : Nat) (lanes : List (BitVec 256) × List (BitVec 256))
  /-- TRAINING_TIMEOUT (R273). -/
  | trainingTimeout (link : Nat)
  /-- FLIT_RECEIVE (R282). -/
  | flitReceive (link pos : Nat) (lanes : List (BitVec 256) × List (BitVec 256))
  /-- REPLAY_TIMEOUT (R283). -/
  | replayTimeout (link : Nat)
  /-- LINK_FLIT_SLOT (R287). -/
  | linkFlitSlot (link : Nat) (read : StoreRead := .clean)
  /-- VC0_TOKEN (R287). -/
  | vc0Token (link : Nat)
  /-- LINK_DOWN (R297). -/
  | linkDown
  /-- SALVAGE_DROP (R297). -/
  | salvageDrop (link : Nat)
  /-- E2E_ACK (R291). -/
  | e2eAck
  /-- E2E_TIMEOUT (R291). -/
  | e2eTimeout (dest vc fsn : Nat)
  /-- REASSEMBLY_TIMEOUT (R291). -/
  | reassemblyTimeout (node vc ptag : Nat)
  /-- DLY_PROBE (R294). -/
  | dlyProbe (link : Nat)
  /-- DLY_PROBE_RECEIVE (R293). -/
  | dlyProbeReceive
  /-- DLY_ECHO (R293). -/
  | dlyEcho
  /-- TRANSIT_FLIT (R309). -/
  | transitFlit (link vc : Nat) (read : StoreRead)
  /-- MG_REG_READ (R485). -/
  | mgRegRead (read : StoreRead := .clean)
  /-- MG_REG_WRITE (R485). -/
  | mgRegWrite (read : StoreRead := .clean)
  /-- MG_CMD (R485). -/
  | mgCmd (read : StoreRead := .clean)
  /-- MG_ATTEST (R502). -/
  | mgAttest (read : StoreRead := .clean)
  /-- MG_RESP (R484). -/
  | mgResp (read : StoreRead := .clean)
  /-- TICK_RECORD (R435). -/
  | tickRecord
  /-- TICK_SYNC (R433). -/
  | tickSync
  /-- TICK_LOST (R437). -/
  | tickLost
  /-- REF_PPS (R432). -/
  | refPps
  /-- TICK_RUN (R438). -/
  | tickRun (src : Src) (value : Word)
  /-- SLIP_REQ (R440). -/
  | slipReq
  /-- BAR_ARRIVE (R443). -/
  | barArrive
  /-- BAR_RELEASE (R444). -/
  | barRelease
  /-- BARRIER_RELEASE (R444). -/
  | barrierRelease (group : Nat)
  /-- STEP_ABORT (R423). -/
  | stepAbort
  /-- COLL_ABORT (R343). -/
  | collAbort
  /-- COLL_STALL (R346). -/
  | collStall (group : Nat)
  /-- COLL_DEFER (R345). -/
  | collDefer (group : Nat)
  /-- JOIN (R322). -/
  | join (read : StoreRead := .clean)
  /-- TREE_SET (R324). -/
  | treeSet (read : StoreRead := .clean)
  /-- TREE_ACK (R322). -/
  | treeAck (read : StoreRead := .clean)
  /-- TREE_FREE (R324). -/
  | treeFree (read : StoreRead := .clean)
  /-- A2A_DATA (R329). -/
  | a2aData (read : StoreRead := .clean)
  /-- A2AV_COUNTS (R333). -/
  | a2avCounts (read : StoreRead := .clean)
  /-- RED_UP (R317). -/
  | redUp (read : StoreRead := .clean)
  /-- RED_DOWN (R338). -/
  | redDown (read : StoreRead := .clean)
  /-- RING_RS (R339). -/
  | ringRs (read : StoreRead := .clean)
  /-- RING_AG (R339). -/
  | ringAg (read : StoreRead := .clean)
  /-- FAB_WRITE (R359). -/
  | fabWrite (read : StoreRead)
  /-- FAB_READ (R359). -/
  | fabRead (read : StoreRead)
  /-- FAB_ATOMIC (R364). -/
  | fabAtomic (read : StoreRead)
  /-- SUB (R367). -/
  | sub (read : StoreRead := .clean)
  /-- PUB (R368). -/
  | pub (read : StoreRead := .clean)
  /-- INVAL (R369). -/
  | inval (read : StoreRead := .clean)
  /-- OWN_REQ (R372). -/
  | ownReq (read : StoreRead := .clean)
  /-- OWN_REL (R373). -/
  | ownRel (read : StoreRead := .clean)
  /-- OWN_GRANT (R372). -/
  | ownGrant (read : StoreRead := .clean)
  /-- RESP (R358). -/
  | resp
  /-- LOCKOUT_HOLD_END (R361). -/
  | lockoutHoldEnd (node : Nat)
  /-- LOCK_CLR (R361). -/
  | lockClr (src : Src) (value : Word)
  /-- DUX_FORCE (R373). -/
  | duxForce (src : Src) (value : Word)
  /-- REGION_ENTRY_WRITE (R351). -/
  | regionEntryWrite (src : Src) (addr : Nat) (value : Word)
  /-- KEYGEN (R352). -/
  | keygen (src : Src) (addr : Nat) (value : Word)
  /-- FAB_IRING_TAIL_WRITE (R369). -/
  | fabIringTailWrite (src : Src) (ctx : Nat) (value : Word)
  /-- SCRUB_READ (R221). -/
  | scrubRead (line : Nat) (read : ReadFinding)
  /-- KILN_SPARE_COPY_END (R223). -/
  | kilnSpareCopyEnd (found : List StoreRead := [])
  /-- HEARTH_FAULT (R454). -/
  | hearthFault (hearth : Nat) (unit : SubUnit) (tries : Nat) (item : ItemRef)
  /-- ASH_LOG_WRITE (R469). -/
  | ashLogWrite
  /-- LOG_CLEAR (R467). -/
  | logClear (src : Src) (value : Word)
  /-- TEMP_SAMPLE (R513). -/
  | tempSample (sensor : Nat) (raw : Word)
  /-- DROOP (R498). -/
  | droop (monitor : Nat)
  /-- DROOP_END (R498). -/
  | droopEnd
  /-- LC_ADVANCE (R474). -/
  | lcAdvance (src : Src) (value : Word)
  /-- LC_BURN_DONE (R474). -/
  | lcBurnDone
  /-- KEY_COMMIT (R477). -/
  | keyCommit (src : Src) (value : Word)
  /-- LC_SCRAP (R476). -/
  | lcScrap (confirm : Nat)
  /-- DBG_REQ (R488). -/
  | dbgReq (src : Src) (level : Nat)
  /-- WRAP_REG (R538). -/
  | wrapReg (write : Bool) (addr : Nat) (value : Word) (tap : TapOp := .access)
  /-- DBG_MEM_ACCESS (R540). -/
  | dbgMemAccess (src : Src) (value : Word)
  /-- ATTEST_GO (R502). -/
  | attestGo (src : Src) (value : Word)
  /-- POWER_REQ_BANKED (R493). -/
  | powerReqBanked (src : Src) (value : Word)
  /-- POWER_REQ_COLD (R495). -/
  | powerReqCold (src : Src) (value : Word)
  /-- POWER_REQ_LIT (R494). -/
  | powerReqLit (src : Src) (value : Word)
  /-- POWER_ACK (R492). -/
  | powerAck (state : Nat)
  /-- REPLAY_TAIL_WRITE (R450). -/
  | replayTailWrite (src : Src) (ctx : Nat) (value : Word)
  /-- POWER_REMOVED (R496). -/
  | powerRemoved
  /-- READY_FLIT_SENT (R273). -/
  | readyFlitSent (link : Nat)
  /-- ZERO_FAIL (R481). -/
  | zeroFail (store : Nat)
  deriving DecidableEq, Repr

end Sys2Proof
end

