-- ==== Sys2Proof/Machine/Types.lean ====
section
/-! DEFINITION. The pieces of state of the endpoint side: configuration, command windows and
queues, memory transactions, contexts, layer phases, ember slots, stream ports and tables. Plain
data, one structure per thing the manual names; each docstring cites the rules that name it. -/

namespace Sys2Proof.Machine

/-- The three configurations (R2). -/
inductive Conf where
  | ihlan12 | ihlan24 | ihlan36
  deriving DecidableEq, Repr

/-! ### Commands (R376 to R395) -/

/-- A command window, CTX0 to CTX7 or CMD: the doublewords W0 to W6 written since the last
submission (R376), and the staging block of a context that is not resident (R379). -/
structure Window where
  staged : Assoc Word := []
  deriving DecidableEq, Repr

/-- What a queue entry is: a command record, a management message (R234), a further entry of one, or the NOP
padding of a partial block (R241). -/
inductive EntryKind where
  | command | mgmt | cont | pad
  deriving DecidableEq, Repr

/-- A 64-byte queue entry and what the engine keeps apart from it: its window (8 is CMD), its place
in the order of acceptance, its host sequence number (R222, R238), and for a management message the
whole packet, its requester and its packet tag (R234, R484). -/
structure Entry where
  line : Line
  win : Nat
  acc : Nat
  hseq : Nat
  kind : EntryKind := .command
  src : Nat := 0
  ptag : Nat := 0
  body : List Byte := []
  deriving DecidableEq, Repr

/-- A priority queue PQ0 to PQ4: head and tail stores (R235). -/
structure PQueue where
  head : List Entry := []
  tail : List Entry := []
  deriving DecidableEq, Repr

/-- A block of a bog ring: the entries' data kept apart (R238), and its place in the ring. -/
structure BogBlock where
  place : Nat
  entries : List Entry
  filling : Bool := false
  deriving DecidableEq, Repr

/-- A bog ring (R239): its blocks, oldest first, and the next place a block is written to. -/
structure BogRing where
  blocks : List BogBlock := []
  wr : Nat := 0
  deriving DecidableEq, Repr

/-- What a memory port transaction is for. -/
inductive TxnUse where
  /-- an image, list or descriptor a running command reads: the command's acceptance number -/
  | cmdRead (acc : Nat)
  /-- data a running command writes: the command's acceptance number -/
  | cmdWrite (acc : Nat)
  /-- an XFER lane operation's data: context and template index -/
  | xfer (ctx tmpl : Nat)
  /-- the write-back of a context's XFER lane operation whose step has ended early (R262, R263) -/
  | back (ctx : Nat)
  /-- a bog block filled: ring and place (R235) -/
  | fill (ring place : Nat)
  /-- a bog block spilled (R235) -/
  | spill (ring place : Nat)
  /-- bytes 4 to 31 of a ring's completion record; its CSEQ follows them (R394) -/
  | cplBody (ring addr cseq : Nat)
  /-- a replay entry, a collective or fabric write -/
  | other
  /-- a record of a context's invalidation ring (R369) -/
  | iring (ctx : Nat)
  /-- entries of a context's replay ring that the host supplies (R450) -/
  | replay (ctx : Nat)
  /-- the answer of a fabric memory READ (R355, R360): an index of a request being served -/
  | serve (id : Nat)
  /-- an auto-swap's image, of the context saved or restored (R429) -/
  | swap (ctx : Nat)
  deriving DecidableEq, Repr

/-- A memory port transaction in flight (R459, R545): the port it is on and its tag there, the port it failed on
first, the tries made, its address, its length in bytes, for a write its data, and the context whose XF_STRIDED
counts it when it is issued (R265). -/
structure Txn where
  id : Nat
  port : Nat
  tag : Nat := 0
  firstPort : Option Nat := none
  tries : Nat := 0
  write : Bool
  addr : Nat
  len : Nat
  data : List Byte := []
  got : Nat := 0
  since : Int := 0
  strided : Option Nat := none
  use : TxnUse
  deriving DecidableEq, Repr

/-- A memory port (R453, R459, R545): the times of its transactions that failed every try, and the tags that stay in
use until the last beat of a response that no transaction waits for any more, with its beats to come. -/
structure MemPort where
  retired : Bool := false
  quiesce : Bool := false
  fails : List Int := []
  stale : Assoc Nat := []
  deriving DecidableEq, Repr

/-- Where a command that runs has got to. -/
inductive Phase where
  /-- started; its own event is due -/
  | started
  /-- handed to the sequencer (R25); the cycle of the hand-off -/
  | handed (cycle : Nat)
  /-- a step that runs -/
  | stepping
  /-- BIAS_UPDATE and TABLE_LOAD past their checks, waiting for the tick edge -/
  | atEdge
  /-- CTX_SAVE, CTX_RESTORE and CTX_KILL: the swap phase codes of CTXn.STATE.PHASE -/
  | swap (phase : Nat)
  /-- waiting on events of its own: verbs, collective packets, records to leave, a self-test -/
  | waiting
  deriving DecidableEq, Repr

/-- A running command (R383, R384): its window, queue, record, acceptance number, the phase it is
in, the count of list verbs issued, and a word of its own (a step number, a count). -/
structure Running where
  win : Nat
  pq : Nat
  acc : Nat
  hseq : Nat
  line : Line
  phase : Phase := .started
  desc : Option Line := none
  memFail : Bool := false
  killed : Bool := false
  n : Nat := 0
  status : List Nat := []
  /-- the transfer windows read when it started, base and length registers by turns (R243) -/
  wins : List Word := []
  /-- how far a layout or collective operation has got -/
  stage : Nat := 0
  /-- class-7 buffers charged to requester CMD: class, number (R259, R262) -/
  bufs : List (Nat × Nat) := []
  /-- the log entries that a snapshot took when it started (R471) -/
  entries : List (BitVec 256) := []
  deriving DecidableEq, Repr

/-- A completion record held for its ring (R395): bytes 4 to 31 less TIME and STEP in force, which
are taken when it is written; a gap report carries none of a command's own fields. -/
structure Completion where
  hseq : Nat
  opcode : Nat
  status : Nat
  nanScore : Bool := false
  step : Option Nat := none
  attempt : Nat := 0
  detail : Nat := 0
  irq : Bool := false
  gap : Bool := false
  deriving DecidableEq, Repr

/-- A waiting acquisition or wait in acceptance order is a `Running`; semaphores and event
counters are `Assoc` tables of their values (R386, R387). -/
abbrev Counters := Assoc Nat

/-! ### Programs and tables (R29, R38, R118 to R123, R302) -/

/-- A loaded program: its bundles and templates (R42). -/
structure Program where
  bundles : List Line := []
  templates : List Line := []
  deriving DecidableEq, Repr

/-- A map block in force: the replica words of each expert (R118). -/
structure MapBlock where
  experts : Nat
  entries : List (List Replica)
  deriving DecidableEq, Repr

/-- A bias block in force: bias, capacity and CAP_OVR of each expert (R120). -/
structure BiasBlock where
  experts : Nat
  entries : List (F32 × Nat × Bool)
  deriving DecidableEq, Repr

/-- The tables of a context: expert maps and bias blocks by map layer, the share table (absent
bytes read the default `1`, R121), and the admitted and skipped counters by layer and expert. -/
structure Tables where
  maps : Assoc MapBlock := []
  bias : Assoc BiasBlock := []
  share : Assoc Nat := []
  admitted : Counters := []
  skipped : Counters := []
  deriving DecidableEq, Repr

/-- A table image that has passed its checks and waits for its tick edge (R122, R112). -/
inductive PendTable where
  | maps (acc : Nat) (m : Assoc MapBlock) (bytes : Nat)
  | bias (acc : Nat) (b : Assoc BiasBlock) (bytes : Nat)
  | share (acc : Nat) (s : Assoc Nat) (bytes : Nat)
  /-- BIAS_UPDATE: flags LOAD, DUMP, CLEAR, range and dump address (R112) -/
  | update (acc : Nat) (load dump clear : Bool) (first layers dumpAddr : Nat)
      (b : Assoc BiasBlock) (bytes : Nat)
  deriving DecidableEq, Repr

/-! ### Steps and layer phases -/

/-- The identity of a layer phase on the wire: step, attempt, layer (R145, R157). -/
structure Key where
  step : Nat
  att : Nat
  layer : Nat
  deriving DecidableEq, Repr

/-- The nine lanes in the order of R29 and R37. -/
inductive Lane where
  | score | pack | send | recv | feed | take | meld | sync | xfer
  deriving DecidableEq, Repr

/-- A failed item of a step, in the terms by which R37 chooses the one reported. -/
structure Failure where
  layer : Nat
  lane : Nat
  ofToken : Bool
  home : Nat := 0
  token : Nat := 0
  tile : Nat := 0
  status : Nat
  deriving DecidableEq, Repr

/-- One rank of a token at its home node: the chosen expert, its rank key and weight, its status
code (0 LIVE, 1 SKIPPED, 2 NULL, 3 EMPTY), whether its admission is still open, and the replica
chosen (R81, R102, R115, R196). -/
structure Rank where
  expert : Nat
  rkey : Nat
  weight : F32
  status : Nat := 0
  held : Bool := false
  node : Nat := 0
  slot : Nat := 0
  deriving DecidableEq, Repr

/-- A token of the batch at its home node, in score-record order (R65, R81, R133). Until its choices are final, a
GLOBAL_ADMIT or EXPERT_CHOICE token's ranks are its offers (R105, R113). -/
structure Tok where
  token : Nat
  decided : Bool
  nan : Bool := false
  ranks : List Rank := []
  final : Bool := false
  /-- the token record: first-beat header and element area, once it has landed (R133) -/
  landed : Option (Word × List Byte) := none
  stage : List (Nat × Nat) := []
  failed : Bool := false
  packed : Bool := false
  dropped : Bool := false
  /-- the home code buffer (class, number) and the billet flits that have not left (R142) -/
  home : Option (Nat × Nat) := none
  flits : Nat := 0
  deriving DecidableEq, Repr

/-- A billet waiting in a SEND queue or on its way: its header, the home buffer (class, number) and
the code (R142, R165). -/
structure Billet where
  header : Line
  token : Nat
  dest : Nat
  cls : Nat
  code : List Byte
  buf : Option (Nat × Nat)
  deriving DecidableEq, Repr

/-- An admission record queued to or held from a node (R106): priority key, expert, kind, phase. -/
structure Admit where
  node : Nat
  pkey : Nat
  expert : Nat
  kind : Nat
  phase : Nat := 0
  deriving DecidableEq, Repr

/-- A reservation at a receiver (R157 to R161): source, layer phase, class, buffer, kindled. -/
structure Resv where
  src : Nat
  key : Key
  cls : Nat
  buf : Nat
  kindled : Bool
  deriving DecidableEq, Repr

/-- A queued ASK (R160). -/
structure AskQ where
  src : Nat
  key : Key
  cls : Nat
  deriving DecidableEq, Repr

/-- Billet credit held toward a destination (R157): layer phase, class, count, kindled. -/
structure Credit where
  dest : Nat
  key : Key
  cls : Nat
  count : Nat
  deriving DecidableEq, Repr

/-- A billet placed at the expert node: its header, buffer, order of placement, code, and the slots
whose rows have been given to a rick-out record (R143, R171). -/
structure RecvBillet where
  header : Line
  home : Nat
  token : Nat
  cls : Nat
  buf : Nat
  arrival : Nat
  code : List Byte
  /-- the cycle it was placed in, its packet's source and tag, whether its last flit has landed, and a failed CODE
  check (R171, R173, R176) -/
  cycle : Nat := 0
  src : Nat := 0
  ptag : Nat := 0
  whole : Bool := true
  bad : Bool := false
  /-- its reservation was kindled (R157) -/
  kindled : Bool := false
  given : List Nat := []
  deriving DecidableEq, Repr

/-- A row delivered to the host: slot, home, token, and the column tiles taken back (R186, R211). -/
structure RowOut where
  slot : Nat
  home : Nat
  token : Nat
  taken : List Nat := []
  deriving DecidableEq, Repr

/-- A rick of the running layer phase: rows delivered and whether its end has been sent (R177). -/
structure Rick where
  slot : Nat
  rows : Nat := 0
  ended : Bool := false
  deriving DecidableEq, Repr

/-- A return tile queued to VC2 toward its home: header, statistics and code, class-2 buffer
(R189, R191). -/
structure Tile where
  header : BitVec 256
  home : Nat
  layer : Nat
  token : Nat
  body : List Byte
  buf : Option Nat
  deriving DecidableEq, Repr

/-- A rank table entry of an ember slot (R196): as `Rank`, with the return format recorded, the
staging buffers and the tiles staged. -/
structure SlotRank where
  expert : Nat
  status : Nat
  node : Nat
  slot : Nat
  rfmt : Nat := 0
  weight : F32
  rkey : Nat
  stage : List (Nat × Nat) := []
  stage1 : List (Nat × Nat) := []
  present : List Nat := []
  tiles : Assoc (List Byte) := []
  deriving DecidableEq, Repr

/-- An ember slot (R195): the granules it holds, its fields, its rank table and its accumulator
(by column tile, +0 where not listed). -/
structure EmberSlot where
  granules : List Nat
  key : Key
  job : Nat
  token : Nat
  mode : Nat
  nt : Nat
  hidden : Nat
  outFormat : Nat
  wready : Bool := false
  nan : Bool := false
  skips : Bool := false
  renormed : Bool := false
  done : List Nat := []
  streamed : List Nat := []
  next : Assoc Nat := []
  ranks : List SlotRank := []
  acc : Assoc (List F32) := []
  /-- the cycle in which every tile became complete that no fold has completed (R209) -/
  readyAt : Nat := 0
  deriving DecidableEq, Repr

/-- A layer phase of the running step on this node: the home side (batch, tokens, admission), the
sending side (queues, credit, close markers) and the expert side (markers, billets, ricks, rows
and tiles). -/
structure LayerPhase where
  lastTok : Option Nat := none
  eob : Bool := false
  toks : List Tok := []
  paired : Nat := 0
  -- admission (R105 to R107)
  offers : List Admit := []
  closes : List Admit := []
  gotOffers : Counters := []
  gotVerdicts : Counters := []
  sentOffers : Counters := []
  closeOffersSent : Bool := false
  verdictsSent : Bool := false
  admitDone : Bool := false
  admitOut : List Admit := []
  admitResv : List (Nat × Nat) := []
  admitGranted : Counters := []
  admitBound : Bool := false
  -- sending (R165 to R169)
  sendQ : List Billet := []
  sentCount : Counters := []
  unreach : List Nat := []
  closeSent : List Nat := []
  closeLeft : List Nat := []
  flying : Nat := 0
  -- arrival (R171 to R177)
  marks : List (Nat × Nat) := []
  handled : Counters := []
  billets : List RecvBillet := []
  ricks : List Rick := []
  /-- rick-out records placed and not yet sent whole -/
  outRicks : Nat := 0
  /-- the RECV opcode the layer phase was bound with (R176) -/
  recvOp : Nat := 0
  /-- placements so far, and the cycle in which each source closed (R176, R178) -/
  arrivals : Nat := 0
  closedAt : Counters := []
  rows : List RowOut := []
  /-- expert output records that failed: each stands for a tile that will not come (R37) -/
  takeLost : Nat := 0
  /-- return tiles on their way out: class-2 buffer, flits that have not left (R189) -/
  tilesFlying : Counters := []
  /-- billets dropped for want of a route: token, destination (R169) -/
  gone : List (Nat × Nat) := []
  deriving DecidableEq, Repr

/-- A kindling request of a hint entry waiting to leave (R164, R391). -/
structure KindleOut where
  dest : Nat
  key : Key
  cls : Nat
  count : Nat
  /-- the HINT command it belongs to, by acceptance number; none for the SEND lane -/
  acc : Option Nat
  /-- the layer phase that the SEND lane was bound to -/
  bound : Nat := 0
  deriving DecidableEq, Repr

/-- A lane of the running step: open or closed, its opcode and argument, and the template and layer
phases it has been bound to since the step began (R32, R54). -/
structure LaneSt where
  op : Nat := 0
  tmpl : Nat := 0
  layer : Nat := 0
  bound : List (Nat × Nat) := []
  deriving DecidableEq, Repr

/-- An XFER lane operation of the running step (R34, R40, R263): its template index, its layer
phase, and its outcome when it has one. -/
structure XferOp where
  tmpl : Nat
  layer : Nat
  line : Line
  outcome : Option Nat := none
  wins : List Word := []
  stage : Nat := 0
  bufs : List (Nat × Nat) := []
  memFail : Bool := false
  killed : Bool := false
  deriving DecidableEq, Repr

/-- The running or a parked step (R9, R25, R47): whose it is, its step number and attempt, the program it
runs (`layerRun` is the layer a LAYER_RUN names, `first` and `last` the run of bundles), the bundle it
is in, what the current bundle has waited, and what has failed. -/
structure StepRun where
  ctx : Nat
  acc : Nat
  step : Nat
  att : Nat
  layerRun : Option Nat := none
  prog : Program
  first : Nat := 0
  last : Nat := 0
  index : Nat := 0
  /-- started while the tick is stopped (R60) -/
  untimed : Bool := false
  /-- END has completed (R52) -/
  ended : Bool := false
  /-- the edge that ends it has come, and its commit waits for replay entries (R450) -/
  atEdge : Bool := false
  seedChecked : Bool := false
  seed : Word := 0
  /-- the cycle it began, the first cycle of the tick it runs in, and the first of its bundle -/
  beganCycle : Nat := 0
  fromCycle : Nat := 0
  bundleCycle : Nat := 0
  stretch : Nat := 0
  /-- the first bundle that the sequencer has not fetched, whether the next bundle is due and not there, and the
  cycles so lost (R49) -/
  fetched : Nat := 0
  stalled : Bool := false
  stall : Nat := 0
  /-- EXMAP.CELL and ADMIT_CTRL as they stood at the edge that began the step (R96) -/
  cell : Nat := 0
  admitCtrl : Word := 0
  /-- the tables in force at its first tick edge, where the context's have been replaced since (R122) -/
  tables : Option Tables := none
  slips : Nat := 0
  lanes : Assoc LaneSt := []
  phases : Assoc LayerPhase := []
  xfers : List XferOp := []
  fails : List Failure := []
  kindles : List KindleOut := []
  /-- openings of DISPATCH_KINDLE that await their hint record: the template named, the bound layer
  (R164) -/
  hintWait : List (Nat × Nat) := []
  skips : Bool := false
  nan : Bool := false
  counted : List (Nat × Nat × Bool) := []
  digests : List (Nat × Nat × Nat × Nat) := []
  /-- digests of the commit compared so far (R450) -/
  compared : Nat := 0
  /-- the group of a SYNC BARRIER that has not released (R347) -/
  barrier : Option Nat := none
  deriving DecidableEq, Repr

/-- A STEP_ABORT received for a step that has not started here (R423). -/
structure AbortNote where
  job : Nat
  step : Nat
  att : Nat
  deriving DecidableEq, Repr

/-- A context slot (R401 to R425): what it holds while defined and while resident. -/
structure Ctx where
  resident : Bool := false
  slot : Nat := 0
  residentSince : Int := 0
  faulted : Bool := false
  phase : Nat := 0
  /-- when the save in progress was requested (R345) -/
  saveAt : Int := 0
  image : Bool := false
  /-- the parked step of a context that is not resident, or its voided position (R418, R421) -/
  parkedVoid : Bool := false
  staging : List Entry := []
  sems : Counters := []
  program : Option Program := none
  newProgram : Option (Nat × Program) := none
  tables : Tables := {}
  pend : List PendTable := []
  groups : List Nat := []
  tblUnits : Nat := 0
  carve : List Nat := []
  used : Counters := []
  bufs : Assoc (Nat × Nat) := []
  /-- buffers freed, each with its cycle: free from the next (R231) -/
  freed : List (Nat × Nat) := []
  /-- the first cycle in which each class may make its next allocation (R230) -/
  allocAt : Assoc Nat := []
  embers : List EmberSlot := []
  resv : List Resv := []
  asks : List AskQ := []
  credits : List Credit := []
  asked : List (Nat × Key) := []
  /-- buffers kindled so far for a source and layer phase (R159) -/
  kindled : List (Nat × Key × Nat) := []
  aborts : List AbortNote := []
  /-- the steps and attempts that have started here (R423) -/
  ran : List (Nat × Nat) := []
  /-- admission credit held toward a destination for a layer phase (R107) -/
  admitCredits : List Credit := []
  /-- a drawn seed that is not yet in force, and the cycle that produced it (R95) -/
  drawn : Option (Word × Nat) := none
  seedPending : Bool := false
  /-- replay entries that wait for room in the ring (R448) -/
  replayWait : List (List Byte) := []
  deriving DecidableEq, Repr

/-- An auto-swap that runs (R429): outgoing and incoming context, its stage (0 drain, 1 image, 2 header,
3 the rest of the incoming image), and whether a transfer of it failed. -/
structure AutoSwap where
  out : Nat
  inn : Nat
  stage : Nat := 0
  failed : Bool := false
  deriving DecidableEq, Repr

/-! ### Stream ports (R150 to R156) -/

/-- A record arriving on an inbound slot: first-beat sideband, its beats so far (512 bytes each),
and the beats it needs; `fail` marks a record whose item fails. -/
structure InRec where
  header : Word
  beats : List (BitVec 4096)
  need : Nat
  ctx : Nat
  kind : Nat
  /-- the cycle of its first beat (R11) -/
  since : Nat := 0
  fail : Option Nat := none
  /-- the check that its header failed at its first beat; 0: none (R66, R133, R150, R211) -/
  code : Nat := 0
  /-- beats that the slot still holds: no credit has been returned for them (R151) -/
  held : Nat := 0
  /-- the stage buffers of a token record that is being drained (R559) -/
  stage : List (Nat × Nat) := []
  deriving DecidableEq, Repr

/-- An outbound record: its beats with their sideband words, and what its last beat means. -/
inductive OutUse where
  /-- a rick-out record: context, layer phase, local slot, and its rows' homes and tokens (R175) -/
  | rick (ctx : Nat) (key : Key) (slot : Nat) (rows : List (Nat × Nat))
  /-- a combined tile: context, layer phase, token, column tile (R209) -/
  | comb (ctx : Nat) (key : Key) (token colt : Nat)
  deriving DecidableEq, Repr

/-- An outbound record waiting on a slot. -/
structure OutRec where
  beats : List (Word × BitVec 4096)
  sent : Nat := 0
  use : OutUse
  /-- the order in which records came to be, and the cycle (R154, R209) -/
  no : Nat := 0
  cycle : Nat := 0
  /-- rows whose code has not landed whole: the beats follow it (R171, R176) -/
  awaits : List (Nat × Nat) := []
  /-- how many of its beats' codes have landed while it waits so, and whether its beats run over 16 rows (R182) -/
  landed : Nat := 0
  tiled : Bool := false
  deriving DecidableEq, Repr

/-- One channel slot of a port: its binding in force (STRMn.BINDk), a binding that waits for the
record in progress (R153), the credit (the host's for inbound slots, the engine's for outbound),
the record arriving, records complete and not yet taken, beats to drop after a failed header
(R150), and outbound records. -/
structure StrmSlot where
  bind : Word := 0
  nextBind : Option Word := none
  credit : Nat := 0
  cur : Option InRec := none
  ready : List InRec := []
  dropping : Bool := false
  /-- credit of an inbound slot that a quiescing port keeps back (R528) -/
  owed : Nat := 0
  out : List OutRec := []
  deriving DecidableEq, Repr

/-- A host stream port (R150, R453, R458). -/
structure StrmPort where
  retired : Bool := false
  quiesce : Bool := false
  slots : Assoc StrmSlot := []
  rrOut : Nat := 7
  parity : List Int := []
  /-- combined tiles whose last beat was sent and is not yet accepted (R209) -/
  unaccepted : List OutUse := []
  deriving DecidableEq, Repr

/-! ### Hearths, kiln groups, log -/

/-- A hearth (R453 to R456, R518): state bits, faults in the window and tries of the operation. -/
structure Hearth where
  retired : Bool := false
  unusable : Bool := false
  quiesce : Bool := false
  bist : Bool := false
  bistAcc : Nat := 0
  /-- the cycle in which the self-test began (R518) -/
  bistAt : Nat := 0
  standsFor : Option Nat := none
  faults : List Int := []
  tries : Nat := 0
  deriving DecidableEq, Repr

/-- An item that a hearth's sub-unit holds (R10, R93): the hearth, none while a retired one's item waits for another
(R455), the sub-unit, the context charged, the item, the cycle from which the sub-unit accepts another, and whether the
item stays until it is taken off. -/
structure Placed where
  hearth : Option Nat
  unit : SubUnit
  ctx : Nat
  item : ItemRef
  accepts : Nat
  held : Bool := false
  deriving DecidableEq, Repr

/-- What a context is charged with in the tick so far (R408, R409): hearth cycles, RUN_CYC, INTF_CYC, and its
kinds. -/
structure Charges where
  used : Nat := 0
  run : Nat := 0
  intf : Nat := 0
  hearth : Nat := 0
  mem : Nat := 0
  link : Nat := 0
  deriving DecidableEq, Repr

/-- The use of the spare kiln group (R223 to R225): none, lent to BIST, or serving a group; a copy
in progress holds accesses to the group. -/
structure KilnSt where
  bist : Option Nat := none
  bistAcc : Nat := 0
  /-- the cycle in which the self-test began (R519) -/
  bistAt : Nat := 0
  served : Option Nat := none
  /-- the cycle in which the copy into the spare began (R223) -/
  copying : Option Nat := none
  /-- uncorrectable errors by physical bank, with their times (R223) -/
  ue : List (Nat × Int) := []
  /-- logical lines whose stored check bytes do not decode -/
  badLines : List Nat := []
  /-- groups that a second error has given up and that have not retired yet (R223) -/
  due : List Nat := []
  /-- ember banks with the times of their errors (R457) -/
  emberUe : List (Nat × Int) := []
  badEmber : List Nat := []
  deriving DecidableEq, Repr

/-- An ash log entry (R467), 32 bytes. -/
abbrev LogEntry := BitVec 256

/-- The ash log (R467 to R469): the entries by slot, and the 16-entry input buffer, each entry with the cycle of its
event, in the order they are to be written. -/
structure AshLog where
  slots : Assoc LogEntry := []
  buf : List (Nat × LogEntry) := []
  deriving DecidableEq, Repr

end Sys2Proof.Machine
end

