-- ==== Sys2Proof/Machine/Operands.lean ====
section
/-! DEFINITION. The fields of a command record that every opcode has (R380): sequence number, opcode, flags, and
the event counters that the flags name. -/

namespace Sys2Proof.Machine

/-- SEQ, bytes 0 to 3. -/
def recSeq (l : Line) : Nat := bytesOf l 0 3

/-- OPCODE, byte 4. -/
def recOp (l : Line) : Nat := bytesOf l 4 4

/-- A bit of FLAGS, byte 5: 0 ORDER, 1 WAIT_EN, 2 SIG_EN, 3 SIG_ALWAYS, 4 IRQ. -/
def recFlag (l : Line) (i : Nat) : Bool := bitOf l (40 + i)

/-- WAIT_EVT, the event counter of byte 6 and 7, 12 bits. -/
def recWaitEvt (l : Line) : Nat := bytesOf l 6 7 % 4096

/-- WAIT_VAL, bytes 8 to 11, 28 bits. -/
def recWaitVal (l : Line) : Nat := bytesOf l 8 11 % 2 ^ 28

/-- SIG_EVT, bytes 12 and 13, 12 bits. -/
def recSigEvt (l : Line) : Nat := bytesOf l 12 13 % 4096

end Sys2Proof.Machine
end

