-- ==== Sys2Proof/Machine/RegMap.lean ====
section
/-! DEFINITION. The register map (R522 to R533): the pages and what they hold in each
configuration, and for every register its offset, its writable fields by access type, whether it
is a counter since reset, and its reset value. -/

namespace Sys2Proof.Machine

/-- The kinds of page (R522); `absent` is every page that holds nothing (R524). -/
inductive PageKind where
  | glb | lcs | sec | dbg | calf | calu | tick | pwr | cmd | cpl | sched | log | bist | kiln | fab
  | coll | ctx | pq | route | exmap | relay | hrth | strm | memp | link | perf
  | routeWin | mapWin | regionWin | absent
  deriving DecidableEq, Repr

/-- A register or a run of registers of one page: first offset, how many, the distance between
them, the bits of each access type (R531), whether it counts "since reset" (R528), reset value. -/
structure RegRow where
  off : Nat
  n : Nat := 1
  step : Nat := 8
  rw : Nat := 0
  w1c : Nat := 0
  w1s : Nat := 0
  wo : Nat := 0
  rws : Nat := 0
  rwl : Nat := 0
  cnt : Bool := false
  reset : Nat := 0
  deriving DecidableEq, Repr

/-- The row has some field that a write can reach (R532). -/
def RegRow.writable (r : RegRow) : Bool :=
  r.rw != 0 || r.w1c != 0 || r.w1s != 0 || r.wo != 0 || r.rws != 0 || r.rwl != 0

/-- The row names offset `off`. -/
def RegRow.covers (r : RegRow) (off : Nat) : Bool :=
  decide (r.off ≤ off) && decide (off < r.off + r.n * r.step) && (off - r.off) % r.step == 0

/-- The block registers of the GLB page: R21, R16, R472, R521, R541. -/
def glbRows : List RegRow :=
  [{ off := 0x100 },  -- STRAP
   { off := 0x108, rw := 0x7FF, reset := 0x3E8 },  -- CORE_FREQ
   { off := 0x180, w1c := 7 },  -- FAULT_STAT
   { off := 0x188, rw := 7, reset := 6 },  -- FAULT_EN
   { off := 0x190, rw := 0x1FFFF, reset := 0x64 },  -- HOST_WDOG
   { off := 0x198, wo := 1 },  -- HOST_KICK
   { off := 0x1A0, wo := 1 },  -- RESET_CTRL
   { off := 0x1A8 },  -- BOOT_STAT
   { off := 0x1B0 },  -- EMBER_UNUSABLE_HI
   { off := 0x1B8 }]  -- ACC_ERR

/-- The block registers of the LCS page: R502. -/
def lcsRows : List RegRow :=
  [{ off := 0x100 },  -- STAT
   { off := 0x108, wo := 0xFFFF0007 },  -- ADVANCE
   { off := 0x110, n := 4, rwl := 0xFFFFFFFFFFFFFFFF },  -- KEY_PROG
   { off := 0x130, rwl := 1 }]  -- KEY_COMMIT

/-- The block registers of the SEC page: R502. -/
def secRows : List RegRow :=
  [{ off := 0x100, w1s := 1 },  -- ATTEST_CTRL
   { off := 0x108, n := 4, rw := 0xFFFFFFFFFFFFFFFF },  -- NONCE
   { off := 0x140, n := 16 },  -- REPORT
   { off := 0x1C0, rw := 0xF, reset := 0xF },  -- MGMT_CTRL
   { off := 0x1C8, cnt := true }]  -- MGMT_REFUSED

/-- The block registers of the DBG page: R502, R541, R540. -/
def dbgRows : List RegRow :=
  [{ off := 0x100, rw := 3 },  -- CTRL
   { off := 0x108 },  -- STAT
   { off := 0x110, rw := 0xF0000000000FFFFF },  -- MEM_ADDR
   { off := 0x118, w1s := 3 },  -- MEM_CTRL
   { off := 0x120 },  -- MEM_CHK
   { off := 0x140, n := 8, rw := 0xFFFFFFFFFFFFFFFF }]  -- MEM_DATA

/-- The block registers of the CALF page: R521. -/
def calfRows : List RegRow :=
  [{ off := 0x100, n := 36 },  -- LINK_DLY
   { off := 0x220, n := 4 },  -- TEMP_OFS
   { off := 0x240 },  -- RATE_TRIM
   { off := 0x248, n := 4 },  -- DROOP_THR
   { off := 0x268 }]  -- FUSE_STAT

/-- The block registers of the CALU page: R521. -/
def caluRows : List RegRow :=
  [{ off := 0x100, n := 36, rws := 0xFFFFFF },  -- LINK_DLY
   { off := 0x220, n := 4, rws := 0xFFF },  -- TEMP_OFS
   { off := 0x240, rws := 0xFFFFFFFF },  -- RATE_TRIM
   { off := 0x248, n := 4, rws := 0x7FF },  -- DROOP_THR
   { off := 0x270, n := 4 }]  -- TEMP

/-- The block registers of the TICK page: R451. -/
def tickRows : List RegRow :=
  [{ off := 0x100, rw := 0xFFFF00FEFC0D, reset := 0x6400000000 },  -- CTRL
   { off := 0x108, rws := 0xFFFFFF, reset := 0xC350 },  -- PERIOD
   { off := 0x110 },  -- TIME
   { off := 0x118, rw := 0xFFFFFFFFFFFF },  -- STEP
   { off := 0x120, rw := 0xFFFFFF, reset := 0x4003E8 },  -- SLIP
   { off := 0x128, rw := 0xFFFF, reset := 0x64 },  -- BARRIER
   { off := 0x130 },  -- STAT
   { off := 0x138, rw := 0xFFFFFFFFF },  -- DOWNLINKS
   { off := 0x140, cnt := true },  -- SLIP_CNT
   { off := 0x148, cnt := true },  -- BAR_LATE_CNT
   { off := 0x150 },  -- PPS_TIME
   { off := 0x158, rw := 0xFFF, reset := 0xFFF }]  -- MASTER_ID

/-- The block registers of the PWR page: R502. -/
def pwrRows : List RegRow :=
  [{ off := 0x100, rw := 3 },  -- CTRL
   { off := 0x108 },  -- STAT
   { off := 0x110, rw := 0xF0F, reset := 0x800 }]  -- THROTTLE

/-- The block registers of the CMD page: R400. -/
def cmdRows : List RegRow :=
  [{ off := 0x100, n := 8, wo := 0xFFFFFFFFFFFFFFFF },  -- W
   { off := 0x140, rw := 0xFFFFFFFF },  -- CMD_SEQ
   { off := 0x148, w1c := 0x60000 },  -- CMD_STAT
   { off := 0x150, cnt := true },  -- CMD_GAP_CNT
   { off := 0x180, rw := 0xFFF },  -- EVT_IDX
   { off := 0x188, rw := 0xFFFFFFF }]  -- EVT_VAL

/-- The block registers of the CTX page, part 1: R400, R60, R61, R93, R94. -/
def ctxRows0 : List RegRow :=
  [{ off := 0x100, n := 8, wo := 0xFFFFFFFFFFFFFFFF },  -- W
   { off := 0x140, rw := 0xFFFFFFFF },  -- CMD_SEQ
   { off := 0x148, w1c := 0x60000 },  -- CMD_STAT
   { off := 0x150, cnt := true },  -- CMD_GAP_CNT
   { off := 0x158, rw := 0x1FFF0FFF },  -- EVT_RANGE
   { off := 0x160, rw := 0x3FF },  -- SEM_SEL
   { off := 0x168 },  -- SEM_VAL
   { off := 0x200 },  -- PROG_STAT
   { off := 0x208 },  -- PROG_CORD
   { off := 0x210 },  -- PROG_ERR
   { off := 0x218 },  -- SEQ_POS
   { off := 0x220 },  -- STRETCH_CYC
   { off := 0x228 },  -- FETCH_STALL_CYC
   { off := 0x230, cnt := true },  -- SLIP_REQ_CNT
   { off := 0x238, rw := 0xFFFFFFFF, reset := 0xF4240 },  -- STRETCH_LIMIT
   { off := 0x240 },  -- CHEAP_POS
   { off := 0x280, rws := 0xFFFFFFFFFFFFFFFF },  -- SEED
   { off := 0x288, w1s := 1 },  -- SEED_CTRL
   { off := 0x290, cnt := true },  -- SEL_NAN_TOK
   { off := 0x298, cnt := true }]  -- SEL_NULL_TOK

/-- The block registers of the CTX page, part 2: R95, R124, R125, R149, R148, R184, R183. -/
def ctxRows1 : List RegRow :=
  [{ off := 0x2A0 },  -- SEL_ERR
   { off := 0x2C0, rws := 0xFF01FFFF, reset := 0x4000000 },  -- ADMIT_CTRL
   { off := 0x2C8, cnt := true },  -- SKIP_CNT
   { off := 0x2D0 },  -- TABLE_STAT
   { off := 0x2D8 },  -- TABLE_ERR
   { off := 0x300 },  -- CODE_ERR
   { off := 0x308 },  -- BILLET_ERR
   { off := 0x310, cnt := true },  -- CODE_SAT_CNT
   { off := 0x318, cnt := true },  -- CODE_NAN_BLK
   { off := 0x320, cnt := true },  -- CODE_BLK_SCAN
   { off := 0x328, cnt := true },  -- CODE_BLK_KEPT
   { off := 0x330, cnt := true },  -- STALE_DROP
   { off := 0x340, rws := 0x1FF, reset := 0x110 },  -- DISP_CTRL
   { off := 0x348, cnt := true },  -- KINDLE_REQ
   { off := 0x350, cnt := true },  -- KINDLE_GRANT
   { off := 0x358, cnt := true },  -- KINDLE_LAPSE
   { off := 0x360, cnt := true },  -- ASK_CNT
   { off := 0x368, cnt := true },  -- CREDIT_WAIT_CYC
   { off := 0x370, cnt := true },  -- RICK_ROWS
   { off := 0x378, cnt := true }]  -- HINT_IGNORED

/-- The block registers of the CTX page, part 3: R183, R212, R213, R211, R242, R265, R264, R375. -/
def ctxRows2 : List RegRow :=
  [{ off := 0x380, cnt := true },  -- UNREACH_DROP
   { off := 0x3C0, rws := 0xFFFFFFFF0000031F, reset := 1 },  -- RET_CTRL
   { off := 0x3C8, rws := 0x3FFF, reset := 0x800 },  -- EMBER_QUOTA
   { off := 0x3D0 },  -- EMBER_STAT
   { off := 0x3D8 },  -- RET_ERR
   { off := 0x3E0, cnt := true },  -- RET_TILES_OUT
   { off := 0x3E8, cnt := true },  -- RET_TILES_IN
   { off := 0x3F0, cnt := true },  -- RET_DROP
   { off := 0x3F8, cnt := true },  -- COMB_TILES
   { off := 0x400, cnt := true },  -- KV_STAT_BAD
   { off := 0x440, n := 7, rw := 0x3FFFF, reset := 0x30000 },  -- QUOTA
   { off := 0x480 },  -- POOL_WAIT_CYC
   { off := 0x4C0, n := 4, step := 0x10, rw := 0xC00003FFFFFFF000 },  -- XF_WIN_BASE
   { off := 0x4C8, n := 4, step := 0x10, rw := 0x3FFFFFFF },  -- XF_WIN_LEN
   { off := 0x500 },  -- XF_ERR
   { off := 0x508, cnt := true },  -- XF_SAT_CNT
   { off := 0x510, cnt := true },  -- XF_STRIDED
   { off := 0x540 },  -- FAB_OUT
   { off := 0x548, rw := 0x3FFFFFFF000 },  -- FAB_IRING_BASE
   { off := 0x550, rw := 0x10FFF01F, reset := 4 }]  -- FAB_IRING_CTRL

/-- The block registers of the CTX page, part 4: R375, R430, R451. -/
def ctxRows3 : List RegRow :=
  [{ off := 0x558 },  -- FAB_IRING_HEAD
   { off := 0x560, rw := 0xFFFFFFFF },  -- FAB_IRING_TAIL
   { off := 0x580, rw := 0xE0FF00FF, w1s := 0x10000000, reset := 0x100FF },  -- CTL
   { off := 0x588 },  -- STATE
   { off := 0x590, rw := 0x800003FFFFFFF000 },  -- SAVE_AREA
   { off := 0x598 },  -- SAVE_SIZE
   { off := 0x5A0 },  -- CREDIT
   { off := 0x5A8, cnt := true },  -- HEARTH_CYC
   { off := 0x5B0, cnt := true },  -- RUN_CYC
   { off := 0x5B8, cnt := true },  -- INTF_CYC
   { off := 0x5C0 },  -- INTF_HEARTH_CYC
   { off := 0x5C8 },  -- INTF_MEM_CYC
   { off := 0x5D0 },  -- INTF_LINK_CYC
   { off := 0x5D8, reset := 0x100 },  -- SLOWDOWN
   { off := 0x5E0 },  -- FAULT
   { off := 0x5E8 },  -- SWAP_ERR
   { off := 0x600, rw := 0x3FFFFFFF000 },  -- REPLAY_BASE
   { off := 0x608, rw := 0x71F, reset := 0xC },  -- REPLAY_CTRL
   { off := 0x610 },  -- REPLAY_HEAD
   { off := 0x618, rw := 0xFFFFFFFFFFFFFFFF }]  -- REPLAY_TAIL

/-- The block registers of the CTX page, part 5: R451. -/
def ctxRows4 : List RegRow :=
  [{ off := 0x620 }]  -- REPLAY_DIV

/-- The block registers of the CTX page. -/
def ctxRows : List RegRow := ctxRows0 ++ ctxRows1 ++ ctxRows2 ++ ctxRows3 ++ ctxRows4

/-- The block registers of the CPL page: R400. -/
def cplRows : List RegRow :=
  [{ off := 0x100, n := 9, step := 0x20, rw := 0x3FFFFFFF000 },  -- RING_BASE
   { off := 0x108, n := 9, step := 0x20, rw := 0x31F, reset := 8 },  -- RING_CTRL
   { off := 0x110, n := 9, step := 0x20 },  -- RING_HEAD
   { off := 0x118, n := 9, step := 0x20, rw := 0xFFFFFFFF }]  -- RING_TAIL

/-- The block registers of the SCHED page: R430. -/
def schedRows : List RegRow :=
  [{ off := 0x100, rw := 0xFFFFFFFF01, reset := 0x3E8003200 },  -- CTRL
   { off := 0x108 },  -- STAT
   { off := 0x110, cnt := true },  -- SWAP_CNT
   { off := 0x118 }]  -- SWAP_LAST

/-- The block registers of the LOG page: R472. -/
def logRows : List RegRow :=
  [{ off := 0x100, rw := 7, w1s := 8 },  -- CTRL
   { off := 0x108 },  -- HEAD
   { off := 0x110, rw := 0xFFFFFFFF },  -- TAIL
   { off := 0x118 },  -- LOST
   { off := 0x120, rw := 0xFFFFFFFF },  -- IDX
   { off := 0x128, n := 4 }]  -- DATA

/-- The block registers of the BIST page: R521. -/
def bistRows : List RegRow :=
  [{ off := 0x100 },  -- BOOT
   { off := 0x108 },  -- BOOT_EMBER
   { off := 0x110 },  -- STAT
   { off := 0x118 },  -- LAST
   { off := 0x120, cnt := true },  -- RUN_CNT
   { off := 0x128, cnt := true }]  -- FAIL_CNT

/-- The block registers of the KILN page: R242. -/
def kilnRows : List RegRow :=
  [{ off := 0x100 },  -- CONF
   { off := 0x108 },  -- SPARE
   { off := 0x110 },  -- GROUP_UNUSABLE
   { off := 0x118, rw := 0x1FFFF, reset := 0x10400 },  -- SCRUB
   { off := 0x120, rw := 0xFFFF, reset := 0x3E8 },  -- UE_CTRL
   { off := 0x128 },  -- UE_LAST
   { off := 0x140, n := 8, rw := 0x3FFFFFFFFF },  -- PART
   { off := 0x180, n := 8, step := 0x10, rw := 0xFFFFFFFFFFFFFFFF },  -- CARVE_LO
   { off := 0x188, n := 8, step := 0x10, rw := 0xFFFFFFFFFFFFFFFF },  -- CARVE_HI
   { off := 0x200, rw := 0x3FFFFFFF000 },  -- BOG_BASE
   { off := 0x208, rw := 0x3FFFFFFF },  -- BOG_SIZE
   { off := 0x210, n := 9, rw := 0x3FFFFFFF3FFFFFFF }]  -- RING

/-- The block registers of the FAB page: R375, R374. -/
def fabRows : List RegRow :=
  [{ off := 0x100, rw := 1, reset := 1 },  -- CTRL
   { off := 0x108, rw := 0xF },  -- WIN_SEL
   { off := 0x110, rw := 0xFFFFFFFF00FF, reset := 0x6403E80040 },  -- LOCK_CTRL
   { off := 0x118 },  -- LOCK_STAT
   { off := 0x120, wo := 0x1FFF },  -- LOCK_CLR
   { off := 0x128 },  -- RC_STAT
   { off := 0x130 },  -- ERR
   { off := 0x138 },  -- SUB_STAT
   { off := 0x140, wo := 0xFFFF },  -- DUX_FORCE
   { off := 0x148, cnt := true },  -- KEY_FAIL_CNT
   { off := 0x150, cnt := true },  -- RC_HIT_CNT
   { off := 0x158, cnt := true },  -- RC_FULL_CNT
   { off := 0x160, cnt := true }]  -- UNKNOWN_CNT

/-- The block registers of the COLL page: R348, R347. -/
def collRows : List RegRow :=
  [{ off := 0x100 },  -- STAT
   { off := 0x108, rw := 0xFFFFFFFF, reset := 0x2710003C },  -- TMO
   { off := 0x110 },  -- GROUP_ERR
   { off := 0x118, cnt := true },  -- CRC_FAIL
   { off := 0x120, cnt := true },  -- ABORT_TX
   { off := 0x128, cnt := true },  -- ABORT_RX
   { off := 0x130, cnt := true }]  -- RERUN

/-- The block registers of the PQ page: R242. -/
def pqRows : List RegRow :=
  [{ off := 0x100 },  -- OWNER
   { off := 0x108 },  -- DEPTH
   { off := 0x110 },  -- STAT
   { off := 0x118, cnt := true },  -- SPILL_BLK
   { off := 0x120, cnt := true }]  -- FILL_BLK

/-- The block registers of the ROUTE page: R319, R300. -/
def routeRows : List RegRow :=
  [{ off := 0x100, rw := 0xFFF, reset := 0xFFF },  -- NODE_ID
   { off := 0x108 },  -- TABLE_ERR
   { off := 0x110, rw := 0x7FF3FFF, reset := 0x800400 },  -- TRANSIT_CTRL
   { off := 0x118 },  -- TRANSIT_STAT
   { off := 0x120, cnt := true },  -- TTL_DROP
   { off := 0x128, cnt := true },  -- NOROUTE_DROP
   { off := 0x300, rw := 0xFFFFF, reset := 0x70014 },  -- E2E_CTRL
   { off := 0x308, cnt := true },  -- E2E_DUP
   { off := 0x310, cnt := true }]  -- E2E_RESEND

/-- The block registers of the EXMAP page: R125, R541. -/
def exmapRows : List RegRow :=
  [{ off := 0x100, rws := 0xF, reset := 4 },  -- CELL
   { off := 0x108, rw := 0x703FF }]  -- WIN_SEL

/-- The block registers of the RELAY page: R319. -/
def relayRows : List RegRow :=
  [{ off := 0x100 },  -- RED_STAT
   { off := 0x108, cnt := true },  -- RED_CHUNKS
   { off := 0x110, cnt := true }]  -- RED_DROP

/-- The block registers of the HRTH page: R472. -/
def hrthRows : List RegRow :=
  [{ off := 0x100 },  -- STAT
   { off := 0x108, rw := 0xFFFFFF, reset := 0xA03 }]  -- THRESH

/-- The block registers of the STRM page: R183, R472. -/
def strmRows : List RegRow :=
  [{ off := 0x100, n := 8, rws := 0xFF },  -- BIND
   { off := 0x140, cnt := true },  -- BEATS_IN
   { off := 0x148, cnt := true },  -- BEATS_OUT
   { off := 0x150 },  -- HOLD_IN_CYC
   { off := 0x158 },  -- HOLD_OUT_CYC
   { off := 0x160 },  -- CH_ERR
   { off := 0x168, rw := 0xFFFFFF, reset := 0x3E808 }]  -- PAR_THRESH

/-- The block registers of the MEMP page: R472. -/
def mempRows : List RegRow :=
  [{ off := 0x100, rw := 0xFFFFFFFFFFFF, reset := 0x3E8000A0204 },  -- THRESH
   { off := 0x108 },  -- ERR_LAST
   { off := 0x110, cnt := true }]  -- TXN_CNT

/-- The block registers of the LINK page: R300, R319. -/
def linkRows : List RegRow :=
  [{ off := 0x100, rw := 1, w1s := 2 },  -- CTRL
   { off := 0x108 },  -- STAT
   { off := 0x110 },  -- PARTNER
   { off := 0x118, rw := 0xFFFFFFFFFFFFFFF, reset := 0x2010040280A008 },  -- CRED_ADV
   { off := 0x120, rw := 0x3FFFFFFF, reset := 0x2108618 },  -- WEIGHT
   { off := 0x128, rw := 0xFFFFFFFFFFFF, reset := 0x640303E808 },  -- THRESH
   { off := 0x130, rw := 0xFFFFFFFF, reset := 0x3E80064 },  -- TIMERS
   { off := 0x138, cnt := true },  -- REPLAY_CNT
   { off := 0x140, cnt := true },  -- REPLAY_FAIL_CNT
   { off := 0x148, cnt := true },  -- RETRAIN_CNT
   { off := 0x150, cnt := true },  -- UE_CNT
   { off := 0x158, cnt := true },  -- FLITS_TX
   { off := 0x160, cnt := true },  -- FLITS_RX
   { off := 0x168 },  -- DLY_MEAS
   { off := 0x170, cnt := true },  -- TRANSIT_TX
   { off := 0x178, cnt := true }]  -- TRANSIT_RX

/-- The block registers of the PERF page: R541. -/
def perfRows : List RegRow :=
  [{ off := 0x100, rw := 5, w1s := 2 },  -- PERF_CTRL
   { off := 0x108 },  -- PERF_TIME
   { off := 0x110 },  -- PERF_STEP
   { off := 0x200, n := 64, rw := 0x80000000000FFFF8 },  -- SRC
   { off := 0x400, n := 64 }]  -- VAL
/-- Instances of hearths, spare included, by configuration (R2, R522). -/
def hearthCount : Conf → Nat
  | .ihlan12 => 9 | .ihlan24 => 13 | .ihlan36 => 16

/-- Hearths in ordinary use: the spare hearth is the highest-numbered one on the two smaller
configurations, and Ihlan-36 has none (R4, R522). -/
def spareHearth : Conf → Option Nat
  | .ihlan12 => some 8 | .ihlan24 => some 12 | .ihlan36 => none

/-- Stream ports (R2, R522). -/
def streamCount : Conf → Nat
  | .ihlan12 => 4 | .ihlan24 => 6 | .ihlan36 => 8

/-- Memory ports (R2, R522). -/
def memPortCount : Conf → Nat
  | .ihlan12 => 2 | .ihlan24 => 3 | .ihlan36 => 4

/-- Links (R2, R522). -/
def linkCount : Conf → Nat
  | .ihlan12 => 12 | .ihlan24 => 24 | .ihlan36 => 36

/-- The priority queues present (R522). -/
def queuePresent : Conf → Nat → Bool
  | .ihlan12, q => q == 0 || q == 1 || q == 4
  | _, q => decide (q ≤ 4)

/-- What a page holds, and its instance number (R522, R524). -/
def pageKind (c : Conf) (page : Nat) : PageKind × Nat :=
  if page ≤ 0x0F then
    ((match page with
      | 0 => .glb | 1 => .lcs | 2 => .sec | 3 => .dbg | 4 => .calf | 5 => .calu | 6 => .tick
      | 7 => .pwr | 8 => .cmd | 9 => .cpl | 10 => .sched | 11 => .log | 12 => .bist | 13 => .kiln
      | 14 => .fab | _ => .coll), 0)
  else if page ≤ 0x17 then (.ctx, page - 0x10)
  else if page ≤ 0x1C then
    (if queuePresent c (page - 0x18) then .pq else .absent, page - 0x18)
  else if page == 0x1D then (.route, 0)
  else if page == 0x1E then (.exmap, 0)
  else if page == 0x1F then (.relay, 0)
  else if page ≤ 0x2F then (if page - 0x20 < hearthCount c then .hrth else .absent, page - 0x20)
  else if page ≤ 0x37 then (if page - 0x30 < streamCount c then .strm else .absent, page - 0x30)
  else if page ≤ 0x3B then (if page - 0x38 < memPortCount c then .memp else .absent, page - 0x38)
  else if page ≤ 0x3F then (.absent, 0)
  else if page ≤ 0x63 then (if page - 0x40 < linkCount c then .link else .absent, page - 0x40)
  else if page ≤ 0x7F then (.absent, 0)
  else if page ≤ 0x9F then (.routeWin, page - 0x80)
  else if page ≤ 0xBF then (.mapWin, page - 0xA0)
  else if page ≤ 0xDF then (.regionWin, page - 0xC0)
  else if page == 0xE0 then (.perf, 0)
  else (.absent, 0)

/-- A page that is inactive under R525. -/
def pageInactive (relay : Bool) : PageKind → Nat → Bool
  | .ctx, _ | .strm, _ | .fab, _ | .exmap, _ | .mapWin, _ | .regionWin, _ => relay
  | .pq, i => relay && decide (i ≤ 3)
  | .relay, _ => !relay
  | _, _ => false

/-- A page with the common header (R523). -/
def hasHeader : PageKind → Bool
  | .routeWin | .mapWin | .regionWin | .absent => false
  | _ => true

/-- The block registers of a page. -/
def blockRows : PageKind → List RegRow
  | .glb => glbRows | .lcs => lcsRows | .sec => secRows | .dbg => dbgRows | .calf => calfRows
  | .calu => caluRows | .tick => tickRows | .pwr => pwrRows | .cmd => cmdRows | .cpl => cplRows
  | .sched => schedRows | .log => logRows | .bist => bistRows | .kiln => kilnRows
  | .fab => fabRows | .coll => collRows | .ctx => ctxRows | .pq => pqRows | .route => routeRows
  | .exmap => exmapRows | .relay => relayRows | .hrth => hrthRows | .strm => strmRows
  | .memp => mempRows | .link => linkRows | .perf => perfRows
  | .routeWin | .mapWin | .regionWin | .absent => []

/-- The events a page defines: its EVT_STAT bits (R530 and each page's field map). -/
def eventMask : PageKind → Nat
  | .glb => 3 | .lcs => 7 | .sec => 0xF | .dbg => 3 | .calf => 1 | .tick => 0x3F | .pwr => 7
  | .strm => 1 | .cpl => 0x3FF | .sched => 0xF | .bist => 3 | .fab => 7 | .coll => 3 | .pq => 1
  | .route => 7 | .link => 0x3F
  | _ => 0

/-- Pages whose PAGE_CAP sets RETIRE and QUIESCE (R527). -/
def retirable : PageKind → Bool
  | .hrth | .strm | .memp | .link => true
  | _ => false

/-- The reset value of EVT_ROUTE (R464). -/
def routeReset : PageKind → Nat
  | .cpl => 0
  | .lcs | .sec | .dbg => 0xFFFFFFFFFFFFFFFF
  | _ => 0x5555555555555555

/-- The common header (R526 to R530) of a page of kind k. -/
def headerRows (k : PageKind) : List RegRow :=
  [{ off := 0x00 }, { off := 0x08 },
   { off := 0x10, rw := 3, w1s := 0xC, reset := if k = .link then 0 else 1 },
   { off := 0x18, w1c := 8 },
   { off := 0x20, w1c := eventMask k },
   { off := 0x28, rw := eventMask k },
   { off := 0x30, rw := 0xFFFFFFFFFFFFFFFF, reset := routeReset k },
   { off := 0x38, wo := 0xFFFFFFFF },
   { off := 0x40, n := 4 },
   { off := 0x60, cnt := true }, { off := 0x68, cnt := true }, { off := 0x70 }]

/-- The registers of a page, header first. -/
def pageRows (k : PageKind) : List RegRow :=
  if hasHeader k then headerRows k ++ blockRows k else []

/-- The row of an offset, if any (R523). -/
def regRow (k : PageKind) (off : Nat) : Option RegRow :=
  (pageRows k).find? fun r => r.covers off

/-- The byte address of a page's register (R522). -/
def pg (page off : Nat) : Nat := 4096 * page + off

/-- The page of a byte address. -/
def addrPage (a : Nat) : Nat := a / 4096

/-- The offset within the page. -/
def addrOff (a : Nat) : Nat := a % 4096

/-- The advertised link credit a relay resets to (R300). -/
def relayCredAdv : Nat := 0x0FFFFFFFFFFFFC40

/-- The value a register holds where the register file lists none: its reset value (R533). -/
def regReset (c : Conf) (relay : Bool) (a : Nat) : Word :=
  let (k, i) := pageKind c (addrPage a)
  let off := addrOff a
  if k = .link ∧ off = 0x118 ∧ relay then BitVec.ofNat 64 relayCredAdv
  else if k = .pq ∧ off = 0x100 ∧ i = 4 then 0x108
  else match regRow k off with
    | some r => BitVec.ofNat 64 r.reset
    | none => 0

end Sys2Proof.Machine
end

