-- ==== Sys2Proof/Machine/RegNames.lean ====
section
/-! DEFINITION. The byte address of every register by name (R522 and the register index): page
name, then register name; instanced pages take the instance, runs of registers the index. -/

namespace Sys2Proof.Machine.Reg

/-- Offset 0x000 of the common header of a page. -/
def pageId (page : Nat) : Nat := pg page 0x000

/-- Offset 0x008 of the common header of a page. -/
def pageCap (page : Nat) : Nat := pg page 0x008

/-- Offset 0x010 of the common header of a page. -/
def pageCtrl (page : Nat) : Nat := pg page 0x010

/-- Offset 0x018 of the common header of a page. -/
def pageStat (page : Nat) : Nat := pg page 0x018

/-- Offset 0x020 of the common header of a page. -/
def evtStat (page : Nat) : Nat := pg page 0x020

/-- Offset 0x028 of the common header of a page. -/
def evtEn (page : Nat) : Nat := pg page 0x028

/-- Offset 0x030 of the common header of a page. -/
def evtRoute (page : Nat) : Nat := pg page 0x030

/-- Offset 0x038 of the common header of a page. -/
def evtForce (page : Nat) : Nat := pg page 0x038

/-- Offset 0x040 of the common header of a page. -/
def errCap0 (page : Nat) : Nat := pg page 0x040

/-- Offset 0x060 of the common header of a page. -/
def cntCorr (page : Nat) : Nat := pg page 0x060

/-- Offset 0x068 of the common header of a page. -/
def cntTrans (page : Nat) : Nat := pg page 0x068

/-- Offset 0x070 of the common header of a page. -/
def lock (page : Nat) : Nat := pg page 0x070

/-- The GLB page. -/
def glbPage : Nat := 0x00

/-- The LCS page. -/
def lcsPage : Nat := 0x01

/-- The SEC page. -/
def secPage : Nat := 0x02

/-- The DBG page. -/
def dbgPage : Nat := 0x03

/-- The CALF page. -/
def calfPage : Nat := 0x04

/-- The CALU page. -/
def caluPage : Nat := 0x05

/-- The TICK page. -/
def tickPage : Nat := 0x06

/-- The PWR page. -/
def pwrPage : Nat := 0x07

/-- The CMD page. -/
def cmdPage : Nat := 0x08

/-- The CPL page. -/
def cplPage : Nat := 0x09

/-- The SCHED page. -/
def schedPage : Nat := 0x0A

/-- The LOG page. -/
def logPage : Nat := 0x0B

/-- The BIST page. -/
def bistPage : Nat := 0x0C

/-- The KILN page. -/
def kilnPage : Nat := 0x0D

/-- The FAB page. -/
def fabPage : Nat := 0x0E

/-- The COLL page. -/
def collPage : Nat := 0x0F

/-- The page of instance i. -/
def ctxPage (i : Nat) : Nat := 0x10 + i

/-- The page of instance i. -/
def pqPage (i : Nat) : Nat := 0x18 + i

/-- The ROUTE page. -/
def routePage : Nat := 0x1D

/-- The EXMAP page. -/
def exmapPage : Nat := 0x1E

/-- The RELAY page. -/
def relayPage : Nat := 0x1F

/-- The page of instance i. -/
def hrthPage (i : Nat) : Nat := 0x20 + i

/-- The page of instance i. -/
def strmPage (i : Nat) : Nat := 0x30 + i

/-- The page of instance i. -/
def mempPage (i : Nat) : Nat := 0x38 + i

/-- The page of instance i. -/
def linkPage (i : Nat) : Nat := 0x40 + i

/-- The PERF page. -/
def perfPage : Nat := 0xE0

/-- GLB.STRAP (R21). -/
def glbStrap : Nat := pg glbPage 0x100

/-- GLB.CORE_FREQ (R16). -/
def glbCoreFreq : Nat := pg glbPage 0x108

/-- GLB.FAULT_STAT (R472). -/
def glbFaultStat : Nat := pg glbPage 0x180

/-- GLB.FAULT_EN (R472). -/
def glbFaultEn : Nat := pg glbPage 0x188

/-- GLB.HOST_WDOG (R472). -/
def glbHostWdog : Nat := pg glbPage 0x190

/-- GLB.HOST_KICK (R472). -/
def glbHostKick : Nat := pg glbPage 0x198

/-- GLB.RESET_CTRL (R521). -/
def glbResetCtrl : Nat := pg glbPage 0x1A0

/-- GLB.BOOT_STAT (R521). -/
def glbBootStat : Nat := pg glbPage 0x1A8

/-- GLB.EMBER_UNUSABLE_HI (R541). -/
def glbEmberUnusableHi : Nat := pg glbPage 0x1B0

/-- GLB.ACC_ERR (R541). -/
def glbAccErr : Nat := pg glbPage 0x1B8

/-- LCS.STAT (R502). -/
def lcsStat : Nat := pg lcsPage 0x100

/-- LCS.ADVANCE (R502). -/
def lcsAdvance : Nat := pg lcsPage 0x108

/-- LCS.KEY_PROGk (R502). -/
def lcsKeyProg (k : Nat) : Nat := pg lcsPage (0x110 + 8 * k)

/-- LCS.KEY_COMMIT (R502). -/
def lcsKeyCommit : Nat := pg lcsPage 0x130

/-- SEC.ATTEST_CTRL (R502). -/
def secAttestCtrl : Nat := pg secPage 0x100

/-- SEC.NONCEk (R502). -/
def secNonce (k : Nat) : Nat := pg secPage (0x108 + 8 * k)

/-- SEC.REPORTk (R502). -/
def secReport (k : Nat) : Nat := pg secPage (0x140 + 8 * k)

/-- SEC.MGMT_CTRL (R502). -/
def secMgmtCtrl : Nat := pg secPage 0x1C0

/-- SEC.MGMT_REFUSED (R502). -/
def secMgmtRefused : Nat := pg secPage 0x1C8

/-- DBG.CTRL (R502). -/
def dbgCtrl : Nat := pg dbgPage 0x100

/-- DBG.STAT (R502). -/
def dbgStat : Nat := pg dbgPage 0x108

/-- DBG.MEM_ADDR (R541). -/
def dbgMemAddr : Nat := pg dbgPage 0x110

/-- DBG.MEM_CTRL (R541). -/
def dbgMemCtrl : Nat := pg dbgPage 0x118

/-- DBG.MEM_CHK (R541). -/
def dbgMemChk : Nat := pg dbgPage 0x120

/-- DBG.MEM_DATAk (R540). -/
def dbgMemData (k : Nat) : Nat := pg dbgPage (0x140 + 8 * k)

/-- CALF.LINK_DLYk (R521). -/
def calfLinkDly (k : Nat) : Nat := pg calfPage (0x100 + 8 * k)

/-- CALF.TEMP_OFSk (R521). -/
def calfTempOfs (k : Nat) : Nat := pg calfPage (0x220 + 8 * k)

/-- CALF.RATE_TRIM (R521). -/
def calfRateTrim : Nat := pg calfPage 0x240

/-- CALF.DROOP_THRk (R521). -/
def calfDroopThr (k : Nat) : Nat := pg calfPage (0x248 + 8 * k)

/-- CALF.FUSE_STAT (R521). -/
def calfFuseStat : Nat := pg calfPage 0x268

/-- CALU.LINK_DLYk (R521). -/
def caluLinkDly (k : Nat) : Nat := pg caluPage (0x100 + 8 * k)

/-- CALU.TEMP_OFSk (R521). -/
def caluTempOfs (k : Nat) : Nat := pg caluPage (0x220 + 8 * k)

/-- CALU.RATE_TRIM (R521). -/
def caluRateTrim : Nat := pg caluPage 0x240

/-- CALU.DROOP_THRk (R521). -/
def caluDroopThr (k : Nat) : Nat := pg caluPage (0x248 + 8 * k)

/-- CALU.TEMPk (R521). -/
def caluTemp (k : Nat) : Nat := pg caluPage (0x270 + 8 * k)

/-- TICK.CTRL (R451). -/
def tickCtrl : Nat := pg tickPage 0x100

/-- TICK.PERIOD (R451). -/
def tickPeriod : Nat := pg tickPage 0x108

/-- TICK.TIME (R451). -/
def tickTime : Nat := pg tickPage 0x110

/-- TICK.STEP (R451). -/
def tickStep : Nat := pg tickPage 0x118

/-- TICK.SLIP (R451). -/
def tickSlip : Nat := pg tickPage 0x120

/-- TICK.BARRIER (R451). -/
def tickBarrier : Nat := pg tickPage 0x128

/-- TICK.STAT (R451). -/
def tickStat : Nat := pg tickPage 0x130

/-- TICK.DOWNLINKS (R451). -/
def tickDownlinks : Nat := pg tickPage 0x138

/-- TICK.SLIP_CNT (R451). -/
def tickSlipCnt : Nat := pg tickPage 0x140

/-- TICK.BAR_LATE_CNT (R451). -/
def tickBarLateCnt : Nat := pg tickPage 0x148

/-- TICK.PPS_TIME (R451). -/
def tickPpsTime : Nat := pg tickPage 0x150

/-- TICK.MASTER_ID (R451). -/
def tickMasterId : Nat := pg tickPage 0x158

/-- PWR.CTRL (R502). -/
def pwrCtrl : Nat := pg pwrPage 0x100

/-- PWR.STAT (R502). -/
def pwrStat : Nat := pg pwrPage 0x108

/-- PWR.THROTTLE (R502). -/
def pwrThrottle : Nat := pg pwrPage 0x110

/-- CMD.Wk (R400). -/
def cmdW (k : Nat) : Nat := pg cmdPage (0x100 + 8 * k)

/-- CMD.CMD_SEQ (R400). -/
def cmdCmdSeq : Nat := pg cmdPage 0x140

/-- CMD.CMD_STAT (R400). -/
def cmdCmdStat : Nat := pg cmdPage 0x148

/-- CMD.CMD_GAP_CNT (R400). -/
def cmdCmdGapCnt : Nat := pg cmdPage 0x150

/-- CTXn.Wk (R400). -/
def ctxW (i k : Nat) : Nat := pg (ctxPage i) (0x100 + 8 * k)

/-- CTXn.CMD_SEQ (R400). -/
def ctxCmdSeq (i : Nat) : Nat := pg (ctxPage i) 0x140

/-- CTXn.CMD_STAT (R400). -/
def ctxCmdStat (i : Nat) : Nat := pg (ctxPage i) 0x148

/-- CTXn.CMD_GAP_CNT (R400). -/
def ctxCmdGapCnt (i : Nat) : Nat := pg (ctxPage i) 0x150

/-- CMD.EVT_IDX (R400). -/
def cmdEvtIdx : Nat := pg cmdPage 0x180

/-- CMD.EVT_VAL (R400). -/
def cmdEvtVal : Nat := pg cmdPage 0x188

/-- CPL.RING_BASEk (R400). -/
def cplRingBase (k : Nat) : Nat := pg cplPage (0x100 + 32 * k)

/-- CPL.RING_CTRLk (R400). -/
def cplRingCtrl (k : Nat) : Nat := pg cplPage (0x108 + 32 * k)

/-- CPL.RING_HEADk (R400). -/
def cplRingHead (k : Nat) : Nat := pg cplPage (0x110 + 32 * k)

/-- CPL.RING_TAILk (R400). -/
def cplRingTail (k : Nat) : Nat := pg cplPage (0x118 + 32 * k)

/-- SCHED.CTRL (R430). -/
def schedCtrl : Nat := pg schedPage 0x100

/-- SCHED.STAT (R430). -/
def schedStat : Nat := pg schedPage 0x108

/-- SCHED.SWAP_CNT (R430). -/
def schedSwapCnt : Nat := pg schedPage 0x110

/-- SCHED.SWAP_LAST (R430). -/
def schedSwapLast : Nat := pg schedPage 0x118

/-- LOG.CTRL (R472). -/
def logCtrl : Nat := pg logPage 0x100

/-- LOG.HEAD (R472). -/
def logHead : Nat := pg logPage 0x108

/-- LOG.TAIL (R472). -/
def logTail : Nat := pg logPage 0x110

/-- LOG.LOST (R472). -/
def logLost : Nat := pg logPage 0x118

/-- LOG.IDX (R472). -/
def logIdx : Nat := pg logPage 0x120

/-- LOG.DATAk (R472). -/
def logData (k : Nat) : Nat := pg logPage (0x128 + 8 * k)

/-- BIST.BOOT (R521). -/
def bistBoot : Nat := pg bistPage 0x100

/-- BIST.BOOT_EMBER (R521). -/
def bistBootEmber : Nat := pg bistPage 0x108

/-- BIST.STAT (R521). -/
def bistStat : Nat := pg bistPage 0x110

/-- BIST.LAST (R521). -/
def bistLast : Nat := pg bistPage 0x118

/-- BIST.RUN_CNT (R521). -/
def bistRunCnt : Nat := pg bistPage 0x120

/-- BIST.FAIL_CNT (R521). -/
def bistFailCnt : Nat := pg bistPage 0x128

/-- KILN.CONF (R242). -/
def kilnConf : Nat := pg kilnPage 0x100

/-- KILN.SPARE (R242). -/
def kilnSpare : Nat := pg kilnPage 0x108

/-- KILN.GROUP_UNUSABLE (R242). -/
def kilnGroupUnusable : Nat := pg kilnPage 0x110

/-- KILN.SCRUB (R242). -/
def kilnScrub : Nat := pg kilnPage 0x118

/-- KILN.UE_CTRL (R242). -/
def kilnUeCtrl : Nat := pg kilnPage 0x120

/-- KILN.UE_LAST (R242). -/
def kilnUeLast : Nat := pg kilnPage 0x128

/-- KILN.PARTk (R242). -/
def kilnPart (k : Nat) : Nat := pg kilnPage (0x140 + 8 * k)

/-- KILN.CARVE_LOk (R242). -/
def kilnCarveLo (k : Nat) : Nat := pg kilnPage (0x180 + 16 * k)

/-- KILN.CARVE_HIk (R242). -/
def kilnCarveHi (k : Nat) : Nat := pg kilnPage (0x188 + 16 * k)

/-- KILN.BOG_BASE (R242). -/
def kilnBogBase : Nat := pg kilnPage 0x200

/-- KILN.BOG_SIZE (R242). -/
def kilnBogSize : Nat := pg kilnPage 0x208

/-- KILN.RINGk (R242). -/
def kilnRing (k : Nat) : Nat := pg kilnPage (0x210 + 8 * k)

/-- FAB.CTRL (R375). -/
def fabCtrl : Nat := pg fabPage 0x100

/-- FAB.WIN_SEL (R375). -/
def fabWinSel : Nat := pg fabPage 0x108

/-- FAB.LOCK_CTRL (R375). -/
def fabLockCtrl : Nat := pg fabPage 0x110

/-- FAB.LOCK_STAT (R375). -/
def fabLockStat : Nat := pg fabPage 0x118

/-- FAB.LOCK_CLR (R375). -/
def fabLockClr : Nat := pg fabPage 0x120

/-- FAB.RC_STAT (R375). -/
def fabRcStat : Nat := pg fabPage 0x128

/-- FAB.ERR (R375). -/
def fabErr : Nat := pg fabPage 0x130

/-- FAB.SUB_STAT (R375). -/
def fabSubStat : Nat := pg fabPage 0x138

/-- FAB.DUX_FORCE (R375). -/
def fabDuxForce : Nat := pg fabPage 0x140

/-- FAB.KEY_FAIL_CNT (R374). -/
def fabKeyFailCnt : Nat := pg fabPage 0x148

/-- FAB.RC_HIT_CNT (R374). -/
def fabRcHitCnt : Nat := pg fabPage 0x150

/-- FAB.RC_FULL_CNT (R374). -/
def fabRcFullCnt : Nat := pg fabPage 0x158

/-- FAB.UNKNOWN_CNT (R374). -/
def fabUnknownCnt : Nat := pg fabPage 0x160

/-- COLL.STAT (R348). -/
def collStat : Nat := pg collPage 0x100

/-- COLL.TMO (R348). -/
def collTmo : Nat := pg collPage 0x108

/-- COLL.GROUP_ERR (R348). -/
def collGroupErr : Nat := pg collPage 0x110

/-- COLL.CRC_FAIL (R347). -/
def collCrcFail : Nat := pg collPage 0x118

/-- COLL.ABORT_TX (R347). -/
def collAbortTx : Nat := pg collPage 0x120

/-- COLL.ABORT_RX (R347). -/
def collAbortRx : Nat := pg collPage 0x128

/-- COLL.RERUN (R347). -/
def collRerun : Nat := pg collPage 0x130

/-- CTXn.EVT_RANGE (R400). -/
def ctxEvtRange (i : Nat) : Nat := pg (ctxPage i) 0x158

/-- CTXn.SEM_SEL (R400). -/
def ctxSemSel (i : Nat) : Nat := pg (ctxPage i) 0x160

/-- CTXn.SEM_VAL (R400). -/
def ctxSemVal (i : Nat) : Nat := pg (ctxPage i) 0x168

/-- CTXn.PROG_STAT (R60). -/
def ctxProgStat (i : Nat) : Nat := pg (ctxPage i) 0x200

/-- CTXn.PROG_CORD (R60). -/
def ctxProgCord (i : Nat) : Nat := pg (ctxPage i) 0x208

/-- CTXn.PROG_ERR (R60). -/
def ctxProgErr (i : Nat) : Nat := pg (ctxPage i) 0x210

/-- CTXn.SEQ_POS (R60). -/
def ctxSeqPos (i : Nat) : Nat := pg (ctxPage i) 0x218

/-- CTXn.STRETCH_CYC (R60). -/
def ctxStretchCyc (i : Nat) : Nat := pg (ctxPage i) 0x220

/-- CTXn.FETCH_STALL_CYC (R60). -/
def ctxFetchStallCyc (i : Nat) : Nat := pg (ctxPage i) 0x228

/-- CTXn.SLIP_REQ_CNT (R60). -/
def ctxSlipReqCnt (i : Nat) : Nat := pg (ctxPage i) 0x230

/-- CTXn.STRETCH_LIMIT (R60). -/
def ctxStretchLimit (i : Nat) : Nat := pg (ctxPage i) 0x238

/-- CTXn.CHEAP_POS (R61). -/
def ctxCheapPos (i : Nat) : Nat := pg (ctxPage i) 0x240

/-- CTXn.SEED (R93). -/
def ctxSeed (i : Nat) : Nat := pg (ctxPage i) 0x280

/-- CTXn.SEED_CTRL (R94). -/
def ctxSeedCtrl (i : Nat) : Nat := pg (ctxPage i) 0x288

/-- CTXn.SEL_NAN_TOK (R93). -/
def ctxSelNanTok (i : Nat) : Nat := pg (ctxPage i) 0x290

/-- CTXn.SEL_NULL_TOK (R93). -/
def ctxSelNullTok (i : Nat) : Nat := pg (ctxPage i) 0x298

/-- CTXn.SEL_ERR (R95). -/
def ctxSelErr (i : Nat) : Nat := pg (ctxPage i) 0x2A0

/-- CTXn.ADMIT_CTRL (R124). -/
def ctxAdmitCtrl (i : Nat) : Nat := pg (ctxPage i) 0x2C0

/-- CTXn.SKIP_CNT (R124). -/
def ctxSkipCnt (i : Nat) : Nat := pg (ctxPage i) 0x2C8

/-- CTXn.TABLE_STAT (R125). -/
def ctxTableStat (i : Nat) : Nat := pg (ctxPage i) 0x2D0

/-- CTXn.TABLE_ERR (R125). -/
def ctxTableErr (i : Nat) : Nat := pg (ctxPage i) 0x2D8

/-- CTXn.CODE_ERR (R149). -/
def ctxCodeErr (i : Nat) : Nat := pg (ctxPage i) 0x300

/-- CTXn.BILLET_ERR (R149). -/
def ctxBilletErr (i : Nat) : Nat := pg (ctxPage i) 0x308

/-- CTXn.CODE_SAT_CNT (R148). -/
def ctxCodeSatCnt (i : Nat) : Nat := pg (ctxPage i) 0x310

/-- CTXn.CODE_NAN_BLK (R148). -/
def ctxCodeNanBlk (i : Nat) : Nat := pg (ctxPage i) 0x318

/-- CTXn.CODE_BLK_SCAN (R148). -/
def ctxCodeBlkScan (i : Nat) : Nat := pg (ctxPage i) 0x320

/-- CTXn.CODE_BLK_KEPT (R148). -/
def ctxCodeBlkKept (i : Nat) : Nat := pg (ctxPage i) 0x328

/-- CTXn.STALE_DROP (R148). -/
def ctxStaleDrop (i : Nat) : Nat := pg (ctxPage i) 0x330

/-- CTXn.DISP_CTRL (R184). -/
def ctxDispCtrl (i : Nat) : Nat := pg (ctxPage i) 0x340

/-- CTXn.KINDLE_REQ (R183). -/
def ctxKindleReq (i : Nat) : Nat := pg (ctxPage i) 0x348

/-- CTXn.KINDLE_GRANT (R183). -/
def ctxKindleGrant (i : Nat) : Nat := pg (ctxPage i) 0x350

/-- CTXn.KINDLE_LAPSE (R183). -/
def ctxKindleLapse (i : Nat) : Nat := pg (ctxPage i) 0x358

/-- CTXn.ASK_CNT (R183). -/
def ctxAskCnt (i : Nat) : Nat := pg (ctxPage i) 0x360

/-- CTXn.CREDIT_WAIT_CYC (R183). -/
def ctxCreditWaitCyc (i : Nat) : Nat := pg (ctxPage i) 0x368

/-- CTXn.RICK_ROWS (R183). -/
def ctxRickRows (i : Nat) : Nat := pg (ctxPage i) 0x370

/-- CTXn.HINT_IGNORED (R183). -/
def ctxHintIgnored (i : Nat) : Nat := pg (ctxPage i) 0x378

/-- CTXn.UNREACH_DROP (R183). -/
def ctxUnreachDrop (i : Nat) : Nat := pg (ctxPage i) 0x380

/-- CTXn.RET_CTRL (R212). -/
def ctxRetCtrl (i : Nat) : Nat := pg (ctxPage i) 0x3C0

/-- CTXn.EMBER_QUOTA (R213). -/
def ctxEmberQuota (i : Nat) : Nat := pg (ctxPage i) 0x3C8

/-- CTXn.EMBER_STAT (R213). -/
def ctxEmberStat (i : Nat) : Nat := pg (ctxPage i) 0x3D0

/-- CTXn.RET_ERR (R213). -/
def ctxRetErr (i : Nat) : Nat := pg (ctxPage i) 0x3D8

/-- CTXn.RET_TILES_OUT (R211). -/
def ctxRetTilesOut (i : Nat) : Nat := pg (ctxPage i) 0x3E0

/-- CTXn.RET_TILES_IN (R211). -/
def ctxRetTilesIn (i : Nat) : Nat := pg (ctxPage i) 0x3E8

/-- CTXn.RET_DROP (R211). -/
def ctxRetDrop (i : Nat) : Nat := pg (ctxPage i) 0x3F0

/-- CTXn.COMB_TILES (R211). -/
def ctxCombTiles (i : Nat) : Nat := pg (ctxPage i) 0x3F8

/-- CTXn.KV_STAT_BAD (R211). -/
def ctxKvStatBad (i : Nat) : Nat := pg (ctxPage i) 0x400

/-- CTXn.QUOTAk (R242). -/
def ctxQuota (i k : Nat) : Nat := pg (ctxPage i) (0x440 + 8 * k)

/-- CTXn.POOL_WAIT_CYC (R242). -/
def ctxPoolWaitCyc (i : Nat) : Nat := pg (ctxPage i) 0x480

/-- CTXn.XF_WIN_BASEk (R265). -/
def ctxXfWinBase (i k : Nat) : Nat := pg (ctxPage i) (0x4C0 + 16 * k)

/-- CTXn.XF_WIN_LENk (R265). -/
def ctxXfWinLen (i k : Nat) : Nat := pg (ctxPage i) (0x4C8 + 16 * k)

/-- CTXn.XF_ERR (R265). -/
def ctxXfErr (i : Nat) : Nat := pg (ctxPage i) 0x500

/-- CTXn.XF_SAT_CNT (R264). -/
def ctxXfSatCnt (i : Nat) : Nat := pg (ctxPage i) 0x508

/-- CTXn.XF_STRIDED (R264). -/
def ctxXfStrided (i : Nat) : Nat := pg (ctxPage i) 0x510

/-- CTXn.FAB_OUT (R375). -/
def ctxFabOut (i : Nat) : Nat := pg (ctxPage i) 0x540

/-- CTXn.FAB_IRING_BASE (R375). -/
def ctxFabIringBase (i : Nat) : Nat := pg (ctxPage i) 0x548

/-- CTXn.FAB_IRING_CTRL (R375). -/
def ctxFabIringCtrl (i : Nat) : Nat := pg (ctxPage i) 0x550

/-- CTXn.FAB_IRING_HEAD (R375). -/
def ctxFabIringHead (i : Nat) : Nat := pg (ctxPage i) 0x558

/-- CTXn.FAB_IRING_TAIL (R375). -/
def ctxFabIringTail (i : Nat) : Nat := pg (ctxPage i) 0x560

/-- CTXn.CTL (R430). -/
def ctxCtl (i : Nat) : Nat := pg (ctxPage i) 0x580

/-- CTXn.STATE (R430). -/
def ctxState (i : Nat) : Nat := pg (ctxPage i) 0x588

/-- CTXn.SAVE_AREA (R430). -/
def ctxSaveArea (i : Nat) : Nat := pg (ctxPage i) 0x590

/-- CTXn.SAVE_SIZE (R430). -/
def ctxSaveSize (i : Nat) : Nat := pg (ctxPage i) 0x598

/-- CTXn.CREDIT (R430). -/
def ctxCredit (i : Nat) : Nat := pg (ctxPage i) 0x5A0

/-- CTXn.HEARTH_CYC (R430). -/
def ctxHearthCyc (i : Nat) : Nat := pg (ctxPage i) 0x5A8

/-- CTXn.RUN_CYC (R430). -/
def ctxRunCyc (i : Nat) : Nat := pg (ctxPage i) 0x5B0

/-- CTXn.INTF_CYC (R430). -/
def ctxIntfCyc (i : Nat) : Nat := pg (ctxPage i) 0x5B8

/-- CTXn.INTF_HEARTH_CYC (R430). -/
def ctxIntfHearthCyc (i : Nat) : Nat := pg (ctxPage i) 0x5C0

/-- CTXn.INTF_MEM_CYC (R430). -/
def ctxIntfMemCyc (i : Nat) : Nat := pg (ctxPage i) 0x5C8

/-- CTXn.INTF_LINK_CYC (R430). -/
def ctxIntfLinkCyc (i : Nat) : Nat := pg (ctxPage i) 0x5D0

/-- CTXn.SLOWDOWN (R430). -/
def ctxSlowdown (i : Nat) : Nat := pg (ctxPage i) 0x5D8

/-- CTXn.FAULT (R430). -/
def ctxFault (i : Nat) : Nat := pg (ctxPage i) 0x5E0

/-- CTXn.SWAP_ERR (R430). -/
def ctxSwapErr (i : Nat) : Nat := pg (ctxPage i) 0x5E8

/-- CTXn.REPLAY_BASE (R451). -/
def ctxReplayBase (i : Nat) : Nat := pg (ctxPage i) 0x600

/-- CTXn.REPLAY_CTRL (R451). -/
def ctxReplayCtrl (i : Nat) : Nat := pg (ctxPage i) 0x608

/-- CTXn.REPLAY_HEAD (R451). -/
def ctxReplayHead (i : Nat) : Nat := pg (ctxPage i) 0x610

/-- CTXn.REPLAY_TAIL (R451). -/
def ctxReplayTail (i : Nat) : Nat := pg (ctxPage i) 0x618

/-- CTXn.REPLAY_DIV (R451). -/
def ctxReplayDiv (i : Nat) : Nat := pg (ctxPage i) 0x620

/-- PQn.OWNER (R242). -/
def pqOwner (i : Nat) : Nat := pg (pqPage i) 0x100

/-- PQn.DEPTH (R242). -/
def pqDepth (i : Nat) : Nat := pg (pqPage i) 0x108

/-- PQn.STAT (R242). -/
def pqStat (i : Nat) : Nat := pg (pqPage i) 0x110

/-- PQn.SPILL_BLK (R242). -/
def pqSpillBlk (i : Nat) : Nat := pg (pqPage i) 0x118

/-- PQn.FILL_BLK (R242). -/
def pqFillBlk (i : Nat) : Nat := pg (pqPage i) 0x120

/-- ROUTE.NODE_ID (R319). -/
def routeNodeId : Nat := pg routePage 0x100

/-- ROUTE.TABLE_ERR (R319). -/
def routeTableErr : Nat := pg routePage 0x108

/-- ROUTE.TRANSIT_CTRL (R319). -/
def routeTransitCtrl : Nat := pg routePage 0x110

/-- ROUTE.TRANSIT_STAT (R319). -/
def routeTransitStat : Nat := pg routePage 0x118

/-- ROUTE.TTL_DROP (R319). -/
def routeTtlDrop : Nat := pg routePage 0x120

/-- ROUTE.NOROUTE_DROP (R319). -/
def routeNorouteDrop : Nat := pg routePage 0x128

/-- ROUTE.E2E_CTRL (R300). -/
def routeE2eCtrl : Nat := pg routePage 0x300

/-- ROUTE.E2E_DUP (R300). -/
def routeE2eDup : Nat := pg routePage 0x308

/-- ROUTE.E2E_RESEND (R300). -/
def routeE2eResend : Nat := pg routePage 0x310

/-- EXMAP.CELL (R125). -/
def exmapCell : Nat := pg exmapPage 0x100

/-- EXMAP.WIN_SEL (R541). -/
def exmapWinSel : Nat := pg exmapPage 0x108

/-- RELAY.RED_STAT (R319). -/
def relayRedStat : Nat := pg relayPage 0x100

/-- RELAY.RED_CHUNKS (R319). -/
def relayRedChunks : Nat := pg relayPage 0x108

/-- RELAY.RED_DROP (R319). -/
def relayRedDrop : Nat := pg relayPage 0x110

/-- HRTHn.STAT (R472). -/
def hrthStat (i : Nat) : Nat := pg (hrthPage i) 0x100

/-- HRTHn.THRESH (R472). -/
def hrthThresh (i : Nat) : Nat := pg (hrthPage i) 0x108

/-- STRMn.BINDk (R183). -/
def strmBind (i k : Nat) : Nat := pg (strmPage i) (0x100 + 8 * k)

/-- STRMn.BEATS_IN (R183). -/
def strmBeatsIn (i : Nat) : Nat := pg (strmPage i) 0x140

/-- STRMn.BEATS_OUT (R183). -/
def strmBeatsOut (i : Nat) : Nat := pg (strmPage i) 0x148

/-- STRMn.HOLD_IN_CYC (R183). -/
def strmHoldInCyc (i : Nat) : Nat := pg (strmPage i) 0x150

/-- STRMn.HOLD_OUT_CYC (R183). -/
def strmHoldOutCyc (i : Nat) : Nat := pg (strmPage i) 0x158

/-- STRMn.CH_ERR (R183). -/
def strmChErr (i : Nat) : Nat := pg (strmPage i) 0x160

/-- STRMn.PAR_THRESH (R472). -/
def strmParThresh (i : Nat) : Nat := pg (strmPage i) 0x168

/-- MEMPn.THRESH (R472). -/
def mempThresh (i : Nat) : Nat := pg (mempPage i) 0x100

/-- MEMPn.ERR_LAST (R472). -/
def mempErrLast (i : Nat) : Nat := pg (mempPage i) 0x108

/-- MEMPn.TXN_CNT (R472). -/
def mempTxnCnt (i : Nat) : Nat := pg (mempPage i) 0x110

/-- LINKn.CTRL (R300). -/
def linkCtrl (i : Nat) : Nat := pg (linkPage i) 0x100

/-- LINKn.STAT (R300). -/
def linkStat (i : Nat) : Nat := pg (linkPage i) 0x108

/-- LINKn.PARTNER (R300). -/
def linkPartner (i : Nat) : Nat := pg (linkPage i) 0x110

/-- LINKn.CRED_ADV (R300). -/
def linkCredAdv (i : Nat) : Nat := pg (linkPage i) 0x118

/-- LINKn.WEIGHT (R300). -/
def linkWeight (i : Nat) : Nat := pg (linkPage i) 0x120

/-- LINKn.THRESH (R300). -/
def linkThresh (i : Nat) : Nat := pg (linkPage i) 0x128

/-- LINKn.TIMERS (R300). -/
def linkTimers (i : Nat) : Nat := pg (linkPage i) 0x130

/-- LINKn.REPLAY_CNT (R300). -/
def linkReplayCnt (i : Nat) : Nat := pg (linkPage i) 0x138

/-- LINKn.REPLAY_FAIL_CNT (R300). -/
def linkReplayFailCnt (i : Nat) : Nat := pg (linkPage i) 0x140

/-- LINKn.RETRAIN_CNT (R300). -/
def linkRetrainCnt (i : Nat) : Nat := pg (linkPage i) 0x148

/-- LINKn.UE_CNT (R300). -/
def linkUeCnt (i : Nat) : Nat := pg (linkPage i) 0x150

/-- LINKn.FLITS_TX (R300). -/
def linkFlitsTx (i : Nat) : Nat := pg (linkPage i) 0x158

/-- LINKn.FLITS_RX (R300). -/
def linkFlitsRx (i : Nat) : Nat := pg (linkPage i) 0x160

/-- LINKn.DLY_MEAS (R300). -/
def linkDlyMeas (i : Nat) : Nat := pg (linkPage i) 0x168

/-- LINKn.TRANSIT_TX (R319). -/
def linkTransitTx (i : Nat) : Nat := pg (linkPage i) 0x170

/-- LINKn.TRANSIT_RX (R319). -/
def linkTransitRx (i : Nat) : Nat := pg (linkPage i) 0x178

/-- PERF.PERF_CTRL (R541). -/
def perfPerfCtrl : Nat := pg perfPage 0x100

/-- PERF.PERF_TIME (R541). -/
def perfPerfTime : Nat := pg perfPage 0x108

/-- PERF.PERF_STEP (R541). -/
def perfPerfStep : Nat := pg perfPage 0x110

/-- PERF.SRCk (R541). -/
def perfSrc (k : Nat) : Nat := pg perfPage (0x200 + 8 * k)

/-- PERF.VALk (R541). -/
def perfVal (k : Nat) : Nat := pg perfPage (0x400 + 8 * k)

end Sys2Proof.Machine.Reg
end

