-- ==== Sys2Proof/Machine/NetTypes.lean ====
section
/-! DEFINITION. The pieces of state of the fabric side: flits, links, routing and transit,
end-to-end flows, collectives, reduction slots, fabric memory, and the pieces of tick, security,
power and self-test state. Plain data; each docstring cites the rules that name it. -/

namespace Sys2Proof.Machine

/-! ### Flits and links (R266 to R299) -/

/-- The fields of a flit header (R276) that a packet carries; the link's own fields (LSEQ, LACK,
NAK, CRVC, CRTOT) are added when the flit is sent. -/
structure Flit where
  vc : Nat
  src : Nat
  dst : Nat
  ptag : Nat := 0
  ppos : Nat := 0
  last : Bool := true
  ttl : Nat := 0
  mgmt : Bool := false
  fsn : Nat := 0
  payload : BitVec 1920 := 0
  deriving DecidableEq, Repr

/-- The link's own fields of a header (R276). -/
structure LinkFields where
  fkind : Nat
  lseq : Nat := 0
  lack : Nat := 0
  nak : Bool := false
  crvc : Nat := 0
  crtot : Nat := 0
  deriving DecidableEq, Repr

/-- What the engine has put on a pin, as the outside sees it: a stream beat, a credit return, a flit given to a
link's lanes at a place of a frame, whose wire image is `encodeFlit` of it (R275), or a lane word. -/
inductive Output where
  /-- a stream beat with its parity (R544) -/
  | beat (port slot : Nat) (first : Bool) (side : Word) (data : BitVec 4096) (par : BitVec 65)
  | credit (port slot n : Nat)
  | flit (link pos : Nat) (h : LinkFields) (f : Flit)
  /-- the word of one lane cycle on a transmit lane of a link (R266, R270) -/
  | lane (link lane : Nat) (word : BitVec 256)
  /-- a request on a memory port: a byte address that is a multiple of 128, beats of 128 bytes (0 for 32), a tag
  (R545) -/
  | memReq (port : Nat) (write : Bool) (addr beats tag : Nat)
  /-- a write data beat on a memory port, with its byte enables -/
  | memData (port : Nat) (data : BitVec 1024) (be : BitVec 128) (last : Bool)
  /-- the one response to an access of the register target port, with what a read returns (R547) -/
  | response (data : Option Word)
  /-- the doubleword that the IEEE 1500 wrapper has read at an address (R538) -/
  | wrapRead (addr : Nat) (v : Word)
  /-- what the data register of a test port instruction shifts out (R556) -/
  | testData (ir : BitVec 8) (n : Nat) (v : Word)
  deriving DecidableEq, Repr

/-- What an own flit is part of: what its leaving or its loss means (R34, R169, R297). -/
inductive Origin where
  | none
  /-- billet: context, layer phase, token, destination -/
  | billet (ctx : Nat) (key : Key) (token dest : Nat)
  /-- close marker: context, layer phase, destination -/
  | close (ctx : Nat) (key : Key) (dest : Nat)
  /-- admission flit: context, layer phase, destination -/
  | admitFlit (ctx : Nat) (key : Key) (dest : Nat)
  /-- return tile: context, layer phase, home, token, column tile, class-2 buffer -/
  | tile (ctx : Nat) (key : Key) (home token colt buf : Nat)
  /-- VC3 to VC5 packet: destination, channel, FSN -/
  | flow (dest vc fsn : Nat)
  /-- VC0 records, with the KINDLEs of a HINT command or the SEND lane among them (R164, R391) -/
  | records (kindles : List KindleOut)
  deriving DecidableEq, Repr

/-- An own flit queued to a link (R166, R297): its context for the turns of R407, its origin,
and whether it is sent a second time. -/
structure OwnFlit where
  flit : Flit
  ctx : Nat := 8
  origin : Origin := .none
  /-- it has left its link controller before: a replay flit salvaged (R297) -/
  again : Bool := false
  /-- the departure timestamp from which its records' residence goes on, once it has left before (R314) -/
  at10 : Option Int := none
  deriving DecidableEq, Repr

/-- A VC0 record waiting to be packed into a flit (R289): destination, 16 bytes, the link it must
take (tick records, probes, echoes), the time its residence counts from, and its KINDLE. -/
structure Rec0 where
  dst : Nat
  bytes : BitVec 128
  link : Option Nat := none
  since : Option Int := none
  kindle : Option KindleOut := none
  deriving DecidableEq, Repr

/-- A VC0 record received and not yet handled: source, link, its bytes, and the arrival timestamp
of its flit in 10 ps units (R293). -/
structure In0 where
  src : Nat
  link : Nat
  bytes : BitVec 128
  at10 : Int
  replayed : Bool := false
  deriving DecidableEq, Repr

/-- A sent flit held for replay (R281): its link sequence number, when it was last sent, and the timestamp of
its first departure in 10 ps units. -/
structure Held where
  lseq : Nat
  own : OwnFlit
  /-- for a transit flit: the link it came in on -/
  transitOf : Option Nat := none
  sentAt : Int
  at10 : Int := 0
  deriving DecidableEq, Repr

/-- A transit flit queued to a link (R312). -/
structure TransitFlit where
  inLink : Nat
  flit : Flit
  /-- its arrival timestamp in 10 ps units, from which its residence counts (R314) -/
  at10 : Int := 0
  /-- its LSEQ had been sent before (R293) -/
  replayed : Bool := false
  /-- at a relay: it stands in the queue of an output link, and leaves its input buffer when it starts (R286) -/
  routed : Bool := false
  /-- it holds its place here, a transit slot or input buffer space; a salvaged one holds none (R297, R310) -/
  owns : Bool := true
  deriving DecidableEq, Repr

/-- The states of R273. -/
inductive LinkPhase where
  | disabled | down | align | config | ready | active | retrain | retired
  deriving DecidableEq, Repr

/-- A delay measurement of CAL_MEASURE on a link (R294). -/
structure DlyMeas where
  acc : Nat
  want : Nat
  seq : Nat := 0
  /-- when the last probe was asked for -/
  lastAt : Option Int := none
  out : List (Nat × Int) := []
  samples : List Int := []
  deriving DecidableEq, Repr

/-- A link controller (R266 to R299): training, replay, credit and arbitration state. -/
structure Link where
  phase : LinkPhase := .disabled
  retired : Bool := false
  quiesce : Bool := false
  fresh : Bool := true
  fromDown : Bool := true
  runStart : Int := 0
  txLock : Nat := 0
  rxLock : Nat := 0
  /-- both own lanes are aligned, the partner's words say so too: CONFIG at the next frame (R271, R273) -/
  aligned : Bool := false
  bothAligned : Bool := false
  /-- the bit offsets at which the words of the two physical lanes start -/
  laneOffs : Nat × Nat := (0, 0)
  laneSwap : Bool := false
  skew : Nat := 0
  partner : Option (Nat × Nat × Bool) := none
  resumeAt : Nat := 0
  tsGood : Nat := 0
  tsNode : Nat := 0
  tsLink : Nat := 0
  readySent : Nat := 0
  readyGot : Bool := false
  adaptUp : Bool := false
  sinceActive : Nat := 0
  advOwn : Word := 0
  advPartner : Word := 0
  txSeq : Nat := 0
  rxSeq : Nat := 1023
  held : List Held := []
  resend : List Nat := []
  replayFirst : Option Nat := none
  replayAt : Int := 0
  consecFails : Nat := 0
  failAt : List Int := []
  trainFailAt : List Int := []
  nakDue : Bool := false
  /-- the highest LSEQ seen out of order since the last NAK: flits up to it come a second time -/
  resentTo : Option Nat := none
  nakSeq : Option Nat := none
  nakAt : Int := 0
  ueRun : Nat := 0
  sent : Counters := []
  recv : Counters := []
  freed : Counters := []
  partnerFreed : Counters := []
  crvc : Nat := 0
  tokens : Nat := 0
  /-- the flits sent since ACTIVE when the last token fell due (R287) -/
  tokenAt : Nat := 0
  /-- the channel of the last turn: the first turn after reset is VC1's -/
  turn : Nat := 5
  turnSent : Nat := 0
  /-- WEIGHT of the turn in progress, taken when it began (R300); 0 with no turn in progress -/
  turnWeight : Nat := 0
  own : List OwnFlit := []
  transit : List TransitFlit := []
  waiting : List TransitFlit := []
  rrDest : Counters := []
  rrIn : Counters := []
  rrCtx : Counters := []
  lastTransit : List Nat := []
  slotsHeld : Nat := 0
  meas : Option DlyMeas := none
  retiredAt : Int := 0
  salvage : List Held := []
  /-- RX_LSEQ of a LINK_DOWN that arrived before this end retired (R297) -/
  downGot : Option Nat := none
  /-- the next flit's place in the frame, and the bytes sent that fill no whole link word yet (R266, R267) -/
  frame : Nat := 0
  txTail : List Byte := []
  deriving DecidableEq, Repr

/-! ### Routing and flows (R290 to R306) -/

/-- A packet being dropped in transit (R305, R309): its SRC, DST, VC and PTAG, the places of its flits dropped so far,
and its last place where that has come. -/
structure Dropped where
  id : Nat × Nat × Nat × Nat
  seen : List Nat
  lastPos : Option Nat
  deriving DecidableEq, Repr

/-- A route table entry (R302). -/
structure Route where
  valid : Bool := false
  ttl : Nat := 0
  primary : Nat := 0
  alternate : Nat := 0
  deriving DecidableEq, Repr

/-- What an outstanding VC3 to VC5 packet is for. -/
inductive FlowUse where
  | none
  /-- collective packet of a group's operation: number and attempt -/
  | coll (group opseq att : Nat)
  /-- JOIN of a group forming -/
  | join (group : Nat)
  /-- TREE_SET of a group forming, to a relay -/
  | tree (group node : Nat)
  /-- fabric verb: acceptance number of the batch, verb index, packet index -/
  | verb (acc ctx idx pkt : Nat)
  /-- SUBSCRIBE, PUBLISH_INVAL, OWN_ACQUIRE, OWN_RELEASE: acceptance number and context -/
  | cmd (acc ctx : Nat)
  /-- OWN_REL for an OWN_ACQUIRE of a context that a kill or save ended (R374) -/
  | rel (ctx : Nat)
  /-- INVAL of a publication being served (its id), for one subscription: node, context, region, range -/
  | inval (pub : Nat) (node ctx region roff len : Nat)
  /-- OWN_GRANT to a waiter of a region -/
  | grant (region node : Nat)
  /-- a RED_DOWN copy of a relay's slot: chunk, epoch, attempt and child node -/
  | red (slot chunk epoch att child : Nat)
  /-- a management request or answer -/
  | mgmt
  deriving DecidableEq, Repr

/-- A VC3 to VC5 packet not yet acknowledged or answered (R290, R291). -/
structure Outst where
  dest : Nat
  vc : Nat
  fsn : Nat
  body : List Byte
  ctx : Nat
  use : FlowUse
  sentAt : Int
  resends : Nat := 0
  mgmt : Bool := false
  deriving DecidableEq, Repr

/-- A packet held back from a flow (R290): its bytes, context, use and MGMT bit. -/
structure FlowWait where
  body : List Byte
  ctx : Nat
  use : FlowUse
  mgmt : Bool
  deriving DecidableEq, Repr

/-- The state of a flow to one destination on one channel (R290). -/
structure Flow where
  next : Nat := 0
  waiting : List FlowWait := []
  /-- FSNs whose packets failed without an acknowledgement: they stay unacknowledged (R290) -/
  lost : List Nat := []
  deriving DecidableEq, Repr

/-- A filter entry (R292). -/
structure Filter where
  valid : Bool := false
  base : Nat := 0
  m : Nat := 0
  deriving DecidableEq, Repr

/-- What the one check of a fabric memory request found on its arrival (R351, R360): reason and status, where its
bytes lie in host memory, the counter of its region's entry, and whether its filter entry was VALID. -/
structure FabSeen where
  reason : Nat
  status : Nat
  base : Nat
  evt : Option Nat
  wasValid : Bool
  deriving DecidableEq, Repr

/-- A packet being received or received whole (R277, R291): payload by flit position. -/
structure RxPkt where
  src : Nat
  vc : Nat
  ptag : Nat
  mgmt : Bool
  fsn : Nat
  link : Nat
  firstAt : Int
  parts : Assoc (BitVec 1920) := []
  lastPos : Option Nat := none
  /-- its entries were still arriving when a flush was read that discards it (R237) -/
  flushed : Bool := false
  /-- the flits that still hold space in a link's input buffer: position and link (R286, R329) -/
  credit : List (Nat × Nat) := []
  /-- the flits whose bytes have been written to the destination, or are being written (R329) -/
  put : List Nat := []
  /-- its data has been written, or its handling begun: it waits to be accepted (R329, R359) -/
  taken : Bool := false
  /-- the check of a WRITE or ATOMIC of fabric memory, made once (R351) -/
  seen : Option FabSeen := none
  /-- the memory transfer of its handling, and how far an ATOMIC has got: reason, status, old value -/
  serve : Nat := 0
  stage : Nat := 0
  rxOld : Nat := 0
  deriving DecidableEq, Repr

/-! ### Collectives (R320 to R347) -/

/-- A relay of a group image (R321). -/
structure RelayEnt where
  node : Nat
  slotBase : Nat
  child : Nat
  parent : Nat
  deriving DecidableEq, Repr

/-- A member of a group image (R321). -/
structure MemberEnt where
  node : Nat
  child : Nat
  parent : Nat
  deriving DecidableEq, Repr

/-- Who a running collective operation belongs to: a command by acceptance number, or the XFER lane
operation with a template index. -/
inductive CollOwner where
  | cmd (acc : Nat)
  | lane (tmpl : Nat)
  deriving DecidableEq, Repr

/-- A collective operation running on this member (R326): its owner, opcode, number and attempt;
the chunks of its own source read and sent; the packets taken by sender; the counts rows held; the
packets unacknowledged; ring and tree results written; whether it has entered the closing barrier. -/
structure CollOp where
  owner : CollOwner
  opc : Nat
  opseq : Nat
  att : Nat
  fetched : Nat := 0
  sentN : Nat := 0
  gotN : Nat := 0
  rows : Assoc (List Nat × Nat) := []
  countsSent : Bool := false
  columnOut : Bool := false
  unacked : Nat := 0
  done : List Nat := []
  entered : Bool := false
  suspended : Bool := false
  /-- the counts list is to be read again for this attempt, and a save has aborted the operation once (R343, R345) -/
  reread : Bool := false
  cut : Bool := false
  status : Nat := 0
  /-- the chunks sent in any attempt (R337), and when a packet of it was last sent, accepted or received (R346) -/
  sentMax : Nat := 0
  lastAt : Int := 0
  deriving DecidableEq, Repr

/-- The state of a formation in progress (R322): its command, the CRC of the image, the JOINs and
TREE_ACKs rank 0 holds, and whether this node has entered the formation barrier. -/
structure Forming where
  acc : Nat
  crc : Nat
  joins : List Nat := []
  acks : List Nat := []
  entered : Bool := false
  /-- its command is pre-empted, and what ended the formation meanwhile (R345, R411) -/
  held : Bool := false
  failed : Option Nat := none
  deriving DecidableEq, Repr

/-- A group's barrier (R443, R444): its number, this node's arrival, the arrivals counted at the
root, and a release scheduled or kept. -/
structure Barrier where
  bseq : Nat := 0
  here : Option Nat := none
  arrived : List Nat := []
  att : Nat := 0
  later : List (Nat × Nat × Nat) := []
  release : Option (Nat × Nat × Int) := none
  releaseAt : Option Int := none
  deriving DecidableEq, Repr

/-- A group held at an endpoint (R320). -/
structure Group where
  ctx : Nat
  job : Nat
  epoch : Nat
  att : Nat := 0
  opseq : Nat := 0
  members : List MemberEnt := []
  relays : List RelayEnt := []
  tree : Bool := false
  w : Nat := 0
  c0 : Nat := 0
  bar : Barrier := {}
  forming : Option Forming := none
  op : Option CollOp := none
  /-- the terminal abort of an operation that has not started here: number, reason (R343) -/
  terminal : List (Nat × Nat) := []
  dead : Bool := false
  /-- operations that have not started here and for which a PREEMPT has come (R344), and the one of this member
  that a save has pre-empted (R345) -/
  suspend : List Nat := []
  preempted : Option Nat := none
  deriving DecidableEq, Repr

/-- A reservation of reduction slots at a relay (R324). -/
structure RedResv where
  handle : Nat
  epoch : Nat
  base : Nat
  w : Nat
  parent : Option Nat
  children : List Nat
  /-- what TREE_SET does not carry: the first slot at the parent, this relay's child index there,
  and the first slot at each child (free values, notes/assumptions) -/
  parentBase : Nat := 0
  myChild : Nat := 0
  childBases : List Nat := []
  deriving DecidableEq, Repr

/-- A reduction slot's state (R316 to R318, R338). -/
structure RedSlot where
  epoch : Nat
  att : Nat
  chunk : Nat
  fmt : Nat
  elems : Nat
  folded : Nat := 0
  acc : List F32 := []
  /-- the children whose RED_DOWN copy is not yet acknowledged; none before the copies start -/
  downOut : Option (List Nat) := none
  busy : Bool := true
  deriving DecidableEq, Repr

/-! ### Fabric memory (R349 to R374) -/

/-- A region table entry (R350), CTRL without the Dux owner fields, which stand beside it. -/
structure Region where
  ctrl : Word := 0
  base : Word := 0
  len : Word := 0
  key : Word := 0
  owner : Option Nat := none
  deriving DecidableEq, Repr

/-- A subscription, at the home or at the subscriber (R367). -/
structure Subscription where
  node : Nat
  ctx : Nat
  region : Nat
  roff : Nat
  len : Nat
  deriving DecidableEq, Repr

/-- A record for a context's invalidation ring that has not been written yet: its 32 bytes, the request whose
acknowledgement waits for it, and whether its write is out (R369). -/
structure IringRec where
  ctx : Nat
  bytes : List Byte
  serve : Option Nat
  out : Bool := false
  deriving DecidableEq, Repr

/-- A reply cache entry (R363). -/
structure Reply where
  src : Nat
  fsn : Nat
  status : Nat
  reason : Nat
  old : Word
  madeAt : Int
  bad : Bool := false
  deriving DecidableEq, Repr

/-- The key-failure record of a source (R361). -/
structure LockRec where
  count : Nat := 0
  start : Int := 0
  locked : Bool := false
  deriving DecidableEq, Repr

/-- A publication being served at the home (R368): its answer's destination and what is still out. -/
structure Pub where
  id : Nat
  src : Nat
  fsn : Nat
  region : Nat
  job : Nat
  left : Nat
  status : Nat := 0
  deriving DecidableEq, Repr

/-- A verb of a batch in progress (R355, R356): its list index, entry, packets outstanding, whether
it has been issued, its first failure and its final status. -/
structure VerbSt where
  idx : Nat
  line : Line
  fetched : Bool := false
  issued : Bool := false
  left : Nat := 0
  fail : Option Nat := none
  status : Option Nat := none
  deriving DecidableEq, Repr

/-- A FAB_BATCH in progress, or its posted WRITEs still out (R356). -/
structure Batch where
  acc : Nat
  ctx : Nat
  statusAddr : Nat
  wins : List Word
  verbs : List VerbSt := []
  complete : Bool := false
  killed : Bool := false
  deriving DecidableEq, Repr

/-- A WRITE packet a FENCE may cover (R366): context, node, the batch, verb and packet it is, its
order of issue, and its failure. One that is acknowledged is no longer listed. -/
structure WritePkt where
  ctx : Nat
  node : Nat
  acc : Nat
  idx : Nat
  pkt : Nat
  order : Nat
  failed : Option Nat := none
  deriving DecidableEq, Repr

/-- What a draw of the CTR_DRBG is for (R95, R352). -/
inductive DrawFor where
  | seed (ctx : Nat)
  | key (region : Nat)
  deriving DecidableEq, Repr

/-! ### Power, security (R473 to R502, R515) -/

/-- A zeroisation in progress (R481), by the event that it belongs to: a raise of the debug level (R489), a
reset sequence with its cause and what its self-test found (R503), or the entry to Cold (R495). -/
inductive Zeroing where
  | raise (level : Nat)
  | boot (cause : Nat) (found : Findings)
  | cold
  deriving DecidableEq, Repr

/-- Power states (R491). -/
inductive Power where
  | lit | banked | cold | off
  deriving DecidableEq, Repr

end Sys2Proof.Machine
end

