-- ==== Sys2Proof/Machine/State.lean ====
section
/-! DEFINITION. The state of the engine: everything the spec gives it, as plain data, the state
after reset, and the ways a step can stop. -/

namespace Sys2Proof.Machine

/-- What the part is and what its straps and fuses hold: the configuration (R2), the straps sampled
at power-on reset (R21), and the words of the fuse macro, blank where not listed (R550, R552). -/
structure Part where
  conf : Conf := .ihlan36
  relay : Bool := false
  tref : Bool := false
  stepping : Nat := 1
  fuses : Assoc (BitVec 32) := []
  deriving DecidableEq, Repr

/-- The command side: windows, queues, bog rings, running commands, completion holds, event
counters (R376 to R395, R234 to R241, R386). -/
structure CmdSt where
  windows : Assoc Window := []
  queues : Assoc PQueue := []
  rings : Assoc BogRing := []
  running : List Running := []
  holds : Assoc (List Completion) := []
  events : Counters := []
  nextAcc : Nat := 0
  batches : List Batch := []
  writes : List WritePkt := []
  /-- WRITE packets issued so far (R366) -/
  writeSeq : Nat := 0
  deriving DecidableEq, Repr

/-- The memory side: the engine's view of host memory, the kiln and the ember store (bytes by
address, 0 where not listed), transactions in flight and waiting, the ports. -/
structure MemSt where
  host : List Host.Cell := []
  kiln : List Host.Cell := []
  ember : List Host.Cell := []
  txns : List Txn := []
  waiting : List Txn := []
  nextTxn : Nat := 0
  rr : Nat := 3
  ports : Assoc MemPort := []
  deriving DecidableEq, Repr

/-- The step side: contexts, the step that runs or is parked, STEP_RUNs handed to the sequencer in
order, stream ports and hearths, the kiln's spare and scrubber. -/
structure RunSt where
  ctxs : Assoc Ctx := []
  step : Option StepRun := none
  parked : List StepRun := []
  ports : Assoc StrmPort := []
  hearths : Assoc Hearth := []
  /-- the items that hearths hold (R10, R529) -/
  placed : List Placed := []
  /-- the charges of the tick so far, by context, and what the links have carried in this cycle: link, context
  (9 for transit) (R408, R409) -/
  charges : Assoc Charges := []
  carried : List (Nat × Nat) := []
  kilnSt : KilnSt := {}
  /-- outbound records that wait for a pair of their kind (R154, R458) -/
  outWait : List OutRec := []
  /-- outbound records made so far (R154) -/
  outNo : Nat := 0
  loopBillets : List (Nat × Billet) := []
  loopTiles : List (Nat × Tile) := []
  adviceGiven : Bool := false
  /-- since when the condition of R428 has held -/
  adviceSince : Option Int := none
  autoSwap : Option AutoSwap := none
  deriving DecidableEq, Repr

/-- The fabric side: links, the route table and spread pointers, VC0 records out and in, packets
received, flows and filters. -/
structure NetSt where
  links : Assoc Link := []
  routes : Assoc Route := []
  spread : Counters := []
  spreadT : Counters := []
  /-- own flits whose destination's usable set is "wait" (R303) -/
  ownWait : List OwnFlit := []
  /-- transit flits taken off a retired link that wait the same way -/
  transitWait : List TransitFlit := []
  vc0Out : List Rec0 := []
  vc0In : List In0 := []
  rx : List RxPkt := []
  flows : Assoc Flow := []
  outst : List Outst := []
  filters : Assoc Filter := []
  ptags : Counters := []
  dropped : List Dropped := []
  deriving DecidableEq, Repr

/-- Collectives and reductions (R315 to R347). -/
structure CollSt where
  groups : Assoc Group := []
  redResv : List RedResv := []
  redSlots : Assoc RedSlot := []
  /-- consecutive VC3 packets of a source that failed their CRC check (R330) -/
  badCrc : Counters := []
  deriving DecidableEq, Repr

/-- Fabric memory (R349 to R374). -/
structure FabSt where
  regions : Assoc Region := []
  subsHome : List Subscription := []
  subsOwn : List Subscription := []
  cache : List Reply := []
  locks : Assoc LockRec := []
  waiters : List (Nat × Nat × Nat) := []
  pubs : List Pub := []
  nextPub : Nat := 0
  /-- memory transfers of requests being served: the next number, and those that failed -/
  nextServe : Nat := 0
  serveFails : List Nat := []
  /-- records for the invalidation rings, oldest first (R369) -/
  iring : List IringRec := []
  deriving DecidableEq, Repr

/-- Tick state (R431 to R444): engine time in femtoseconds and the part of one that is left over, the discipline terms, the announced edge that
ends the step in force with the step it begins, the node's own edge where it has slipped, the announced
edge after it, the cycle of the last edge, and what the master has granted. -/
structure TickSt where
  time : Int := 0
  frac : Nat := 0
  cycle : Nat := 0
  freq : Int := 0
  slew : Int := 0
  lastRec : Option Int := none
  good : Nat := 0
  edge : Option Int := none
  ownEdge : Option Int := none
  edgeStep : Nat := 0
  nextEdge : Option (Int × Nat) := none
  grants : Counters := []
  lastSync : Int := 0
  deriving DecidableEq, Repr

/-- Security, debug, power and boot state (R473 to R507): the life-cycle state in force, the fuse bit that
burns, the hold in reset and a LC_SCRAP that waits (R476), whether the key register has been cleared since the last reset (R478), the
power handshake (R492), the CTR_DRBG (R553), a reset sequence's end, a warm reset due (R503), the droop
throttle's start (R498), the last kick and a lost host (R463). -/
structure SecSt where
  lcState : Nat := 0
  burning : Option Nat := none
  held : Bool := false
  scrapDue : Bool := false
  keyCleared : Bool := false
  fuseErr : Bool := false
  debug : Nat := 0
  raises : Nat := 0
  zeroFail : Bool := false
  zeroing : Option Zeroing := none
  zeroStuck : Bool := false
  power : Power := .lit
  pcReq : Nat := 0
  pcAck : Nat := 0
  thenCold : Bool := false
  wakeCold : Bool := false
  drbgReady : Bool := false
  drbgWaits : List DrawFor := []
  entropy : List (BitVec 32) := []
  draws : Nat := 0
  /-- when the engine began to wait for entropy, or took the last word (R553) -/
  entropyAt : Int := 0
  booted : Bool := true
  warmDue : Option Nat := none
  droop : Option Int := none
  kicked : Int := 0
  lost : Bool := false
  /-- answers to management requests that have arrived: their sender and bytes (R484) -/
  answers : List (Nat × List Byte) := []
  /-- a report that has been sampled and is being built (R502) -/
  attest : Option (List Byte) := none
  /-- the actions of the DBG memory window that are running: READ and WRITE (R540) -/
  memRead : Bool := false
  memWrite : Bool := false
  /-- they wait: the group of their kiln line is being copied (R223) -/
  memHeld : Bool := false
  /-- the sequencer and the command engine stand still for a debugger at INVASIVE (R487) -/
  halted : Bool := false
  /-- they may do one step: a bundle cycle, or the start of a command -/
  stepOnce : Bool := false
  deriving DecidableEq, Repr

/-- A pending write of RWS fields (R537): the last value written and its cycle, and the value that it replaced where
that was written in an earlier cycle, which an edge of the same cycle still takes (R536). -/
structure Shadow where
  cycle : Nat
  value : Word
  prior : Option Word := none
  deriving DecidableEq, Repr

/-- Everything of the engine that changes as it runs. `regs` holds every register whose content is
its own: byte address to value, absent where it holds its reset value (R522, R533); `shadow` the
pending RWS writes (R537). -/
structure Mach where
  regs : Assoc Word := []
  shadow : Assoc Shadow := []
  cmd : CmdSt := {}
  mem : MemSt := {}
  run : RunSt := {}
  net : NetSt := {}
  coll : CollSt := {}
  fab : FabSt := {}
  tick : TickSt := {}
  sec : SecSt := {}
  log : AshLog := {}
  out : List Output := []
  /-- the counter of free values drawn (the model's own field, no register of the engine) -/
  free : Nat := 0
  deriving DecidableEq, Repr

/-- The state of the model: the commands that wait, first in first out; the part; the machine. -/
structure State where
  pending : List Instr
  part : Part
  m : Mach
  deriving DecidableEq, Repr

/-- The faults a step can end in. -/
inductive Fault where
  /-- Raised by an access to a kiln line that the configuration does not have (R216, R218): an
  address the spec says does not exist. Safe: no effect is claimed. -/
  | kilnNoSuchLine
  deriving DecidableEq, Repr

/-- The reasons for which a command has no meaning. -/
inductive Refusal where
  /-- Raised by Machine/Dispatch.lean for a command with no meaning yet. Safe. -/
  | notModelled (mnemonic : String)
  deriving DecidableEq, Repr

/-- The RESET entry that the power-on sequence writes as the log's first (R468, R470, R503): time
and step 0, code 0x0001, page GLB, INFO, no context, cause 0x01. -/
def resetEntry : LogEntry := BitVec.ofNat 256 (1 * 2 ^ 112 + 0xFF * 2 ^ 144 + 1 * 2 ^ 152)

/-- The machine right after the power-on sequence of an Ihlan-36 endpoint with no fuse blown and no
self-test failure (R503): registers at their reset values, BOOT_STAT with cause 0x01, phase 0x6 and
DONE, and the ash log with its RESET entry. -/
def Mach.reset : Mach :=
  { regs := [(0x1A8, 0x0100000000000601), (0xB108, 1)],
    log := { slots := [(0, resetEntry)] } }

/-- The state after reset: nothing waits. -/
def State.reset : State := { pending := [], part := {}, m := Mach.reset }

end Sys2Proof.Machine
end

