-- ==== Sys2Proof/Machine/Ops.lean ====
section
/-! DEFINITION. The named operations over the machine: registers, events, the ash log, memories,
memory port transactions and completions. Each meaning is written over these. -/

namespace Sys2Proof.Machine

/-! ### Registers (R522, R533) -/

/-- The stored value of a register. -/
def rd (p : Part) (m : Mach) (a : Nat) : Word :=
  Sparse.get (regReset p.conf p.relay) m.regs a

/-- A register's stored value replaced. -/
def wr (p : Part) (m : Mach) (a : Nat) (v : Word) : Mach :=
  { m with regs := Sparse.set (regReset p.conf p.relay) m.regs a v }

/-- A field of a register's stored value. -/
def rdF (p : Part) (m : Mach) (a hi lo : Nat) : Nat := bitsOf (rd p m a) hi lo

/-- One bit of a register's stored value. -/
def rdB (p : Part) (m : Mach) (a i : Nat) : Bool := bitOf (rd p m a) i

/-- A word with the field [hi:lo] replaced. -/
def putBits (x : Word) (hi lo v : Nat) : Word :=
  BitVec.ofNat 64 (x.toNat - (bitsOf x hi lo <<< lo) + ((v % 2 ^ (hi + 1 - lo)) <<< lo))

/-- A field of a register replaced. -/
def wrF (p : Part) (m : Mach) (a hi lo v : Nat) : Mach := wr p m a (putBits (rd p m a) hi lo v)

/-- A counter of 64 bits, wrapping, raised by n (the counters "since reset"). -/
def bump (p : Part) (m : Mach) (a n : Nat) : Mach :=
  if n = 0 then m else wr p m a (rd p m a + BitVec.ofNat 64 n)

/-- Bits of a register set. -/
def orReg (p : Part) (m : Mach) (a mask : Nat) : Mach := wr p m a (rd p m a ||| BitVec.ofNat 64 mask)

/-- Bits of a register cleared. -/
def clrReg (p : Part) (m : Mach) (a mask : Nat) : Mach :=
  wr p m a (rd p m a &&& ~~~ (BitVec.ofNat 64 mask))

/-- A field value in place, as a number. -/
def at_ (lo v : Nat) : Nat := v <<< lo

/-- A word of a number. -/
def wordOf (v : Nat) : Word := BitVec.ofNat 64 v

/-- An event of a page is set (R530). -/
def setEvt (p : Part) (m : Mach) (page b : Nat) : Mach := orReg p m (Reg.evtStat page) (2 ^ b)

/-- Every write of a list of (address, value). -/
def wrAll (p : Part) (m : Mach) : List (Nat × Word) → Mach
  | [] => m
  | (a, v) :: r => wrAll p (wr p m a v) r

/-! ### Time and settings in force -/

/-- Femtoseconds in a nanosecond, the unit of engine time in the model. -/
def fsPerNs : Int := 1000000

/-- Engine time in whole nanoseconds (R431). -/
def timeNs (m : Mach) : Nat := (m.tick.time / fsPerNs).toNat

/-- The step number in force at the node (R438). -/
def stepNow (p : Part) (m : Mach) : Nat := rdF p m Reg.tickStep 47 0

/-- The tick runs (TICK.CTRL.RUN). -/
def tickRuns (p : Part) (m : Mach) : Bool := rdB p m Reg.tickCtrl 0

/-- The node id (R301). -/
def nodeId (p : Part) (m : Mach) : Nat := rdF p m Reg.routeNodeId 11 0

/-- The core clock in MHz (R16). -/
def coreMhz (p : Part) (m : Mach) : Nat := rdF p m Reg.glbCoreFreq 10 0

/-- The engine is halted by FATAL (R462). -/
def isFatal (p : Part) (m : Mach) : Bool := rdB p m Reg.glbFaultStat 3

/-- The faults of a window: those of a list of times that lie within the last w femtoseconds. -/
def within (now w : Int) (ts : List Int) : List Int := ts.filter fun t => decide (now - t ≤ w)

/-! ### Contexts and their tables -/

/-- A context slot; absent is a slot at reset. -/
def ctxOf (m : Mach) (c : Nat) : Ctx := Assoc.get {} m.run.ctxs c

/-- A context slot replaced. -/
def setCtx (m : Mach) (c : Nat) (x : Ctx) : Mach :=
  { m with run := { m.run with ctxs := Assoc.set m.run.ctxs c x } }

/-- The context is defined (R401). -/
def ctxDefined (p : Part) (m : Mach) (c : Nat) : Bool := rdB p m (Reg.ctxCtl c) 31

/-- The context's job tag. -/
def ctxJob (p : Part) (m : Mach) (c : Nat) : Nat := rdF p m (Reg.ctxCtl c) 7 0

/-- The defined context that carries a job tag (R401, R403). -/
def ctxOfJob (p : Part) (m : Mach) (job : Nat) : Option Nat :=
  (List.range 8).find? fun c => ctxDefined p m c && ctxJob p m c == job

/-- The resident contexts. -/
def residents (m : Mach) : List Nat := (List.range 8).filter fun c => (ctxOf m c).resident

/-- The queue of a window: PQ4 for CMD, the resident context's PQs (R405). -/
def queueOfWin (m : Mach) (w : Nat) : Option Nat :=
  if w = 8 then some 4
  else if (ctxOf m w).resident then some (ctxOf m w).slot else none

/-- The window a queue serves: CMD for PQ4, the context that holds the slot otherwise. -/
def winOfQueue (m : Mach) (q : Nat) : Option Nat :=
  if q = 4 then some 8
  else (residents m).find? fun c => (ctxOf m c).slot == q

/-- A priority queue. -/
def pqOf (m : Mach) (q : Nat) : PQueue := Assoc.get {} m.cmd.queues q

/-- A priority queue replaced. -/
def setPq (m : Mach) (q : Nat) (x : PQueue) : Mach :=
  { m with cmd := { m.cmd with queues := Assoc.set m.cmd.queues q x } }

/-- A bog ring; ring 8 is PQ4's (R239). -/
def ringOf (m : Mach) (r : Nat) : BogRing := Assoc.get {} m.cmd.rings r

/-- A bog ring replaced. -/
def setRing (m : Mach) (r : Nat) (x : BogRing) : Mach :=
  { m with cmd := { m.cmd with rings := Assoc.set m.cmd.rings r x } }

/-! ### The ash log (R466 to R470) -/

/-- Severities of log entries (R467). -/
inductive Sev where
  | info | corrected | transient | permanent | fatal | security
  deriving DecidableEq, Repr

/-- The SEV byte. -/
def Sev.code : Sev → Nat
  | .info => 0 | .corrected => 1 | .transient => 2 | .permanent => 3 | .fatal => 4 | .security => 5

/-- An event reported to the log: code, page, severity, context (8 system, 0xFF none), DETAIL. -/
structure Report where
  code : Nat
  page : Nat
  sev : Sev
  ctx : Nat := 0xFF
  detail : List Byte := []
  deriving DecidableEq, Repr

/-- The 32 bytes of an entry (R467). -/
def entryOf (p : Part) (m : Mach) (r : Report) : LogEntry :=
  BitVec.ofNat 256 (leNat
    (leBytes 8 (timeNs m) ++ leBytes 6 (stepNow p m) ++ leBytes 2 r.code ++ leBytes 1 r.page
      ++ leBytes 1 r.sev.code ++ leBytes 1 r.ctx ++ (r.detail ++ List.replicate 12 0).take 12 ++ [0]))

/-- LOG.LOST counts n more entries, saturating (R469). -/
def loseEntries (p : Part) (m : Mach) (n : Nat) : Mach :=
  if n = 0 then m else wr p m Reg.logLost (wordOf (min 0xFFFFFFFF (rdF p m Reg.logLost 31 0 + n)))

/-- PAGE and CODE of an entry, as its place among the entries of one cycle (R469). -/
def entryKey (e : LogEntry) : Nat := 2 ^ 16 * bitsOf e 135 128 + bitsOf e 127 112

/-- An entry's place in the input buffer: after every entry of an earlier cycle, among those of its own cycle in
ascending PAGE and CODE (R469). -/
def insertEntry (x : Nat × LogEntry) : List (Nat × LogEntry) → List (Nat × LogEntry)
  | [] => [x]
  | y :: r => if y.1 = x.1 ∧ entryKey x.2 < entryKey y.2 then x :: y :: r else y :: insertEntry x r

/-- An entry enters the 16-entry input buffer; the one that finds it full is lost (R469). -/
def pushEntry (p : Part) (m : Mach) (e : LogEntry) : Mach :=
  let buf := insertEntry (m.tick.cycle, e) m.log.buf
  loseEntries p { m with log := { m.log with buf := buf.take 16 } } (buf.length - 16)

/-- The log takes one entry: written to slot HEAD mod 2,048, or lost while FREEZE is 1, or while
STOP_FULL is 1 and HEAD − TAIL is 2,048 (R467, R469). -/
def takeEntry (p : Part) (m : Mach) (e : LogEntry) : Mach :=
  let head := rdF p m Reg.logHead 31 0
  let tail := rdF p m Reg.logTail 31 0
  let full := rdB p m Reg.logCtrl 1 && decide ((head + 2 ^ 32 - tail) % 2 ^ 32 = 2048)
  if rdB p m Reg.logCtrl 0 || full then loseEntries p m 1
  else
    let m := { m with log := { m.log with slots := Assoc.set m.log.slots (head % 2048) e } }
    wr p m Reg.logHead (wordOf ((head + 1) % 2 ^ 32))

/-- The whole input buffer goes to the log, oldest first. -/
def flushEntries (p : Part) (m : Mach) : Mach :=
  (m.log.buf.map fun x => x.2).foldl (takeEntry p) { m with log := { m.log with buf := [] } }

/-- ERR_CAP0 to ERR_CAP3 of the page take the entry, and ERR_SUM is set (R466, R529). -/
def captureEntry (p : Part) (m : Mach) (page : Nat) (e : LogEntry) : Mach :=
  let m := wrAll p m ((List.range 4).map fun k =>
    (Reg.errCap0 page + 8 * k, wordOf (bitsOf e (64 * k + 63) (64 * k))))
  orReg p m (Reg.pageStat page) 8

/-- An event is reported: counted by class (R452), captured when TRANSIENT or higher (R466), and
entered in the log (a CORRECTED one only while CORR_EN is 1). -/
def report (p : Part) (m : Mach) (r : Report) : Mach :=
  let e := entryOf p m r
  let m := match r.sev with
    | .corrected => bump p m (Reg.cntCorr r.page) 1
    | .transient => orReg p (bump p m (Reg.cntTrans r.page) 1) Reg.glbFaultStat 1
    | .permanent => orReg p m Reg.glbFaultStat 2
    | _ => m
  let m := if r.sev.code ≥ 2 then captureEntry p m r.page e else m
  if r.sev = .corrected ∧ rdB p m Reg.logCtrl 2 = false then m else pushEntry p m e

/-- A teardown's entry: captured and logged, but no class of its own (R452, R425). -/
def reportOnly (p : Part) (m : Mach) (r : Report) : Mach :=
  let e := entryOf p m r
  pushEntry p (captureEntry p m r.page e) e

/-- PAGE_STAT.LAST_STATUS of a page (R529). -/
def setLastStatus (p : Part) (m : Mach) (page st : Nat) : Mach := wrF p m (Reg.pageStat page) 15 8 st

/-! ### Memories -/

/-- One byte of a memory; an unlisted byte reads 0. -/
def byteAt (mem : List Host.Cell) (a : Nat) : Byte := Sparse.get (fun _ => 0) mem a

/-- One byte written, canonical form kept. -/
def putByte (mem : List Host.Cell) (a : Nat) (b : Byte) : List Host.Cell :=
  Sparse.set (fun _ => (0 : Byte)) mem a b

/-- The canonical form of a memory: addresses strictly rising, no listed byte 0. -/
def Memory.wf (mem : List Host.Cell) : Bool := Sparse.wf (fun _ => (0 : Byte)) mem

/-- n bytes from an address up. -/
def readBytes (mem : List Host.Cell) (a : Nat) : Nat → List Byte
  | 0 => []
  | n + 1 => byteAt mem a :: readBytes mem (a + 1) n

/-- Bytes written from an address up. -/
def writeBytes (mem : List Host.Cell) (a : Nat) : List Byte → List Host.Cell
  | [] => mem
  | b :: r => writeBytes (putByte mem a b) (a + 1) r

/-- The bytes of an address range made zero. -/
def clearBytes (mem : List Host.Cell) (lo n : Nat) : List Host.Cell :=
  mem.filter fun c => decide (c.1 < lo) || decide (lo + n ≤ c.1)

/-- A 64-byte line of a byte list. -/
def lineOf (bs : List Byte) : Line := BitVec.ofNat 512 (leNat (bs.take 64))

/-- The 64 bytes of a line. -/
def lineBytes (l : Line) : List Byte := leBytes 64 l.toNat

/-- Bytes of host memory as the engine sees them. -/
def hostBytes (m : Mach) (a n : Nat) : List Byte := readBytes m.mem.host a n

/-- A 64-byte line of host memory. -/
def hostLine (m : Mach) (a : Nat) : Line := lineOf (hostBytes m a 64)

/-- Bytes put into the engine's view of host memory. -/
def putHost (m : Mach) (a : Nat) (bs : List Byte) : Mach :=
  { m with mem := { m.mem with host := writeBytes m.mem.host a bs } }

/-- Lines lo to hi - 1 of the kiln are written whole, which clears an error of theirs (R222). -/
def wholeLines (m : Mach) (lo hi : Nat) : Mach :=
  { m with run := { m.run with kilnSt := { m.run.kilnSt with
    badLines := m.run.kilnSt.badLines.filter fun l => !(decide (lo ≤ l) && decide (l < hi)) } } }

/-- Bytes that the kiln holds at a byte address, 64 times the logical line (R214). -/
def pokeKiln (m : Mach) (a : Nat) (bs : List Byte) : Mach :=
  { m with mem := { m.mem with kiln := writeBytes m.mem.kiln a bs } }

/-- Bytes written into the kiln; the lines they fill are written whole. -/
def putKiln (m : Mach) (a : Nat) (bs : List Byte) : Mach :=
  wholeLines (pokeKiln m a bs) ((a + 63) / 64) ((a + bs.length) / 64)

/-! ### Memory port transactions (R459, R545) -/

/-- The memory port of a number. -/
def memPortOf (m : Mach) (i : Nat) : MemPort := Assoc.get {} m.mem.ports i

/-- The ports that can take a transaction: not retired, not quiescing (R460, R528). -/
def usablePorts (p : Part) (m : Mach) : List Nat :=
  (List.range (memPortCount p.conf)).filter fun i =>
    !(memPortOf m i).retired && !(memPortOf m i).quiesce

/-- The first of a list above `last` in cyclic order (round robin). -/
def nextAfter (l : List Nat) (last : Nat) : Option Nat :=
  match l.find? fun i => decide (last < i) with
  | some i => some i
  | none => l.head?

/-- A memory port replaced. -/
def setMemPort (m : Mach) (i : Nat) (x : MemPort) : Mach :=
  { m with mem := { m.mem with ports := Assoc.set m.mem.ports i x } }

/-- The tags in use on a port: those of its transactions, and those of responses still to end (R545). -/
def tagsOf (m : Mach) (i : Nat) : List Nat :=
  ((m.mem.txns.filter fun t => t.port == i).map fun t => t.tag) ++ (memPortOf m i).stale.map fun q => q.1

/-- Requests outstanding on a port. -/
def portLoad (m : Mach) (i : Nat) : Nat := (tagsOf m i).length

/-- The lowest tag of a port that is not in use. -/
def freeTag (m : Mach) (i : Nat) : Nat := ((List.range 256).find? fun g => !(tagsOf m i).contains g).getD 0

/-- Beats of 128 bytes that a range touches (R544, R545). -/
def beatsOf (a n : Nat) : Nat := max 1 ((a % 128 + n + 127) / 128)

/-- Beats of a transaction's response: its data's for a read, one for a write. -/
def respBeats (t : Txn) : Nat := if t.write then 1 else beatsOf t.addr t.len

/-- A write data beat: the bytes of the range that lie in the block of 128 at `base`, and their enables. -/
def dataBeat (a : Nat) (bs : List Byte) (base : Nat) : BitVec 1024 × BitVec 128 :=
  let lo := max base a
  let hi := min (base + 128) (a + bs.length)
  (BitVec.ofNat 1024 (leNat ((bs.drop (lo - a)).take (hi - lo)) <<< (8 * (lo - base))),
   BitVec.ofNat 128 ((2 ^ (hi - lo) - 1) <<< (lo - base)))

/-- What a port puts out for a transaction: the request, and a write's data beats (R545). -/
def requestOuts (t : Txn) : List Output :=
  let n := beatsOf t.addr t.len
  .memReq t.port t.write (t.addr / 128 * 128) (n % 32) t.tag :: if t.write then
    (List.range n).map fun k => let b := dataBeat t.addr t.data (t.addr / 128 * 128 + 128 * k)
                                .memData t.port b.1 b.2 (k + 1 == n)
  else []

/-- A transaction on a strided path is counted (R264, R265). -/
def countStrided (p : Part) (m : Mach) (c : Option Nat) : Mach := match c with
  | some c => bump p m (Reg.ctxXfStrided c) 1
  | none => m

/-- A transaction is put on the next usable port in round-robin order with a tag of its own (R264, R459), or waits
where there is none or the port holds its 256 (R545); one on a strided path is counted when it is first issued. -/
def issueTxn (p : Part) (m : Mach) (t : Txn) : Mach :=
  match nextAfter ((usablePorts p m).filter fun i => decide (portLoad m i < 256)) m.mem.rr with
  | some i =>
    let m := countStrided p m t.strided
    let t := { t with port := i, tag := freeTag m i, since := m.tick.time, strided := none }
    { m with mem := { m.mem with txns := m.mem.txns ++ [t], rr := i }, out := m.out ++ requestOuts t }
  | none => { m with mem := { m.mem with waiting := m.mem.waiting ++ [t] } }

/-- A port's tags where a transaction in flight is forgotten: its tag stays in use for the beats of its response still
to come. -/
def orphanAt (ports : Assoc MemPort) (t : Txn) : Assoc MemPort :=
  let x := Assoc.get {} ports t.port
  if x.retired || decide (respBeats t ≤ t.got) then ports
  else Assoc.set ports t.port { x with stale := Assoc.set x.stale t.tag (respBeats t - t.got) }

/-- A transaction in flight is forgotten. -/
def orphan (m : Mach) (t : Txn) : Mach := { m with mem := { m.mem with ports := orphanAt m.mem.ports t } }

/-- A context's share credit. -/
def creditOf (p : Part) (m : Mach) (c : Nat) : Int := signed 64 (rd p m (Reg.ctxCredit c)).toNat

/-- The context whose command a transaction carries data for. -/
def cmdCtx (m : Mach) (t : Txn) : Option Nat := match t.use with
  | .cmdRead acc | .cmdWrite acc =>
    ((m.cmd.running.find? fun r => r.acc == acc).map fun r => r.win).filter fun w => decide (w < 8)
  | _ => none

/-- One context goes before another (R406): more CREDIT, ties to the lower number. -/
def creditBefore (p : Part) (m : Mach) (c d : Nat) : Bool :=
  decide (creditOf p m d < creditOf p m c) || (creditOf p m c == creditOf p m d && decide (c < d))

/-- The transaction that takes the turn of the first that waits: the first itself, or, where that is a command's, the
oldest of the context that R406 puts first. -/
def turnOf (p : Part) (m : Mach) : List Txn → Option Txn
  | [] => none
  | t :: rest => match cmdCtx m t with
    | none => some t
    | some _ => some (rest.foldl (fun best u => match cmdCtx m u, cmdCtx m best with
        | some c, some d => if creditBefore p m c d then u else best
        | _, _ => best) t)

/-- `n` transactions that waited for a port are issued, or wait again. -/
def issueTurns (p : Part) : Nat → List Txn → Mach → Mach
  | 0, _, m => m
  | n + 1, ts, m => match turnOf p m ts with
    | some t => issueTurns p n (ts.erase t) (issueTxn p m t)
    | none => m

/-- Transactions that waited for a port are issued while there is room; those of commands in the order of R406. -/
def issueWaiting (p : Part) (m : Mach) : Mach :=
  issueTurns p m.mem.waiting.length m.mem.waiting { m with mem := { m.mem with waiting := [] } }

/-- The pieces of a range that no 4 KiB boundary divides (R545); `fuel` bounds their number. -/
def pieces : Nat → Nat → Nat → List (Nat × Nat)
  | 0, _, _ => []
  | _ + 1, _, 0 => []
  | f + 1, a, n =>
    let k := min n (4096 - a % 4096)
    (a, k) :: pieces f (a + k) (n - k)

/-- Reads of a range of host memory start: one transaction a piece. -/
def startReads (p : Part) (m : Mach) (a n : Nat) (use : TxnUse) (strided : Option Nat := none) : Mach :=
  (pieces (n / 4096 + 2) a n).foldl (fun m q =>
    issueTxn p { m with mem := { m.mem with nextTxn := m.mem.nextTxn + 1 } }
      { id := m.mem.nextTxn, port := 0, write := false, addr := q.1, len := q.2, strided := strided, use := use }) m

/-- A write to host memory: the engine's view takes the bytes, and one transaction a piece carries
them out. -/
def startWrites (p : Part) (m : Mach) (a : Nat) (bs : List Byte) (use : TxnUse) (strided : Option Nat := none) : Mach :=
  (pieces (bs.length / 4096 + 2) a bs.length).foldl (fun m q =>
    issueTxn p { m with mem := { m.mem with nextTxn := m.mem.nextTxn + 1 } }
      { id := m.mem.nextTxn, port := 0, write := true, addr := q.1, len := q.2,
        data := (bs.drop (q.1 - a)).take q.2, strided := strided, use := use }) (putHost m a bs)

/-- Transactions of one use are in flight or waiting. -/
def txnsOut (m : Mach) (use : TxnUse) : Bool :=
  m.mem.txns.any (fun t => t.use == use) || m.mem.waiting.any (fun t => t.use == use)

/-- Transactions of a use that a test picks are outstanding. -/
def txnsOutOf (m : Mach) (pick : TxnUse → Bool) : Bool :=
  m.mem.txns.any (fun t => pick t.use) || m.mem.waiting.any (fun t => pick t.use)

/-- Transactions of one use are dropped (their command is gone). -/
def dropTxns (m : Mach) (keep : TxnUse → Bool) : Mach :=
  { m with mem := { m.mem with txns := m.mem.txns.filter fun t => keep t.use,
                               waiting := m.mem.waiting.filter fun t => keep t.use,
                               ports := (m.mem.txns.filter fun t => !keep t.use).foldl orphanAt m.mem.ports } }

/-- The transfer window registers of a context, base and length by turns (R243). -/
def xfWins (p : Part) (m : Mach) (c : Nat) : List Word :=
  (List.range 4).flatMap fun k => [rd p m (Reg.ctxXfWinBase c k), rd p m (Reg.ctxXfWinLen c k)]

/-! ### Event counters (R386) -/

/-- The largest value of an event counter. -/
def evtMax : Nat := 0x0FFFFFFF

/-- An event counter. -/
def evtOf (m : Mach) (e : Nat) : Nat := Sparse.get (fun _ => 0) m.cmd.events e

/-- An event counter set. -/
def setEvtCnt (m : Mach) (e v : Nat) : Mach :=
  { m with cmd := { m.cmd with events := Sparse.set (fun _ => 0) m.cmd.events e v } }

/-- An event counter raised, saturating. -/
def addEvt (m : Mach) (e n : Nat) : Mach := setEvtCnt m e (min evtMax (evtOf m e + n))

/-- The window may name the counter: any from CMD, those of EVT_RANGE from a context (R386). -/
def evtInRange (p : Part) (m : Mach) (w e : Nat) : Bool :=
  w == 8 || (decide (rdF p m (Reg.ctxEvtRange w) 11 0 ≤ e) &&
    decide (e < rdF p m (Reg.ctxEvtRange w) 11 0 + rdF p m (Reg.ctxEvtRange w) 28 16))

/-! ### Completions (R385, R395, R529) -/

/-- The hold of a ring: records that wait to be written (R395). -/
def holdOf (m : Mach) (r : Nat) : List Completion := Assoc.get [] m.cmd.holds r

/-- The hold of a ring replaced. -/
def setHold (m : Mach) (r : Nat) (h : List Completion) : Mach :=
  { m with cmd := { m.cmd with holds := Assoc.set m.cmd.holds r h } }

/-- A record enters the hold of its window's ring. -/
def pushHold (m : Mach) (w : Nat) (c : Completion) : Mach := setHold m w (holdOf m w ++ [c])

/-- Commands of one queue that run. -/
def runningOf (m : Mach) (w : Nat) : List Running := m.cmd.running.filter fun r => r.win == w

/-- The running command of a window with a host sequence number. -/
def findRunning (m : Mach) (w seq : Nat) : Option Running :=
  m.cmd.running.find? fun r => r.win == w && r.hseq == seq

/-- The running command of an acceptance number. -/
def findAcc (m : Mach) (acc : Nat) : Option Running := m.cmd.running.find? fun r => r.acc == acc

/-- A running command replaced. -/
def setRunning (m : Mach) (r : Running) : Mach :=
  { m with cmd := { m.cmd with running := m.cmd.running.map fun x => if x.acc = r.acc then r else x } }

/-- A command is no longer running; its transactions are dropped. -/
def dropRunning (m : Mach) (acc : Nat) : Mach :=
  dropTxns { m with cmd := { m.cmd with running := m.cmd.running.filter fun x => x.acc ≠ acc } }
    fun u => !(u == .cmdRead acc || u == .cmdWrite acc)

/-- The statuses R385 signals on without SIG_ALWAYS. -/
def statusGood (st : Nat) : Bool := st == 0 || st == 1

/-- The signal of a completing command (R385). -/
def signalOf (m : Mach) (l : Line) (st : Nat) : Mach :=
  if recFlag l 2 && (recFlag l 3 || statusGood st) then addEvt m (recSigEvt l) 1 else m

/-- A command of a window completes with a status: its signal, then its record (R385, R392). -/
def completeLine (m : Mach) (w : Nat) (l : Line) (hseq st detail : Nat) (step : Option Nat := none)
    (att : Nat := 0) (nan : Bool := false) : Mach :=
  pushHold (signalOf m l st) w
    { hseq := hseq, opcode := recOp l, status := st, nanScore := nan, step := step, attempt := att,
      detail := detail, irq := recFlag l 4 }

/-- A running command completes (R384, R385). -/
def complete (m : Mach) (r : Running) (st : Nat) (detail : Nat := 0) : Mach :=
  completeLine (dropRunning m r.acc) r.win r.line r.hseq st detail

/-- A STEP_RUN or LAYER_RUN completes with the step and attempt run (R392). -/
def completeStep (m : Mach) (r : Running) (st detail step att : Nat) (nan : Bool) : Mach :=
  completeLine (dropRunning m r.acc) r.win r.line r.hseq st detail (some step) att nan

/-! ### Status codes (R397) -/

def stDone : Nat := 0x00
def stSkips : Nat := 0x01
def stFlushed : Nat := 0x02
def stKilled : Nat := 0x03
def stAbortedRemote : Nat := 0x04
def stAlign : Nat := 0x10
def stIndexRange : Nat := 0x11
def stCollision : Nat := 0x12
def stRegionKey : Nat := 0x13
def stRegionBounds : Nat := 0x14
def stQuota : Nat := 0x15
def stFormat : Nat := 0x16
def stCordOver : Nat := 0x17
def stTable : Nat := 0x18
def stSeqGap : Nat := 0x19
def stUnreachable : Nat := 0x20
def stTimeout : Nat := 0x21
def stUnknown : Nat := 0x22
def stCheck : Nat := 0x23
def stGroup : Nat := 0x24
def stLockout : Nat := 0x25
def stUncorrectable : Nat := 0x30
def stChannelRetired : Nat := 0x31
def stInternal : Nat := 0x3F

/-! ### Free values -/

/-- A fresh free value, and the machine with its counter advanced. -/
def drawFree (m : Mach) : Word × Mach := (Config.freeValue m.free, { m with free := m.free + 1 })

/-! ### Kiln groups (R216 to R224) -/

/-- What a logical kiln group holds (R216, R218). -/
inductive GroupUse where
  | partition | program | system | transit | reduction | none
  deriving DecidableEq, Repr

/-- Physical groups; the last is the spare (R218). -/
def groupCount : Conf → Nat
  | .ihlan12 => 12 | .ihlan24 => 24 | .ihlan36 => 32

/-- The first program store group and the first system group of an endpoint (R216, R218). -/
def groupStarts : Conf → Nat × Nat
  | .ihlan12 => (8, 9) | .ihlan24 => (16, 20) | .ihlan36 => (24, 28)

/-- The use of a logical group. -/
def groupUse (p : Part) (g : Nat) : GroupUse :=
  let n := groupCount p.conf
  if n ≤ g + 1 then .none
  else if p.relay then
    if g = n - 2 then .system else if n ≤ g + 6 then .reduction else .transit
  else
    let (a, b) := groupStarts p.conf
    if g < a then .partition else if g < b then .program else .system

/-- A logical group is being copied into the spare: accesses to it wait (R223). -/
def groupMoves (m : Mach) (g : Nat) : Bool := m.run.kilnSt.copying.isSome && m.run.kilnSt.served == some g

/-- A group with a use is being copied into the spare. -/
def useMoves (p : Part) (m : Mach) (uses : List GroupUse) : Bool :=
  (List.range (groupCount p.conf)).any fun g => groupMoves m g && uses.contains (groupUse p g)

/-- A group of the context's partition is being copied into the spare. -/
def groupCopies (m : Mach) (c : Nat) : Bool := (ctxOf m c).groups.any (groupMoves m)

/-- The queue store, the reply cache or another item of the system region is being copied. -/
def systemCopies (p : Part) (m : Mach) : Bool := useMoves p m [.system]

/-- The transit pool or the transit buffers are being copied. -/
def transitCopies (p : Part) (m : Mach) : Bool := useMoves p m [if p.relay then .transit else .system]

/-- Each bit 64k is the sum modulo 2 of the 64 bits from it upward. -/
def foldParity (v : BitVec 4160) : BitVec 4160 := [32, 16, 8, 4, 2, 1].foldl (fun x s => x ^^^ (x >>> s)) v

/-- The 65 parity bits of a stream beat: of each 64 data bits in order, then of the sideband word (R544). -/
def beatParity (side : Word) (data : BitVec 4096) : BitVec 65 :=
  let v := foldParity (side ++ data)
  BitVec.ofNat 65 ((List.range 65).foldl (fun n k => n + (if v.getLsbD (64 * k) then 2 ^ k else 0)) 0)

end Sys2Proof.Machine
end

