-- ==== Sys2Proof/Machine/FuseWords.lean ====
section
/-! DEFINITION. The fuse words: their layout and parity (R552), what the fuse load phase reads from them (R473, R479,
R503, R515), and the blowing of bits (R474 to R477, R550). -/

namespace Sys2Proof.Machine

/-! ### Words and bits -/

/-- A fuse word as the fuse load phase reads it. -/
def fuseWord (p : Part) (w : Nat) : BitVec 32 := Assoc.get (0 : BitVec 32) p.fuses w

/-- Bits [hi:lo] of a fuse word. -/
def fuseBits (w : BitVec 32) (hi lo : Nat) : Nat := w.toNat >>> lo % 2 ^ (hi + 1 - lo)

/-- Bits of a word are blown: a blown bit never reads as unblown again (R550). -/
def blow (p : Part) (w : Nat) (bits : Nat) : Part :=
  if bits = 0 then p else { p with fuses := Assoc.set p.fuses w (fuseWord p w ||| BitVec.ofNat 32 bits) }

/-- Even parity over n bits of v with a parity bit fails. -/
def oddParity (v n : Nat) (parity : Bool) : Bool := (popCount v n + if parity then 1 else 0) % 2 == 1

/-! ### Life cycle and identity key (words 0 to 9) -/

/-- LC_FUSE: a bit is blown where either copy is (R473). -/
def lcFuse (p : Part) : Nat := fuseBits (fuseWord p 0) 4 0 ||| fuseBits (fuseWord p 0) 12 8

/-- KEY_KILL and KEY_FUSED, either copy. -/
def keyKilled (p : Part) : Bool := (fuseWord p 0).getLsbD 16 || (fuseWord p 0).getLsbD 17
def keyFused (p : Part) : Bool := (fuseWord p 0).getLsbD 20 || (fuseWord p 0).getLsbD 21

/-- The identity key of words 1 to 8. -/
def fuseKey (p : Part) : Nat := ((List.range 8).map fun w => at_ (32 * w) (fuseWord p (1 + w)).toNat).sum

/-- The key's bytes against word 9, whose bit b is the parity of byte b (R479). -/
def keyParityBad (p : Part) : Bool :=
  (List.range 32).any fun b => oddParity (fuseKey p >>> (8 * b) % 2 ^ 8) 8 ((fuseWord p 9).getLsbD b)

/-- Word 0's bits of a life-cycle state: its bit in both copies, and KEY_KILL with RETURN and SCRAPPED (R474, R475). -/
def lcBits (t : Nat) : Nat := 2 ^ (t - 1) + 2 ^ (t + 7) + if 4 ≤ t then 2 ^ 16 + 2 ^ 17 else 0

/-- A key's parity word. -/
def keyParity (key : Nat) : Nat :=
  ((List.range 32).map fun b => if oddParity (key >>> (8 * b) % 2 ^ 8) 8 false then 2 ^ b else 0).sum

/-- A key is burned with its parity, and KEY_FUSED (R477). -/
def burnKey (p : Part) (key : Nat) : Part :=
  let p := (List.range 8).foldl (fun p w => blow p (1 + w) (key >>> (32 * w) % 2 ^ 32)) p
  blow (blow p 9 (keyParity key)) 0 (2 ^ 20 + 2 ^ 21)

/-! ### Calibration items (words 16 to 61) and repair data (words 64 to 127) -/

/-- The item numbers of FUSE_STAT: links 0 to 35, sensors, the rate trim, droop monitors. -/
def itemLink (l : Nat) : Nat := l
def itemTemp (s : Nat) : Nat := 36 + s
def itemRate : Nat := 40
def itemDroop (d : Nat) : Nat := 41 + d

/-- The data bits of an item (R513, R521). -/
def factoryBits (item : Nat) : Nat :=
  if item < 36 then 16 else if item < 40 then 12 else if item = itemRate then 32 else 10

/-- The fuse word of an item. -/
def itemWord (item : Nat) : Nat := if item ≤ itemRate then 16 + item else 58 + (item - 41)

/-- The data of an item. -/
def itemData (p : Part) (item : Nat) : Nat := fuseBits (fuseWord p (itemWord item)) (factoryBits item - 1) 0

/-- The parity of an item: bit 31 of its word, for the rate trim bit 0 of word 57. -/
def itemParity (p : Part) (item : Nat) : Bool :=
  if item = itemRate then (fuseWord p 57).getLsbD 0 else (fuseWord p (itemWord item)).getLsbD 31

/-- The item of a link that the configuration lacks: it is ignored (R552). -/
def itemAbsent (p : Part) (item : Nat) : Bool := decide (item < 36) && decide (linkCount p.conf ≤ item)

/-- An item's parity fails (R515). -/
def itemBad (p : Part) (item : Nat) : Bool :=
  !itemAbsent p item && oddParity (itemData p item) (factoryBits item) (itemParity p item)

/-- CALF.FUSE_STAT: the items whose parity fails. -/
def fuseStat (p : Part) : Nat := ((List.range 45).map fun i => if itemBad p i then 2 ^ i else 0).sum

/-- The factory word F of an item, 0 where its parity fails (R515) or no link has it. -/
def factoryWord (p : Part) (item : Nat) : Nat := if itemAbsent p item || itemBad p item then 0 else itemData p item

/-- Repair data: words whose format is internal to the engine. -/
def repairData (p : Part) : List (BitVec 32) := (List.range 64).map fun i => fuseWord p (64 + i)

end Sys2Proof.Machine
end

