-- ==== Sys2Proof/Machine/Calib.lean ====
section
/-! DEFINITION. Calibration (R513 to R515): the factory value of an item, its user offset, and the
effective value that the engine uses. -/

namespace Sys2Proof.Machine

/-- The factory value F of an item (R513). -/
def factory (p : Part) (item : Nat) : Int :=
  let w := factoryWord p item
  if item < 36 then (w : Int)
  else if item < 40 then signed 12 w
  else if item = itemRate then signed 32 w
  else (w : Int)

/-- Clamped to a range. -/
def clampInt (lo hi x : Int) : Int := max lo (min hi x)

/-- The user offset U of an item, signed (R513). -/
def userOffset (p : Part) (m : Mach) (item : Nat) : Int :=
  if item < 36 then signed 24 (rdF p m (Reg.caluLinkDly item) 23 0)
  else if item < 40 then signed 12 (rdF p m (Reg.caluTempOfs (item - 36)) 11 0)
  else if item = itemRate then signed 32 (rdF p m Reg.caluRateTrim 31 0)
  else signed 11 (rdF p m (Reg.caluDroopThr (item - 41)) 10 0)

/-- The effective value E of an item (R513). -/
def effective (p : Part) (m : Mach) (item : Nat) : Int :=
  let x := factory p item + userOffset p m item
  if item < 36 then clampInt 0 16777215 x
  else if item < 40 then clampInt (-2048) 2047 x
  else if item = itemRate then clampInt (-100000) 100000 x
  else clampInt 0 1023 x

/-- The tick path delay of a link, in 10 ps units (R434, R444). -/
def linkDelay (p : Part) (m : Mach) (l : Nat) : Int := effective p m (itemLink l)

/-- The engine-time rate trim in ppb (R431). -/
def rateTrim (p : Part) (m : Mach) : Int := effective p m itemRate

/-- A CALU register as it reads: EFF in place above USER (R521). -/
def caluReg (p : Part) (m : Mach) (item user : Nat) : Word :=
  let bits := if item < 36 then 24 else if item < 40 then 12 else if item = itemRate then 32 else 10
  wordOf (at_ 32 (toPattern bits (effective p m item)) + user)

end Sys2Proof.Machine
end

