-- ==== Sys2Proof/Machine/Access.lean ====
section
/-! DEFINITION. Who may write a register, and what becomes of a write that reaches nothing (R494,
R504, R523 to R525, R532, R534, R538). -/

namespace Sys2Proof.Machine

/-- The SRC code of GLB.ACC_ERR. -/
def srcCode : Src → Nat
  | .host => 0 | .ieee1500 => 1 | .mgmt => 2

/-- A refused write is recorded: ACC_ERR, and BAD_ACCESS for a partial write (KIND 1) or
WRITE_IGNORED for the others (R532, R534). -/
def accErr (p : Part) (m : Mach) (src : Src) (addr kind : Nat) : Mach :=
  setEvt p (wr p m Reg.glbAccErr
    (wordOf (kind * 2 ^ 56 + srcCode src * 2 ^ 20 + addr % 2 ^ 20)))
    Reg.glbPage (if kind = 1 then 0 else 1)

/-- What a register write meets before any rule of the register itself. -/
inductive Gate where
  /-- it reaches the register -/
  | pass
  /-- nothing takes it: the engine is held in reset or off, or only the PWR page has power (R476, R491) -/
  | closed
  /-- ignored and recorded with this KIND (R532) -/
  | refuse (kind : Nat)
  deriving DecidableEq, Repr

/-- The register port is up: a reset sequence has completed, the part is not held in reset. -/
def portUp (m : Mach) : Bool := m.sec.booted && !m.sec.held && decide (m.sec.power ≠ .off)

/-- The gate of a write from `src` to `addr`. A write that R494 or R504 has the engine ignore, in Banked or before
DONE, is recorded as R532 says. -/
def writeGate (p : Part) (m : Mach) (src : Src) (addr : Nat) : Gate :=
  let page := addrPage addr
  let (k, i) := pageKind p.conf page
  if m.sec.held ∨ m.sec.power = .off ∨ (m.sec.power = .cold ∧ k ≠ .pwr) then .closed
  else if m.sec.booted = false ∨ (m.sec.power = .banked ∧ k ≠ .pwr) then .refuse 2
  else if src = .ieee1500 ∧ m.sec.debug < 2 then .refuse 2
  else if pageInactive p.relay k i && (decide (addrOff addr ≥ 0x100) || !hasHeader k) then .refuse 3
  else if k = .regionWin then .pass
  else match regRow k (addrOff addr) with
    | none => .refuse 3
    | some r => if r.writable then .pass else .refuse 3

/-- A register's own effect behind the gate. -/
def gated (p : Part) (m : Mach) (src : Src) (addr : Nat) (f : Mach → Mach) : Mach :=
  match writeGate p m src addr with
  | .pass => f m
  | .closed => m
  | .refuse k => accErr p m src addr k

/-- A write ignored by a rule of its register (R532, KIND 0x02). -/
def ignored (p : Part) (m : Mach) (src : Src) (addr : Nat) : Mach := accErr p m src addr 2

/-- The one response of the register target port to an access of the host: to a read the doubleword read, to a
write, an ignored one too, a response whose data the manual does not state (R547). Held in reset nothing answers
(R476). `before` is the machine that the access met. -/
def responded (before : Mach) (src : Src) (data : Option Word) (m : Mach) : Mach :=
  if src = .host ∧ before.sec.held = false ∧ before.sec.power ≠ .off then { m with out := m.out ++ [.response data] }
  else m

/-- The core runs: Lit, not held in reset, below SCAN, where every engine function is stopped (R476, R487). -/
def coreRuns (m : Mach) : Bool := decide (m.sec.power = .lit) && !m.sec.held && decide (m.sec.debug < 3)

/-- The links run: the core does, and a reset sequence has completed (R504). -/
def linksUp (m : Mach) : Bool := m.sec.booted && coreRuns m

/-- The engine runs work: its core runs, a reset sequence has completed, no zeroisation is under way and no change of
the power state has been taken (R487, R489, R493, R499). -/
def engineUp (m : Mach) : Bool := linksUp m && m.sec.zeroing.isNone && m.sec.pcReq == m.sec.pcAck

/-- The sequencer and the command engine go on: no debugger has halted them, or it lets them do one step (R487). -/
def mayStep (m : Mach) : Bool := !m.sec.halted || m.sec.stepOnce

/-- The one step is done. -/
def stepped (m : Mach) : Mach := { m with sec := { m.sec with stepOnce := false } }

end Sys2Proof.Machine
end

