-- ==== Sys2Proof/Machine/Commands.lean ====
section
/-! DEFINITION. Command windows, queues, checks, starts, completions, events and semaphores: the
chapter *Commands and completions* and the queue rules of *Kiln, buffer pools and priority queues*. -/

namespace Sys2Proof.Machine

/-! ### Payloads (R388) -/

/-- How a payload field is checked. -/
inductive PayUse where
  | plain
  | range (lo hi : Nat)
  | addr (align : Nat)
  | event
  | mult64
  deriving DecidableEq, Repr

/-- A payload field: its first and last record byte, its bits, its check. -/
structure PayField where
  lo : Nat
  hi : Nat
  mask : Nat
  use : PayUse := .plain
  deriving DecidableEq, Repr

/-- The address bits of a payload address (R381). -/
def addrBits : Nat := 2 ^ 42 - 1

/-- An image, list or descriptor address at byte b. -/
def payAddr (b : Nat) : PayField := ⟨b, b + 7, addrBits, .addr 64⟩

/-- The STEP and ATTEMPT fields. -/
def payStep : List PayField := [⟨16, 21, 2 ^ 48 - 1, .plain⟩, ⟨22, 22, 0xF, .plain⟩]

/-- The fields of SUBSCRIBE and PUBLISH_INVAL but CANCEL. -/
def paySub : List PayField :=
  [⟨16, 17, 0xFFF, .plain⟩, ⟨18, 19, 0xFFFF, .plain⟩, ⟨24, 31, 2 ^ 64 - 1, .plain⟩,
   ⟨32, 37, addrBits, .plain⟩, ⟨40, 43, 2 ^ 32 - 1, .plain⟩]

/-- The payload of an opcode, none where the opcode is not defined (R388). -/
def payload (op : Nat) : Option (List PayField) :=
  match op with
  | 0x01 => some payStep
  | 0x02 => some (payStep ++ [⟨24, 25, 0x3FF, .plain⟩])
  | 0x10 | 0x11 | 0x12 | 0x13 | 0x14 | 0x15 | 0x30 | 0x31 | 0x32 => some [payAddr 16]
  | 0x20 => some [payAddr 16, ⟨24, 31, addrBits, .plain⟩, ⟨32, 35, 2 ^ 32 - 1, .range 1 65536⟩]
  | 0x21 => some [⟨16, 17, 0x8FFF, .plain⟩]
  | 0x22 => some (paySub ++ [⟨20, 20, 1, .plain⟩])
  | 0x23 => some paySub
  | 0x24 | 0x25 => some [⟨16, 17, 0xFFF, .plain⟩, ⟨18, 19, 0xFFFF, .plain⟩,
      ⟨24, 31, 2 ^ 64 - 1, .plain⟩]
  | 0x40 => some [⟨16, 16, 0xFF, .plain⟩, payAddr 24, ⟨32, 35, 2 ^ 32 - 1, .mult64⟩]
  | 0x41 => some [payAddr 16, ⟨24, 27, 2 ^ 32 - 1, .range 1 131072⟩,
      ⟨28, 31, 2 ^ 32 - 1, .range 0 16384⟩]
  | 0x42 => some [⟨16, 16, 7, .plain⟩, ⟨18, 19, 0xFFFF, .plain⟩, ⟨20, 21, 0xFFFF, .range 1 1024⟩,
      payAddr 24, payAddr 32]
  | 0x48 => some (payStep ++ [⟨24, 25, 0x3FF, .plain⟩, ⟨26, 27, 0x3FFF, .plain⟩, payAddr 32,
      ⟨40, 41, 0xFFFF, .range 0 4096⟩])
  | 0x50 => some [⟨16, 17, 0xFFF, .event⟩, ⟨18, 18, 0xFF, .range 0 1⟩, ⟨20, 23, 0x0FFFFFFF, .plain⟩]
  | 0x51 => some [⟨16, 17, 0xFFF, .event⟩, ⟨20, 23, 0x0FFFFFFF, .plain⟩]
  | 0x52 | 0x53 => some [⟨16, 17, 0x3FF, .plain⟩, ⟨20, 23, 2 ^ 32 - 1, .range 1 (2 ^ 32 - 1)⟩]
  | 0x60 | 0x61 => some [⟨16, 16, 7, .plain⟩, ⟨24, 31, addrBits, .addr 4096⟩]
  | 0x62 => some [⟨16, 16, 7, .plain⟩]
  | 0x68 => some [⟨16, 16, 0xFF, .range 0 4⟩]
  | 0x70 => some [⟨16, 16, 0xFF, .range 1 2⟩, ⟨17, 17, 0xFF, .plain⟩]
  | 0x71 => some [⟨16, 16, 0xFF, .range 1 1⟩, ⟨24, 31, 2 ^ 36 - 1, .plain⟩,
      ⟨32, 33, 0xFFFF, .range 1 65535⟩]
  | 0x78 => some [payAddr 16]
  | 0x7F => some []
  | _ => none

/-- The bits of the record header that are not reserved (R380). -/
def headerBits : Nat :=
  0xFFFFFFFF + at_ 32 0xFF + at_ 40 0x1F + at_ 48 0xFFF + at_ 64 0x0FFFFFFF + at_ 96 0xFFF

/-- The record bits an opcode names. -/
def namedBits (fs : List PayField) : Nat :=
  fs.foldl (fun a f => a + at_ (8 * f.lo) f.mask) headerBits

/-- A payload field's value. -/
def payVal (l : Line) (f : PayField) : Nat := bytesOf l f.lo f.hi

/-- The window column of R388 with R22 and R58: a system-window opcode, a context one. -/
def windowOk (p : Part) (m : Mach) (w : Nat) (l : Line) : Bool :=
  let op := recOp l
  let kind := bytesOf l 16 16
  if w = 8 then
    (if op = 0x40 then kind == 4
     else [0x50, 0x51, 0x60, 0x61, 0x62, 0x68, 0x70, 0x71, 0x78, 0x7F].contains op) &&
    (!p.relay || [0x40, 0x68, 0x70, 0x71, 0x78, 0x7F].contains op)
  else
    !p.relay &&
    (if op = 0x40 then kind != 4
     else if op = 0x02 then rdB p m (Reg.ctxCtl w) 30
     else !([0x60, 0x61, 0x62, 0x68, 0x70, 0x71, 0x78].contains op))

/-- A field lies in its listed range (R382, check 3). -/
def payRange (l : Line) (f : PayField) : Bool :=
  match f.use with
  | .range lo hi => decide (lo ≤ payVal l f) && decide (payVal l f ≤ hi)
  | .mult64 => payVal l f % 64 == 0
  | _ => true

/-- A field's event counter lies in the window's range (check 4). -/
def payEvent (p : Part) (m : Mach) (w : Nat) (l : Line) (f : PayField) : Bool :=
  match f.use with
  | .event => evtInRange p m w (payVal l f)
  | _ => true

/-- A field's address is aligned (check 5). -/
def payAligned (l : Line) (f : PayField) : Bool :=
  match f.use with
  | .addr n => payVal l f % n == 0
  | _ => true

/-- The checks of R382 in order: the status of the first that fails. -/
def checkRecord (p : Part) (m : Mach) (w : Nat) (l : Line) : Option Nat :=
  match payload (recOp l) with
  | none => some stFormat
  | some fs =>
    if !windowOk p m w l then some stFormat
    else if (l.toNat &&& (2 ^ 512 - 1 - namedBits fs)) ≠ 0 then some stFormat
    else if !(fs.all (payRange l)) then some stFormat
    else if (recFlag l 1 && !evtInRange p m w (bytesOf l 6 7)) ||
        (recFlag l 2 && !evtInRange p m w (bytesOf l 12 13)) ||
        !(fs.all (payEvent p m w l)) then some stFormat
    else if !(fs.all (payAligned l)) then some stAlign
    else none

/-- A record that ends unstarted, as its completion takes it: a counter that its window may not name is not
signalled (R382, R386). -/
def unstarted (p : Part) (m : Mach) (w : Nat) (l : Line) : Line :=
  if evtInRange p m w (recSigEvt l) then l else l &&& BitVec.ofNat 512 (2 ^ 512 - 1 - 2 ^ 42)

/-! ### Queues (R234 to R241, R379) -/

/-- Entries of a head or a tail store. -/
def storeSize : Nat := 1024

/-- Entries of a block, and of a staging block. -/
def blockSize : Nat := 16

/-- Blocks a bog ring holds: LEN_PG pages of 4 KiB, blocks of 1 KiB (R239). -/
def ringCap (p : Part) (m : Mach) (r : Nat) : Nat := 4 * rdF p m (Reg.kilnRing r) 61 32

/-- The ring has room for one more block. -/
def ringRoom (p : Part) (m : Mach) (r : Nat) : Bool :=
  decide ((ringOf m r).blocks.length < ringCap p m r)

/-- The host address of a ring's block place (R239). -/
def ringAddr (p : Part) (m : Mach) (r place : Nat) : Nat :=
  (rd p m Reg.kilnBogBase).toNat + 4096 * rdF p m (Reg.kilnRing r) 29 0 + 1024 * place

/-- A NOP entry that pads a partial block (R241). -/
def padEntry : Entry := { line := BitVec.ofNat 512 (at_ 32 0x7F), win := 0, acc := 0, hseq := 0, kind := .pad }

/-- SPILL_BLK or FILL_BLK of a resident window's queue counts a block (R242). -/
def countBlock (p : Part) (m : Mach) (w : Nat) (reg : Nat → Nat) : Mach :=
  match queueOfWin m w with
  | some q => bump p m (reg q) 1
  | none => m

/-- A block of entries is written to the back of a ring. -/
def spillBlock (p : Part) (m : Mach) (r : Nat) (es : List Entry) : Mach :=
  let ring := ringOf m r
  let place := ring.wr % max 1 (ringCap p m r)
  let full := es ++ List.replicate (blockSize - es.length) padEntry
  let m := setRing m r { ring with blocks := ring.blocks ++ [⟨place, full, false⟩],
                                   wr := (place + 1) % max 1 (ringCap p m r) }
  startWrites p (countBlock p m r Reg.pqSpillBlk) (ringAddr p m r place) (full.flatMap fun e => lineBytes e.line) (.spill r place)

/-- While the middle is empty, tail entries move to the head as it has room (R235). -/
def settleQueue (m : Mach) (q r : Nat) : Mach :=
  if (ringOf m r).blocks.isEmpty then
    let x := pqOf m q
    let k := storeSize - x.head.length
    setPq m q { head := x.head ++ x.tail.take k, tail := x.tail.drop k }
  else m

/-- The queue of a resident window is full (R236). -/
def queueFull (p : Part) (m : Mach) (q r : Nat) : Bool :=
  decide (storeSize ≤ (pqOf m q).tail.length) && !ringRoom p m r

/-- The staging path of a context that is not resident has no room (R379). -/
def stagingFull (p : Part) (m : Mach) (c : Nat) : Bool :=
  decide (blockSize ≤ (ctxOf m c).staging.length) && !ringRoom p m c

/-- A save has written the window's queue out, and its context is still resident (R412). -/
def queueGone (m : Mach) (w : Nat) : Bool := w != 8 && decide (2 ≤ (ctxOf m w).phase ∧ (ctxOf m w).phase ≤ 4)

/-- The queue whose tail the window's records enter: none while they enter the staging block. -/
def tailOfWin (m : Mach) (w : Nat) : Option Nat := if queueGone m w then none else queueOfWin m w

/-- The window's next submission is refused as full. -/
def windowFull (p : Part) (m : Mach) (w : Nat) : Bool :=
  match tailOfWin m w with
  | some q => queueFull p m q w
  | none => stagingFull p m w

/-- A staging block that is full goes to the context's ring where it has room (R379). -/
def drainStaging (p : Part) (m : Mach) (c : Nat) : Mach :=
  let x := ctxOf m c
  if decide (blockSize ≤ x.staging.length) && ringRoom p m c then
    spillBlock p (setCtx m c { x with staging := x.staging.drop blockSize }) c (x.staging.take blockSize)
  else m

/-- A block of 16 tail entries is due to spill. -/
def spillDue (p : Part) (m : Mach) (q w : Nat) : Bool :=
  decide (blockSize ≤ (pqOf m q).tail.length) && ringRoom p m w &&
  (!(ringOf m w).blocks.isEmpty || decide (storeSize ≤ (pqOf m q).head.length))

/-- The oldest 16 tail entries of a queue go to its ring as one block (R235). -/
def spillTail (p : Part) (m : Mach) (q w : Nat) : Mach :=
  let x := pqOf m q
  spillBlock p (setPq m q { x with tail := x.tail.drop blockSize }) w (x.tail.take blockSize)

/-- An entry enters a window's queue: the tail of a resident one, else the staging block. A tail that is full makes room
by a spill that is due. -/
def enterQueue (p : Part) (m : Mach) (w : Nat) (e : Entry) : Mach :=
  match tailOfWin m w with
  | some q =>
    let m := if decide (storeSize ≤ (pqOf m q).tail.length) && spillDue p m q w then spillTail p m q w else m
    let x := pqOf m q
    settleQueue (setPq m q { x with tail := x.tail ++ [e] }) q w
  | none =>
    let m := drainStaging p m w
    let x := ctxOf m w
    drainStaging p (setCtx m w { x with staging := x.staging ++ [e] }) w

/-- Entries go back to the front of a window's queue, in order (R412, R413). -/
def requeueFront (m : Mach) (w : Nat) (es : List Entry) : Mach :=
  match queueOfWin m w with
  | some q => let x := pqOf m q; setPq m q { x with head := es ++ x.head }
  | none => m

/-! ### Windows (R376 to R378, R398, R400) -/

/-- A command window's page: the CMD page for 8. -/
def winPage (w : Nat) : Nat := if w = 8 then Reg.cmdPage else Reg.ctxPage w

/-- The W registers of a window. -/
def winAddr (w k : Nat) : Nat := pg (winPage w) (0x100 + 8 * k)

/-- CMD_SEQ, CMD_STAT and CMD_GAP_CNT of a window. -/
def winSeq (w : Nat) : Nat := pg (winPage w) 0x140
def winStat (w : Nat) : Nat := pg (winPage w) 0x148
def winGap (w : Nat) : Nat := pg (winPage w) 0x150

/-- A staged doubleword of a window is stored (R376). -/
def stageWord (m : Mach) (w k : Nat) (v : Word) : Mach :=
  let x : Window := Assoc.get {} m.cmd.windows w
  { m with cmd := { m.cmd with windows := Assoc.set m.cmd.windows w { staged := Assoc.set x.staged k v } } }

/-- The record a submission makes of the staged doublewords and W7 (R376). -/
def stagedRecord (m : Mach) (w : Nat) (w7 : Word) : Line :=
  let x : Window := Assoc.get {} m.cmd.windows w
  BitVec.ofNat 512 ((List.range 7).foldl
    (fun a k => a + at_ (64 * k) (Assoc.get (0 : Word) x.staged k).toNat) (at_ 448 w7.toNat))

/-- COMMAND_STAGE (R376). -/
def commandStage (src : Src) (w k : Nat) (v : Word) (p : Part) (m : Mach) : Mach :=
  if w ≤ 8 ∧ k < 7 then gated p m src (winAddr w k) fun m => stageWord m w k v else m

/-- A gap report enters the hold, or is discarded where 32 are held or the hold is full; it is
counted either way (R395, R396, R398). -/
def gapReport (p : Part) (m : Mach) (w : Nat) (l : Line) : Mach :=
  let m := bump p m (winGap w) 1
  let h := holdOf m w
  if decide (32 ≤ (h.filter fun c => c.gap).length) || decide (64 ≤ h.length) then
    setEvt p (orReg p m (winStat w) (2 ^ 18)) Reg.cplPage 9
  else pushHold m w { hseq := recSeq l, opcode := recOp l, status := stSeqGap,
                      detail := rdF p m (winSeq w) 31 0, gap := true }

/-- How a submission ends (R378). -/
inductive Submitted where
  | undefined | full | gap | accepted
  deriving DecidableEq, Repr

/-- The first matching case of R378. -/
def submitCase (p : Part) (m : Mach) (w : Nat) (l : Line) : Submitted :=
  if w < 8 ∧ ctxDefined p m w = false then .undefined
  else if windowFull p m w then .full
  else if recSeq l ≠ rdF p m (winSeq w) 31 0 then .gap
  else .accepted

/-- A record is submitted to a window (R378, R236, R398); a halted engine accepts none (R462). -/
def submitRecord (src : Src) (w : Nat) (l : Line) (p : Part) (m : Mach) : Mach :=
  if isFatal p m then m
  else match submitCase p m w l with
  | .undefined => accErr p (orReg p m (winStat w) (2 ^ 17)) src (winAddr w 7) 2
  | .full => match tailOfWin m w with
    | some q => setEvt p m (Reg.pqPage q) 0
    | none => m
  | .gap => gapReport p m w l
  | .accepted =>
    let m := wr p m (winSeq w) (wordOf ((recSeq l + 1) % 2 ^ 32))
    let acc := m.cmd.nextAcc
    enterQueue p { m with cmd := { m.cmd with nextAcc := acc + 1 } } w
      { line := l, win := w, acc := acc, hseq := recSeq l }

/-- The staged doublewords of a window are consumed by a submission. -/
def clearStaged (m : Mach) (w : Nat) : Mach :=
  { m with cmd := { m.cmd with windows := Assoc.erase m.cmd.windows w } }

/-- COMMAND_SUBMIT (R376, R378). -/
def commandSubmit (src : Src) (w : Nat) (v : Word) (p : Part) (m : Mach) : Mach :=
  if w ≤ 8 then gated p m src (winAddr w 7) fun m =>
    submitRecord src w (stagedRecord m w v) p (clearStaged m w)
  else m

/-- Entries of a window that wait in its queue, ring and staging block. -/
def waitingEntries (m : Mach) (w : Nat) : List Entry :=
  (match queueOfWin m w with
   | some q => (pqOf m q).head ++ (pqOf m q).tail
   | none => []) ++ (ringOf m w).blocks.flatMap (fun b => b.entries) ++ (ctxOf m w).staging

/-- The window's queue and staging block are empty and nothing of it runs (R400). -/
def windowIdle (m : Mach) (w : Nat) : Bool :=
  !((waitingEntries m w).any fun e => e.kind != .pad) && (runningOf m w).isEmpty

/-- CMD_SEQ_WRITE (R400). -/
def cmdSeqWrite (src : Src) (w : Nat) (v : Word) (p : Part) (m : Mach) : Mach :=
  if w ≤ 8 then gated p m src (winSeq w) fun m =>
    if windowIdle m w then wr p m (winSeq w) (wordOf (bitsOf v 31 0)) else ignored p m src (winSeq w)
  else m

/-! ### Waiters (R386, R387, R391) -/

/-- An EVENT_WAIT's counter and value. -/
def waitDue (m : Mach) (r : Running) : Bool :=
  recOp r.line == 0x51 && decide (bytesOf r.line 20 23 % 2 ^ 28 ≤ evtOf m (bytesOf r.line 16 17 % 4096))

/-- A context's semaphore. -/
def semOf (m : Mach) (c s : Nat) : Nat := Sparse.get (fun _ => 0) (ctxOf m c).sems s

/-- A context's semaphore set. -/
def setSem (m : Mach) (c s v : Nat) : Mach :=
  let x := ctxOf m c
  setCtx m c { x with sems := Sparse.set (fun _ => 0) x.sems s v }

/-- The semaphore and count of SEM_ACQ and SEM_REL. -/
def semIdx (l : Line) : Nat := bytesOf l 16 17 % 1024
def semCount (l : Line) : Nat := bytesOf l 20 23

/-- A SEM_ACQ that can be granted: its count is there and no earlier one waits (R387). -/
def acqDue (m : Mach) (r : Running) : Bool :=
  recOp r.line == 0x52 && decide (semCount r.line ≤ semOf m r.win (semIdx r.line)) &&
  !((runningOf m r.win).any fun x => recOp x.line == 0x52 && semIdx x.line == semIdx r.line &&
    decide (x.acc < r.acc))

/-- A due EVENT_WAIT completes. -/
def finishWait (m : Mach) (r : Running) : Mach := complete m r stDone

/-- A due SEM_ACQ subtracts its count and completes (R387). -/
def finishAcq (m : Mach) (r : Running) : Mach :=
  complete (setSem m r.win (semIdx r.line) (semOf m r.win (semIdx r.line) - semCount r.line)) r stDone

/-- Every waiter whose condition holds completes, earliest acceptance first; `n` bounds how many. -/
def releaseWaiters : Nat → Mach → Mach
  | 0, m => m
  | n + 1, m =>
    match m.cmd.running.find? fun r => waitDue m r || acqDue m r with
    | some r => releaseWaiters n (if recOp r.line = 0x51 then finishWait m r else finishAcq m r)
    | none => m

/-- Waiters released until none is due. -/
def release (m : Mach) : Mach := releaseWaiters m.cmd.running.length m

/-- EVT_VAL_WRITE (R536, R400). -/
def evtValWrite (src : Src) (v : Word) (p : Part) (m : Mach) : Mach :=
  gated p m src Reg.cmdEvtVal fun m =>
    release (setEvtCnt m (rdF p m Reg.cmdEvtIdx 11 0) (bitsOf v 27 0))

/-! ### Starting a command (R383, R395, R406) -/

/-- The head of a queue that is a command record, with its window. -/
def headEntry (m : Mach) (q : Nat) : Option Entry := (pqOf m q).head.head?

/-- The window may start commands: no FATAL, host not lost, hold empty, context neither faulted nor
in a save or a kill, and not in the zeroised levels (R395, R412, R425, R462, R463). -/
def windowMayStart (p : Part) (m : Mach) (w : Nat) : Bool :=
  engineUp m && mayStep m && !isFatal p m && !rdB p m Reg.glbFaultStat 2 && (holdOf m w).isEmpty &&
  (w == 8 || (!(ctxOf m w).faulted && (ctxOf m w).phase == 0))

/-- The start conditions of R383 on a checked record. -/
def startDue (m : Mach) (w : Nat) (l : Line) : Bool :=
  (!recFlag l 1 || decide (recWaitVal l ≤ evtOf m (recWaitEvt l))) &&
  (!recFlag l 0 || (runningOf m w).isEmpty) && decide ((runningOf m w).length < 32)

/-- The head of queue q can leave it: it fails a check, or can start. -/
def headDue (p : Part) (m : Mach) (q : Nat) : Bool :=
  match headEntry m q, winOfQueue m q with
  | some e, some w =>
    e.kind == .command && windowMayStart p m w &&
    ((checkRecord p m w e.line).isSome || startDue m w e.line)
  | _, _ => false

/-- The queue R406 serves: PQ4 first, then the resident with the most credit, ties to the lower
context. -/
def r406Pick (p : Part) (m : Mach) : Option Nat :=
  if headDue p m 4 then some 4
  else
    (residents m).foldl (fun best c =>
      let q := (ctxOf m c).slot
      if headDue p m q then
        match best with
        | none => some q
        | some b => match winOfQueue m b with
          | some d => if creditOf p m d < creditOf p m c then some q else some b
          | none => some q
      else best) none

/-- The head entry leaves its queue. -/
def popHead (m : Mach) (q w : Nat) : Mach :=
  let x := pqOf m q
  settleQueue (setPq m q { x with head := x.head.drop 1 }) q w

/-- The host memory a command reads when it starts: a descriptor, an image or a list (R389 and the
opcode's chapter); a command whose length another read decides reads its header first. -/
def firstRead (l : Line) : Option (Nat × Nat) :=
  match recOp l with
  | 0x10 | 0x11 | 0x12 | 0x13 | 0x30 | 0x31 | 0x32 => some (bytesOf l 16 23 % 2 ^ 42, 64)
  | 0x14 | 0x15 => some (bytesOf l 16 23 % 2 ^ 42, 64)
  | 0x20 => some (bytesOf l 16 23 % 2 ^ 42, 64 * bytesOf l 32 35)
  | 0x40 => some (bytesOf l 24 31 % 2 ^ 42, bytesOf l 32 35)
  | 0x41 => some (bytesOf l 16 23 % 2 ^ 42, 64 * (bytesOf l 24 27 + bytesOf l 28 31))
  | 0x48 => some (bytesOf l 32 39 % 2 ^ 42, 4 * bytesOf l 40 41)
  | 0x61 => if bytesOf l 24 31 % 2 ^ 42 = 0 then none else some (bytesOf l 24 31 % 2 ^ 42, 4096)
  | _ => none

/-- The management packets whose entries are still arriving when a flush of PQ4 is read are discarded when the last
of them arrives (R237). -/
def markFlushed (m : Mach) : Mach :=
  { m with net := { m.net with rx := m.net.rx.map fun x => if x.vc = 5 ∧ x.mgmt = true then { x with flushed := true } else x } }

/-- The log's entries h − c to h − 1, c = min(h, 2,048) (R471). -/
def snapshotEntries (m : Mach) (h : Nat) : List LogEntry :=
  (List.range (min h 2048)).map fun i => Assoc.get (0 : LogEntry) m.log.slots ((h - min h 2048 + i) % 2048)

/-- A checked head command starts (R383, R389). -/
def startCommand (p : Part) (m : Mach) (q w : Nat) (e : Entry) : Mach :=
  let m := popHead m q w
  let m := if recOp e.line = 0x68 ∧ bytesOf e.line 16 16 = 4 then markFlushed m else m
  let m := { m with cmd := { m.cmd with running :=
    m.cmd.running ++ [{ win := w, pq := q, acc := e.acc, hseq := e.hseq, line := e.line,
                          n := if recOp e.line = 0x21 then m.cmd.writeSeq else if recOp e.line = 0x78 then rdF p m Reg.logHead 31 0 else m.cmd.nextAcc,
                          wins := if w < 8 then xfWins p m w else [],
                          entries := if recOp e.line = 0x78 then snapshotEntries m (rdF p m Reg.logHead 31 0) else [] }] } }
  match firstRead e.line with
  | some (a, n) => startReads p m a n (.cmdRead e.acc)
  | none => m

/-- The head of queue q is checked, and completes at once or starts. -/
def serveHead (p : Part) (m : Mach) (q : Nat) : Mach :=
  match headEntry m q, winOfQueue m q with
  | some e, some w =>
    match checkRecord p m w e.line with
    | some st => completeLine (popHead m q w) w (unstarted p m w e.line) e.hseq st 0
    | none => startCommand p m q w e
  | _, _ => m

/-- COMMAND_START (R382, R383, R406). -/
def commandStart (q : Nat) (p : Part) (m : Mach) : Mach :=
  if r406Pick p m = some q then stepped (serveHead p m q) else m

/-! ### Completion rings (R392 to R396) -/

/-- The 28 bytes 4 to 31 of a completion record (R392). -/
def completionBytes (p : Part) (m : Mach) (ring : Nat) (c : Completion) : List Byte :=
  leBytes 4 c.hseq ++ leBytes 1 c.opcode ++ leBytes 1 c.status ++ leBytes 1 (if c.nanScore then 1 else 0)
    ++ leBytes 1 ring ++ leBytes 6 (c.step.getD (stepNow p m)) ++ leBytes 1 (c.attempt % 16) ++ [0]
    ++ leBytes 4 c.detail ++ leBytes 8 (timeNs m)

/-- The ring takes a record: enabled and not full (R395). -/
def ringOpen (p : Part) (m : Mach) (r : Nat) : Bool :=
  rdB p m (Reg.cplRingCtrl r) 8 &&
  decide ((rdF p m (Reg.cplRingHead r) 31 0 + 2 ^ 32 - rdF p m (Reg.cplRingTail r) 31 0) % 2 ^ 32
    ≠ 2 ^ rdF p m (Reg.cplRingCtrl r) 4 0)

/-- The host address of the record with number s (R394). -/
def recordAddr (p : Part) (m : Mach) (r s : Nat) : Nat :=
  (rd p m (Reg.cplRingBase r)).toNat + 32 * (s % 2 ^ rdF p m (Reg.cplRingCtrl r) 4 0)

/-- The number of a ring's next record. -/
def nextRecord (p : Part) (m : Mach) (r : Nat) : Nat := (rdF p m (Reg.cplRingHead r) 31 0 + 1) % 2 ^ 32

/-- Bytes 4 to 31 of a ring's record are on their way. -/
def recordOut (m : Mach) (r : Nat) : Bool := txnsOutOf m fun u => match u with
  | .cplBody q _ _ => q == r
  | _ => false

/-- The oldest held record is written: bytes 4 to 31 go out first (R394). It stays in the hold until they are
visible. -/
def writeRecord (p : Part) (m : Mach) (r : Nat) (c : Completion) : Mach :=
  let s := nextRecord p m r
  let a := recordAddr p m r s
  startWrites p m (a + 4) (completionBytes p m r c) (.cplBody r a s)

/-- COMPLETION_WRITE (R394, R395): one record of a ring at a time. A halted engine writes no record (R462). -/
def completionWrite (r : Nat) (p : Part) (m : Mach) : Mach :=
  match holdOf m r with
  | c :: _ =>
    if r ≤ 8 ∧ engineUp m ∧ isFatal p m = false ∧ ringOpen p m r ∧ recordOut m r = false then writeRecord p m r c else m
  | [] => m

/-- Bytes 4 to 31 are visible: bytes 0 to 3 follow, and the record is written: HEAD, the ring's event and LAST_STATUS
(R394, R396, R529). The next held record follows. -/
def recordDone (p : Part) (m : Mach) (r a s : Nat) : Mach :=
  match (if isFatal p m then [] else holdOf m r) with
  | c :: rest =>
    let m := startWrites p (setHold m r rest) a (leBytes 4 s) .other
    let m := setLastStatus p (wr p m (Reg.cplRingHead r) (wordOf s)) (winPage r) c.status
    let m := if c.irq || rdB p m (Reg.cplRingCtrl r) 9 then setEvt p m Reg.cplPage r else m
    completionWrite r p m
  | [] => m

/-- RING_TAIL_WRITE (R395). -/
def ringTailWrite (src : Src) (r : Nat) (v : Word) (p : Part) (m : Mach) : Mach :=
  if r ≤ 8 then gated p m src (Reg.cplRingTail r) fun m =>
    completionWrite r p (wr p m (Reg.cplRingTail r) (wordOf (bitsOf v 31 0)))
  else m

/-! ### The commands of this chapter -/

/-- A started command of an opcode, named by window and sequence number. -/
def startedCmd (m : Mach) (w seq op : Nat) : Option Running :=
  match findRunning m w seq with
  | some r => if recOp r.line = op then some r else none
  | none => none

/-- A due command of one opcode: it runs and the engine can run work (R462, R499). -/
def dueCmd (p : Part) (m : Mach) (w seq op : Nat) : Option Running :=
  if engineUp m && !isFatal p m then startedCmd m w seq op else none

/-- NOP (R391). -/
def nop (w seq : Nat) (p : Part) (m : Mach) : Mach :=
  match dueCmd p m w seq 0x7F with
  | some r => complete m r stDone
  | none => m

/-- EVENT_SIGNAL (R391): SET writes the counter, ADD adds saturating, and waiters go on. -/
def eventSignal (w seq : Nat) (p : Part) (m : Mach) : Mach :=
  match dueCmd p m w seq 0x50 with
  | some r =>
    let e := bytesOf r.line 16 17 % 4096
    let v := bytesOf r.line 20 23 % 2 ^ 28
    let m := if bytesOf r.line 18 18 = 1 then setEvtCnt m e v else addEvt m e v
    release (complete m r stDone)
  | none => m

/-- EVENT_WAIT (R391, R384). -/
def eventWait (w seq : Nat) (p : Part) (m : Mach) : Mach :=
  match dueCmd p m w seq 0x51 with
  | some r => if waitDue m r then finishWait m r else m
  | none => m

/-- SEM_ACQ (R387). -/
def semAcq (w seq : Nat) (p : Part) (m : Mach) : Mach :=
  match dueCmd p m w seq 0x52 with
  | some r => if acqDue m r then finishAcq m r else m
  | none => m

/-- SEM_REL (R387): adds, saturating, completes, and grants the acquisitions that now fit. -/
def semRel (w seq : Nat) (p : Part) (m : Mach) : Mach :=
  match dueCmd p m w seq 0x53 with
  | some r =>
    let s := semIdx r.line
    release (complete (setSem m w s (min 0xFFFFFFFF (semOf m w s + semCount r.line))) r stDone)
  | none => m

/-! ### Bog rings (R235 to R241) -/

/-- QUEUE_SPILL (R235). -/
def queueSpill (q : Nat) (p : Part) (m : Mach) : Mach :=
  match winOfQueue m q with
  | some w =>
    if engineUp m && !systemCopies p m && spillDue p m q w then spillTail p m q w else m
  | none => m

/-- The oldest block of a ring, if it is not being filled yet. -/
def fillable (m : Mach) (w : Nat) : Option BogBlock :=
  match (ringOf m w).blocks with
  | b :: _ => if b.filling then none else some b
  | [] => none

/-- QUEUE_FILL (R235): the oldest middle block is read. Its entries enter the head when the read
ends (`fillDone`). -/
def queueFill (q : Nat) (p : Part) (m : Mach) : Mach :=
  match winOfQueue m q with
  | some w =>
    match fillable m w with
    | some b =>
      if engineUp m && !systemCopies p m && !queueGone m w && decide ((pqOf m q).head.length + blockSize ≤ storeSize) &&
          !txnsOut m (.spill w b.place) then
        let ring := ringOf m w
        let m := setRing m w { ring with blocks := { b with filling := true } :: ring.blocks.drop 1 }
        startReads p m (ringAddr p m w b.place) 1024 (.fill w b.place)
      else m
    | none => m
  | none => m

/-- The entries of a block with the lines that host memory holds, padding left out (R238, R241). -/
def filledEntries (p : Part) (m : Mach) (w : Nat) (b : BogBlock) : List Entry :=
  let a := ringAddr p m w b.place
  ((List.range blockSize).zip b.entries |>.map fun (i, e) =>
    { e with line := hostLine m (a + 64 * i) }).filter fun e => e.kind != .pad

/-- Entries discarded with a status: each command record completes, in read order (R237, R238). -/
def completeEntries (p : Part) (m : Mach) (st : Nat) (es : List Entry) : Mach :=
  es.foldl (fun m e => if e.kind = .command then completeLine m e.win (unstarted p m e.win e.line) e.hseq st 0 else m) m

/-- The management packets that a failed block holds part of are gone whole: their other entries leave the queue, and
those in the middle become padding. -/
def dropPackets (m : Mach) (q w : Nat) (lost : List Entry) : Mach :=
  let accs := (lost.filter fun e => e.kind == .mgmt || e.kind == .cont).map fun e => e.acc
  let goes := fun (e : Entry) => (e.kind == .mgmt || e.kind == .cont) && accs.contains e.acc
  let x := pqOf m q
  let m := setPq m q { x with head := x.head.filter fun e => !goes e, tail := x.tail.filter fun e => !goes e }
  let ring := ringOf m w
  setRing m w { ring with blocks := ring.blocks.map fun b =>
    { b with entries := b.entries.map fun e => if goes e then { e with kind := .pad } else e } }

/-- A fill's read has ended: the block leaves the ring and its entries enter the head, or complete
with ERR_UNCORRECTABLE where the read failed; the queue goes on (R235, R238). -/
def fillDone (p : Part) (m : Mach) (w : Nat) (bad : Bool) : Mach :=
  let ring := ringOf m w
  match ring.blocks, queueOfWin m w with
  | b :: rest, some q =>
    let es := filledEntries p m w b
    let m := setRing m w { ring with blocks := rest }
    if bad then settleQueue (completeEntries p (dropPackets m q w b.entries) stUncorrectable b.entries) q w
    else
      let x := pqOf m q
      countBlock p (settleQueue (setPq m q { x with head := x.head ++ es }) q w) w Reg.pqFillBlk
  | _, _ => m

/-- RING_WRITE (R240). -/
def ringWrite (src : Src) (r : Nat) (v : Word) (p : Part) (m : Mach) : Mach :=
  if r ≤ 8 then gated p m src (Reg.kilnRing r) fun m =>
    if !(ringOf m r).blocks.isEmpty then ignored p m src (Reg.kilnRing r)
    else setRing (wr p m (Reg.kilnRing r) (v &&& 0x3FFFFFFF3FFFFFFF)) r {}
  else m

/-- QUEUE_FLUSH (R237): the packets of the named queue that were accepted before it was read (the
count its `n` keeps) and have not started complete with FLUSHED, in read order. -/
def queueFlush (w seq : Nat) (p : Part) (m : Mach) : Mach :=
  match dueCmd p m w seq 0x68 with
  | some r =>
    let q := bytesOf r.line 16 16
    let m := match winOfQueue m q with
      | some v =>
        let x := pqOf m q
        let all := x.head ++ (ringOf m v).blocks.flatMap (fun b => b.entries) ++ x.tail
        let (gone, kept) := all.partition fun e => decide (e.acc < r.n) || e.kind == .pad
        let m := setPq m q { head := [], tail := kept }
        let m := setRing m v { ringOf m v with blocks := [] }
        let m := dropTxns m fun u => match u with
          | .fill i _ => i != v
          | .spill i _ => i != v
          | _ => true
        completeEntries p (settleQueue m q v) stFlushed gone
      | none => m
    complete m r stDone
  | none => m

/-! ### The meanings of the commands -/

/-- COMMAND_STAGE (R376). -/
def execCommandStage (src : Src) (win k : Nat) (value : Word) (s : State) : Host.Outcome State Fault Refusal :=
  .next { s with m := responded s.m src none (commandStage src win k value s.part s.m) }

/-- COMMAND_SUBMIT (R378). -/
def execCommandSubmit (src : Src) (win : Nat) (value : Word) (s : State) : Host.Outcome State Fault Refusal :=
  .next { s with m := responded s.m src none (commandSubmit src win value s.part s.m) }

/-- CMD_SEQ_WRITE (R400). -/
def execCmdSeqWrite (src : Src) (win : Nat) (value : Word) (s : State) : Host.Outcome State Fault Refusal :=
  .next { s with m := responded s.m src none (cmdSeqWrite src win value s.part s.m) }

/-- EVT_VAL_WRITE (R536). -/
def execEvtValWrite (src : Src) (value : Word) (s : State) : Host.Outcome State Fault Refusal :=
  .next { s with m := responded s.m src none (evtValWrite src value s.part s.m) }

/-- COMPLETION_WRITE (R394). -/
def execCompletionWrite (ring : Nat) (s : State) : Host.Outcome State Fault Refusal :=
  .next { s with m := completionWrite ring s.part s.m }

/-- RING_TAIL_WRITE (R395). -/
def execRingTailWrite (src : Src) (ring : Nat) (value : Word) (s : State) : Host.Outcome State Fault Refusal :=
  .next { s with m := responded s.m src none (ringTailWrite src ring value s.part s.m) }

/-- EVENT_WAIT (R391). -/
def execEventWait (win seq : Nat) (s : State) : Host.Outcome State Fault Refusal :=
  .next { s with m := eventWait win seq s.part s.m }

/-- QUEUE_FLUSH (R237). -/
def execQueueFlush (win seq : Nat) (s : State) : Host.Outcome State Fault Refusal :=
  .next { s with m := queueFlush win seq s.part s.m }

/-- NOP (R388). -/
def execNop (win seq : Nat) (s : State) : Host.Outcome State Fault Refusal :=
  .next { s with m := nop win seq s.part s.m }

/-- QUEUE_FILL (R235). -/
def execQueueFill (q : Nat) (s : State) : Host.Outcome State Fault Refusal :=
  .next { s with m := queueFill q s.part s.m }

/-- RING_WRITE (R240). -/
def execRingWrite (src : Src) (ring : Nat) (value : Word) (s : State) : Host.Outcome State Fault Refusal :=
  .next { s with m := responded s.m src none (ringWrite src ring value s.part s.m) }

end Sys2Proof.Machine
end

