-- ==== Sys2Proof/Machine/Place.lean ====
section
/-! DEFINITION. Hearths, and the placement of work items on their sub-units (R4, R9, R10, R93, R455, R498). -/

namespace Sys2Proof.Machine

/-- A hearth. -/
def hearthOf (m : Mach) (h : Nat) : Hearth := Assoc.get {} m.run.hearths h

/-- A hearth replaced. -/
def setHearth (m : Mach) (h : Nat) (x : Hearth) : Mach :=
  { m with run := { m.run with hearths := Assoc.set m.run.hearths h x } }

/-- Hearths of the configuration that are neither retired nor unusable (R4). -/
def usableHearths (p : Part) (m : Mach) : List Nat :=
  (List.range (hearthCount p.conf)).filter fun h => !(hearthOf m h).retired && !(hearthOf m h).unusable

/-- The place in the order of R10 that a hearth takes. -/
def placeOf (m : Mach) (h : Nat) : Nat := (hearthOf m h).standsFor.getD h

/-- The hearth at a place of the order of R10: the hearth of that number, or the spare that stands for it; a
spare that stands for none has no place (R4, R455). -/
def hearthAt (p : Part) (m : Mach) (i : Nat) : Option Nat :=
  (usableHearths p m).find? fun h => placeOf m h == i && (spareHearth p.conf != some h || (hearthOf m h).standsFor.isSome)

/-- The usable hearths in the order of R10. -/
def hearthOrder (p : Part) (m : Mach) : List Nat := (List.range (hearthCount p.conf)).filterMap (hearthAt p m)

/-- A hearth takes new items: it is not in self-test and not quiesced (R10, R528). -/
def takesItems (m : Mach) (h : Nat) : Bool := !(hearthOf m h).bist && !(hearthOf m h).quiesce

/-- A hearth is free of work for a kind of item: its sub-unit can accept one in this cycle (R10). -/
def freeOfWork (m : Mach) (u : SubUnit) (h : Nat) : Bool :=
  m.run.placed.all fun x => !(x.hearth == some h && x.unit == u && decide (m.tick.cycle < x.accepts))

/-- The throttle level in force (R498): LEVEL, and for 10 µs after a droop at least DROOP_LEVEL. -/
def throttleLevel (p : Part) (m : Mach) : Nat :=
  let l := rdF p m Reg.pwrThrottle 3 0
  if m.sec.droop.any fun t => decide (m.tick.time < t + 10000 * fsPerNs) then max l (rdF p m Reg.pwrThrottle 11 8) else l

/-- Items may be placed in this cycle: in the first 16 − L of every 16 at the throttle level L (R498). -/
def placesNow (p : Part) (m : Mach) : Bool := decide (m.tick.cycle % 16 < 16 - throttleLevel p m)

/-- The hearth that R10 chooses for an item of a sub-unit. -/
def chosenHearth (p : Part) (m : Mach) (u : SubUnit) : Option Nat :=
  (hearthOrder p m).find? fun h => takesItems m h && freeOfWork m u h

/-- The hearth that takes an item of a sub-unit in this cycle (R10, R498). -/
def placement (p : Part) (m : Mach) (u : SubUnit) : Option Nat := if placesNow p m then chosenHearth p m u else none

/-- An item is placed: its sub-unit accepts the next after `n` cycles; one that is `held` stays until it is
taken off (R93), any other for those cycles. -/
def placeItem (p : Part) (m : Mach) (u : SubUnit) (c : Nat) (i : ItemRef) (n : Nat) (held : Bool := false) : Mach :=
  match placement p m u with
  | some h => { m with run := { m.run with placed := m.run.placed ++
      [{ hearth := some h, unit := u, ctx := c, item := i, accepts := m.tick.cycle + max 1 n, held := held }] } }
  | none => m

/-- Items that sub-units of a kind can accept in this cycle. -/
def freePlaces (p : Part) (m : Mach) (u : SubUnit) : Nat :=
  ((hearthOrder p m).filter fun h => takesItems m h && freeOfWork m u h).length

/-- An item's work is placed under R10 where a hearth can take it in this cycle; else it waits. -/
def onHearth (p : Part) (m : Mach) (u : SubUnit) (c : Nat) (i : ItemRef) (n : Nat) (work : Mach → Mach) : Mach :=
  if (placement p m u).isSome then work (placeItem p m u c i n) else m

/-- Items taken off their hearths. -/
def unplace (m : Mach) (gone : Placed → Bool) : Mach :=
  { m with run := { m.run with placed := m.run.placed.filter fun x => !gone x } }

/-- An item that a hearth still works on. -/
def stillPlaced (m : Mach) (x : Placed) : Bool := x.held || decide (m.tick.cycle < x.accepts)

/-- A hearth's placed items wait for the hearths that R10 then chooses (R455). -/
def moveItems (m : Mach) (h : Nat) : Mach :=
  { m with run := { m.run with
      placed := m.run.placed.map fun x => if x.hearth = some h then { x with hearth := none } else x } }

/-- The core cycles for which an item of n bytes keeps a sparse coder, at up to 256 bytes each. -/
def coderCycles (n : Nat) : Nat := (n + 255) / 256

/-- The core cycles for which n elements of one rank keep a combine unit (R203). -/
def foldCycles (n : Nat) : Nat := (n + 127) / 128

end Sys2Proof.Machine
end

