-- ==== Sys2Proof/Machine/Wire.lean ====
section
/-! DEFINITION. What goes over a link: the scrambler (R267), the two-symbol code (R278, R279), the
flit and its header (R275 to R277), training flits (R272), and CRC-32C (R330). -/

namespace Sys2Proof.Machine

/-! ### GF(2⁸) (R278) -/

/-- Multiplication by x modulo x⁸ + x⁴ + x³ + x² + 1. -/
def gfX (a : Nat) : Nat := if a < 128 then 2 * a else (2 * a) ^^^ 0x11D

/-- Multiplication, over the low n bits of b. -/
def gfMulN : Nat → Nat → Nat → Nat
  | 0, _, _ => 0
  | n + 1, a, b => (if b % 2 = 1 then a else 0) ^^^ gfMulN n (gfX a) (b / 2)

/-- Multiplication in GF(2⁸). -/
def gfMul (a b : Nat) : Nat := gfMulN 8 a b

/-- Squared n times. -/
def gfSqN : Nat → Nat → Nat
  | 0, a => a
  | n + 1, a => gfSqN n (gfMul a a)

/-- The inverse: a to the power 254 = 2 + 4 + 8 + 16 + 32 + 64 + 128. -/
def gfInv (a : Nat) : Nat :=
  (List.range 7).foldl (fun r i => gfMul r (gfSqN (i + 1) a)) 1

/-- α to the powers n − 1 down to 0: the locators of a codeword's bytes in wire order. -/
def alphaDown : Nat → List Nat
  | 0 => []
  | n + 1 => (List.range n).foldl (fun x _ => gfX x) 1 :: alphaDown n

/-- The powers of α from 0 up. -/
def alphaUp : Nat → Nat → List Nat
  | 0, _ => []
  | n + 1, x => x :: alphaUp n (gfX x)

/-! ### The two-symbol code (R278, R279) -/

/-- The check bytes of data bytes (R278). -/
def rsCheck (d : List Byte) : List Byte :=
  let r := d.foldl (fun (r : Nat × Nat × Nat × Nat) b =>
    let f := b.toNat ^^^ r.1
    (r.2.1 ^^^ gfMul f 0x0F, r.2.2.1 ^^^ gfMul f 0x36, r.2.2.2 ^^^ gfMul f 0x78, gfMul f 0x40))
    (0, 0, 0, 0)
  [BitVec.ofNat 8 r.1, BitVec.ofNat 8 r.2.1, BitVec.ofNat 8 r.2.2.1, BitVec.ofNat 8 r.2.2.2]

/-- The value of a codeword at x, first byte the highest power. -/
def rsEval (c : List Byte) (x : Nat) : Nat := c.foldl (fun a b => gfMul a x ^^^ b.toNat) 0

/-- A decoded codeword: clean, corrected, or not correctable (R279). -/
inductive RsOutcome where
  | clean
  | corrected (data : List Byte)
  | bad
  deriving DecidableEq, Repr

/-- A codeword with errors e at byte positions p undone. -/
def rsFix (c : List Byte) (errs : List (Nat × Nat)) : List Byte :=
  errs.foldl (fun c e => c.set e.1 (c.getD e.1 0 ^^^ BitVec.ofNat 8 e.2)) c

/-- Decoding of a codeword of n bytes, 4 of them check bytes (R279). -/
def rsDecode (c : List Byte) : RsOutcome :=
  let n := c.length
  let s0 := rsEval c 1
  let s1 := rsEval c 2
  let s2 := rsEval c 4
  let s3 := rsEval c 8
  if s0 = 0 ∧ s1 = 0 ∧ s2 = 0 ∧ s3 = 0 then .clean
  else
    let loc := (alphaUp n 1).reverse.zipIdx
    let one := loc.filter fun (x, _) =>
      decide (s0 ≠ 0) && decide (gfMul s0 x = s1) && decide (gfMul s1 x = s2) && decide (gfMul s2 x = s3)
    match one with
    | (_, i) :: _ => .corrected (rsFix c [(i, s0)])
    | [] =>
      let d := gfMul s1 s1 ^^^ gfMul s0 s2
      if d = 0 then .bad
      else
        let v := gfInv d
        let g1 := gfMul (gfMul s1 s2 ^^^ gfMul s0 s3) v
        let g2 := gfMul (gfMul s2 s2 ^^^ gfMul s1 s3) v
        match loc.filter fun (x, _) => gfMul x x ^^^ gfMul g1 x ^^^ g2 == 0 with
        | [(x1, i1), (x2, i2)] =>
          let e2 := gfMul (s1 ^^^ gfMul s0 x1) (gfInv (x1 ^^^ x2))
          let e1 := s0 ^^^ e2
          if e1 = 0 ∨ e2 = 0 then .bad else .corrected (rsFix c [(i1, e1), (i2, e2)])
        | _ => .bad

/-! ### The scrambler (R267) -/

/-- One keystream byte and the register after it; bits in ascending index. -/
def scrambleByte : Nat → Nat → Nat → Nat × Nat
  | 0, s, _ => (0, s)
  | n + 1, s, i =>
    let out := ((s >>> 30) ^^^ (s >>> 27)) % 2
    let r := scrambleByte n ((2 * s) % 2 ^ 31 + out) (i + 1)
    (out * 2 ^ i + r.1, r.2)

/-- n keystream bytes of a lane. -/
def laneKey : Nat → Nat → List Byte
  | 0, _ => []
  | n + 1, s =>
    let r := scrambleByte 8 s 0
    BitVec.ofNat 8 r.1 :: laneKey n r.2

/-- The keystream of the flit at place `pos` of a frame, in stream order. -/
def flitKey (pos : Nat) : List Byte :=
  let k0 := laneKey (132 * (pos + 1) + 32) 0x7FFFFFFF
  let k1 := laneKey (132 * (pos + 1) + 32) 0x2AAAAAAA
  (List.range 264).map fun j =>
    let b := 264 * pos + j
    let i := 32 * (b / 64) + b % 32
    if b % 64 < 32 then k0.getD i 0 else k1.getD i 0

/-! ### Link words and lane words (R266, R270, R271) -/

/-- Stream bytes cut into link words of 64 bytes: bytes 0 to 31 on logical lane 0, the others on lane 1 (R266). -/
def linkWords (bs : List Byte) : List (BitVec 256 × BitVec 256) :=
  (chunksOf 64 (bs.length / 64) bs).map fun c =>
    (BitVec.ofNat 256 (leNat (c.take 32)), BitVec.ofNat 256 (leNat (c.drop 32)))

/-- The wire flit at a place of a frame, from the five lane words of each physical lane over which it stands; a
crossed pair changes the lanes (R266, R267, R271). -/
def gatherFlit (swap : Bool) (pos : Nat) (lane0 lane1 : BitVec 1280) : BitVec 2112 :=
  let a := leBytes 160 (if swap then lane1 else lane0).toNat
  let b := leBytes 160 (if swap then lane0 else lane1).toNat
  let words := (List.range 5).flatMap fun k => (a.drop (32 * k)).take 32 ++ (b.drop (32 * k)).take 32
  BitVec.ofNat 2112 (leNat ((words.drop (8 * pos)).take 264))

/-- The lane cycles of a frame that begin with the flit at a place of it. -/
def slotCycles (pos : Nat) : List Nat :=
  (List.range 33).filter fun w => decide (264 * pos ≤ 64 * w) && decide (64 * w < 264 * (pos + 1))

/-- MARK (R270). -/
def laneMark : Nat := 0xA5A53C3CF00F5AA5

/-- A lane training word (R270). -/
def trainWord (fpos lane : Nat) (aligned : Bool) (node link : Nat) : BitVec 256 :=
  BitVec.ofNat 256 (laneMark + fpos * 2 ^ 64 + lane * 2 ^ 72 + (if aligned then 2 ^ 80 else 0) + node * 2 ^ 96
    + link * 2 ^ 112)

/-- The words of a lane read at a bit offset. -/
def wordsAt (off : Nat) (ws : List (BitVec 256)) : List (BitVec 256) :=
  if off = 0 then ws
  else (ws.zip (ws.drop 1)).map fun (a, b) => (a >>> off) ||| (b <<< (256 - off))

/-- MARK stands in a word. -/
def marked (w : BitVec 256) : Bool := bytesOf w 0 7 == laneMark

/-- MARK stands in four consecutive words. -/
def fourMarks : List (BitVec 256) → Bool
  | a :: b :: c :: d :: r => (marked a && marked b && marked c && marked d) || fourMarks (b :: c :: d :: r)
  | _ => false

/-- What the search of a receiving lane has found (R271): the bit offset, the sender's lane, the bit of the stream
at which the sender's frame starts, and whether a word with ALIGNED = 1 has come. -/
structure LaneFound where
  off : Nat
  lane : Nat
  start : Int
  aligned : Bool
  deriving DecidableEq, Repr

/-- The search of the 256 bit offsets for MARK in 4 consecutive words (R271). -/
def laneFind (ws : List (BitVec 256)) : Option LaneFound :=
  match (List.range 256).find? fun o => fourMarks (wordsAt o ws) with
  | some o =>
    let found := (wordsAt o ws).zipIdx.filter fun q => marked q.1
    match found.head? with
    | some (w, i) => some { off := o, lane := bytesOf w 9 9, start := 256 * (i : Int) + o - 256 * (bytesOf w 8 8 : Int),
                            aligned := found.any fun q => bytesOf q.1 10 10 == 1 }
    | none => none
  | none => none

/-- The bits of a lane's raw words from a place on, as five lane words. -/
def laneBits (at_ : Nat) (ws : List (BitVec 256)) : BitVec 1280 :=
  BitVec.ofNat 1280 (leNat (ws.flatMap fun w => leBytes 32 w.toNat) >>> at_)

/-- The skew of two lanes in bits: how far the frames of the two stand apart, a frame being 33 lane cycles. -/
def skewBits (a b : LaneFound) : Nat :=
  let d := ((a.start - b.start) % (33 * 256)).toNat
  min d (33 * 256 - d)

/-- Where the two physical lanes' words of one moment of the sender's frame begin, in bits from the lane cycle in which
the earlier one's begins: its offset, and the other's offset with the deskew (R271). -/
def laneStarts (a b : LaneFound) : Nat × Nat :=
  let d := ((b.start - a.start) % (33 * 256)).toNat
  if 2 * d < 33 * 256 then (a.off, a.off + d) else (b.off + (33 * 256 - d), b.off)

/-- The bytes of a wire flit. -/
def wireBytes (w : BitVec 2112) : List Byte := leBytes 264 w.toNat

/-- Two byte lists XORed. -/
def xorBytes (a b : List Byte) : List Byte := (a.zip b).map fun p => p.1 ^^^ p.2

/-! ### Flits (R275 to R277) -/

/-- The 128-bit header of a flit (R276). -/
def flitHeader (h : LinkFields) (f : Flit) : Nat :=
  f.fsn * 2 ^ 94 + f.dst * 2 ^ 82 + f.src * 2 ^ 70 + f.ptag * 2 ^ 54 + f.ppos * 2 ^ 46
    + (if f.last then 2 ^ 45 else 0) + f.ttl * 2 ^ 42 + (if f.mgmt then 2 ^ 41 else 0)
    + f.vc * 2 ^ 38 + h.fkind * 2 ^ 36 + h.crtot * 2 ^ 24 + h.crvc * 2 ^ 21
    + (if h.nak then 2 ^ 20 else 0) + h.lack * 2 ^ 10 + h.lseq

/-- A header read back, with its payload. -/
def readHeader (h : BitVec 128) (payload : BitVec 1920) : LinkFields × Flit :=
  ({ fkind := bitsOf h 37 36, lseq := bitsOf h 9 0, lack := bitsOf h 19 10, nak := bitOf h 20,
     crvc := bitsOf h 23 21, crtot := bitsOf h 35 24 },
   { vc := bitsOf h 40 38, src := bitsOf h 81 70, dst := bitsOf h 93 82, ptag := bitsOf h 69 54,
     ppos := bitsOf h 53 46, last := bitOf h 45, ttl := bitsOf h 44 42, mgmt := bitOf h 41,
     fsn := bitsOf h 125 94, payload := payload })

/-- The wire flit of a header and a payload: both codewords encoded, then scrambled (R275). -/
def encodeFlit (pos : Nat) (h : LinkFields) (f : Flit) : BitVec 2112 :=
  let d := leBytes 16 (flitHeader h f) ++ leBytes 240 f.payload.toNat
  let c0 := d.take 128
  let c1 := d.drop 128
  BitVec.ofNat 2112 (leNat (xorBytes (c0 ++ rsCheck c0 ++ c1 ++ rsCheck c1) (flitKey pos)))

/-- A received flit: how many codewords were corrected and which were not correctable, and the
fields where both decode (R279, R280). -/
structure Decoded where
  corrected : Nat := 0
  bad0 : Bool := false
  bad1 : Bool := false
  link : LinkFields := { fkind := 0 }
  flit : Flit := { vc := 0, src := 0, dst := 0 }
  deriving DecidableEq, Repr

/-- The data of a codeword outcome. -/
def rsData (c : List Byte) : RsOutcome → List Byte
  | .corrected d => d.take 128
  | _ => c.take 128

/-- A wire flit received at place `pos` of a frame: descrambled, located, decoded (R275). -/
def decodeFlit (pos : Nat) (w : BitVec 2112) : Decoded :=
  let bs := xorBytes (wireBytes w) (flitKey pos)
  let c0 := bs.take 132
  let c1 := bs.drop 132
  let r0 := rsDecode c0
  let r1 := rsDecode c1
  let d := rsData c0 r0 ++ rsData c1 r1
  let lf := readHeader (BitVec.ofNat 128 (leNat (d.take 16))) (BitVec.ofNat 1920 (leNat (d.drop 16)))
  let one := fun r => match r with
    | RsOutcome.corrected _ => 1
    | _ => 0
  { corrected := one r0 + one r1, bad0 := r0 == .bad, bad1 := r1 == .bad, link := lf.1, flit := lf.2 }

/-- FKIND codes (R277). -/
def fkIdle : Nat := 0
def fkData : Nat := 1
def fkTs : Nat := 3

/-! ### Training flits (R272) -/

/-- The payload of a training flit. -/
def tsPayload (state : Nat) (fresh relay : Bool) (node link rxLseq : Nat) (adv : Word) : BitVec 1920 :=
  BitVec.ofNat 1920 (state + ((if fresh then 1 else 0) + (if relay then 2 else 0)) * 2 ^ 8
    + node * 2 ^ 16 + link * 2 ^ 32 + 1 * 2 ^ 40 + rxLseq * 2 ^ 48 + adv.toNat * 2 ^ 64)

/-- The fields of a training flit received. -/
structure TsFields where
  state : Nat
  fresh : Bool
  relay : Bool
  node : Nat
  link : Nat
  rxLseq : Nat
  adv : Word
  deriving DecidableEq, Repr

/-- A training flit's payload read back. -/
def readTs (x : BitVec 1920) : TsFields :=
  { state := bytesOf x 0 0, fresh := bitOf x 8, relay := bitOf x 9, node := bitsOf x 27 16,
    link := bitsOf x 37 32, rxLseq := bitsOf x 57 48, adv := BitVec.ofNat 64 (bytesOf x 8 15) }

/-! ### Packets and records -/

/-- A packet's bytes cut into flit payloads: flit k carries bytes 240k to 240k + 239 (R277). -/
def payloadsOf (bs : List Byte) : List (BitVec 1920) :=
  (chunksOf 240 (bs.length / 240 + 1) bs).map fun c => BitVec.ofNat 1920 (leNat c)

/-- The bytes of a payload. -/
def payloadBytes (x : BitVec 1920) : List Byte := leBytes 240 x.toNat

/-- A 16-byte record of bytes (R289). -/
def recordOf (bs : List Byte) : BitVec 128 := BitVec.ofNat 128 (leNat (bs.take 16))

/-- The KIND of a record, its byte 11. -/
def recordKind (r : BitVec 128) : Nat := bytesOf r 11 11

/-- The payload of a VC0 flit: up to 15 records (R289). -/
def recordsPayload (rs : List (BitVec 128)) : BitVec 1920 :=
  BitVec.ofNat 1920 (leNat (rs.flatMap fun r => leBytes 16 r.toNat))

/-- The records of a VC0 flit's payload, unused ones left out. -/
def payloadRecords (x : BitVec 1920) : List (BitVec 128) :=
  ((List.range 15).map fun i => BitVec.ofNat 128 (bytesOf x (16 * i) (16 * i + 15))).filter
    fun r => recordKind r != 0

/-! ### CRC-32C (R330) -/

/-- One byte into the running remainder of the reflected polynomial 0x82F63B78. -/
def crcByte : Nat → Nat → Nat
  | 0, c => c
  | n + 1, c => crcByte n (if c % 2 = 1 then (c / 2) ^^^ 0x82F63B78 else c / 2)

/-- CRC-32C of bytes. -/
def crc32c (bs : List Byte) : Nat :=
  (bs.foldl (fun c b => crcByte 8 (c ^^^ b.toNat)) 0xFFFFFFFF) ^^^ 0xFFFFFFFF

end Sys2Proof.Machine
end

