-- ==== Sys2Proof/Machine/StepOps.lean ====
section
/-! DEFINITION. Reading bundles and templates (R29 to R41), finding and changing the running or a
parked step, and failing an item of a step (R37). -/

namespace Sys2Proof.Machine

/-! ### Bundles (R29, R30) -/

/-- The lanes' opcode and argument fields; lane 0 is SCORE and 8 is XFER (R29). -/
def laneOp (b : Line) (lane : Nat) : Nat := bitsOf b (64 + 48 * lane + 47) (64 + 48 * lane + 40)
def laneArg (b : Line) (lane : Nat) : Nat := bitsOf b (64 + 48 * lane + 39) (64 + 48 * lane)

/-- The must-finish bit of a lane: bit 43 is SCORE's, bit 35 XFER's. -/
def laneMf (b : Line) (lane : Nat) : Bool := bitOf b (43 - lane)

/-- The other fields of a bundle. -/
def bunKind (b : Line) : Nat := bitsOf b 63 60
def bunDur (b : Line) : Nat := bitsOf b 59 44
def bunCheap (b : Line) : Bool := bitOf b 34
def bunLv (b : Line) : Bool := bitOf b 33
def bunLayer (b : Line) : Nat := bitsOf b 32 23
def bunTmpl (b : Line) : Nat := bitsOf b 22 9
def bunLset (b : Line) : Nat := bitsOf b 509 496

/-- Lane numbers. -/
def laneScore : Nat := 0
def lanePack : Nat := 1
def laneSend : Nat := 2
def laneRecv : Nat := 3
def laneFeed : Nat := 4
def laneTake : Nat := 5
def laneMeld : Nat := 6
def laneSync : Nat := 7
def laneXfer : Nat := 8

/-! ### Templates (R38 to R41) -/

/-- A LAYER template's fields (R39). -/
structure LayerT where
  mode : Nat
  gateFn : Nat
  k : Nat
  capMode : Nat
  groups : Nat
  picked : Nat
  renorm : Bool
  top2 : Bool
  mapLayer : Nat
  experts : Nat
  format : Nat
  sparse : Bool
  prune : Nat
  bestN : Nat
  tau : F32
  capacity : Nat
  base : Nat
  count : Nat
  hidden : Nat
  layout : Nat
  outFormat : Nat
  salt : Word
  deriving DecidableEq, Repr

/-- A LAYER template read (R39). -/
def readLayer (t : Line) : LayerT :=
  { mode := bytesOf t 1 1, gateFn := bytesOf t 2 2, k := bytesOf t 3 3, capMode := bytesOf t 4 4,
    groups := bytesOf t 5 5, picked := bytesOf t 6 6, renorm := bitOf t 56, top2 := bitOf t 57,
    mapLayer := bytesOf t 8 9, experts := bytesOf t 10 11, format := bitsOf t 99 96,
    sparse := bitOf t 100, prune := bytesOf t 13 13, bestN := bytesOf t 14 15,
    tau := BitVec.ofNat 32 (bytesOf t 16 19), capacity := bytesOf t 20 23, base := bytesOf t 24 25,
    count := bytesOf t 26 27, hidden := bytesOf t 28 29, layout := bytesOf t 30 30,
    outFormat := bytesOf t 31 31, salt := BitVec.ofNat 64 (bytesOf t 32 39) }

/-- Template i of a program. -/
def tmplAt (pr : Program) (i : Nat) : Option Line := pr.templates[i]?

/-- Template i where it is a LAYER template. -/
def layerTmpl (pr : Program) (i : Nat) : Option LayerT :=
  match tmplAt pr i with
  | some t => if bytesOf t 0 0 = 1 then some (readLayer t) else none
  | none => none

/-- The node set of a layer template: NODE_COUNT consecutive ids from NODE_BASE (R39). -/
def LayerT.nodes (t : LayerT) : List Nat := (List.range t.count).map fun i => t.base + i

/-- Column tiles of a layer: 512 elements each (R186). -/
def LayerT.tiles (t : LayerT) : Nat := t.hidden / 512

/-- EXPERT, EXPERT_CHOICE and SPARSE_KV (R39). -/
def modeExpert : Nat := 0
def modeChoice : Nat := 1
def modeKv : Nat := 2

/-! ### Steps -/

/-- The step, running or parked, of a context. -/
def stepOfCtx (m : Mach) (c : Nat) : Option StepRun :=
  match m.run.step with
  | some s => if s.ctx = c then some s else m.run.parked.find? fun s => s.ctx == c
  | none => m.run.parked.find? fun s => s.ctx == c

/-- The tables a step uses: those in force at its first tick edge (R122). -/
def stepTables (m : Mach) (s : StepRun) : Tables := s.tables.getD (ctxOf m s.ctx).tables

/-- The running step replaced. -/
def setStep (m : Mach) (s : StepRun) : Mach := { m with run := { m.run with step := some s } }

/-- The step of a context changed, running or parked. -/
def updStep (m : Mach) (c : Nat) (f : StepRun → StepRun) : Mach :=
  match m.run.step with
  | some s =>
    if s.ctx = c then setStep m (f s)
    else { m with run := { m.run with parked := m.run.parked.map fun s => if s.ctx = c then f s else s } }
  | none => { m with run := { m.run with parked := m.run.parked.map fun s => if s.ctx = c then f s else s } }

/-- The running step. -/
def liveStep (m : Mach) : Option StepRun := m.run.step

/-- The END that follows the bundles of a LAYER_RUN, with DUR 1 (R59). -/
def implicitEnd (layer : Nat) : Line := BitVec.ofNat 512 (at_ 60 1 + at_ 44 1 + at_ 34 1 + at_ 23 layer)

/-- Bundle i of a step. -/
def bundleAt (s : StepRun) (i : Nat) : Line :=
  match s.layerRun with
  | some l => if s.last < i then implicitEnd l else s.prog.bundles.getD i 0
  | none => s.prog.bundles.getD i 0

/-- The bundle a step is in. -/
def curBundle (s : StepRun) : Line := bundleAt s s.index

/-- A layer phase of a step. -/
def phaseOf (s : StepRun) (layer : Nat) : LayerPhase := Assoc.get {} s.phases layer

/-- A layer phase of a step replaced. -/
def setPhase (s : StepRun) (layer : Nat) (x : LayerPhase) : StepRun :=
  { s with phases := Assoc.set s.phases layer x }

/-- The state of a lane of a step. -/
def laneOf (s : StepRun) (lane : Nat) : LaneSt := Assoc.get {} s.lanes lane

/-- A lane of a step is open and bound to a layer phase (R32, R33). -/
def laneOpenAt (s : StepRun) (lane layer : Nat) : Bool :=
  let x := laneOf s lane
  x.op != 0 && x.layer == layer

/-- The layer template a lane was bound with for a layer phase, whether or not it is open now. -/
def boundTmpl (s : StepRun) (lane layer : Nat) : Option LayerT :=
  match (laneOf s lane).bound.find? fun b => b.2 == layer with
  | some b => layerTmpl s.prog b.1
  | none => none

/-- The template of the layer phase in any lane's binding: the phase's parameters (R32, R39). -/
def layerOf (s : StepRun) (layer : Nat) : Option LayerT :=
  (List.range 7).findSome? fun l => boundTmpl s l layer

/-- The key of a layer phase of a step. -/
def keyOf (s : StepRun) (layer : Nat) : Key := ⟨s.step, s.att, layer⟩

/-- A failed item is noted in a step, once (R37). -/
def failStep (s : StepRun) (f : Failure) : StepRun :=
  if s.fails.contains f then s else { s with fails := s.fails ++ [f] }

/-- A failed item is noted in the step of a context (R37). -/
def failItem (m : Mach) (c : Nat) (f : Failure) : Mach := updStep m c fun s => failStep s f

/-- The step of a context is the one a layer phase on the wire belongs to (R145). -/
def keyOfStep (s : StepRun) (k : Key) : Bool := s.step == k.step && s.att == k.att

/-- A layer phase of a context's step changed, where the step is still that of the key. -/
def updPhase (m : Mach) (c : Nat) (k : Key) (f : LayerPhase → LayerPhase) : Mach :=
  updStep m c fun s => if keyOfStep s k then setPhase s k.layer (f (phaseOf s k.layer)) else s

/-- An item of a layer phase of a context fails, where the step is still that of the key. -/
def failKey (m : Mach) (c : Nat) (k : Key) (f : Failure) : Mach :=
  updStep m c fun s => if keyOfStep s k then failStep s { f with layer := k.layer } else s

/-- The order by which R37 chooses the failure reported. -/
def failBefore (a b : Failure) : Bool :=
  let key := fun (f : Failure) => [f.layer, f.lane, (if f.ofToken then 1 else 0), f.home, f.token, f.tile, f.status]
  decide (key a < key b)

/-- The failure reported (R37). -/
def worstFailure (fs : List Failure) : Option Failure :=
  fs.foldl (fun best f => match best with
    | none => some f
    | some b => if failBefore f b then some f else some b) none

/-- The status of a step that has ended and did not abandon: the chosen failure's, else DONE or
DONE_WITH_SKIPS (R37, R110). -/
def stepStatus (s : StepRun) : Nat :=
  match worstFailure s.fails with
  | some f => f.status
  | none => if s.skips then stSkips else stDone

/-- The nodes of every LAYER template of a program (R422). -/
def jobNodes (pr : Program) : List Nat :=
  (pr.templates.filter fun t => bytesOf t 0 0 == 1).foldl
    (fun acc t => ((readLayer t).nodes.filter fun n => !acc.contains n) ++ acc) []

end Sys2Proof.Machine
end

