-- ==== Sys2Proof/Machine/Pools.lean ====
section
/-! DEFINITION. Buffer pools of a partition (R229 to R233): sizes, addresses, allocation, reference
counts and quotas. -/

namespace Sys2Proof.Machine

/-- The requesters of R232. -/
inductive Requester where
  | stage | send | recv | rstage | take | admission | cmd
  deriving DecidableEq, Repr

/-- The requester's code: the k of CTXn.QUOTAk. -/
def Requester.code : Requester → Nat
  | .stage => 0 | .send => 1 | .recv => 2 | .rstage => 3 | .take => 4 | .admission => 5 | .cmd => 6

/-- Bytes of a kiln group, and of one line. -/
def groupBytes : Nat := 2097152

/-- Buffers of class c in a partition: N_c = B_c × G (R229). -/
def poolSize (x : Ctx) (c : Nat) : Nat := x.carve.getD c 0 * x.groups.length

/-- A buffer's key in the table of allocated buffers. -/
def bufKey (c n : Nat) : Nat := 65536 * c + n

/-- The group that buffer n lies in (R229). -/
def bufGroup (x : Ctx) (n : Nat) : Nat := x.groups.getD (n % max 1 x.groups.length) 0

/-- The kiln byte address of buffer n of class c (R229). -/
def bufAddr (x : Ctx) (c n : Nat) : Nat :=
  groupBytes * bufGroup x n + 65536 * x.tblUnits
    + (((List.range 8).filter fun d => decide (c < d)).map fun d => x.carve.getD d 0 * (256 <<< d)).sum
    + n / max 1 x.groups.length * (256 <<< c)

/-- A logical group is unusable (R224). -/
def groupUnusable (p : Part) (m : Mach) (g : Nat) : Bool := rdB p m Reg.kilnGroupUnusable g

/-- The free buffers of a class in usable groups, the lowest-numbered first; one freed in this cycle is free from the
next (R230, R231). -/
def freeBufs (p : Part) (m : Mach) (c cls : Nat) : List Nat :=
  let x := ctxOf m c
  (List.range (poolSize x cls)).filter fun n =>
    (Assoc.find? x.bufs (bufKey cls n)).isNone && !groupUnusable p m (bufGroup x n) &&
      !x.freed.contains (bufKey cls n, m.tick.cycle)

/-- A class of a context can make an allocation in this cycle: it has made none, and those of a request for several
buffers, one in each cycle, are past (R230). -/
def classReady (m : Mach) (c cls : Nat) : Bool := decide (Assoc.get 0 (ctxOf m c).allocAt cls ≤ m.tick.cycle)

/-- Units of 256 bytes a requester of a context holds. -/
def quotaUsed (m : Mach) (c : Nat) (r : Requester) : Nat := Sparse.get (fun _ => 0) (ctxOf m c).used r.code

/-- Units a requester may hold. -/
def quotaLimit (p : Part) (m : Mach) (c : Nat) (r : Requester) : Nat := rdF p m (Reg.ctxQuota c r.code) 17 0

/-- A requester's units changed. -/
def setUsed (x : Ctx) (r n : Nat) : Ctx := { x with used := Sparse.set (fun _ => 0) x.used r n }

/-- The quota admits one more buffer of a class (R232). -/
def quotaAdmits (p : Part) (m : Mach) (c cls : Nat) (r : Requester) : Bool :=
  decide (quotaUsed m c r + 2 ^ cls ≤ quotaLimit p m c r)

/-- A buffer of a class is allocated with reference count 1 to a requester, or none where the quota or the class lacks
one; the class makes its next allocation in a later cycle (R230 to R232). -/
def allocBuf (p : Part) (m : Mach) (c cls : Nat) (r : Requester) : Option (Nat × Mach) :=
  if quotaAdmits p m c cls r then
    match (freeBufs p m c cls).head? with
    | some n =>
      let x := ctxOf m c
      some (n, setCtx m c { setUsed x r.code (quotaUsed m c r + 2 ^ cls) with
        bufs := Assoc.set x.bufs (bufKey cls n) (1, r.code),
        allocAt := Assoc.set x.allocAt cls (max m.tick.cycle (Assoc.get 0 x.allocAt cls) + 1) })
    | none => none
  else none

/-- A buffer's reference count written (R231). -/
def setRefs (m : Mach) (c cls n k : Nat) : Mach :=
  let x := ctxOf m c
  match Assoc.find? x.bufs (bufKey cls n) with
  | some b => setCtx m c { x with bufs := Assoc.set x.bufs (bufKey cls n) (k, b.2) }
  | none => m

/-- A buffer is freed and its units return to the requester charged; it may be allocated from the next cycle (R231,
R232). -/
def freeBuf (m : Mach) (c cls n : Nat) : Mach :=
  let x := ctxOf m c
  match Assoc.find? x.bufs (bufKey cls n) with
  | some b =>
    setCtx m c { setUsed x b.2 (Sparse.get (fun _ => 0) x.used b.2 - 2 ^ cls) with
      bufs := Assoc.erase x.bufs (bufKey cls n),
      freed := (bufKey cls n, m.tick.cycle) :: x.freed.filter fun f => f.2 == m.tick.cycle }
  | none => m

/-- A reference count is decremented: the buffer is freed at zero; a decrement of a free buffer
changes nothing and is logged (R231). -/
def decBuf (p : Part) (m : Mach) (c cls n : Nat) : Mach :=
  match Assoc.find? (ctxOf m c).bufs (bufKey cls n) with
  | some b => if b.1 ≤ 1 then freeBuf m c cls n else setRefs m c cls n (b.1 - 1)
  | none => report p m { code := 0x62, page := Reg.kilnPage, sev := .transient, ctx := c, detail := [1] }

/-- Buffers are allocated one after another, all or none. DEDUCED: a request for several buffers of a class names them
together and keeps the class for a cycle each (R230). -/
def takeBufs (p : Part) (c : Nat) (r : Requester) : List Nat → Mach → Option (List (Nat × Nat) × Mach)
  | [], m => some ([], m)
  | cls :: rest, m =>
    match allocBuf p m c cls r with
    | some (n, m1) =>
      match takeBufs p c r rest m1 with
      | some (l, m2) => some ((cls, n) :: l, m2)
      | none => none
    | none => none

/-- Buffers of the classes given are allocated, all or none, where each class can make an allocation in this cycle. -/
def allocAll (p : Part) (c : Nat) (r : Requester) (cs : List Nat) (m : Mach) : Option (List (Nat × Nat) × Mach) :=
  if cs.all (classReady m c) then takeBufs p c r cs m else none

/-- Buffers freed. -/
def freeAll (m : Mach) (c : Nat) (l : List (Nat × Nat)) : Mach := l.foldl (fun m b => freeBuf m c b.1 b.2) m

/-- A running command of a resident context goes back to its queue's head, in the order of acceptance, and
gives up what it holds (R411, R413). -/
def preemptCmd (m : Mach) (r : Running) : Mach :=
  let m := dropRunning (freeAll m r.win r.bufs) r.acc
  match queueOfWin m r.win with
  | some q =>
    let x := pqOf m q
    let (before, after) := x.head.span fun e => decide (e.acc < r.acc)
    setPq m q { x with head := before ++ { line := r.line, win := r.win, acc := r.acc, hseq := r.hseq } :: after }
  | none => m

/-- The smallest class whose buffers hold n bytes, at most 7 (R141, R197). -/
def classFor (n : Nat) : Nat := ((List.range 8).find? fun c => decide (n ≤ 256 <<< c)).getD 7

end Sys2Proof.Machine
end

