-- ==== Sys2Proof/Machine/Kiln.lean ====
section
/-! DEFINITION. The kiln's groups and lines (R214 to R224): what a group holds, what a read of a line finds, and
writes of whole and of part lines. -/

namespace Sys2Proof.Machine

/-- The physical group that holds a logical one: the spare where it serves it or is lent for its test. -/
def physGroup (p : Part) (m : Mach) (g : Nat) : Nat :=
  if m.run.kilnSt.served = some g ∨ m.run.kilnSt.bist = some g then groupCount p.conf - 1 else g

/-- REGION of KILN.UE_LAST: what the reader knows it read (`known`), else by the line's group; where in the system
region a line lies is internal to the engine (R217), so its item is then a free value. -/
def ueRegion (p : Part) (line : Nat) (known : Option Nat) : Nat :=
  match known with
  | some r => r
  | none => match groupUse p (line / 32768) with
    | .partition => 0
    | .program => 1
    | .transit => 3
    | .reduction => 7
    | .system => if p.relay then 5 + (Config.freeByte line).toNat % 2 else 2 + (Config.freeByte line).toNat % 5
    | .none => 0

/-- A read finds a line with a correctable error (R221). -/
def kilnCorrected (p : Part) (m : Mach) (line : Nat) : Mach :=
  report p m { code := 0x10, page := Reg.kilnPage, sev := .corrected, detail := [1, 0, 0, 0] ++ leBytes 4 line }

/-- An uncorrectable line that a read of a physical bank has found (R222): KILN.UE_LAST and the log entry are
written, and the line is marked. -/
def lineNoted (p : Part) (m : Mach) (line bank : Nat) (known : Option Nat) : Mach :=
  let v := line + ueRegion p line known * 2 ^ 32 + bank * 2 ^ 40
  let m := report p (wr p m Reg.kilnUeLast (wordOf v))
    { code := 0x11, page := Reg.kilnPage, sev := .transient, detail := leBytes 8 v }
  let k := m.run.kilnSt
  let bad := if k.badLines.contains line then k.badLines else line :: k.badLines
  { m with run := { m.run with kilnSt := { k with badLines := bad } } }

/-- A read finds an uncorrectable line: a second error at the bank within the window gives the bank's group up (R223,
R242), which retires when the item has failed. -/
def kilnNote (p : Part) (m : Mach) (line : Nat) (known : Option Nat) : Mach :=
  let g := line / 32768
  let bank := 8 * physGroup p m g + line % 8
  let m := lineNoted p m line bank known
  let win := rdF p m Reg.kilnUeCtrl 15 0
  let now := m.tick.time
  let k := m.run.kilnSt
  let second := k.ue.any fun e => e.1 == bank && decide (now - e.2 ≤ 1000000 * fsPerNs * win)
  { m with run := { m.run with kilnSt := { k with
    ue := (bank, now) :: k.ue.filter fun e => e.1 != bank,
    due := if win ≠ 0 ∧ second ∧ !k.due.contains g then k.due ++ [g] else k.due } } }

/-- A kiln address lies in a group that is being copied into the spare. -/
def copyBusy (m : Mach) (addr : Nat) : Bool := groupMoves m (addr / 64 / 32768)

/-- The first line of a byte range that does not decode. -/
def badLineIn (m : Mach) (a n : Nat) : Option Nat :=
  if n = 0 then none else m.run.kilnSt.badLines.find? fun l => decide (a / 64 ≤ l) && decide (l ≤ (a + n - 1) / 64)

/-- The first line that a write of part of a line would read and that does not decode (R215). -/
def tornLineIn (m : Mach) (a n : Nat) : Option Nat :=
  if n = 0 then none else m.run.kilnSt.badLines.find? fun l =>
    decide (a / 64 ≤ l) && decide (l ≤ (a + n - 1) / 64) && !(decide (a ≤ 64 * l) && decide (64 * l + 64 ≤ a + n))

/-- What the reads of a command find in the kiln (R221, R222): a corrected error is counted; a line that no longer
decodes fails the read that reaches it, and is only marked here. -/
def readFinds (p : Part) (m : Mach) (f : StoreRead) : Mach :=
  match f with
  | .line n true => kilnCorrected p m n
  | .line n false =>
    let k := m.run.kilnSt
    { m with run := { m.run with kilnSt := { k with badLines := if k.badLines.contains n then k.badLines else n :: k.badLines } } }
  | _ => m

/-- Bytes are written into a buffer of the kiln, in whole lines. -/
def putBuf (m : Mach) (c cls n off : Nat) (bs : List Byte) : Mach :=
  let a := bufAddr (ctxOf m c) cls n + off
  wholeLines (putKiln m a bs) (a / 64) ((a + bs.length + 63) / 64)

end Sys2Proof.Machine
end

