-- ==== Sys2Proof/Machine/Layout.lean ====
section
/-! DEFINITION. Layout transformation, gather and scatter (R243 to R265), and what a collective
shares with them: an operation that is a command or an XFER lane item, and its transfer windows. -/

namespace Sys2Proof.Machine

/-! ### An operation, command or lane item (R40, R389) -/

/-- An operation as the layout engine and the collectives see it. -/
structure OpCtx where
  owner : CollOwner
  ctx : Nat
  opc : Nat
  /-- the template form: byte 1 the opcode, bytes 8 to 63 the descriptor -/
  line : Line
  wins : List Word
  stage : Nat
  memFail : Bool
  bufs : List (Nat × Nat)
  deriving DecidableEq, Repr

/-- What the operation's memory transactions are for: its reads and its writes. -/
def OpCtx.useR (o : OpCtx) : TxnUse := match o.owner with
  | .cmd acc => .cmdRead acc
  | .lane t => .xfer o.ctx t
def OpCtx.useW (o : OpCtx) : TxnUse := match o.owner with
  | .cmd acc => .cmdWrite acc
  | .lane t => .xfer o.ctx t

/-- A running command as an operation, with the image that its DESC names (R389). -/
def opOfCmd (m : Mach) (r : Running) : OpCtx :=
  { owner := .cmd r.acc, ctx := r.win, opc := recOp r.line,
    line := r.desc.getD (hostLine m (bytesOf r.line 16 23 % 2 ^ 42)), wins := r.wins, stage := r.stage,
    memFail := r.memFail, bufs := r.bufs }

/-- An XFER lane item as an operation. -/
def opOfLane (c : Nat) (x : XferOp) : OpCtx :=
  { owner := .lane x.tmpl, ctx := c, opc := bytesOf x.line 1 1, line := x.line, wins := x.wins,
    stage := x.stage, memFail := x.memFail, bufs := x.bufs }

/-- An XFER lane operation of a template that has no outcome yet. Of several the oldest goes first, and the next
begins when it has ended (R34). -/
def outstanding (t : Nat) (x : XferOp) : Bool := x.tmpl == t && x.outcome.isNone

/-- The first of a list that a test picks is changed. -/
def mapFirst {α : Type} (pick : α → Bool) (f : α → α) : List α → List α
  | [] => []
  | x :: xs => if pick x then f x :: xs else x :: mapFirst pick f xs

/-- The operation of an owner in a context, while it runs. -/
def findOp (m : Mach) (c : Nat) : CollOwner → Option OpCtx
  | .cmd acc => (findAcc m acc).map (opOfCmd m)
  | .lane t => match stepOfCtx m c with
    | some s => (s.xfers.find? (outstanding t)).map (opOfLane c)
    | none => none

/-- The operation an event names, where it has the opcode and the engine runs work. -/
def dueOp (p : Part) (m : Mach) (o : OpRef) (opc : Nat) : Option OpCtx :=
  match o with
  | .cmd w seq => ((dueCmd p m w seq opc).map (opOfCmd m)).filter fun x => !groupCopies m x.ctx
  | .lane t =>
    if engineUp m && !isFatal p m then
      match m.run.step with
      | some s => match findOp m s.ctx (.lane t) with
        | some x => if x.opc = opc ∧ groupCopies m s.ctx = false then some x else none
        | none => none
      | none => none
    else none

/-- The stage of an operation, its buffers and its image are noted. -/
def setOp (m : Mach) (o : OpCtx) : Mach :=
  match o.owner with
  | .cmd acc => match findAcc m acc with
    | some r => setRunning m { r with stage := o.stage, bufs := o.bufs, desc := some o.line }
    | none => m
  | .lane t => updStep m o.ctx fun s =>
      let xs := mapFirst (outstanding t) (fun x => { x with stage := o.stage, bufs := o.bufs }) s.xfers
      { s with xfers := xs }

/-- An operation ends with a status: the command completes, or the lane item has its outcome, and
one other than DONE fails the step (R37, R263). Its buffers are freed. -/
def endOp (m : Mach) (o : OpCtx) (st : Nat) (detail : Nat := 0) : Mach :=
  let m := freeAll m o.ctx o.bufs
  match o.owner with
  | .cmd acc => match findAcc m acc with
    | some r => complete m r st detail
    | none => m
  | .lane t => updStep m o.ctx fun s =>
      match s.xfers.find? (outstanding t) with
      | some x =>
        let xs := mapFirst (outstanding t) (fun x => { x with outcome := some st }) s.xfers
        let s := { s with xfers := xs }
        if st = stDone then s else failStep s ⟨x.layer, laneXfer, false, 0, 0, 0, st⟩
      | none => s

/-- Bytes lo to hi of the descriptor. -/
def OpCtx.f (o : OpCtx) (lo hi : Nat) : Nat := bytesOf o.line (lo + 8) (hi + 8)

/-- A signed 32-bit field of the descriptor. -/
def OpCtx.s (o : OpCtx) (lo : Nat) : Int := signed 32 (o.f lo (lo + 3))

/-! ### Transfer windows (R243, R244) -/

/-- A window in force for an operation. -/
structure XWin where
  kiln : Bool
  base : Nat
  len : Nat
  deriving DecidableEq, Repr

/-- Window k of an operation; none where it is disabled (R243, R244). -/
def xfWin (m : Mach) (o : OpCtx) (k : Nat) : Option XWin :=
  let b := o.wins.getD (2 * k) 0
  let len := 4096 * bitsOf (o.wins.getD (2 * k + 1) 0) 29 0
  let w : XWin := { kiln := bitOf b 62, base := 4096 * bitsOf b 41 12, len := len }
  if !bitOf b 63 || len = 0 then none
  else if w.kiln && decide (partitionBytes (ctxOf m o.ctx) < w.base + len) then none
  else some w
where
  partitionBytes (x : Ctx) : Nat := groupBytes * x.groups.length

/-- The kiln byte address of a partition offset: groups ascending, 2 MiB each (R41, R243). -/
def partAddr (x : Ctx) (o : Nat) : Nat := groupBytes * x.groups.getD (o / groupBytes) 0 + o % groupBytes

/-- A byte range lies inside a window. -/
def XWin.holds (w : XWin) (lo hi : Int) : Bool := decide (0 ≤ lo) && decide (hi ≤ w.len)

/-- Bytes of a window. -/
def winRead (m : Mach) (c : Nat) (w : XWin) (off n : Nat) : List Byte :=
  if w.kiln then (List.range n).map fun i => byteAt m.mem.kiln (partAddr (ctxOf m c) (w.base + off + i))
  else hostBytes m (w.base + off) n

/-- The pieces of a partition byte range, one for each group it reaches: kiln address, place in the range, length. -/
def partParts (x : Ctx) (o n : Nat) : List (Nat × Nat × Nat) :=
  ((List.range (n / groupBytes + 2)).map fun i =>
    let lo := max o (groupBytes * (o / groupBytes + i))
    let hi := min (o + n) (groupBytes * (o / groupBytes + i + 1))
    (partAddr x lo, lo - o, hi - lo)).filter fun q => q.2.2 != 0

/-- Bytes written into a window: the kiln takes them, host memory through write transactions. -/
def winWrite (p : Part) (m : Mach) (c : Nat) (w : XWin) (off : Nat) (bs : List Byte) (use : TxnUse)
    (strided : Option Nat := none) : Mach :=
  if w.kiln then
    (partParts (ctxOf m c) (w.base + off) bs.length).foldl (fun m q => putKiln m q.1 ((bs.drop q.2.1).take q.2.2))
      (countStrided p m strided)
  else startWrites p m (w.base + off) bs use strided

/-- A range of a host window is read; a kiln window needs no transaction. -/
def winFetch (p : Part) (m : Mach) (w : XWin) (off n : Nat) (use : TxnUse) (strided : Option Nat := none) : Mach :=
  if w.kiln then countStrided p m strided else startReads p m (w.base + off) n use strided

/-- The first line of a window's range that a test of kiln byte ranges finds. -/
def winFind (find : Mach → Nat → Nat → Option Nat) (m : Mach) (c : Nat) (w : XWin) (off n : Nat) : Option Nat :=
  if w.kiln then (partParts (ctxOf m c) (w.base + off) n).findSome? fun q => find m q.1 q.2.2 else none

/-- The first line of a window's range that does not decode (R222). -/
def winBad (m : Mach) (c : Nat) (w : XWin) (off n : Nat) : Option Nat := winFind badLineIn m c w off n

/-- The first line that a write to a window's range fills in part and that does not decode (R215). -/
def winTorn (m : Mach) (c : Nat) (w : XWin) (off n : Nat) : Option Nat := winFind tornLineIn m c w off n

/-- Bytes written into a window; the line, where the write of a part of it finds that it does not decode, and nothing
is written (R215, R222). -/
def winPut (p : Part) (m : Mach) (c : Nat) (w : XWin) (off : Nat) (bs : List Byte) (use : TxnUse)
    (strided : Option Nat := none) : Mach × Option Nat :=
  match winTorn m c w off bs.length with
  | some l => (kilnNote p (countStrided p m strided) l (some 0), some l)
  | none => (winWrite p m c w off bs use strided, none)

/-! ### Elements (R246, R247) -/

/-- The code of RAW8. -/
def raw8 : Nat := 0xE

/-- An element's bytes. -/
def elemSize (code : Nat) : Nat := if code = raw8 then 1 else elemBits code / 8

/-- A code R246 lists. -/
def xfmtOk (code : Nat) : Bool := decide (code ≤ 4) || code == raw8

/-- One element copied, or converted and perhaps saturated (R246). -/
def convElem (s d v : Nat) : Nat × Bool :=
  if s = d then (v, false) else convertPlain d (decodeElem s v)

/-- The elements of bytes. -/
def elemsOf (code : Nat) (bs : List Byte) : List Nat :=
  (chunksOf (elemSize code) (bs.length + 1) bs).map leNat

/-- An access converted: its bytes and how many elements saturated. -/
def convAccess (s d : Nat) (bs : List Byte) : List Byte × Nat :=
  if s = d then (bs, 0)
  else (elemsOf s bs).foldl (fun a v =>
    let x := convElem s d v
    (a.1 ++ leBytes (elemSize d) x.1, a.2 + if x.2 then 1 else 0)) ([], 0)

/-- An element widened exactly to binary32, subnormals kept. -/
def widen (code v : Nat) : F32 :=
  match decodeElem code v with
  | .nan => nan32
  | w => ofVal32 w

/-! ### The shape of an operation -/

/-- What the descriptor asks for, whichever of the three it is: formats, widths in bytes and
elements, windows, offsets. -/
structure Shape where
  sfmt : Nat
  dfmt : Nat
  w : Nat
  v : Nat
  wd : Nat
  acc : Bool
  skip : Bool
  srcOff : Nat
  dstOff : Nat
  deriving DecidableEq, Repr

/-- The opcodes. -/
def opXform : Nat := 0x30
def opGather : Nat := 0x31
def opScatter : Nat := 0x32

/-- The shape read from a descriptor (R248, R254). -/
def shapeOf (o : OpCtx) : Shape :=
  let sfmt := o.f 1 1 % 16
  let dfmt := o.f 1 1 / 16
  let w := 2 ^ (o.f 2 2 % 16)
  let v := w / max 1 (elemSize sfmt)
  { sfmt := sfmt, dfmt := dfmt, w := w, v := v, wd := v * elemSize dfmt,
    acc := o.f 0 0 % 2 = 1, skip := bitOf (BitVec.ofNat 8 (o.f 0 0)) 1,
    srcOff := (if o.opc = opXform then o.f 44 49 else o.f 20 25) % 2 ^ 42,
    dstOff := (if o.opc = opXform then o.f 50 55 else o.f 26 31) % 2 ^ 42 }

/-- XFORM: counts and strides of the four dimensions. -/
def OpCtx.n4 (o : OpCtx) : List Nat := (List.range 4).map fun k => o.f (4 + 2 * k) (5 + 2 * k)
def OpCtx.s4 (o : OpCtx) : List Int := (List.range 4).map fun k => o.s (12 + 4 * k)
def OpCtx.d4 (o : OpCtx) : List Int := (List.range 4).map fun k => o.s (28 + 4 * k)

/-- GATHER and SCATTER: count, row elements, strides, index list offset. -/
def OpCtx.count (o : OpCtx) : Nat := o.f 4 7
def OpCtx.rowElems (o : OpCtx) : Nat := o.f 8 11
def OpCtx.srcStride (o : OpCtx) : Int := o.s 12
def OpCtx.dstStride (o : OpCtx) : Int := o.s 16
def OpCtx.idxOff (o : OpCtx) : Nat := o.f 32 37 % 2 ^ 42

/-- The windows an operation names: source, destination, index list. -/
def OpCtx.winNo (o : OpCtx) (k : Nat) : Nat := o.f 3 3 / 4 ^ k % 4

/-- Every tuple of the index space in source index order, i0 fastest (R249). -/
def tuples : List Nat → List (List Nat)
  | [] => [[]]
  | n :: r => (tuples r).flatMap fun t => (List.range n).map fun i => i :: t

/-- The displacement of a tuple. -/
def dotStride (t : List Nat) (s : List Int) : Int := ((t.zip s).map fun x => (x.1 : Int) * x.2).sum

/-- The lowest and highest displacement over the index space (R250). -/
def reach (n : List Nat) (s : List Int) : Int × Int :=
  (n.zip s).foldl (fun a x =>
    let e := ((x.1 : Int) - 1) * x.2
    if e < 0 then (a.1 + e, a.2) else (a.1, a.2 + e)) (0, 0)

/-- The accesses of a row of an operation. -/
def rowAccesses (o : OpCtx) (h : Shape) : Nat := o.rowElems / max 1 h.v

/-- The index list's entries, as far as its window holds them. -/
def idxEntries (m : Mach) (o : OpCtx) (w : XWin) : List Nat :=
  let n := min o.count ((w.len - o.idxOff) / 4)
  (chunksOf 4 (n + 1) (winRead m o.ctx w o.idxOff (4 * n))).map leNat

/-- An entry that skips its row (R256). -/
def isSkip (h : Shape) (e : Nat) : Bool := h.skip && e == 0xFFFFFFFF

/-- The source row of entry i with value e, and its destination row: element displacements. -/
def srcRow (o : OpCtx) (i e : Nat) : Int := (if o.opc = opGather then (e : Int) else i) * o.srcStride
def dstRow (o : OpCtx) (i e : Nat) : Int := (if o.opc = opGather then (i : Int) else e) * o.dstStride

/-- Every access in source index order: byte offsets within the source and destination windows;
no source where a GATHER writes zeros (R249, R255, R256). -/
def accesses (o : OpCtx) (h : Shape) (idx : List Nat) : List (Option Int × Int) :=
  let sb := elemSize h.sfmt
  let db := elemSize h.dfmt
  if o.opc = opXform then
    (tuples o.n4).map fun t => (some (h.srcOff + sb * dotStride t o.s4), h.dstOff + db * dotStride t o.d4)
  else
    idx.zipIdx.flatMap fun (e, i) =>
      if isSkip h e && o.opc == opScatter then []
      else (List.range (rowAccesses o h)).map fun k =>
        ((if isSkip h e then none else some (h.srcOff + sb * (srcRow o i e + (k * h.v : Nat)))),
         h.dstOff + db * (dstRow o i e + (k * h.v : Nat)))

/-! ### The checks of R260 -/

/-- A failure: reason, status, operand, position. -/
structure XfFail where
  reason : Nat
  status : Nat
  operand : Nat
  pos : Nat := 0
  deriving DecidableEq, Repr

/-- FIELD (R260). -/
def fieldBad (o : OpCtx) : Bool :=
  let offBad := fun (a : Nat) => decide (2 ^ 42 ≤ a)
  if o.opc = opXform then
    decide (2 ≤ o.f 0 0) || decide (16 ≤ o.f 2 2) || decide (16 ≤ o.f 3 3) || o.n4.any (· == 0) ||
    offBad (o.f 44 49) || offBad (o.f 50 55)
  else
    decide (4 ≤ o.f 0 0) || decide (16 ≤ o.f 2 2) || decide (64 ≤ o.f 3 3) ||
    o.count == 0 || decide (16777216 < o.count) || o.rowElems == 0 || decide (1048576 < o.rowElems) ||
    offBad (o.f 20 25) || offBad (o.f 26 31) || offBad (o.f 32 37) || o.f 38 55 != 0 ||
    (o.opc == opGather && o.f 0 0 % 2 == 1)

/-- FMT (R246, R247, R260). -/
def fmtBad (h : Shape) : Bool :=
  !xfmtOk h.sfmt || !xfmtOk h.dfmt || ((h.sfmt == raw8) != (h.dfmt == raw8)) || (h.acc && h.dfmt == raw8) ||
  decide (512 < h.w) || decide (h.w < elemSize h.sfmt) || decide (512 < h.wd) || decide (h.wd < elemSize h.dfmt)

/-- ALIGN: an offset or stride that is no whole number of accesses (R247). -/
def alignBad (o : OpCtx) (h : Shape) : Option Nat :=
  let strideBad := fun (s : Int) => s.natAbs % max 1 h.v != 0
  let rowBad := o.opc != opXform && o.rowElems % max 1 h.v != 0
  let ss := if o.opc = opXform then o.s4 else [o.srcStride]
  let ds := if o.opc = opXform then o.d4 else [o.dstStride]
  if h.srcOff % h.w != 0 || ss.any strideBad || rowBad then some 0
  else if h.dstOff % max 1 h.wd != 0 || ds.any strideBad then some 1
  else if o.opc != opXform && o.idxOff % 4 != 0 then some 2
  else none

/-- The disjointness test of R251 on (count, stride) pairs. -/
def disjointDims (dims : List (Nat × Int)) (v : Nat) : Bool :=
  let keyed := (dims.filter fun d => decide (2 ≤ d.1)).map fun d => (d.2.natAbs, d.1)
  let sorted := keyed.foldl (fun acc x => ins x acc) []
  (sorted.foldl (fun (a : Bool × Nat) x =>
    if a.1 && decide (a.2 ≤ x.1) then (true, a.2 + x.1 * (x.2 - 1)) else (false, a.2)) (true, v)).1
where
  ins (x : Nat × Nat) : List (Nat × Nat) → List (Nat × Nat)
    | [] => [x]
    | y :: r => if x.1 < y.1 then x :: y :: r else y :: ins x r

/-- The byte range an operand reaches: lowest byte and one past the highest; none where it reaches
nothing (R250, R256). -/
def srcRange (o : OpCtx) (h : Shape) (idx : List Nat) : Option (Int × Int) :=
  let b : Int := elemSize h.sfmt
  if o.opc = opXform then
    let r := reach o.n4 o.s4
    some (h.srcOff + b * r.1, h.srcOff + b * r.2 + h.w)
  else rangeOfRows (rows.map fun r => h.srcOff + b * r) (b * o.rowElems)
where
  rows : List Int := (idx.zipIdx.filter fun x => !isSkip h x.1).map fun (e, i) => srcRow o i e
  rangeOfRows (starts : List Int) (n : Int) : Option (Int × Int) :=
    match starts with
    | [] => none
    | a :: r => some (r.foldl min a, r.foldl max a + n)

/-- As `srcRange`, for the destination; a GATHER's skipped rows count. -/
def dstRange (o : OpCtx) (h : Shape) (idx : List Nat) : Option (Int × Int) :=
  let b : Int := elemSize h.dfmt
  if o.opc = opXform then
    let r := reach o.n4 o.d4
    some (h.dstOff + b * r.1, h.dstOff + b * r.2 + h.wd)
  else srcRange.rangeOfRows (rows.map fun r => h.dstOff + b * r) (b * o.rowElems)
where
  rows : List Int := (idx.zipIdx.filter fun x => o.opc == opGather || !isSkip h x.1).map fun (e, i) => dstRow o i e

/-- The first entry whose list place, source row or destination row lies outside its window. -/
def rowsOut (o : OpCtx) (h : Shape) (sw dw iw : XWin) (idx : List Nat) : Option XfFail :=
  let sb : Int := elemSize h.sfmt
  let db : Int := elemSize h.dfmt
  let inWin := fun (w : XWin) (lo n : Int) => w.holds lo (lo + n)
  let bad := idx.zipIdx.findSome? fun (e, i) =>
    if !isSkip h e && !inWin sw (h.srcOff + sb * srcRow o i e) (sb * o.rowElems) then some (0, i)
    else if (o.opc == opGather || !isSkip h e) && !inWin dw (h.dstOff + db * dstRow o i e) (db * o.rowElems) then
      some (1, i)
    else none
  match bad with
  | some (k, i) => some ⟨0x06, stRegionBounds, k, i⟩
  | none => if iw.holds o.idxOff (o.idxOff + 4 * o.count) then none
            else some ⟨0x06, stRegionBounds, 2, idx.length⟩

/-- Two operands in the same space share a byte (R253). -/
def rangesMeet (a b : XWin × Option (Int × Int)) : Bool :=
  match a.2, b.2 with
  | some x, some y => a.1.kiln == b.1.kiln && decide (a.1.base + x.1 < b.1.base + y.2) && decide (b.1.base + y.1 < a.1.base + x.2)
  | _, _ => false

/-- The position of the first entry equal to an earlier one. -/
def firstRepeat : List Nat → List (Nat × Nat) → Option Nat
  | _, [] => none
  | seen, (e, i) :: r => if seen.contains e then some i else firstRepeat (e :: seen) r

/-- COLLISION (R252, R257). -/
def collisionAt (o : OpCtx) (h : Shape) (idx : List Nat) : Option Nat :=
  if o.opc = opXform then
    (if !h.acc && !disjointDims (o.n4.zip o.d4) h.v then some 0 else none)
  else if o.opc = opGather then
    (if disjointDims [(rowAccesses o h, (h.v : Int)), (o.count, o.dstStride)] h.v then none else some 0)
  else if h.acc then none
  else
    let live := idx.zipIdx.filter fun x => !isSkip h x.1
    if o.dstStride.natAbs < o.rowElems && decide (2 ≤ live.length) then live[1]?.map (·.2)
    else firstRepeat [] live

/-- Class-7 buffers the operation stages in: the bitmap of a SCATTER (R259) or the sums of an
ACCUMULATE (R262). -/
def stageBuffers (o : OpCtx) (h : Shape) (idx : List Nat) : Nat :=
  if h.acc then
    match dstRange o h idx with
    | some (lo, hi) => ceilDiv ((hi - lo).toNat / elemSize h.dfmt * 4) 32768
    | none => 0
  else if o.opc = opScatter then
    match (idx.filter fun e => !isSkip h e) with
    | [] => 0
    | a :: r => ceilDiv (r.foldl max a + 1) 262144
  else 0

/-- The first three checks and ALIGN, which need no index list. -/
def checkEarly (m : Mach) (o : OpCtx) : Option XfFail :=
  let h := shapeOf o
  let ops := if o.opc = opXform then [0, 1] else [0, 1, 2]
  if fieldBad o then some ⟨0x01, stFormat, 3, 0⟩
  else if fmtBad h then some ⟨0x02, stFormat, 3, 0⟩
  else match ops.find? fun k => (xfWin m o (o.winNo k)).isNone with
    | some k => some ⟨0x03, stRegionBounds, k, 0⟩
    | none => (alignBad o h).map fun k => ⟨0x04, stAlign, k, 0⟩

/-- The checks from INDEX on. -/
def checkLate (o : OpCtx) (sw dw iw : XWin) (idx : List Nat) : Option XfFail :=
  let h := shapeOf o
  let gs := o.opc != opXform
  match (if gs then idx.zipIdx.find? fun x => decide (2 ^ 31 ≤ x.1) && !isSkip h x.1 else none) with
  | some (_, i) => some ⟨0x05, stIndexRange, 2, i⟩
  | none =>
    let out := if gs then rowsOut o h sw dw iw idx else
      (match srcRange o h [], dstRange o h [] with
       | some a, some b =>
         if !sw.holds a.1 a.2 then some ⟨0x06, stRegionBounds, 0, 0⟩
         else if !dw.holds b.1 b.2 then some ⟨0x06, stRegionBounds, 1, 0⟩ else none
       | _, _ => none)
    match out with
    | some e => some e
    | none =>
      let s := (sw, srcRange o h idx)
      let d := (dw, dstRange o h idx)
      let i := (iw, some ((o.idxOff : Int), (o.idxOff + 4 * o.count : Int)))
      if rangesMeet s d then some ⟨0x07, stCollision, 1, 0⟩
      else if gs && rangesMeet s i then some ⟨0x07, stCollision, 2, 0⟩
      else if gs && rangesMeet d i then some ⟨0x07, stCollision, 2, 0⟩
      else match collisionAt o h idx with
        | some i => some ⟨0x08, stCollision, 1, if gs then i else 0⟩
        | none => if 512 < stageBuffers o h idx then some ⟨0x09, stQuota, 3, 0⟩ else none

/-- A failure's outcome: XF_ERR, and the operation ends (R260). -/
def xfEnd (p : Part) (m : Mach) (o : OpCtx) (e : XfFail) : Mach :=
  endOp (wr p m (Reg.ctxXfErr o.ctx) (wordOf (e.reason * 2 ^ 56 + e.operand * 2 ^ 54 + e.pos))) o e.status

/-! ### The move phase (R252, R255 to R258, R261 to R264) -/

/-- The bytes of one source access; zeros where a GATHER skips. -/
def srcBytes (m : Mach) (o : OpCtx) (h : Shape) (sw : XWin) (a : Option Int) : List Byte :=
  match a with
  | some x => winRead m o.ctx sw x.toNat h.w
  | none => List.replicate h.w 0

/-- The destination accesses and their new bytes without ACCUMULATE, in order. -/
def moved (m : Mach) (o : OpCtx) (h : Shape) (sw : XWin) (idx : List Nat) : List (Nat × List Byte) × Nat :=
  (accesses o h idx).foldl (fun a x =>
    let c := convAccess h.sfmt h.dfmt (srcBytes m o h sw x.1)
    (a.1 ++ [(x.2.toNat, c.1)], a.2 + c.2)) ([], 0)

/-- The destination accesses with their sums under ACCUMULATE (R252): each access once, with its
first element's old value and every contribution in source index order. -/
def summed (m : Mach) (o : OpCtx) (h : Shape) (sw dw : XWin) (idx : List Nat) : List (Nat × List Byte) × Nat :=
  let start : Assoc (List F32) := []
  let sums := (accesses o h idx).foldl (fun t x =>
    let d := x.2.toNat
    let old := (Assoc.find? t d).getD ((elemsOf h.dfmt (winRead m o.ctx dw d h.wd)).map (widen h.dfmt))
    let xs := (elemsOf h.sfmt (srcBytes m o h sw x.1)).map (widen h.sfmt)
    Assoc.set t d ((old.zip xs).map fun q => addK q.1 q.2)) start
  sums.foldl (fun a (d, v) =>
    let c := v.map fun f => convertPlain h.dfmt (val32 f)
    (a.1 ++ [(d, c.flatMap fun x => leBytes (elemSize h.dfmt) x.1)], a.2 + (c.filter (·.2)).length)) ([], 0)

/-- A side's innermost dimension is contiguous and its run is at least 64 bytes: it takes the streaming path (R264). -/
def streams (o : OpCtx) (h : Shape) (src : Bool) : Bool :=
  let b := elemSize (if src then h.sfmt else h.dfmt)
  if o.opc = opXform then
    (if src then o.s4 else o.d4).getD 0 0 == (h.v : Int) && decide (64 ≤ o.n4.getD 0 0 * h.v * b)
  else decide (64 ≤ o.rowElems * b)

/-- Sorted access offsets of n bytes as the longest contiguous ranges. -/
def joinRuns (n : Nat) : List Nat → List (Nat × Nat)
  | [] => []
  | a :: r => match joinRuns n r with
    | (b, k) :: q => if a + n = b then (a, n + k) :: q else (a, n) :: (b, k) :: q
    | [] => [(a, n)]

/-- The source rows an operation with an index list reads: a GATHER's distinct rows once in each run of 4,096 entries
(R258), a SCATTER's rows that are not skipped. -/
def readRows (o : OpCtx) (h : Shape) (idx : List Nat) : List Int :=
  if o.opc = opGather then
    (chunksOf 4096 (idx.length + 1) idx).flatMap fun r =>
      ((r.filter fun e => !isSkip h e).map fun e => srcRow o 0 e).eraseDups
  else (idx.zipIdx.filter fun x => !isSkip h x.1).map fun (e, i) => srcRow o i e

/-- The reads of the source side, byte offset and length: on the streaming path one for each contiguous run, on the
strided path one for each access (R264). -/
def sourceReads (o : OpCtx) (h : Shape) (idx : List Nat) : List (Nat × Nat) :=
  let b := elemSize h.sfmt
  let at_ := fun (x : Int) => (h.srcOff + b * x).toNat
  if o.opc = opXform then
    if streams o h true then (tuples (1 :: o.n4.drop 1)).map fun t => (at_ (dotStride t o.s4), o.n4.getD 0 0 * h.w)
    else (tuples o.n4).map fun t => (at_ (dotStride t o.s4), h.w)
  else if streams o h true then (readRows o h idx).map fun r => (at_ r, o.rowElems * b)
  else (readRows o h idx).flatMap fun r => (List.range (rowAccesses o h)).map fun k => (at_ (r + (k * h.v : Nat)), h.w)

/-- The destination accesses, each once, in ascending order. -/
def destAccesses (o : OpCtx) (h : Shape) (idx : List Nat) : List Nat :=
  let none' : Assoc Unit := []
  ((accesses o h idx).foldl (fun (a : Assoc Unit) x => Assoc.set a x.2.toNat ()) none').map fun q => q.1

/-- The reads of the destination side, under ACCUMULATE only: each access once (R262). -/
def destReads (o : OpCtx) (h : Shape) (idx : List Nat) : List (Nat × Nat) :=
  if !h.acc then []
  else if streams o h false then joinRuns h.wd (destAccesses o h idx)
  else (destAccesses o h idx).map fun d => (d, h.wd)

/-- The context whose XF_STRIDED counts the accesses of a side, where it takes the strided path (R264, R265). -/
def stridedBy (o : OpCtx) (h : Shape) (src : Bool) : Option Nat := if streams o h src then none else some o.ctx

/-- The reads of an operation are issued (R264, R265). -/
def fetchData (p : Part) (m : Mach) (o : OpCtx) (sw dw : XWin) (idx : List Nat) : Mach :=
  let h := shapeOf o
  let m := (sourceReads o h idx).foldl (fun m q => winFetch p m sw q.1 q.2 o.useR (stridedBy o h true)) m
  (destReads o h idx).foldl (fun m q => winFetch p m dw q.1 q.2 o.useR (stridedBy o h false)) m

/-- The first kiln line that the reads of an operation find undecodable. -/
def readBad (m : Mach) (o : OpCtx) (sw dw : XWin) (idx : List Nat) : Option Nat :=
  let h := shapeOf o
  ((sourceReads o h idx).findSome? fun q => winBad m o.ctx sw q.1 q.2).orElse fun _ =>
    (destReads o h idx).findSome? fun q => winBad m o.ctx dw q.1 q.2

/-- Writes are made one after another; at the first that finds an undecodable line the operation fails (R215,
R222). -/
def putAll (p : Part) (o : OpCtx) (dw : XWin) : List (Nat × List Byte) → Mach → Mach
  | [], m => m
  | x :: r, m => match winPut p m o.ctx dw x.1 x.2 o.useW (stridedBy o (shapeOf o) false) with
    | (m, some _) => endOp m o stUncorrectable
    | (m, none) => putAll p o dw r m

/-- Accesses that follow one another without a gap, joined. -/
def joinWrites : List (Nat × List Byte) → List (Nat × List Byte)
  | [] => []
  | x :: r => match joinWrites r with
    | y :: q => if x.1 + x.2.length = y.1 then (x.1, x.2 ++ y.2) :: q else x :: y :: q
    | [] => [x]

/-- The accesses of one contiguous run of the destination: the innermost dimension, or a row (R264). -/
def runAccesses (o : OpCtx) (h : Shape) : Nat := if o.opc = opXform then o.n4.getD 0 0 else rowAccesses o h

/-- The writes of the destination side: on the streaming path one for each contiguous run, on the strided path one for
each access (R264). -/
def destWrites (o : OpCtx) (h : Shape) (ws : List (Nat × List Byte)) : List (Nat × List Byte) :=
  if !streams o h false then ws
  else if h.acc then joinWrites ws
  else (chunksOf (runAccesses o h) (ws.length + 1) ws).flatMap joinWrites

/-- The accesses are written, and the saturations count (R265). -/
def moveAll (p : Part) (m : Mach) (o : OpCtx) (sw dw : XWin) (idx : List Nat) : Mach :=
  let h := shapeOf o
  let (ws, sat) := if h.acc then summed m o h sw dw idx else moved m o h sw idx
  putAll p o dw (destWrites o h ws) (bump p m (Reg.ctxXfSatCnt o.ctx) sat)

/-! ### The stages of an operation -/

/-- The windows and index list of an operation past its early checks. -/
def opParts (m : Mach) (o : OpCtx) : Option (XWin × XWin × XWin × List Nat) :=
  match xfWin m o (o.winNo 0), xfWin m o (o.winNo 1) with
  | some sw, some dw =>
    if o.opc = opXform then some (sw, dw, sw, [])
    else match xfWin m o (o.winNo 2) with
      | some iw => some (sw, dw, iw, idxEntries m o iw)
      | none => none
  | _, _ => none

/-- Stage 0: the image (R389), the early checks, and the read of the index list. -/
def stageEarly (p : Part) (m : Mach) (o : OpCtx) : Mach :=
  if bytesOf o.line 0 0 ≠ 2 ∨ bytesOf o.line 1 1 ≠ o.opc then endOp m o stFormat
  else match checkEarly m o with
    | some e => xfEnd p m o e
    | none =>
      let m := setOp m { o with stage := 1 }
      match (if o.opc = opXform then none else xfWin m o (o.winNo 2)) with
      | some iw => winFetch p m iw o.idxOff (min (4 * o.count) (iw.len - o.idxOff)) o.useR
      | none => m

/-- The first line of an operation's index list that does not decode. -/
def listBad (m : Mach) (o : OpCtx) (iw : XWin) : Option Nat :=
  if o.opc = opXform then none else winBad m o.ctx iw o.idxOff (min (4 * o.count) (iw.len - o.idxOff))

/-- A read of an operation finds an undecodable line: the operation fails (R222). -/
def lineLost (p : Part) (m : Mach) (o : OpCtx) (l : Nat) : Mach := endOp (kilnNote p m l (some 0)) o stUncorrectable

/-- A failure that the bitmap of a SCATTER finds: equal entries (R257, R259). DEDUCED: where the bitmap is too large,
the table's order still puts COLLISION before STAGE. -/
def byBitmap (o : OpCtx) (e : XfFail) (idx : List Nat) : Bool :=
  e.reason == 0x08 && o.opc == opScatter && decide (o.rowElems ≤ o.dstStride.natAbs) &&
    decide (stageBuffers o (shapeOf o) idx ≤ 512)

/-- Stage 1: the other checks, the staging buffers (waiting while the quota or class lacks one, before equal entries
are found as well as before the move), and the reads. -/
def stageCheck (p : Part) (m : Mach) (o : OpCtx) : Mach :=
  match opParts m o with
  | some (sw, dw, iw, idx) =>
    match listBad m o iw with
    | some l => lineLost p m o l
    | none =>
      let bufs := allocAll p o.ctx .cmd (List.replicate (stageBuffers o (shapeOf o) idx) 7) m
      match checkLate o sw dw iw idx, bufs with
      | some e, some (bufs, m') => if byBitmap o e idx then xfEnd p m' { o with bufs := bufs } e else xfEnd p m o e
      | some e, none => if byBitmap o e idx then m else xfEnd p m o e
      | none, some (bufs, m) => fetchData p (setOp m { o with stage := 2, bufs := bufs }) o sw dw idx
      | none, none => m
  | none => xfEnd p m o ⟨0x03, stRegionBounds, 0, 0⟩

/-- The operation as the item of a hearth. -/
def OpCtx.item (m : Mach) (o : OpCtx) : ItemRef := match o.owner with
  | .cmd acc => match findAcc m acc with
    | some r => .cmd r.win r.hseq
    | none => .none
  | .lane t => .step ((stepOfCtx m o.ctx).elim 0 fun s => (s.xfers.find? (outstanding t)).elim 0 fun x => x.layer)
      laneXfer 0 0 t

/-- The work of an operation on hearths: a format conversion on a sparse coder, an accumulation on a combine unit, each
placed under R10; it waits where one of them has no place. -/
def onUnits (p : Part) (m : Mach) (o : OpCtx) (h : Shape) (n : Nat) (work : Mach → Mach) : Mach :=
  let item := o.item m
  let sums := fun m => if h.acc then onHearth p m .combine o.ctx item (foldCycles (n * h.v)) work else work m
  if h.sfmt = h.dfmt then sums m
  else if h.acc && (placement p m .combine).isNone then m
  else onHearth p m .coder o.ctx item (coderCycles (n * h.w)) sums

/-- Stage 2: the move. -/
def stageMove (p : Part) (m : Mach) (o : OpCtx) : Mach :=
  match opParts m o with
  | some (sw, dw, _, idx) =>
    let h := shapeOf o
    match readBad m o sw dw idx with
    | some l => lineLost p m o l
    | none => onUnits p m o h (accesses o h idx).length fun m => moveAll p (setOp m { o with stage := 3 }) o sw dw idx
  | none => m

/-- Stage 3: the writes have ended, and the operation commits. -/
def stageDone (m : Mach) (o : OpCtx) : Mach :=
  endOp m o stDone

/-- An operation goes one stage on, unless its transactions are out. -/
def layoutStage (p : Part) (m : Mach) (o : OpCtx) : Mach :=
  if o.memFail then endOp m o stUncorrectable
  else if txnsOut m o.useR || txnsOut m o.useW then m
  else match o.stage with
    | 0 => stageEarly p m o
    | 1 => stageCheck p m o
    | 2 => stageMove p m o
    | _ => stageDone m o

/-- An operation goes as far as it can: `n` stages. -/
def layoutStages (p : Part) (c : Nat) (w : CollOwner) : Nat → Mach → Mach
  | 0, m => m
  | n + 1, m => match findOp m c w with
    | some o => layoutStages p c w n (layoutStage p m o)
    | none => m

/-- XFORM, GATHER and SCATTER, with what their kiln reads find. -/
def layoutOp (o : OpRef) (opc : Nat) (f : StoreRead) (p : Part) (m : Mach) : Mach :=
  match dueOp p m o opc with
  | some x => layoutStages p x.ctx x.owner 4 (readFinds p m f)
  | none => m

/-- XFORM (R248 to R253, R260 to R263). -/
def xform (o : OpRef) (f : StoreRead) (p : Part) (m : Mach) : Mach := layoutOp o opXform f p m

/-- GATHER (R254 to R258). -/
def gather (o : OpRef) (f : StoreRead) (p : Part) (m : Mach) : Mach := layoutOp o opGather f p m

/-- SCATTER (R254 to R259). -/
def scatter (o : OpRef) (f : StoreRead) (p : Part) (m : Mach) : Mach := layoutOp o opScatter f p m

/-! ### The meanings of the commands -/

end Sys2Proof.Machine
end

