-- ==== Sys2Proof/Machine/Net.lean ====
section
/-! DEFINITION. Routes and sending: usable sets (R303), the spread over links (R304), flits queued
to links, VC0 records, packets, flows of VC3 to VC5 (R290, R291), and what the loss of an own flit
means (R169, R297). -/

namespace Sys2Proof.Machine

/-! ### Links and routes -/

/-- A link; absent is a link at reset. -/
def linkOf (m : Mach) (l : Nat) : Link := Assoc.get {} m.net.links l

/-- A link replaced. -/
def setLink (m : Mach) (l : Nat) (x : Link) : Mach :=
  { m with net := { m.net with links := Assoc.set m.net.links l x } }

/-- A route table entry (R302); absent is invalid. -/
def routeOf (m : Mach) (d : Nat) : Route := Assoc.get {} m.net.routes d

/-- What a node can do for a destination (R303). -/
inductive Usable where
  | links (alternate : Bool) (ls : List Nat)
  | wait
  | none
  deriving DecidableEq, Repr

/-- The links of a mask. -/
def maskLinks (p : Part) (mask : Nat) : List Nat := (List.range (linkCount p.conf)).filter fun l => mask.testBit l

/-- The usable set of a destination, from the links' states at this moment (R303, R528). -/
def usableSet (p : Part) (m : Mach) (d : Nat) : Usable :=
  let e := routeOf m d
  if !e.valid then .none
  else
    let up := fun l => decide ((linkOf m l).phase = .active) && !(linkOf m l).quiesce
    let dead := fun l => decide ((linkOf m l).phase = .retired) || decide ((linkOf m l).phase = .disabled)
    let a := (maskLinks p e.primary).filter up
    let b := (maskLinks p e.alternate).filter up
    if !a.isEmpty then .links false a
    else if !b.isEmpty then .links true b
    else if (maskLinks p (e.primary ||| e.alternate)).any fun l => !dead l then .wait
    else .none

/-- The lowest-numbered link of a set at or above a pointer, wrapping (R304). -/
def spreadPick (ls : List Nat) (ptr : Nat) : Option Nat :=
  match ls.find? fun l => decide (ptr ≤ l) with
  | some l => some l
  | none => ls.head?

/-- The pointer key of a destination and channel. -/
def spreadKey (d vc : Nat) : Nat := 8 * d + vc

/-- The pointers of the node's own flits: one past the link served last. -/
def ownPick (m : Mach) (d vc : Nat) (ls : List Nat) : Option Nat :=
  spreadPick ls (Assoc.get 0 m.net.spread (spreadKey d vc))

/-- The own pointer moves to a link. -/
def moveOwn (m : Mach) (d vc l : Nat) : Mach :=
  { m with net := { m.net with spread := Assoc.set m.net.spread (spreadKey d vc) (l + 1) } }

/-- The pointer of transit flits (R304). -/
def transitPick (m : Mach) (d vc : Nat) (ls : List Nat) : Option Nat :=
  spreadPick ls (Assoc.get 0 m.net.spreadT (spreadKey d vc))

/-- The transit pointer moves to a link. -/
def moveTransit (m : Mach) (d vc l : Nat) : Mach :=
  { m with net := { m.net with spreadT := Assoc.set m.net.spreadT (spreadKey d vc) (l + 1) } }

/-- A destination has no usable route (R303). -/
def noRoute (p : Part) (m : Mach) (d : Nat) : Bool := usableSet p m d == .none

/-- Engine time in units of 10 ps (R293). -/
def time10 (m : Mach) : Int := m.tick.time / 10000

/-! ### VC0 records (R289) -/

/-- A record of 16 bytes with its KIND in byte 11. -/
def mkRecord (lo : List Byte) (kind : Nat) (hi : List Byte) : BitVec 128 :=
  recordOf ((lo ++ List.replicate 11 0).take 11 ++ [BitVec.ofNat 8 kind] ++ (hi ++ List.replicate 4 0).take 4)

/-- A VC0 record is queued; one for this node takes loopback (R17), and one bound to a link that is
not ACTIVE is lost. -/
def sendRec (p : Part) (m : Mach) (r : Rec0) : Mach :=
  if r.dst = nodeId p m ∧ r.link.isNone then
    { m with net := { m.net with vc0In := m.net.vc0In ++
        [{ src := r.dst, link := 0, bytes := r.bytes, at10 := time10 m }] } }
  else match r.link with
  | some l =>
    if (linkOf m l).phase = .active then { m with net := { m.net with vc0Out := m.net.vc0Out ++ [r] } } else m
  | none => { m with net := { m.net with vc0Out := m.net.vc0Out ++ [r] } }

/-- A record to a destination. -/
def sendRecord (p : Part) (m : Mach) (dst : Nat) (bytes : BitVec 128) : Mach :=
  sendRec p m { dst := dst, bytes := bytes }

/-- The oldest received record of a kind, and the machine without it. -/
def takeRecord (m : Mach) (kind : Nat) : Option (In0 × Mach) :=
  match m.net.vc0In.find? fun r => recordKind r.bytes == kind with
  | some r => some (r, { m with net := { m.net with vc0In := m.net.vc0In.erase r } })
  | none => none

/-! ### What the leaving and the loss of an own flit mean (R34, R142, R169, R189, R297) -/

/-- A record of a HINT command has left: the command completes with its last (R391). -/
def kindleGone (m : Mach) (k : KindleOut) : Mach :=
  match k.acc with
  | some a =>
    match findAcc m a with
    | some r => if r.n ≤ 1 then complete m r stDone else setRunning m { r with n := r.n - 1 }
    | none => m
  | none =>
    match m.run.step with
    | some s => setStep m { s with kindles := s.kindles.erase k }
    | none => m

/-- A flit whose bytes are read from a pool buffer in the kiln when it is sent: a billet or a return tile. -/
def kilnFlit : Origin → Bool
  | .billet _ _ _ _ | .tile _ _ _ _ _ _ => true
  | .close _ _ _ | .admitFlit _ _ _ | .flow _ _ _ | .records _ | .none => false

/-- A billet flit of a token is gone: with the last one the home buffer is freed (R142). -/
def billetGone (m : Mach) (c : Nat) (k : Key) (t : Nat) : Mach :=
  match stepOfCtx m c with
  | some s =>
    if keyOfStep s k then
      let x := phaseOf s k.layer
      match x.toks.find? fun y => y.token == t with
      | some y =>
        let m := updPhase m c k fun x => { x with flying := x.flying - 1, toks := x.toks.map fun y =>
          if y.token = t then { y with flits := y.flits - 1, home := if y.flits ≤ 1 then none else y.home } else y }
        match y.home with
        | some b => if y.flits ≤ 1 then freeBuf m c b.1 b.2 else m
        | none => m
      | none => m
    else m
  | none => m

/-- A return tile's flit is gone: with the last one its class-2 buffer is freed (R189). -/
def tileGone (m : Mach) (c : Nat) (k : Key) (buf : Nat) : Mach :=
  match stepOfCtx m c with
  | some s =>
    if keyOfStep s k then
      match Assoc.find? (phaseOf s k.layer).tilesFlying buf with
      | some n =>
        if n ≤ 1 then
          freeBuf (updPhase m c k fun x => { x with tilesFlying := Assoc.erase x.tilesFlying buf }) c 2 buf
        else updPhase m c k fun x => { x with tilesFlying := Assoc.set x.tilesFlying buf (n - 1) }
      | none => m
    else m
  | none => m

/-- An own flit is gone from the node: it has left its link controller, or it has been dropped. -/
def flitGone (m : Mach) (o : Origin) : Mach :=
  match o with
  | .billet c k t _ => billetGone m c k t
  | .close c k d => updPhase m c k fun x => { x with closeLeft := x.closeLeft ++ [d] }
  | .tile c k _ _ _ b => tileGone m c k b
  | .records ks => ks.foldl kindleGone m
  | .admitFlit _ _ _ | .flow _ _ _ | .none => m

/-- The item of a billet, close marker, admission flit or return tile that cannot be carried fails
with the status, once (R297). -/
def failOrigin (p : Part) (m : Mach) (o : Origin) (st : Nat) : Mach :=
  match o with
    | .billet c k t _ => failKey m c k ⟨0, laneSend, true, nodeId p m, t, 0, st⟩
    | .close c k _ => failKey m c k ⟨0, laneSend, false, 0, 0, 0, st⟩
    | .admitFlit c k _ => failKey m c k ⟨0, laneScore, false, 0, 0, 0, st⟩
    | .tile c k h t i _ => failKey m c k ⟨0, laneTake, true, h, t, i, st⟩
    | .none | .flow _ _ _ | .records _ => m

/-- A destination is noted unreachable for the layer phase; it receives no close marker (R169). -/
def markUnreach (x : LayerPhase) (d : Nat) : LayerPhase :=
  { x with unreach := if x.unreach.contains d then x.unreach else x.unreach ++ [d] }

/-- A billet is dropped for want of a route: counted once in UNREACH_DROP (R169). -/
def countUnreach (p : Part) (m : Mach) (c : Nat) (k : Key) (t d : Nat) : Mach :=
  match stepOfCtx m c with
  | some s =>
    if keyOfStep s k && !(phaseOf s k.layer).gone.contains (t, d) then
      bump p (updPhase m c k fun x => { markUnreach x d with gone := x.gone ++ [(t, d)] })
        (Reg.ctxUnreachDrop c) 1
    else m
  | none => m

/-- An own flit whose destination has no usable route is dropped: the item fails with
ERR_UNREACHABLE (R116, R169, R297). -/
def dropUnreachable (p : Part) (m : Mach) (f : OwnFlit) : Mach :=
  let m := match f.origin with
    | .billet c k t d => countUnreach p m c k t d
    | _ => m
  let m := failOrigin p m f.origin stUnreachable
  if f.again then m else flitGone m f.origin

/-! ### Flits of own packets (R304, R305) -/

/-- An own flit is queued to a link of its usable set; while the set is "wait" it stays at the node,
and with none it is dropped (R303, R304, R169). -/
def queueFlit (p : Part) (m : Mach) (f : OwnFlit) : Mach :=
  match usableSet p m f.flit.dst with
  | .links _ ls =>
    match ownPick m f.flit.dst f.flit.vc ls with
    | some l =>
      let x := linkOf m l
      moveOwn (setLink m l { x with own := x.own ++ [f] }) f.flit.dst f.flit.vc l
    | none => m
  | .wait => { m with net := { m.net with ownWait := m.net.ownWait ++ [f] } }
  | .none => dropUnreachable p m f

/-- Flits that waited for a route are tried again, in order. -/
def retryWaiting (p : Part) (m : Mach) : Mach :=
  m.net.ownWait.foldl (queueFlit p) { m with net := { m.net with ownWait := [] } }

/-- The next PTAG to a destination, and the machine with its counter advanced (R277). -/
def drawPtag (m : Mach) (d : Nat) : Nat × Mach :=
  let t := Assoc.get 0 m.net.ptags d
  (t, { m with net := { m.net with ptags := Assoc.set m.net.ptags d ((t + 1) % 65536) } })

/-- A packet of this node delivered to itself whole (R17). -/
def loopPacket (p : Part) (m : Mach) (vc : Nat) (mgmt : Bool) (fsn ptag : Nat) (bytes : List Byte) : Mach :=
  let parts := (payloadsOf bytes).zipIdx.map fun (x, i) => (i, x)
  let k : RxPkt := { src := nodeId p m, vc := vc, ptag := ptag, mgmt := mgmt, fsn := fsn, link := 0,
                        firstAt := m.tick.time, parts := parts, lastPos := some (parts.length - 1) }
  { m with net := { m.net with rx := m.net.rx ++ [k] } }

/-- A packet's flits are queued toward its destination (R277, R304, R305). -/
def queuePacket (p : Part) (m : Mach) (vc dst : Nat) (mgmt : Bool) (fsn : Nat) (ctx : Nat) (o : Origin)
    (bytes : List Byte) : Mach :=
  let (tag, m) := drawPtag m dst
  if dst = nodeId p m then loopPacket p m vc mgmt fsn tag bytes
  else
    let ps := payloadsOf bytes
    ps.zipIdx.foldl (fun m (x, i) => queueFlit p m
      { flit := { vc := vc, src := nodeId p m, dst := dst, ptag := tag, ppos := i,
                  last := i + 1 == ps.length, ttl := (routeOf m dst).ttl, mgmt := mgmt, fsn := fsn,
                  payload := x }, ctx := ctx, origin := o }) m

/-! ### Flows on VC3 to VC5 (R290, R291) -/

/-- A flow's state. -/
def flowOf (m : Mach) (d vc : Nat) : Flow := Assoc.get {} m.net.flows (spreadKey d vc)

/-- A flow's state replaced. -/
def setFlow (m : Mach) (d vc : Nat) (x : Flow) : Mach :=
  { m with net := { m.net with flows := Assoc.set m.net.flows (spreadKey d vc) x } }

/-- The unacknowledged packets of a flow. -/
def flowOut (m : Mach) (d vc : Nat) : List Outst := m.net.outst.filter fun o => o.dest == d && o.vc == vc

/-- The FSNs of a flow that are not acknowledged: of the packets that are out, and of those that failed. -/
def unackedOf (m : Mach) (d vc : Nat) : List Nat := (flowOut m d vc).map (fun o => o.fsn) ++ (flowOf m d vc).lost

/-- The flow may send its next packet: every FSN 64 or more below it is acknowledged, and FSN 0 goes alone (R290). -/
def flowOpen (m : Mach) (d vc : Nat) : Bool :=
  let f := (flowOf m d vc).next
  let out := unackedOf m d vc
  out.isEmpty || (f != 0 && !out.contains 0 && out.all fun o => decide ((f + 2 ^ 32 - o) % 2 ^ 32 < 64))

/-- A WRITE packet of a verb leaves: a FENCE after this covers it (R366). -/
def noteWrite (m : Mach) (d ctx : Nat) (body : List Byte) (use : FlowUse) : Mach :=
  match use with
  | .verb acc _ idx pkt =>
    if body.getD 2 0 = 0x50 then
      let k : WritePkt := { ctx := ctx, node := d, acc := acc, idx := idx, pkt := pkt, order := m.cmd.writeSeq }
      { m with cmd := { m.cmd with writeSeq := m.cmd.writeSeq + 1, writes := m.cmd.writes ++ [k] } }
    else m
  | _ => m

/-- A packet of a flow is sent now under the next FSN. -/
def emitFlow (p : Part) (m : Mach) (d vc : Nat) (mgmt : Bool) (body : List Byte) (ctx : Nat) (use : FlowUse) : Mach :=
  let x := flowOf m d vc
  let m := setFlow m d vc { x with next := (x.next + 1) % 2 ^ 32 }
  let m := { m with net := { m.net with outst := m.net.outst ++
    [{ dest := d, vc := vc, fsn := x.next, body := body, ctx := ctx, use := use, sentAt := m.tick.time,
       mgmt := mgmt }] } }
  queuePacket p (noteWrite m d ctx body use) vc d mgmt x.next ctx (.flow d vc x.next) body

/-- A packet enters a flow: sent at once where the flow is open, held back otherwise (R290). -/
def sendFlow (p : Part) (m : Mach) (d vc : Nat) (body : List Byte) (ctx : Nat) (use : FlowUse)
    (mgmt : Bool := false) : Mach :=
  let x := flowOf m d vc
  if x.waiting.isEmpty && flowOpen m d vc then emitFlow p m d vc mgmt body ctx use
  else setFlow m d vc { x with waiting := x.waiting ++ [⟨body, ctx, use, mgmt⟩] }

/-- The flow to a node sends a packet at once (R290). -/
def flowFree (m : Mach) (d vc : Nat) : Bool := (flowOf m d vc).waiting.isEmpty && flowOpen m d vc

/-- Packets held back in any flow that a test of their use picks. -/
def heldBack (m : Mach) (pick : FlowUse → Bool) : Nat :=
  (m.net.flows.map fun q => (q.2.waiting.filter fun w => pick w.use).length).sum

/-- They are never sent. -/
def dropHeld (m : Mach) (pick : FlowUse → Bool) : Mach :=
  { m with net := { m.net with flows := m.net.flows.map fun q =>
    (q.1, { q.2 with waiting := q.2.waiting.filter fun w => !pick w.use }) } }

/-- Packets held back are sent while the flow is open; `n` bounds how many. -/
def pumpFlow (p : Part) (d vc : Nat) : Nat → Mach → Mach
  | 0, m => m
  | n + 1, m =>
    let x := flowOf m d vc
    match x.waiting with
    | w :: r =>
      if flowOpen m d vc then
        pumpFlow p d vc n (emitFlow p (setFlow m d vc { x with waiting := r }) d vc w.mgmt w.body w.ctx w.use)
      else m
    | [] => m

/-- An outstanding packet leaves. -/
def dropOut (m : Mach) (d vc fsn : Nat) : Mach :=
  { m with net := { m.net with outst := m.net.outst.filter fun o => !(o.dest == d && o.vc == vc && o.fsn == fsn) } }

/-- A packet is acknowledged, be it one that had failed: it leaves, and the flow goes on. -/
def settleFlow (p : Part) (m : Mach) (d vc fsn : Nat) : Mach :=
  let x := flowOf m d vc
  pumpFlow p d vc 64 (dropOut (setFlow m d vc { x with lost := x.lost.erase fsn }) d vc fsn)

/-- A packet fails: it leaves, and its FSN stays unacknowledged (R290, R291). -/
def failFlow (m : Mach) (d vc fsn : Nat) : Mach :=
  let x := flowOf m d vc
  dropOut (setFlow m d vc { x with lost := x.lost ++ [fsn] }) d vc fsn

/-- The outstanding packet of a flow's FSN. -/
def findOut (m : Mach) (d vc fsn : Nat) : Option Outst :=
  m.net.outst.find? fun o => o.dest == d && o.vc == vc && o.fsn == fsn

/-- The packet's resend timeout in femtoseconds: ROUTE.E2E_CTRL.TMO_US (R291). -/
def e2eTmo (p : Part) (m : Mach) : Int := 1000000000 * rdF p m Reg.routeE2eCtrl 15 0

/-- An E2E_ACK record for a packet accepted (R289, R291). -/
def ackPacket (p : Part) (m : Mach) (src vc fsn : Nat) : Mach :=
  sendRecord p m src (mkRecord (leBytes 4 fsn ++ leBytes 1 vc) 0x20 [])

/-! ### Link credit (R284, R286) -/

/-- A counter of a link's table. -/
def cnt (t : Counters) (k : Nat) : Nat := Assoc.get 0 t k

/-- A counter of a link's table raised modulo 4,096 (R284). -/
def inc4096 (t : Counters) (k : Nat) : Counters := Assoc.set t k ((cnt t k + 1) % 4096)

/-- A flit's space in a link's input buffer is freed (R284, R286). One that came before the link last trained from
DOWN, when both counts started afresh, is not counted. -/
def freeCredit (m : Mach) (l vc : Nat) : Mach :=
  let x := linkOf m l
  if cnt x.recv vc = cnt x.freed vc then m else setLink m l { x with freed := inc4096 x.freed vc }

/-! ### Received packets (R277, R291, R292) -/

/-- A received packet is whole: every position up to its last has arrived. -/
def rxWhole (x : RxPkt) : Bool :=
  match x.lastPos with
  | some n => (List.range (n + 1)).all fun i => (Assoc.find? x.parts i).isSome
  | none => false

/-- The number in bytes lo to hi of a packet. -/
def pk (bs : List Byte) (lo hi : Nat) : Nat := leNat ((bs.drop lo).take (hi + 1 - lo))

/-- The bytes of a received packet, 240 a flit. -/
def rxBytes (x : RxPkt) : List Byte := x.parts.flatMap fun q => payloadBytes q.2

/-- The first 64 bytes of a packet whose first flit has arrived. -/
def rxHeader (x : RxPkt) : Line := lineOf (payloadBytes (Assoc.get 0 x.parts 0))

/-- A packet's first flit has arrived. -/
def rxStarted (x : RxPkt) : Bool := (Assoc.find? x.parts 0).isSome

/-- A packet of the receive store replaced. -/
def putRx (m : Mach) (x y : RxPkt) : Mach :=
  { m with net := { m.net with rx := m.net.rx.map fun z => if z = x then y else z } }

/-- A packet's handling has begun before its last flit has come; it stays until that flit comes. -/
def markRx (m : Mach) (x : RxPkt) : Mach := putRx m x { x with taken := true }

/-- A group's running operation has sent or received a packet at this instant (R346). -/
def touchOp (m : Mach) (h : Nat) (pick : CollOp → Bool) : Mach :=
  let noted := fun (op : CollOp) => if pick op then { op with lastAt := m.tick.time } else op
  { m with coll := { m.coll with groups := m.coll.groups.map fun q =>
    if q.1 = h then (q.1, { q.2 with op := q.2.op.map noted }) else q } }

/-- A flit of a packet of VC3 to VC5 has left: its operation has sent it. -/
def packetSent (m : Mach) : Origin → Mach
  | .flow d vc fsn => match (flowOut m d vc).find? fun o => o.fsn == fsn with
    | some o => match o.use with
      | .coll h opseq att => touchOp m h fun op => op.opseq == opseq && op.att == att
      | _ => m
    | none => m
  | _ => m

/-- A packet of VC3 has come whole: the operation that it names has received it. A RED_DOWN names no operation
number (R315). -/
def packetHeard (m : Mach) (x : RxPkt) : Mach :=
  let bs := rxBytes x
  if x.vc = 3 ∧ x.mgmt = false ∧ rxWhole x = true then
    touchOp m (pk bs 0 1) fun op => op.att == pk bs 2 2 % 16 && (pk bs 3 3 == 0x32 || op.opseq == pk bs 32 35)
  else m

/-- Flits of VC3 leave the input buffers of the links they came on. -/
def creditOut (m : Mach) (qs : List (Nat × Nat)) : Mach := qs.foldl (fun m q => freeCredit m q.2 3) m

/-- Those of a packet's flits that a test picks leave their input buffers; the packet without them. -/
def freeFlits (m : Mach) (x : RxPkt) (pick : Nat → Bool) : Mach × RxPkt :=
  let y := { x with credit := x.credit.filter fun q => !pick q.1 }
  (putRx (creditOut m (x.credit.filter fun q => pick q.1)) x y, y)

/-- A packet leaves the receive store, and its flits the input buffers. -/
def dropRx (m : Mach) (x : RxPkt) : Mach :=
  creditOut { m with net := { m.net with rx := m.net.rx.erase x } } x.credit

/-- The oldest whole packet of a channel that a test on its first bytes picks. -/
def findRx (m : Mach) (vc : Nat) (pick : List Byte → Bool) : Option RxPkt :=
  m.net.rx.find? fun x => x.vc == vc && !x.mgmt && rxWhole x && pick (rxBytes x)

/-- A filter entry of a source and channel (R292). -/
def filterOf (m : Mach) (src vc : Nat) : Filter := Assoc.get {} m.net.filters (spreadKey src vc)

/-- A filter entry replaced. -/
def setFilter (m : Mach) (src vc : Nat) (x : Filter) : Mach :=
  { m with net := { m.net with filters := Assoc.set m.net.filters (spreadKey src vc) x } }

/-- Low set bits shifted out of a filter map; `n` bounds how many. -/
def slideFilter : Nat → Filter → Filter
  | 0, e => e
  | n + 1, e => if e.m % 2 = 1 then slideFilter n { e with m := e.m / 2, base := (e.base + 1) % 2 ^ 32 } else e

/-- The duplicate filter (R292): whether the FSN is accepted, and the entry after it. -/
def filterFsn (e : Filter) (f : Nat) : Bool × Filter :=
  if f = 0 then
    if e.valid ∧ e.base = 1 then (false, e) else (true, { valid := true, base := 1, m := 0 })
  else
    let e := if e.valid then e else { valid := true, base := (f + 2 ^ 32 - 63) % 2 ^ 32, m := 0 }
    let d := (f + 2 ^ 32 - e.base) % 2 ^ 32
    if 2 ^ 31 ≤ d ∨ (d < 64 ∧ e.m.testBit d) then (false, e)
    else
      let s := d - 63
      let e := if 64 ≤ d then { e with m := if s < 64 then e.m >>> s else 0, base := (e.base + s) % 2 ^ 32 } else e
      let d := min d 63
      (true, slideFilter 65 { e with m := e.m ||| 2 ^ d })

/-- A whole packet of VC3 to VC5 meets the filter: a duplicate is dropped, acknowledged again and
counted (R292). The Bool says it is new; the entry is left for acceptance to write. -/
def isDuplicate (m : Mach) (x : RxPkt) : Bool := !(filterFsn (filterOf m x.src x.vc) x.fsn).1

/-- A duplicate's outcome. -/
def dropDuplicate (p : Part) (m : Mach) (x : RxPkt) : Mach :=
  ackPacket p (bump p (dropRx m x) Reg.routeE2eDup 1) x.src x.vc x.fsn

/-- The filter of a source and channel takes an FSN (R292). -/
def markFilter (m : Mach) (src vc fsn : Nat) : Mach := setFilter m src vc (filterFsn (filterOf m src vc) fsn).2

/-- A packet is accepted: the filter takes its FSN and it leaves the receive store (R291, R292). -/
def acceptRx (m : Mach) (x : RxPkt) : Mach := markFilter (dropRx m x) x.src x.vc x.fsn

/-- A packet is accepted and acknowledged by an E2E_ACK record. -/
def acceptAck (p : Part) (m : Mach) (x : RxPkt) : Mach := ackPacket p (acceptRx m x) x.src x.vc x.fsn

/-! ### Transit flits (R305, R309, R310) -/

/-- The routed flit at the front of a channel's input buffer leaves it. -/
def leaveInput (m : Mach) (l vc : Nat) : Mach :=
  let x := linkOf m l
  setLink m l { x with waiting := x.waiting.eraseP fun t => t.flit.vc == vc && t.routed }

/-- A transit flit no longer occupies the node: at an endpoint its pool slot is free (R310), at a
relay its input buffer (R286). A salvaged one occupied nothing. -/
def releaseTransit (p : Part) (m : Mach) (t : TransitFlit) : Mach :=
  if !t.owns then m
  else if p.relay then freeCredit (leaveInput m t.inLink t.flit.vc) t.inLink t.flit.vc
  else
    let x := linkOf m t.inLink
    setLink m t.inLink { x with slotsHeld := x.slotsHeld - 1 }

/-- The identity of a flit's packet at a forwarding node: a sender draws its tags for each destination (R277). -/
def packetId (f : Flit) : Nat × Nat × Nat × Nat := (f.src, f.dst, f.vc, f.ptag)

/-- The packet in progress of being dropped that a flit belongs to: one of its identity of which this place has not
come yet; a flit of a place that has come is one of a later packet with the same tag. -/
def droppedOf (m : Mach) (f : Flit) : Option Dropped :=
  m.net.dropped.find? fun d => d.id == packetId f && !d.seen.contains f.ppos

/-- A dropped packet after one more flit of it; none once all have come. -/
def Dropped.take (d : Dropped) (f : Flit) : Option Dropped :=
  let d := { d with seen := f.ppos :: d.seen, lastPos := if f.last then some f.ppos else d.lastPos }
  if d.lastPos.any fun n => decide (n < d.seen.length) then none else some d

/-- A flit of a packet that is being dropped is noted; the record ends with the packet's last. -/
def noteDropped (m : Mach) (d : Dropped) (f : Flit) : Mach :=
  { m with net := { m.net with dropped := (m.net.dropped.filter fun x => x.id != d.id) ++ (d.take f).toList } }

/-- A packet is dropped in transit: counted with the first of its flits, its event set; its later flits are dropped
with it (R305, R309). -/
def dropPacket (p : Part) (m : Mach) (counter ev : Nat) (f : Flit) : Mach :=
  match droppedOf m f with
  | some d => noteDropped m d f
  | none => noteDropped (setEvt p (bump p m counter 1) Reg.routePage ev) { id := packetId f, seen := [], lastPos := none } f

/-- A transit flit is queued to a link of its usable set, waits at the node, or is dropped with its
packet (R303, R304, R309). -/
def queueTransit (p : Part) (m : Mach) (t : TransitFlit) : Mach :=
  match usableSet p m t.flit.dst with
  | .links _ ls =>
    match transitPick m t.flit.dst t.flit.vc ls with
    | some l =>
      let x := linkOf m l
      moveTransit (setLink m l { x with transit := x.transit ++ [t] }) t.flit.dst t.flit.vc l
    | none => m
  | .wait => { m with net := { m.net with transitWait := m.net.transitWait ++ [t] } }
  | .none => dropPacket p (releaseTransit p m t) Reg.routeNorouteDrop 2 t.flit

/-- Transit flits that waited at the node are tried again, in order. -/
def retryTransit (p : Part) (m : Mach) : Mach :=
  m.net.transitWait.foldl (queueTransit p) { m with net := { m.net with transitWait := [] } }

/-! ### Changes of usable sets (R308) -/

/-- The usable set's kind, as R308 compares them. -/
def usableKind : Usable → Nat
  | .links false _ => 0 | .links true _ => 1 | .wait => 2 | .none => 3

/-- The kinds of every entry's usable set; an entry that is not listed is invalid, and its set is "none". -/
def routeKinds (p : Part) (m : Mach) : List (Nat × Nat) :=
  m.net.routes.map fun (d, _) => (d, usableKind (usableSet p m d))

/-! ### Invalidation rings (R369, R370) -/

/-- The ring of a context has room for a record. -/
def iringRoom (p : Part) (m : Mach) (c : Nat) : Bool :=
  decide ((rdF p m (Reg.ctxFabIringHead c) 31 0 + 2 ^ 32 - rdF p m (Reg.ctxFabIringTail c) 31 0) % 2 ^ 32
    ≠ 2 ^ rdF p m (Reg.ctxFabIringCtrl c) 4 0)

/-- The 32 bytes of an invalidation record. -/
def iringRecord (region home publisher flags roff len : Nat) : List Byte :=
  leBytes 2 region ++ leBytes 2 home ++ leBytes 2 publisher ++ leBytes 1 flags ++ [0] ++ leBytes 8 roff
    ++ leBytes 4 len ++ List.replicate 12 0

/-- A record for a ring is no longer waiting. -/
def dropIring (m : Mach) (r : IringRec) : Mach := { m with fab := { m.fab with iring := m.fab.iring.erase r } }

/-- A record's write at the ring's head goes out. -/
def iringPut (p : Part) (m : Mach) (r : IringRec) : Mach :=
  let c := r.ctx
  let h := rdF p m (Reg.ctxFabIringHead c) 31 0
  let a := (rd p m (Reg.ctxFabIringBase c)).toNat + 32 * (h % 2 ^ rdF p m (Reg.ctxFabIringCtrl c) 4 0)
  startWrites p { m with fab := { m.fab with iring := m.fab.iring.map fun x => if x = r then { r with out := true } else x } }
    a r.bytes (.iring c)

/-- The records of a context's ring go one after another: the oldest is put out, lost with OVF where the ring is full,
or dropped while the ring is disabled (R369); `n` bounds how many. -/
def iringNext (p : Part) (c : Nat) : Nat → Mach → Mach
  | 0, m => m
  | n + 1, m => match m.fab.iring.find? fun x => x.ctx == c with
    | some r =>
      if r.out then m
      else if rdB p m (Reg.ctxFabIringCtrl c) 28 = false then iringNext p c n (dropIring m r)
      else if iringRoom p m c then iringPut p m r
      else iringNext p c n (orReg p (dropIring m r) (Reg.ctxFabIringCtrl c) (2 ^ 29))
    | none => m

/-- A record joins those for a context's ring; `serve` is the request that it holds back. -/
def iringWrite (p : Part) (m : Mach) (c : Nat) (bs : List Byte) (serve : Option Nat) : Mach :=
  iringNext p c (m.fab.iring.length + 1)
    { m with fab := { m.fab with iring := m.fab.iring ++ [{ ctx := c, bytes := bs, serve := serve }] } }

/-- The record of a ring that was out has been written, and HEAD and the event counter rise; one whose write failed is
lost as where the ring has no room (DESIGN CHOICE). The next goes (R369, R459). -/
def iringEnds (p : Part) (m : Mach) (c : Nat) (failed : Bool) : Mach :=
  match m.fab.iring.find? fun x => x.ctx == c && x.out with
  | some r =>
    let m := dropIring m r
    let m := if failed then orReg p m (Reg.ctxFabIringCtrl c) (2 ^ 29)
      else
        let h := rdF p m (Reg.ctxFabIringHead c) 31 0
        release (addEvt (wr p m (Reg.ctxFabIringHead c) (wordOf ((h + 1) % 2 ^ 32))) (rdF p m (Reg.ctxFabIringCtrl c) 23 12) 1)
    iringNext p c (m.fab.iring.length + 1) m
  | none => m

/-- A request waits for the record that its ring still has to write. -/
def iringHolds (m : Mach) (serve : Nat) : Bool := m.fab.iring.any fun r => r.serve == some serve

/-- Room has appeared after a loss: one OVERFLOW record, and OVF clears (R369). -/
def iringOverflow (p : Part) (m : Mach) (c : Nat) : Mach :=
  if rdB p m (Reg.ctxFabIringCtrl c) 29 && rdB p m (Reg.ctxFabIringCtrl c) 28 && iringRoom p m c then
    iringWrite p (clrReg p m (Reg.ctxFabIringCtrl c) (2 ^ 29)) c (iringRecord 0 0xFFF 0xFFF 2 0 0) none
  else m

/-- A subscriber's own subscriptions to a home it can no longer reach end, each with a GONE record
(R370). -/
def endSubscriptions (p : Part) (m : Mach) (d : Nat) : Mach :=
  let (gone, kept) := m.fab.subsOwn.partition fun s => s.node == d
  let m := { m with fab := { m.fab with subsOwn := kept } }
  let m := if gone.isEmpty then m else setEvt p m Reg.fabPage 2
  gone.foldl (fun m s => iringWrite p m s.ctx (iringRecord s.region d 0xFFF 1 s.roff s.len) none) m

/-- After links or routes changed: REROUTE where a set changed its kind, and for each that became
"none" its log entry and the end of its subscriptions; flits that wait are tried again (R308). -/
def rerouted (p : Part) (before : List (Nat × Nat)) (m : Mach) : Mach :=
  let now := routeKinds p m
  let dests := (before.map (fun q => q.1) ++ now.map fun q => q.1).eraseDups
  let changed := (dests.map fun d => (d, Assoc.get 3 now d)).filter fun (d, k) => (Assoc.get 3 before d) != k
  let m := if changed.isEmpty then m else setEvt p m Reg.routePage 0
  let m := changed.foldl (fun m (d, k) =>
    if k = 3 then endSubscriptions p (report p m { code := 0x34, page := Reg.routePage, sev := .transient,
                                                   detail := leBytes 2 d }) d
    else m) m
  retryTransit p (retryWaiting p m)

/-- A change of links or routes with its consequences for the usable sets. -/
def withReroute (p : Part) (m : Mach) (f : Mach → Mach) : Mach := rerouted p (routeKinds p m) (f m)

end Sys2Proof.Machine
end

