-- ==== Sys2Proof/Machine/Groups.lean ====
section
/-! DEFINITION. Groups (R320 to R325), their packets (R315, R328, R330), their barriers (R442 to
R444, R347), and a relay's slot reservations (R324). -/

namespace Sys2Proof.Machine

/-! ### Groups -/

/-- A group held, by handle. -/
def groupOf (m : Mach) (h : Nat) : Option Group := Assoc.find? m.coll.groups h

/-- A group replaced. -/
def setGroup (m : Mach) (h : Nat) (g : Group) : Mach :=
  { m with coll := { m.coll with groups := Assoc.set m.coll.groups h g } }

/-- A group freed. -/
def dropGroup (m : Mach) (h : Nat) : Mach :=
  { m with coll := { m.coll with groups := Assoc.erase m.coll.groups h } }

/-- A group changed where it is held. -/
def updGroup (m : Mach) (h : Nat) (f : Group → Group) : Mach :=
  match groupOf m h with
  | some g => setGroup m h (f g)
  | none => m

/-- Members, and the rank of a node. -/
def Group.size (g : Group) : Nat := g.members.length
def Group.rank (g : Group) (node : Nat) : Option Nat := g.members.findIdx? fun e => e.node == node
def Group.nodeAt (g : Group) (r : Nat) : Nat := (g.members.map (·.node)).getD r 0xFFF

/-- The node's own rank. -/
def myRank (p : Part) (m : Mach) (g : Group) : Nat := (g.rank (nodeId p m)).getD 0

/-- The other members' nodes, in rank order. -/
def otherNodes (p : Part) (m : Mach) (g : Group) : List Nat :=
  (g.members.map (·.node)).filter fun n => n != nodeId p m

/-- A number noted once. -/
def addOnce (l : List Nat) (n : Nat) : List Nat := if l.contains n then l else l ++ [n]

/-! ### Packets (R315, R328, R330) -/

/-- A collective packet (R328). -/
def collPacket (h att kind epoch chunk srank offset opseq opc : Nat) (data : List Byte) : List Byte :=
  leBytes 2 h ++ leBytes 1 (att % 16) ++ leBytes 1 kind ++ leBytes 4 epoch ++ leBytes 4 chunk ++ leBytes 2 srank
    ++ List.replicate 4 0 ++ leBytes 4 (crc32c data) ++ leBytes 2 data.length ++ leBytes 8 offset
    ++ leBytes 4 opseq ++ leBytes 1 opc ++ List.replicate 27 0 ++ data

/-- OPSEQ of JOIN and tree packets. -/
def noOpseq : Nat := 0xFFFFFFFF

/-- A reduction packet (R315). -/
def redPacket (h att kind epoch chunk slot child fmt elems : Nat) (data : List Byte) : List Byte :=
  leBytes 2 h ++ leBytes 1 (att % 16) ++ leBytes 1 kind ++ leBytes 4 epoch ++ leBytes 4 chunk ++ leBytes 2 slot
    ++ leBytes 1 child ++ leBytes 1 fmt ++ leBytes 2 elems ++ leBytes 4 (crc32c data) ++ List.replicate 42 0 ++ data

/-- The kinds. -/
def kindRedUp : Nat := 0x31
def kindRedDown : Nat := 0x32
def kindData : Nat := 0x33
def kindCounts : Nat := 0x34
def kindRs : Nat := 0x35
def kindAg : Nat := 0x36
def kindJoin : Nat := 0x37
def kindSet : Nat := 0x38
def kindAck : Nat := 0x39
def kindNak : Nat := 0x3A
def kindFree : Nat := 0x3B

/-- Bytes of an element of a reduction format. -/
def redBytes (fmt : Nat) : Nat := if fmt = 0 then 4 else 2

/-- The data bytes of a packet: LEN, or for a reduction packet those of ELEMS elements. -/
def pkLen (bs : List Byte) : Nat :=
  let kind := pk bs 3 3
  if kind = kindRedUp ∨ kind = kindRedDown then pk bs 16 17 * redBytes (pk bs 15 15) else pk bs 22 23

/-- The data of a packet. -/
def pkData (bs : List Byte) : List Byte := (bs.drop 64).take (pkLen bs)

/-- The packet's CRC is its data's (R330). -/
def pkCrcOk (bs : List Byte) : Bool := pk bs 18 21 == crc32c (pkData bs)

/-- A packet that is whole fails its CRC check (R330). -/
def crcWrong (x : RxPkt) : Bool := rxWhole x && !pkCrcOk (rxBytes x)

/-- The oldest whole VC3 packet of a kind that a test picks. -/
def findColl (m : Mach) (kind : Nat) (pick : RxPkt → Bool) : Option RxPkt :=
  m.net.rx.find? fun x => x.vc == 3 && !x.mgmt && rxWhole x && pk (rxBytes x) 3 3 == kind && pick x

/-! ### Abort records (R342) -/

/-- Abort reasons. -/
def rePreempt : Nat := 1
def reFault : Nat := 2
def reKill : Nat := 3
def reTimeout : Nat := 4
def reUnreach : Nat := 5
def reCheck : Nat := 6
def reGroup : Nat := 7
def reLocal : Nat := 8

/-- COLL_ABORT records to every node of a list: counted, the event set. -/
def sendAborts (p : Part) (m : Mach) (h att reason epoch opseq : Nat) (nodes : List Nat) : Mach :=
  let rec16 := mkRecord (leBytes 2 h ++ leBytes 1 (att % 16) ++ leBytes 1 reason ++ leBytes 4 epoch) 0x40
    (leBytes 4 opseq)
  let m := nodes.foldl (fun m n => sendRecord p m n rec16) m
  if nodes.isEmpty then m else setEvt p (bump p m Reg.collAbortTx nodes.length) Reg.collPage 0

/-! ### Barriers (R443, R444) -/

/-- (b − c) modulo 2^20. -/
def bseqDist (b c : Nat) : Nat := (b + 2 ^ 20 - c) % 2 ^ 20

/-- A barrier record (R442). -/
def barRecord (h lead epoch bseq att kind : Nat) : BitVec 128 :=
  mkRecord (leBytes 2 h ++ leBytes 2 lead ++ leBytes 4 epoch ++ leBytes 3 (bseq + 2 ^ 20 * (att % 16))) kind []

/-- A release is set for an instant, and one that is already past is late (R444). -/
def setRelease (p : Part) (m : Mach) (h : Nat) (t : Int) : Mach :=
  let m := updGroup m h fun g => { g with bar := { g.bar with releaseAt := some t, release := none } }
  if t < m.tick.time then setEvt p (bump p m Reg.tickBarLateCnt 1) Reg.tickPage 3 else m

/-- LEAD_10NS in femtoseconds. -/
def leadFs (lead : Nat) : Int := 10 * fsPerNs * lead

/-- The root holds an arrival from every member: BAR_RELEASE goes out and the root's own release is
set (R444). -/
def releaseAll (p : Part) (m : Mach) (h : Nat) (g : Group) : Mach :=
  let lead := rdF p m Reg.tickBarrier 15 0
  let m := (otherNodes p m g).foldl (fun m n =>
    sendRec p m { dst := n, bytes := barRecord h lead g.epoch g.bar.bseq g.bar.att 0x63,
                  since := some (time10 m) }) m
  setRelease p m h (m.tick.time + leadFs lead)

/-- The root counts a member's arrival at its current barrier: once per attempt, a higher attempt
discards lower arrivals, a lower one is dropped (R443). -/
def countArrival (p : Part) (m : Mach) (h rank att : Nat) : Mach :=
  match groupOf m h with
  | some g =>
    let b := g.bar
    if g.bar.releaseAt.isSome ∨ (!b.arrived.isEmpty ∧ att < b.att) then m
    else
      let here := if b.arrived.isEmpty ∨ b.att < att then [] else b.arrived
      let arrived := if here.contains rank then here else here ++ [rank]
      let g := { g with bar := { b with arrived := arrived, att := att } }
      let m := setGroup m h g
      if arrived.length = g.size then releaseAll p m h g else m
  | none => m

/-- This node reaches its group's barrier in an attempt (R443); a release kept for it takes effect. -/
def arriveBarrier (p : Part) (m : Mach) (h att : Nat) : Mach :=
  match groupOf m h with
  | some g =>
    let m := setGroup m h { g with bar := { g.bar with here := some att } }
    if myRank p m g = 0 then countArrival p m h 0 att
    else
      let m := sendRecord p m (g.nodeAt 0) (barRecord h 0 g.epoch g.bar.bseq att 0x62)
      match g.bar.release with
      | some (b, a, t) => if b = g.bar.bseq ∧ a = att then setRelease p m h t else m
      | none => m
  | none => m

/-- BAR_ARRIVE (R443): the root counts it, keeps it for a later barrier, or drops it. -/
def barArrive (p : Part) (m : Mach) : Mach :=
  match takeRecord m 0x62 with
  | some (r, m) =>
    let h := bytesOf r.bytes 0 1
    let b := bitsOf r.bytes 83 64
    let att := bitsOf r.bytes 87 84
    match groupOf m h with
    | some g =>
      match g.rank r.src with
      | some rank =>
        let d := bseqDist b g.bar.bseq
        if bytesOf r.bytes 4 7 ≠ g.epoch ∨ myRank p m g ≠ 0 then m
        else if d = 0 then countArrival p m h rank att
        else if d < 2 ^ 19 then setGroup m h { g with bar := { g.bar with later := g.bar.later ++ [(b, att, rank)] } }
        else m
      | none => m
    | none => m
  | none => m

/-- BAR_RELEASE (R444): scheduled where this node has arrived, kept where it has not. -/
def barRelease (p : Part) (m : Mach) : Mach :=
  match takeRecord m 0x63 with
  | some (r, m) =>
    let h := bytesOf r.bytes 0 1
    let b := bitsOf r.bytes 83 64
    let att := bitsOf r.bytes 87 84
    let delay := if r.src = nodeId p m then 0 else linkDelay p m r.link
    let t := 10000 * r.at10 + leadFs (bytesOf r.bytes 2 3) - 10000 * ((bytesOf r.bytes 12 15 : Nat) + delay)
    match groupOf m h with
    | some g =>
      if bytesOf r.bytes 4 7 ≠ g.epoch ∨ 2 ^ 19 ≤ bseqDist b g.bar.bseq then m
      else if b = g.bar.bseq ∧ g.bar.here = some att then setRelease p m h t
      else setGroup m h { g with bar := { g.bar with release := some (b, att, t) } }
    | none => m
  | none => m

/-- A barrier has released: the count goes on, and arrivals kept for the next barrier are counted
(R443). -/
def nextBarrier (p : Part) (m : Mach) (h : Nat) : Mach :=
  match groupOf m h with
  | some g =>
    let b := (g.bar.bseq + 1) % 2 ^ 20
    let (now, later) := g.bar.later.partition fun x => x.1 == b
    let m := setGroup m h { g with bar := { bseq := b, later := later, release := g.bar.release } }
    now.foldl (fun m x => countArrival p m h x.2.2 x.2.1) m
  | none => m

/-- The arrival of this node's running operation is withdrawn: its attempt has ended (R343). An arrival of a SYNC
BARRIER, which no abort reaches (R347), stays. -/
def leaveBarrier (m : Mach) (h : Nat) : Mach :=
  updGroup m h fun g =>
    if g.op.any fun op => op.entered then { g with bar := { g.bar with here := none, releaseAt := none } } else g

/-! ### The group image (R321) -/

/-- A group image. -/
structure GImage where
  handle : Nat
  job : Nat
  tree : Bool
  dissolve : Bool
  epoch : Nat
  nm : Nat
  nr : Nat
  w : Nat
  rsv : Bool
  members : List MemberEnt
  relays : List RelayEnt
  bytes : List Byte
  deriving DecidableEq, Repr

/-- A member entry read, and its reserved bits; without a tree CHILD and PARENT are zero. -/
def readMember (tree : Bool) (n : Nat) : MemberEnt × Bool :=
  let x := BitVec.ofNat 32 n
  let e : MemberEnt := { node := bitsOf x 11 0, child := bitsOf x 29 24, parent := bitsOf x 21 16 }
  (e, bitsOf x 31 30 != 0 || bitsOf x 23 22 != 0 || bitsOf x 15 12 != 0 || (!tree && (e.child != 0 || e.parent != 0)))

/-- A relay entry read, and its reserved bits. -/
def readRelay (n : Nat) : RelayEnt × Bool :=
  let x := BitVec.ofNat 64 n
  ({ node := bitsOf x 11 0, slotBase := bitsOf x 42 32, child := bitsOf x 29 24, parent := bitsOf x 22 16 },
   bitsOf x 63 43 != 0 || bitsOf x 31 30 != 0 || bitOf x 23 || bitsOf x 15 12 != 0)

/-- The image in bytes that start with its header. -/
def readImage (bs : List Byte) : GImage :=
  let nm := pk bs 8 9
  let nr := pk bs 10 11
  let tree := pk bs 3 3 % 2 = 1
  let ms := (List.range nm).map fun i => readMember tree (pk bs (64 + 4 * i) (67 + 4 * i))
  let rs := (List.range nr).map fun i => readRelay (pk bs (64 + 4 * nm + 8 * i) (71 + 4 * nm + 8 * i))
  { handle := pk bs 0 1, job := pk bs 2 2, tree := tree, dissolve := pk bs 3 3 / 2 % 2 = 1, epoch := pk bs 4 7,
    nm := nm, nr := nr, w := pk bs 12 12,
    rsv := decide (4 ≤ pk bs 3 3) || pk bs 13 63 != 0 || ms.any (·.2) || rs.any (·.2),
    members := ms.map (·.1), relays := rs.map (·.1), bytes := bs }

/-- The counts of a header lie in R321. -/
def GImage.countsOk (g : GImage) : Bool :=
  decide (1 ≤ g.nm ∧ g.nm ≤ 4096 ∧ g.nr ≤ 64) &&
  (if g.tree then decide (1 ≤ g.w ∧ g.w ≤ 64) else g.nr == 0 && g.w == 0)

/-- The image's length in bytes. -/
def GImage.len (g : GImage) : Nat := 64 + 4 * g.nm + 8 * g.nr

/-- The CHILD indices of relay i's children, members and relays alike. -/
def GImage.children (g : GImage) (i : Nat) : List (Nat × Nat) :=
  (g.members.filterMap fun e => if e.parent = i then some (e.child, e.node) else none) ++
  (g.relays.filterMap fun e => if e.parent = i then some (e.child, e.node) else none)

/-- Steps from relay i up to the root; none where n steps do not reach it. -/
def GImage.toRoot (g : GImage) : Nat → Nat → Bool
  | 0, _ => false
  | n + 1, i => match g.relays[i]? with
    | some e => e.parent == 0x7F || g.toRoot n e.parent
    | none => false

/-- TREE (R323). -/
def GImage.treeBad (g : GImage) : Bool :=
  g.tree && (
    g.nr == 0 || (g.relays.filter fun e => e.parent == 0x7F).length != 1 ||
    g.members.any (fun e => decide (g.nr ≤ e.parent)) ||
    g.relays.any (fun e => e.parent != 0x7F && decide (g.nr ≤ e.parent)) ||
    (List.range g.nr).any (fun i => !g.toRoot (g.nr + 1) i) ||
    (List.range g.nr).any (fun i =>
      let cs := (g.children i).map (·.1)
      !(List.range cs.length).all fun k => (cs.filter (· == k)).length == 1) ||
    g.relays.any fun e => decide (2048 < e.slotBase + g.w))

/-- Some node id appears twice. -/
def repeats : List Nat → Bool
  | [] => false
  | n :: r => r.contains n || repeats r

/-- An image whose formation a save has pre-empted here: it goes on (R345, R411). -/
def resumes (m : Mach) (c : Nat) (g : GImage) : Bool :=
  match groupOf m g.handle with
  | some x => x.ctx == c && x.epoch == g.epoch && x.forming.any fun f => f.held && f.crc == crc32c g.bytes
  | none => false

/-- The checks of R323 that every member makes: code, status, node concerned, which is this node (COLL.GROUP_ERR).
`reform` names GROUP_REFORM. -/
def imageFault (p : Part) (m : Mach) (c : Nat) (reform : Bool) (g : GImage) : Option (Nat × Nat × Nat) :=
  let me := nodeId p m
  let held := groupOf m g.handle
  let nodes := g.members.map (·.node) ++ g.relays.map (·.node)
  if g.rsv || g.handle == 0xFFFF || !g.countsOk || g.job != ctxJob p m c || (g.dissolve && !reform) then
    some (1, stGroup, me)
  else if !(g.members.any fun e => e.node == me) then some (2, stGroup, me)
  else if repeats nodes then some (3, stGroup, me)
  else if g.treeBad then some (4, stGroup, me)
  else if resumes m c g then none
  else match held with
    | some x => if !reform || decide (g.epoch ≤ x.epoch) then some (5, stGroup, me) else none
    | none => if decide (256 ≤ m.coll.groups.length) && !g.dissolve then some (6, stQuota, me) else none

/-- COLL.GROUP_ERR and the event of a failed formation (R323). -/
def groupErr (p : Part) (m : Mach) (h code node : Nat) : Mach :=
  setEvt p (wr p m Reg.collGroupErr (wordOf (code * 2 ^ 56 + node * 2 ^ 32 + h))) Reg.collPage 1

/-! ### Formation (R322, R325) -/

/-- The children of relay i in CHILD order. -/
def GImage.childNodes (g : GImage) (i : Nat) : List Nat :=
  let cs := g.children i
  (List.range cs.length).filterMap fun k => (cs.find? fun x => x.1 == k).map (·.2)

/-- A TREE_SET's data for relay i (R328). -/
def GImage.treeData (g : GImage) (i : Nat) : List Byte :=
  match g.relays[i]? with
  | some e =>
    let parent := match g.relays[e.parent]? with
      | some q => q.node
      | none => 0xFFF
    let cs := g.childNodes i
    leBytes 2 parent ++ leBytes 1 cs.length ++ leBytes 1 g.w ++ leBytes 2 e.slotBase ++ cs.flatMap (leBytes 2)
  | none => []

/-- TREE_FREE to relays under an epoch (R324). -/
def sendFree (p : Part) (m : Mach) (h epoch ctx : Nat) (nodes : List Nat) : Mach :=
  nodes.foldl (fun m n => sendFlow p m n 3 (collPacket h 0 kindFree epoch 0 0 0 noOpseq 0 []) ctx .none) m

/-- Rank 0 enters the formation barrier once every JOIN and every TREE_ACK has arrived (R322). -/
def joinReady (p : Part) (m : Mach) (h : Nat) : Mach :=
  match groupOf m h with
  | some g => match g.forming with
    | some f =>
      if !f.held && !f.entered && myRank p m g == 0 && f.joins.length + 1 == g.size && f.acks.length == g.relays.length then
        arriveBarrier p (setGroup m h { g with forming := some { f with entered := true } }) h 0
      else m
    | none => m
  | none => m

/-- A checked image is taken up: the group forms (R322). -/
def startForming (p : Part) (m : Mach) (acc c : Nat) (g : GImage) : Mach :=
  let old := groupOf m g.handle
  let f : Forming := { acc := acc, crc := crc32c g.bytes }
  let x : Group := { ctx := c, job := g.job, epoch := g.epoch, members := g.members, relays := g.relays, tree := g.tree,
                     w := g.w, forming := some f }
  let m := setGroup m g.handle x
  let me := myRank p m x
  if me = 0 then
    let were : List Nat := match old with
      | some o => o.relays.map fun e => e.node
      | none => []
    let gone := were.filter fun n => !(g.relays.any fun q => q.node == n)
    let m := sendFree p m g.handle ((old.map (·.epoch)).getD 0) c gone
    let m := g.relays.zipIdx.foldl (fun m (e, i) =>
      sendFlow p m e.node 3 (collPacket g.handle 0 kindSet g.epoch 0 0 0 noOpseq 0 (g.treeData i)) c (.tree g.handle e.node)) m
    joinReady p m g.handle
  else
    let m := sendFlow p m (x.nodeAt 0) 3
      (collPacket g.handle 0 kindJoin g.epoch 0 me 0 noOpseq 0 (leBytes 4 f.crc)) c (.join g.handle)
    arriveBarrier p (updGroup m g.handle fun y => { y with forming := some { f with entered := true } }) g.handle 0

/-- A pre-empted formation goes on under its command's new start; one that has ended meanwhile ends the command
(R345, R411). -/
def resumeForming (p : Part) (m : Mach) (r : Running) (h : Nat) : Mach :=
  match groupOf m h with
  | some g => match g.forming with
    | some f => match f.failed with
      | some st => complete (dropGroup m h) r st
      | none => joinReady p (setGroup m h { g with forming := some { f with acc := r.acc, held := false } }) h
    | none => m
  | none => m

/-- DISSOLVE (R325): the member frees the group, rank 0 frees the relays, the command completes. -/
def dissolve (p : Part) (m : Mach) (r : Running) (g : GImage) : Mach :=
  let held := (groupOf m g.handle).map (fun x => x.relays.map (·.node))
  let relays := ((held.getD []) ++ g.relays.map (·.node)).eraseDups
  let m := dropGroup m g.handle
  let m := if (g.members.map (·.node)).head? = some (nodeId p m) then sendFree p m g.handle g.epoch r.win relays else m
  complete m r stDone

/-- A check of R323 failed at this member: the command completes; at rank 0 the members are told. -/
def imageFails (p : Part) (m : Mach) (r : Running) (g : GImage) (e : Nat × Nat × Nat) : Mach :=
  let nodes := g.members.map (·.node)
  let m := groupErr p m g.handle e.1 e.2.2
  let m := if nodes.head? = some (nodeId p m) then
      sendAborts p m g.handle 0 reGroup g.epoch noOpseq (nodes.filter fun n => n != nodeId p m) else m
  complete m r e.2.1

/-- The group of an image may be taken up now: none of its operations runs here (R325). -/
def formable (m : Mach) (h : Nat) : Bool :=
  match groupOf m h with
  | some g => g.op.isNone
  | none => true

/-- A formation ends with an image that could not be read (R348). -/
def imageLost (p : Part) (m : Mach) (r : Running) : Mach := complete (setEvt p m Reg.collPage 1) r stUncorrectable

/-- GROUP_FORM and GROUP_REFORM: stage 0 reads the rest of the image, as long as its counts say, stage 1 checks it and
starts the formation, stage 2 waits for the formation barrier. -/
def formCmd (w seq op : Nat) (p : Part) (m : Mach) : Mach :=
  match dueCmd p m w seq op with
  | some r =>
    let a := bytesOf r.line 16 23 % 2 ^ 42
    let head := readImage (hostBytes m a 64)
    let g := readImage (hostBytes m a head.len)
    if r.memFail then imageLost p m r
    else if txnsOut m (.cmdRead r.acc) then m
    else if r.stage = 0 then startReads p (setRunning m { r with stage := 1 }) (a + 64) (head.len - 64) (.cmdRead r.acc)
    else if r.stage = 1 then
      match imageFault p m w (op == 0x15) g with
      | some e => imageFails p m r g e
      | none =>
        if resumes m w g then resumeForming p (setRunning m { r with stage := 2 }) { r with stage := 2 } g.handle
        else if !formable m g.handle then m
        else if g.dissolve then dissolve p m r g
        else startForming p (setRunning m { r with stage := 2 }) r.acc w g
    else m
  | none => m

/-- GROUP_FORM (R322). -/
def groupForm (w seq : Nat) (p : Part) (m : Mach) : Mach := formCmd w seq 0x14 p m

/-- GROUP_REFORM (R325). -/
def groupReform (w seq : Nat) (p : Part) (m : Mach) : Mach := formCmd w seq 0x15 p m

/-- A formation ends here with a status and no group; of one that a save has pre-empted the status is kept for its
command. -/
def formFails (p : Part) (m : Mach) (h st : Nat) : Mach :=
  match groupOf m h with
  | some g => match g.forming with
    | some f =>
      let m := setEvt p m Reg.collPage 1
      let m := if f.held then setGroup m h { g with forming := some { f with failed := some st } } else dropGroup m h
      match findAcc m f.acc with
      | some r => complete m r st
      | none => m
    | none => m
  | none => m

/-- Rank 0 gives up a formation (R322, R323 IMAGE and RELAY): the members are told, and the relays
that acknowledged are freed. -/
def formRefused (p : Part) (m : Mach) (h code node : Nat) : Mach :=
  match groupOf m h with
  | some g => match g.forming with
    | some f =>
      let m := groupErr p m h code node
      let m := sendAborts p m h 0 reGroup g.epoch noOpseq (otherNodes p m g)
      let m := sendFree p m h g.epoch g.ctx f.acks
      formFails p m h stGroup
    | none => m
  | none => m

/-- A JOIN or a TREE answer can be taken: its group forms here in its epoch, or is past it. -/
def formPick (m : Mach) (x : RxPkt) : Bool :=
  isDuplicate m x || (match groupOf m (pk (rxBytes x) 0 1) with
    | some g => decide (pk (rxBytes x) 4 7 < g.epoch) || (g.epoch == pk (rxBytes x) 4 7)
    | none => false)

/-- A packet that fails its CRC check is dropped unacknowledged, and counted with its source (R330). -/
def crcDrop (p : Part) (m : Mach) (x : RxPkt) : Mach :=
  let m := bump p (dropRx m x) Reg.collCrcFail 1
  { m with coll := { m.coll with badCrc := Assoc.set m.coll.badCrc x.src (cnt m.coll.badCrc x.src + 1) } }

/-- A packet of a source has passed the check: its count starts again (R330). -/
def crcPass (m : Mach) (src : Nat) : Mach :=
  { m with coll := { m.coll with badCrc := Assoc.erase m.coll.badCrc src } }

/-- JOIN (R322). -/
def join (p : Part) (m : Mach) : Mach :=
  match findColl m kindJoin (formPick m) with
  | some x =>
    let bs := rxBytes x
    let h := pk bs 0 1
    if isDuplicate m x then dropDuplicate p m x
    else if !pkCrcOk bs then crcDrop p m x
    else
      let m := crcPass (acceptAck p m x) x.src
      match groupOf m h with
      | some g => match g.forming with
        | some f =>
          if pk bs 4 7 ≠ g.epoch then m
          else if pk (pkData bs) 0 3 ≠ f.crc then formRefused p m h 7 x.src
          else joinReady p (setGroup m h { g with forming := some { f with joins := addOnce f.joins x.src } }) h
        | none => m
      | none => m
  | none => m

/-- TREE_ACK and TREE_NAK (R322, R323). -/
def treeAck (p : Part) (m : Mach) : Mach :=
  match (findColl m kindAck (formPick m)).orElse fun _ => findColl m kindNak (formPick m) with
  | some x =>
    let bs := rxBytes x
    let h := pk bs 0 1
    if isDuplicate m x then dropDuplicate p m x
    else if !pkCrcOk bs then crcDrop p m x
    else
      let m := crcPass (acceptAck p m x) x.src
      match groupOf m h with
      | some g => match g.forming with
        | some f =>
          if pk bs 4 7 ≠ g.epoch then m
          else if pk bs 3 3 = kindNak then formRefused p m h 8 x.src
          else joinReady p (setGroup m h { g with forming := some { f with acks := addOnce f.acks x.src } }) h
        | none => m
      | none => m
  | none => m

/-! ### A relay's reservations (R324) -/

/-- A slot is reserved by a reservation. -/
def RedResv.covers (r : RedResv) (slot : Nat) : Bool := decide (r.base ≤ slot) && decide (slot < r.base + r.w)

/-- The reservation of a slot. -/
def resvOf (m : Mach) (slot : Nat) : Option RedResv := m.coll.redResv.find? fun r => r.covers slot

/-- Reservations that a test picks are freed with their slots' state. -/
def freeResv (m : Mach) (pick : RedResv → Bool) : Mach :=
  let gone := m.coll.redResv.filter pick
  { m with coll := { m.coll with redResv := m.coll.redResv.filter fun r => !pick r,
                                 redSlots := m.coll.redSlots.filter fun s => !gone.any fun r => r.covers s.1 } }

/-- A free value below n. -/
def drawBelow (n : Nat) (m : Mach) : Nat × Mach := let (v, m) := drawFree m; (v.toNat % n, m)

/-- k free values below n. -/
def drawMany (n : Nat) : Nat → Mach → List Nat × Mach
  | 0, m => ([], m)
  | k + 1, m => let (v, m) := drawBelow n m; let (r, m) := drawMany n k m; (v :: r, m)

/-- A relay answers a tree packet. -/
def treeAnswer (p : Part) (m : Mach) (dst h epoch kind : Nat) : Mach :=
  sendFlow p m dst 3 (collPacket h 0 kind epoch 0 0xFFF 0 noOpseq 0 []) 8 .none

/-- A new reservation of a TREE_SET; where the relay stands at its parent and its children's slots
are free values, since the packet names neither. -/
def newResv (m : Mach) (bs : List Byte) : RedResv × Mach :=
  let d := pkData bs
  let parent := pk d 0 1 % 4096
  let n := pk d 2 2
  let kids := (List.range n).map fun i => pk d (6 + 2 * i) (7 + 2 * i) % 4096
  let (pb, m) := drawBelow 2048 m
  let (mc, m) := drawBelow 64 m
  let (cb, m) := drawMany 2048 n m
  ({ handle := pk bs 0 1, epoch := pk bs 4 7, base := pk d 4 5, w := pk d 3 3,
     parent := if parent = 0xFFF then none else some parent, children := kids, parentBase := pb, myChild := mc,
     childBases := cb }, m)

/-- TREE_SET (R324); one of an epoch below the one held is acknowledged and has no effect (R325). -/
def treeSet (p : Part) (m : Mach) : Mach :=
  if !p.relay then m
  else match findColl m kindSet fun _ => true with
  | some x =>
    let bs := rxBytes x
    let h := pk bs 0 1
    let epoch := pk bs 4 7
    if isDuplicate m x then dropDuplicate p m x
    else if !pkCrcOk bs then crcDrop p m x
    else
      let m := crcPass (acceptAck p m x) x.src
      if m.coll.redResv.any (fun r => r.handle == h && decide (epoch < r.epoch)) then m
      else if m.coll.redResv.any (fun r => r.handle == h && r.epoch == epoch) then treeAnswer p m x.src h epoch kindAck
      else
        let m := freeResv m fun r => r.handle == h && decide (r.epoch < epoch)
        let d := pkData bs
        let taken := (List.range (pk d 3 3)).any fun i => match resvOf m (pk d 4 5 + i) with
          | some r => r.handle != h
          | none => false
        if taken then treeAnswer p m x.src h epoch kindNak
        else
          let (r, m) := newResv m bs
          treeAnswer p { m with coll := { m.coll with redResv := m.coll.redResv ++ [r] } } x.src h epoch kindAck
  | none => m

/-- TREE_FREE (R324). -/
def treeFree (p : Part) (m : Mach) : Mach :=
  if !p.relay then m
  else match findColl m kindFree fun _ => true with
  | some x =>
    let bs := rxBytes x
    if isDuplicate m x then dropDuplicate p m x
    else if !pkCrcOk bs then crcDrop p m x
    else freeResv (crcPass (acceptAck p m x) x.src) fun r => r.handle == pk bs 0 1 && decide (r.epoch ≤ pk bs 4 7)
  | none => m

/-! ### The meanings of the commands -/

/-- GROUP_FORM (R322). -/
def execGroupForm (win seq : Nat) (s : State) : Host.Outcome State Fault Refusal :=
  .next { s with m := groupForm win seq s.part s.m }

/-- GROUP_REFORM (R325). -/
def execGroupReform (win seq : Nat) (s : State) : Host.Outcome State Fault Refusal :=
  .next { s with m := groupReform win seq s.part s.m }

/-- BAR_ARRIVE (R443). -/
def execBarArrive (s : State) : Host.Outcome State Fault Refusal :=
  .next { s with m := barArrive s.part s.m }

/-- BAR_RELEASE (R444). -/
def execBarRelease (s : State) : Host.Outcome State Fault Refusal :=
  .next { s with m := barRelease s.part s.m }

end Sys2Proof.Machine
end

