-- ==== Sys2Proof/Machine/Coll.lean ====
section
/-! DEFINITION. Collective operations on a member (R326 to R346) and a relay's reduction slots
(R315 to R318, R337, R338). -/

namespace Sys2Proof.Machine

/-! ### Descriptors and checks (R331 to R335) -/

/-- The opcodes. -/
def opA2a : Nat := 0x10
def opA2av : Nat := 0x11
def opReduce : Nat := 0x12
def opBarrier : Nat := 0x13

/-- An opcode of a collective. -/
def isColl (opc : Nat) : Bool := decide (opA2a ≤ opc) && decide (opc ≤ opBarrier)

/-- GROUP of a descriptor. -/
def OpCtx.handle (o : OpCtx) : Nat := o.f 0 1

/-- The group an operation names, where its context holds it. -/
def heldGroup (m : Mach) (o : OpCtx) : Option Group :=
  match groupOf m o.handle with
  | some g => if g.ctx = o.ctx then some g else none
  | none => none

/-- Source and destination offsets. -/
def OpCtx.cSrc (o : OpCtx) : Nat := if o.opc = opA2a then o.f 8 13 else o.f 10 15
def OpCtx.cDst (o : OpCtx) : Nat := if o.opc = opA2a then o.f 14 19 else o.f 16 21

/-- BLOCK; ELEMS, FMT and chunks of a reduction; the bytes of chunk c. -/
def OpCtx.block (o : OpCtx) : Nat := o.f 4 7
def OpCtx.elems (o : OpCtx) : Nat := o.f 4 7
def OpCtx.redFmt (o : OpCtx) : Nat := o.f 8 8
def OpCtx.isRing (o : OpCtx) : Bool := o.f 2 2 == 1
def OpCtx.chunks (o : OpCtx) : Nat := if o.opc = opReduce then ceilDiv o.elems 1024 else 0
def OpCtx.chunkElems (o : OpCtx) (c : Nat) : Nat := min 1024 (o.elems - 1024 * c)

/-- FIELD (R331 to R335): reserved bits and ranges, and a gating counter that the context may not name (R386). -/
def collFieldBad (p : Part) (m : Mach) (o : OpCtx) : Bool :=
  decide (4096 ≤ o.f 48 49) || decide (2 ^ 28 ≤ o.f 52 55) || (o.f 50 51 != 0 && !evtInRange p m o.ctx (o.f 48 49)) ||
  (if o.opc = opA2a then
    o.f 2 2 != 0 || decide (16 ≤ o.f 3 3) || decide (o.block < 16) || decide (2 ^ 31 < o.block) || o.f 20 47 != 0
  else if o.opc = opA2av then
    o.f 2 2 != 0 || decide (64 ≤ o.f 3 3) || o.f 32 47 != 0
  else if o.opc = opReduce then
    decide (2 ≤ o.f 2 2) || decide (16 ≤ o.f 3 3) || o.elems == 0 || decide (2 ^ 28 < o.elems) || o.f 9 9 != 0 ||
    o.f 22 47 != 0
  else o.f 2 47 != 0)

/-- The operands an operation has: 0 source, 1 destination, 2 counts list. -/
def collOperands (o : OpCtx) : List Nat :=
  if o.opc = opBarrier then [] else if o.opc = opA2av then [0, 1, 2] else [0, 1]

/-- ALIGN: offsets and block sizes are multiples of 16 (R331); the operand at fault. -/
def collAlignBad (o : OpCtx) : Option Nat :=
  if o.opc = opBarrier then none
  else if o.cSrc % 16 ≠ 0 then some 0
  else if o.cDst % 16 ≠ 0 then some 1
  else if o.opc = opA2av ∧ o.f 4 9 % 16 ≠ 0 then some 2
  else if o.opc = opA2av ∧ o.f 22 27 % 16 ≠ 0 then some 1
  else if o.opc = opA2a ∧ o.block % 16 ≠ 0 then some 3
  else none

/-- The checks that need neither the group nor the counts list. -/
def collEarly (p : Part) (m : Mach) (o : OpCtx) : Option XfFail :=
  if collFieldBad p m o then some ⟨0x01, stFormat, 3, 0⟩
  else if o.opc = opReduce ∧ 2 < o.redFmt then some ⟨0x02, stFormat, 3, 0⟩
  else match (collOperands o).find? fun k => (xfWin m o (o.winNo k)).isNone with
    | some k => some ⟨0x03, stRegionBounds, k, 0⟩
    | none => (collAlignBad o).map fun k => ⟨0x04, stAlign, k, 0⟩

/-- The counts list of this member as its window holds it. -/
def countsOf (m : Mach) (o : OpCtx) (g : Group) : List Nat :=
  match xfWin m o (o.winNo 2) with
  | some w => (chunksOf 4 (g.size + 1) (winRead m o.ctx w (o.f 4 9) (4 * g.size))).map leNat
  | none => []

/-- The byte ranges an operation reaches: operand, window, first byte, length (R331 to R334). With no group held,
only those that do not depend on its members. -/
def collRanges (m : Mach) (o : OpCtx) (held : Option Group) : List (Nat × XWin × Nat × Nat) :=
  let pn := (held.map Group.size).getD 0
  let counts := (held.map fun g => (countsOf m o g).sum).getD 0
  let part := fun (k off n : Nat) => (xfWin m o (o.winNo k)).map fun w => (k, w, off, n)
  (if o.opc = opA2a then [part 0 o.cSrc (pn * o.block), part 1 o.cDst (pn * o.block)]
   else if o.opc = opA2av then
    [part 0 o.cSrc counts, part 1 o.cDst (o.f 28 31), part 1 (o.f 22 27) (4 * pn),
     part 2 (o.f 4 9) (4 * pn)]
   else if o.opc = opReduce then
    [part 0 o.cSrc (o.elems * redBytes o.redFmt), part 1 o.cDst (o.elems * redBytes o.redFmt)]
   else []).filterMap id

/-- Two ranges of a list meet (R253); the operand of the later one. -/
def firstMeet : List (Nat × XWin × Nat × Nat) → Option Nat
  | [] => none
  | a :: r =>
    match r.find? fun b => rangesMeet (a.2.1, some ((a.2.2.1 : Int), (a.2.2.1 + a.2.2.2 : Int)))
        (b.2.1, some ((b.2.2.1 : Int), (b.2.2.1 + b.2.2.2 : Int))) with
    | some b => some b.1
    | none => firstMeet r

/-- The checks that need the group's size and the counts list: the rest of ALIGN, BOUNDS, OVERLAP. -/
def collLate (m : Mach) (o : OpCtx) (held : Option Group) : Option XfFail :=
  let rs := collRanges m o held
  if o.opc == opA2av && (rs.all fun r => decide (r.1 ≠ 2) || decide (r.2.2.1 + r.2.2.2 ≤ r.2.1.len)) &&
      held.any (fun g => (countsOf m o g).any fun n => n % 16 != 0) then some ⟨0x04, stAlign, 2, 0⟩
  else match rs.find? fun r => decide (r.2.1.len < r.2.2.1 + r.2.2.2) with
    | some r => some ⟨0x06, stRegionBounds, r.1, 0⟩
    | none => match firstMeet (rs.filter fun r => r.2.2.2 != 0) with
      | some k => some ⟨0x07, stCollision, k, 0⟩
      | none => none

/-- The last check: the group can carry the operation (R331, R333, R343). -/
def groupLacks (o : OpCtx) (g : Group) : Bool :=
  g.dead || (o.opc == opReduce && !o.isRing && !g.tree) || (o.opc == opA2av && decide (1024 < g.size))

/-! ### The group's running operation -/

/-- The running operation changed. -/
def updOp (m : Mach) (h : Nat) (f : CollOp → CollOp) : Mach :=
  updGroup m h fun g => { g with op := g.op.map f }

/-- A fresh attempt of an operation. -/
def freshOp (m : Mach) (owner : CollOwner) (opc opseq att : Nat) : CollOp :=
  { owner := owner, opc := opc, opseq := opseq, att := att, lastAt := m.tick.time }

/-- An operation's failed transfer is noted, or forgotten where it starts again. -/
def markFail (m : Mach) (c : Nat) (failed : Bool) : CollOwner → Mach
  | .cmd acc => match findAcc m acc with
    | some r => setRunning m { r with memFail := failed }
    | none => m
  | .lane t => updStep m c fun s =>
      let xs := mapFirst (outstanding t) (fun x => { x with memFail := failed }) s.xfers
      { s with xfers := xs }

/-- The group is done with an operation of number `opseq`: the next one may start, and the tree chunks it has sent
are counted (R326, R337). -/
def groupPast (m : Mach) (h opseq sent : Nat) : Mach :=
  updGroup m h fun g => { g with
    op := none, opseq := (opseq + 1) % 2 ^ 32, c0 := g.c0 + sent, preempted := none,
    terminal := g.terminal.filter (fun t => t.1 != opseq), suspend := g.suspend.filter fun t => t != opseq }

/-- The tree chunks an operation of this member has sent, in any attempt. -/
def sentChunks (o : OpCtx) (op : CollOp) : Nat := if op.opc == opReduce && !o.isRing then op.sentMax else 0

/-- The running operation ends on this member with a status. -/
def endColl (m : Mach) (h st : Nat) : Mach :=
  match groupOf m h with
  | some g => match g.op with
    | some op =>
      match findOp m g.ctx op.owner with
      | some o => endOp (groupPast m h op.opseq (sentChunks o op)) o st op.opseq
      | none => groupPast m h op.opseq 0
    | none => m
  | none => m

/-- The status a terminal reason ends an operation with at a member that receives it (R342). -/
def remoteStatus (reason : Nat) : Nat :=
  if reason = reTimeout then stTimeout
  else if reason = reUnreach then stUnreachable
  else if reason = reCheck then stCheck
  else if reason = reGroup then stGroup
  else stAbortedRemote

/-- A reason after which the operation runs again. -/
def isRerun (reason : Nat) : Bool := reason == rePreempt || reason == reFault

/-- The group's attempt rises; above 15 the group is exhausted (R343). -/
def raiseAtt (m : Mach) (h a : Nat) : Mach :=
  updGroup m h fun g => if 15 < max g.att (a + 1) then { g with att := 15, dead := true } else { g with att := max g.att (a + 1) }

/-- The running operation starts again under the group's attempt, or ends where the attempts are
exhausted (R343). -/
def rerunColl (p : Part) (m : Mach) (h : Nat) (suspended : Bool) : Mach :=
  match groupOf m h with
  | some g => match g.op with
    | some op =>
      if g.dead then endColl (leaveBarrier m h) h stAbortedRemote
      else
        let m := markFail (leaveBarrier m h) g.ctx false op.owner
        bump p (updOp m h fun _ => { freshOp m op.owner op.opc op.opseq g.att with
          suspended := suspended || op.suspended, sentMax := op.sentMax, reread := true, cut := op.cut }) Reg.collRerun 1
    | none => m
  | none => m

/-- This member aborts its running attempt (R342, R343): nothing happens once it has entered the
closing barrier. `st` is its own status for a terminal reason. -/
def abortColl (p : Part) (m : Mach) (h reason st : Nat) : Mach :=
  match groupOf m h with
  | some g => match g.op with
    | some op =>
      if op.entered then m
      else
        let m := sendAborts p m h op.att reason g.epoch op.opseq (otherNodes p m g)
        let m := raiseAtt m h op.att
        if isRerun reason then rerunColl p m h false else endColl (leaveBarrier m h) h st
    | none => m
  | none => m

/-- An operation whose check fails ends here, and is aborted on every member (R331). -/
def collFails (p : Part) (m : Mach) (o : OpCtx) (st : Nat) : Mach :=
  match heldGroup m o with
  | some g =>
    let m := sendAborts p m o.handle g.att reLocal g.epoch g.opseq (otherNodes p m g)
    let m := raiseAtt (groupPast m o.handle g.opseq 0) o.handle g.att
    endOp m o st g.opseq
  | none => endOp m o st

/-! ### What a member sends (R332, R333, R337, R339, R340) -/

/-- The source gate of a chunk (R340). -/
def gateOpen (m : Mach) (o : OpCtx) (c : Nat) : Bool :=
  let n := o.f 50 51
  n == 0 || decide (o.f 52 55 + c / n + 1 ≤ evtOf m (o.f 48 49))

/-- A row of the counts table: counts of rank s, and its DST_CAP. -/
def rowOf (op : CollOp) (s : Nat) : List Nat × Nat := Assoc.get ([], 0) op.rows s

/-- cnt[s][r]. -/
def cntAt (op : CollOp) (s r : Nat) : Nat := (rowOf op s).1.getD r 0

/-- The data chunks of A2A and A2AV in send order (R332, R333): rank, source offset, length, and
offset from the receiver's DST_OFF. -/
def dataPlan (o : OpCtx) (op : CollOp) (pn me : Nat) : List (Nat × Nat × Nat × Nat) :=
  let size := fun r => if o.opc = opA2a then o.block else cntAt op me r
  let src := fun r => if o.opc = opA2a then r * o.block else ((List.range r).map (cntAt op me)).sum
  let dst := fun r => if o.opc = opA2a then me * o.block else ((List.range me).map fun q => cntAt op q r).sum
  let most := (List.range pn).foldl (fun a r => max a (ceilDiv (size r) 8192)) 0
  (List.range most).flatMap fun j => (List.range pn).filterMap fun i =>
    let r := (me + i) % pn
    if 8192 * j < size r then
      some (r, o.cSrc + src r + 8192 * j, min 8192 (size r - 8192 * j), dst r + 8192 * j)
    else none

/-- Data packets this member will receive (R332, R333). -/
def expected (o : OpCtx) (op : CollOp) (pn me : Nat) : Nat :=
  ((List.range pn).map fun s =>
    if s = me then 0 else ceilDiv (if o.opc = opA2a then o.block else cntAt op s me) 8192).sum

/-- The chunks of its own source that a member sends, copies or adds. -/
def ownChunks (o : OpCtx) (op : CollOp) (pn me : Nat) : Nat :=
  if o.opc = opBarrier then 0
  else if o.opc = opReduce then o.chunks
  else (dataPlan o op pn me).length

/-- The source offset and length of chunk c. -/
def chunkSrc (o : OpCtx) (op : CollOp) (pn me c : Nat) : Nat × Nat :=
  if o.opc = opReduce then
    (o.cSrc + 1024 * c * redBytes o.redFmt, o.chunkElems c * redBytes o.redFmt)
  else match (dataPlan o op pn me)[c]? with
    | some x => (x.2.1, x.2.2.1)
    | none => (0, 0)

/-- A packet of the running operation is queued for a node, and is counted until it is acknowledged. -/
def sendOp (p : Part) (m : Mach) (h : Nat) (g : Group) (op : CollOp) (node : Nat) (bytes : List Byte) : Mach :=
  sendFlow p (updOp m h fun x => { x with unacked := x.unacked + 1 }) node 3 bytes g.ctx
    (.coll h op.opseq op.att)

/-- A collective packet leaves for a rank. -/
def sendColl (p : Part) (m : Mach) (h : Nat) (g : Group) (op : CollOp) (rank : Nat) (bytes : List Byte) : Mach :=
  sendOp p m h g op (g.nodeAt rank) bytes

/-- A member's data written into its destination window; a line that the write fills in part and that does not
decode fails the attempt (R215, R222, R342). -/
def writeDst (p : Part) (m : Mach) (o : OpCtx) (off : Nat) (bs : List Byte) : Mach :=
  match xfWin m o (o.winNo 1) with
  | some w => match winPut p m o.ctx w off bs o.useW with
    | (m, some _) => markFail m o.ctx true o.owner
    | (m, none) => m
  | none => m

/-- A reduction chunk's place in the destination. -/
def redPlace (o : OpCtx) (c : Nat) : Nat := o.cDst + 1024 * c * redBytes o.redFmt

/-- Chunk c of the member's source is sent, copied, or stands ready for the ring (R332, R337, R339). -/
def sendChunk (p : Part) (m : Mach) (h : Nat) (g : Group) (o : OpCtx) (op : CollOp) (me c : Nat) (bs : List Byte) : Mach :=
  if o.opc = opReduce then
    if o.isRing then
      if g.size = 1 then updOp (writeDst p m o (redPlace o c) bs) h fun x => { x with done := x.done ++ [c] }
      else if me = (c + 1) % g.size then
        sendColl p m h g op ((me + 1) % g.size) (collPacket h op.att kindRs g.epoch c me (1024 * c * redBytes o.redFmt)
          op.opseq op.opc bs)
      else m
    else match g.members[me]? with
      | some e => match g.relays[e.parent]? with
        | some q =>
          sendOp p m h g op q.node
            (redPacket h op.att kindRedUp g.epoch (g.c0 + c) (q.slotBase + (g.c0 + c) % max 1 g.w) e.child o.redFmt
              (o.chunkElems c) bs)
        | none => m
      | none => m
  else match (dataPlan o op g.size me)[c]? with
    | some (r, _, _, off) =>
      if r = me then writeDst p m o (o.cDst + off) bs
      else sendColl p m h g op r (collPacket h op.att kindData g.epoch c me off op.opseq op.opc bs)
    | none => m

/-- The next chunk may go: its gate is open, and in a tree the chunk W places before it is back. -/
def chunkMayGo (m : Mach) (g : Group) (o : OpCtx) (op : CollOp) (c : Nat) : Bool :=
  gateOpen m o c &&
  (o.opc != opReduce || o.isRing || decide (c < g.w) || op.done.contains (c - g.w))

/-- Chunks are read and sent in order while they may; `n` bounds how many. -/
def pumpChunks (p : Part) (h : Nat) : Nat → Mach → Mach
  | 0, m => m
  | n + 1, m =>
    match groupOf m h with
    | some g => match g.op with
      | some op => match findOp m g.ctx op.owner with
        | some o =>
          let me := myRank p m g
          let c := op.sentN
          if decide (c < ownChunks o op g.size me) && chunkMayGo m g o op c then
            match xfWin m o (o.winNo 0) with
            | some w =>
              let (off, len) := chunkSrc o op g.size me c
              let m := if op.fetched ≤ c then
                  winFetch p (updOp m h fun x => { x with fetched := c + 1 }) w off len o.useR else m
              if txnsOut m o.useR then m
              else match winBad m o.ctx w off len with
                | some l => abortColl p (kilnNote p m l (some 0)) h reFault stUncorrectable
                | none =>
                  let m := sendChunk p m h g o op me c (winRead m o.ctx w off len)
                  pumpChunks p h n (updOp m h fun x => { x with sentN := c + 1, sentMax := max x.sentMax (c + 1) })
            | none => m
          else m
        | none => m
      | none => m
    | none => m

/-! ### Counts (R333) -/

/-- The counts list lies in a kiln line that does not decode (R222). -/
def countsBad (m : Mach) (o : OpCtx) (g : Group) : Option Nat :=
  if o.opc = opA2av then (xfWin m o (o.winNo 2)).bind fun w => winBad m o.ctx w (o.f 4 9) (4 * g.size) else none

/-- The counts list is read, as far as its window goes. -/
def fetchCounts (p : Part) (m : Mach) (o : OpCtx) (g : Group) : Mach :=
  match xfWin m o (o.winNo 2) with
  | some w => if o.opc = opA2av then winFetch p m w (o.f 4 9) (min (4 * g.size) (w.len - o.f 4 9)) o.useR else m
  | none => m

/-- The counts exchange of an attempt: a list that is to be read again is read first; one that cannot be read aborts
the attempt (R342, R343). -/
def startCounts (p : Part) (m : Mach) (h : Nat) (g : Group) (o : OpCtx) (op : CollOp) (send : Mach → Mach) : Mach :=
  if op.reread then fetchCounts p (updOp m h fun x => { x with reread := false }) o g
  else if txnsOut m o.useR then m
  else match countsBad m o g with
    | some l => abortColl p (kilnNote p m l (some 0)) h reFault stUncorrectable
    | none => send m

/-- The counts exchange starts: this member's row is held and goes to every other member. -/
def sendCounts (p : Part) (m : Mach) (h : Nat) (g : Group) (o : OpCtx) (op : CollOp) : Mach :=
  let me := myRank p m g
  let row := countsOf m o g
  let cap := o.f 28 31
  let m := updOp m h fun x => { x with countsSent := true, rows := Assoc.set x.rows me (row, cap) }
  (List.range g.size).foldl (fun m r =>
    if r = me then m
    else sendColl p m h g op r (collPacket h op.att kindCounts g.epoch 0 me 0 op.opseq op.opc
      ((row ++ [cap]).flatMap (leBytes 4)))) m

/-- Every row is held. -/
def rowsHeld (op : CollOp) (pn : Nat) : Bool := (List.range pn).all fun s => (Assoc.find? op.rows s).isSome

/-- Some rank's need exceeds its capacity. -/
def overCap (op : CollOp) (pn : Nat) : Bool :=
  (List.range pn).any fun r => decide ((rowOf op r).2 < ((List.range pn).map fun q => cntAt op q r).sum)

/-- With every row held the verdict is reached: ERR_REGION_BOUNDS, or the column is written. -/
def countsVerdict (p : Part) (m : Mach) (h : Nat) : Mach :=
  match groupOf m h with
  | some g => match g.op with
    | some op => match findOp m g.ctx op.owner with
      | some o =>
        if o.opc == opA2av && rowsHeld op g.size && !op.columnOut && op.status == 0 then
          if overCap op g.size then updOp m h fun x => { x with status := stRegionBounds }
          else
            let col := (List.range g.size).flatMap fun q => leBytes 4 (cntAt op q (myRank p m g))
            writeDst p (updOp m h fun x => { x with columnOut := true }) o (o.f 22 27) col
        else m
      | none => m
    | none => m
  | none => m

/-! ### The local part and the closing barrier (R326) -/

/-- The member's local part is finished. -/
def localDone (m : Mach) (g : Group) (o : OpCtx) (op : CollOp) (me : Nat) : Bool :=
  op.unacked == 0 && !txnsOut m o.useR && !txnsOut m o.useW &&
  (if op.status ≠ 0 then true
   else op.sentN == ownChunks o op g.size me &&
    (if o.opc = opReduce then op.done.length == o.chunks
     else if o.opc = opBarrier then true
     else (o.opc == opA2a || op.columnOut) && op.gotN == expected o op g.size me))

/-- A window of the operation lies in a kiln group that is being copied (R223). -/
def winsMove (m : Mach) (o : OpCtx) : Bool :=
  groupCopies m o.ctx && (collOperands o).any fun k => (xfWin m o (o.winNo k)).any fun w => w.kiln

/-- The operation goes on: counts, chunks, and the closing barrier when the local part is finished.
A context that is not resident, and a failed read, hold it or make it start again. -/
def settleColl (p : Part) (m : Mach) (h : Nat) : Mach :=
  match groupOf m h with
  | some g => match g.op with
    | some op => match findOp m g.ctx op.owner with
      | some o =>
        if op.entered || !(ctxOf m g.ctx).resident || winsMove m o then m
        else if o.memFail then abortColl p m h reFault stUncorrectable
        else
          let m := if o.opc = opA2av ∧ op.countsSent = false then startCounts p m h g o op (fun m => sendCounts p m h g o op) else m
          let m := countsVerdict p m h
          let dataOk := match groupOf m h with
            | some g => match g.op with
              | some op => op.status == 0 && (o.opc != opA2av || op.columnOut)
              | none => false
            | none => false
          let m := if dataOk then pumpChunks p h (ownChunks o ((groupOf m h).bind (·.op) |>.getD op) g.size (myRank p m g) + 1) m else m
          match groupOf m h with
          | some g => match g.op with
            | some op =>
              if localDone m g o op (myRank p m g) && g.bar.here.isNone then
                arriveBarrier p (updOp m h fun x => { x with entered := true }) h op.att
              else m
            | none => m
          | none => m
      | none => m
    | none => m
  | none => m

/-! ### Starting (R326, R331, R343) -/

/-- A collective of the same group, in this context, that comes before this one and has not ended. -/
def earlierColl (m : Mach) (o : OpCtx) : Bool :=
  match o.owner with
  | .cmd acc => (runningOf m o.ctx).any fun r =>
      decide (r.acc < acc) && isColl (recOp r.line) && (opOfCmd m r).handle == o.handle
  | .lane t => match stepOfCtx m o.ctx with
    | some s => (s.xfers.takeWhile fun x => x.tmpl != t || x.outcome.isSome).any fun x =>
        x.outcome.isNone && isColl (bytesOf x.line 1 1) && (opOfLane o.ctx x).handle == o.handle
    | none => false

/-- It is the operation's turn in its group. -/
def collTurn (m : Mach) (o : OpCtx) : Bool :=
  match heldGroup m o with
  | some g => g.forming.isNone && g.op.isNone && !earlierColl m o
  | none => true

/-- A checked operation starts: a terminal abort that came first ends it (R343). -/
def beginColl (p : Part) (m : Mach) (o : OpCtx) (g : Group) : Mach :=
  match g.terminal.find? fun t => t.1 == g.opseq with
  | some t => endOp (groupPast m o.handle g.opseq 0) o (remoteStatus t.2) g.opseq
  | none =>
    let m := setOp m { o with stage := 2 }
    let m := bump p m Reg.collRerun (if g.preempted = some g.opseq then 1 else 0)
    settleColl p (updGroup m o.handle fun g => { g with
      preempted := none,
      op := some { freshOp m o.owner o.opc g.opseq g.att with suspended := g.suspend.contains g.opseq } }) o.handle

/-- The first checks of an operation whose turn it is, and the read of its counts list. -/
def collCheck (p : Part) (m : Mach) (o : OpCtx) : Mach :=
  if bytesOf o.line 0 0 ≠ 2 ∨ bytesOf o.line 1 1 ≠ o.opc then collFails p m o stFormat
  else match collEarly p m o with
    | some e => collFails p (wr p m (Reg.ctxXfErr o.ctx) (wordOf (e.reason * 2 ^ 56 + e.operand * 2 ^ 54))) o e.status
    | none =>
      let m := setOp m { o with stage := 1 }
      match heldGroup m o with
      | some g => fetchCounts p m o g
      | none => m

/-- The other checks, and the start. -/
def collLateCheck (p : Part) (m : Mach) (o : OpCtx) : Mach :=
  match collLate m o (heldGroup m o), heldGroup m o with
  | some e, _ => collFails p (wr p m (Reg.ctxXfErr o.ctx) (wordOf (e.reason * 2 ^ 56 + e.operand * 2 ^ 54))) o e.status
  | none, some g => if groupLacks o g then collFails p m o stGroup else beginColl p m o g
  | none, none => endOp m o stGroup

/-- The counts list of an operation could not be read: the attempt aborts with FAULT and the operation starts again
(R342, R343). -/
def collReread (p : Part) (m : Mach) (o : OpCtx) : Mach :=
  match heldGroup m o with
  | some g =>
    let m := raiseAtt (sendAborts p m o.handle g.att reFault g.epoch g.opseq (otherNodes p m g)) o.handle g.att
    if (heldGroup m o).any fun g => g.dead then endOp (groupPast m o.handle g.opseq 0) o stAbortedRemote g.opseq
    else bump p (markFail (setOp m { o with stage := 0 }) o.ctx false o.owner) Reg.collRerun 1
  | none => endOp m o stUncorrectable

/-- A collective goes one stage on. -/
def collStage (p : Part) (m : Mach) (o : OpCtx) : Mach :=
  if o.stage < 2 ∧ (txnsOut m o.useR = true ∨ collTurn m o = false ∨ winsMove m o = true) then m
  else if o.stage < 2 ∧ o.memFail = true then collReread p m o
  else match o.stage with
    | 0 => collCheck p m o
    | 1 => match (heldGroup m o).bind (countsBad m o) with
      | some l => collReread p (kilnNote p m l (some 0)) o
      | none => collLateCheck p m o
    | _ => settleColl p m o.handle

/-- COLL_A2A, COLL_A2AV, COLL_REDUCE and COLL_BARRIER: the operation is checked, started or carried
on, as far as it can go. -/
def collRow (o : OpRef) (opc : Nat) (f : StoreRead) (p : Part) (m : Mach) : Mach :=
  match dueOp p m o opc with
  | some x =>
    let m := collStage p (readFinds p m f) x
    match (if x.stage = 0 then findOp m x.ctx x.owner else none) with
    | some y => if y.stage = 1 then collStage p m y else m
    | none => m
  | none => m

/-- COLL_A2A (R332). -/
def collA2a (o : OpRef) (f : StoreRead) (p : Part) (m : Mach) : Mach := collRow o opA2a f p m

/-- COLL_A2AV (R333). -/
def collA2av (o : OpRef) (f : StoreRead) (p : Part) (m : Mach) : Mach := collRow o opA2av f p m

/-- COLL_REDUCE (R334). -/
def collReduce (o : OpRef) (f : StoreRead) (p : Part) (m : Mach) : Mach := collRow o opReduce f p m

/-- COLL_BARRIER (R335). -/
def collBarrier (o : OpRef) (p : Part) (m : Mach) : Mach := collRow o opBarrier .clean p m

/-! ### Packets received at a member (R325, R327, R329, R330, R343) -/

/-- What is to become of a received collective packet. -/
inductive Verdict where
  | hold | drop | dropAck | duplicate | crcBad | wrong | take
  deriving DecidableEq, Repr

/-- The verdict on a packet; a reduction packet names no operation number. -/
def collVerdict (m : Mach) (x : RxPkt) : Verdict :=
  let bs := rxBytes x
  let epoch := pk bs 4 7
  let att := pk bs 2 2 % 16
  let red := pk bs 3 3 == kindRedDown
  if isDuplicate m x then .duplicate
  else match groupOf m (pk bs 0 1) with
    | none => if crcWrong x then .crcBad else .drop
    | some g =>
      if crcWrong x then .crcBad
      else if epoch < g.epoch then .dropAck
      else if g.epoch < epoch ∨ g.forming.isSome ∨ (ctxOf m g.ctx).resident = false then .hold
      else if att < g.att then .dropAck
      else if g.att < att then .hold
      else match g.op with
        | none => if !red && decide (pk bs 32 35 < g.opseq) then .dropAck else .hold
        | some op =>
          if red then (if op.opc = opReduce then .take else .wrong)
          else if pk bs 32 35 ≠ op.opseq ∨ pk bs 36 36 ≠ op.opc then .wrong
          else .take

/-- A CRC failure at a member: dropped, counted, and after RETRIES + 1 in a row from one source the
operation aborts (R330). -/
def crcFails (p : Part) (m : Mach) (x : RxPkt) : Mach :=
  let m := crcDrop p m x
  if rdF p m Reg.routeE2eCtrl 19 16 + 1 ≤ cnt m.coll.badCrc x.src then
    abortColl p (crcPass m x.src) (pk (rxBytes x) 0 1) reCheck stCheck
  else m

/-- A packet of the running operation that is taken resets its source's count, and ends a suspension of the stall
timer (R330, R344, R346). -/
def crcPassed (m : Mach) (h src : Nat) : Mach :=
  updOp (crcPass m src) h fun x => { x with suspended := false, lastAt := m.tick.time }

/-- The running operation that a packet names. -/
def packetOp (m : Mach) (x : RxPkt) : Option (Group × OpCtx × CollOp) :=
  match groupOf m (pk (rxBytes x) 0 1) with
  | some g => match g.op with
    | some op => (findOp m g.ctx op.owner).map fun o => (g, o, op)
    | none => none
  | none => none

/-- The destination window lies in a kiln group that is being copied (R223). -/
def dstMoves (m : Mach) (o : OpCtx) : Bool :=
  (xfWin m o (o.winNo 1)).any fun w => w.kiln && groupCopies m o.ctx

/-- A whole packet that is not the running operation's: a duplicate, one of the past, one that is dropped, one whose
CRC is wrong, or one that breaks R327. One that passes the check resets its source's count (R330). -/
def collRefuse (p : Part) (m : Mach) (x : RxPkt) : Verdict → Mach
  | .duplicate => dropDuplicate p m x
  | .dropAck => acceptAck p (crcPass m x.src) x
  | .drop => dropRx (crcPass m x.src) x
  | .crcBad => crcFails p m x
  | .wrong => abortColl p (dropRx (crcPass m x.src) x) (pk (rxBytes x) 0 1) reGroup stGroup
  | .hold | .take => m

/-- A packet of a kind is handled: `f` takes the group, the operation, the packet's bytes. The
oldest packet that is not held back is taken. -/
def collReceive (p : Part) (m : Mach) (kind : Nat) (ready : Group → OpCtx → CollOp → List Byte → Bool)
    (f : Mach → RxPkt → Nat → Group → OpCtx → CollOp → List Byte → Mach) : Mach :=
  let may := fun (x : RxPkt) => match collVerdict m x with
    | .hold => false
    | .take => match packetOp m x with
      | some (g, o, op) => ready g o op (rxBytes x)
      | none => false
    | _ => true
  match findColl m kind may with
  | some x =>
    match collVerdict m x, packetOp m x with
    | .take, some (g, o, op) => f (crcPassed m (pk (rxBytes x) 0 1) x.src) x (pk (rxBytes x) 0 1) g o op (rxBytes x)
    | v, _ => collRefuse p m x v
  | none => m

/-! ### Data that goes to the destination window (R329) -/

/-- The data bytes that flit i of a packet with `len` of them carries: the first, and how many. -/
def flitSpan (len i : Nat) : Nat × Nat := (240 * i - 64, min (240 * i + 176) len - (240 * i - 64))

/-- The data bytes of flit i. -/
def flitData (len : Nat) (q : Nat × BitVec 1920) : List Byte :=
  ((payloadBytes q.2).drop (if q.1 = 0 then 64 else 0)).take (flitSpan len q.1).2

/-- Data of flits put together where one follows on another: its place and its bytes. -/
def joinData : List (Nat × List Byte) → List (Nat × List Byte)
  | [] => []
  | (a, bs) :: r => match joinData r with
    | (b, cs) :: q => if a + bs.length = b then (a, bs ++ cs) :: q else (a, bs) :: (b, cs) :: q
    | [] => [(a, bs)]

/-- The flits of a packet that have come and are not written yet are written at its place in the destination. -/
def putFlits (p : Part) (m : Mach) (x : RxPkt) (o : OpCtx) (off : Nat) : Mach × RxPkt :=
  let len := pkLen (rxBytes x)
  let todo := x.parts.filter fun q => !x.put.contains q.1
  let y := { x with put := x.put ++ todo.map fun q => q.1 }
  let data := joinData (todo.map fun q => (off + (flitSpan len q.1).1, flitData len q))
  ((data.filter fun d => !d.2.isEmpty).foldl (fun m d => writeDst p m o d.1 d.2) (putRx m x y), y)

/-- Every flit of a packet that has come is written, or being written. -/
def allPut (x : RxPkt) : Bool := x.parts.all fun q => x.put.contains q.1

/-- The packet's destination bytes lie in the window. -/
def dstHolds (m : Mach) (o : OpCtx) (off n : Nat) : Bool :=
  match xfWin m o (o.winNo 1) with
  | some w => decide (off + n ≤ w.len)
  | none => false

/-- An operation has a transfer that failed. -/
def opFailed (m : Mach) (o : OpCtx) : Bool := (findOp m o.ctx o.owner).any fun x => x.memFail

/-- A data packet of the running operation: the flits that have come are written, and leave their input buffers when
the writes have ended; the whole packet is then accepted, and counted by `done` (R329). -/
def takeData (p : Part) (m : Mach) (x : RxPkt) (h : Nat) (o : OpCtx) (off : Nat) (done : Mach → Mach) : Mach :=
  let (m, y) := putFlits p m x o off
  if opFailed m o then settleColl p m h
  else if txnsOut m o.useW then m
  else
    let (m, y) := freeFlits m y y.put.contains
    if rxWhole y then settleColl p (done (acceptAck p (crcPassed m h x.src) y)) h else m

/-- Data packets of a kind: `place` is the packet's place in the destination window, and a whole packet that has none
is `misplaced`. -/
def collData (p : Part) (m : Mach) (kind : Nat) (place : Group → OpCtx → List Byte → Option Nat)
    (misplaced : Mach → RxPkt → Mach) (done : Group → OpCtx → CollOp → List Byte → Mach → Mach) : Mach :=
  let may := fun (x : RxPkt) => match collVerdict m x with
    | .hold => false
    | .take => match packetOp m x with
      | some (g, o, _) => !txnsOut m o.useW && !dstMoves m o &&
          (rxWhole x || (!allPut x && (place g o (rxBytes x)).isSome))
      | none => false
    | _ => rxWhole x
  match m.net.rx.find? fun x => x.vc == 3 && !x.mgmt && rxStarted x && pk (rxBytes x) 3 3 == kind && may x with
  | some x =>
    match collVerdict m x, packetOp m x with
    | .take, some (g, o, op) =>
      match place g o (rxBytes x) with
      | some off => takeData p m x (pk (rxBytes x) 0 1) o off (done g o op (rxBytes x))
      | none => misplaced m x
    | v, _ => collRefuse p m x v
  | none => m

/-- A packet that no place of the operation's data matches breaks the sequence (R327). -/
def misplacedData (p : Part) (m : Mach) (x : RxPkt) : Mach := collRefuse p m x .wrong

/-- A2A_DATA (R329, R332, R333). -/
def a2aData (p : Part) (m : Mach) : Mach :=
  collData p m kindData
    (fun _ o bs => let off := o.cDst + pk bs 24 31; if dstHolds m o off (pkLen bs) then some off else none)
    (misplacedData p) fun _ _ _ bs m => updOp m (pk bs 0 1) fun y => { y with gotN := y.gotN + 1 }

/-- A2AV_COUNTS (R333). -/
def a2avCounts (p : Part) (m : Mach) : Mach :=
  collReceive p m kindCounts (fun _ _ _ _ => true) fun m x h g _ _ bs =>
    let d := pkData bs
    let row := (List.range g.size).map fun i => pk d (4 * i) (4 * i + 3)
    let cap := pk d (4 * g.size) (4 * g.size + 3)
    let m := updOp m h fun y => { y with rows := Assoc.set y.rows (pk bs 12 13 % 4096) (row, cap) }
    settleColl p (acceptAck p m x) h

/-! ### Sums (R317, R339) -/

/-- The exact sum of two values. -/
def addExact (a b : Val) : Val :=
  match a, b with
  | .nan, _ => .nan
  | _, .nan => .nan
  | .inf s, .inf t => if s = t then .inf s else .nan
  | .inf s, .fin _ _ _ => .inf s
  | .fin _ _ _, .inf t => .inf t
  | .fin s m e, .fin t n f =>
    let e0 := min e f
    let v := scaled s m e e0 + scaled t n f e0
    if v = 0 then .fin (s && t) 0 e0 else .fin (decide (v < 0)) v.natAbs e0

/-- add_into (R339): two patterns of a reduction format added, rounded once into it. -/
def addInto (fmt a b : Nat) : Nat := (convertPlain fmt (addExact (decodeElem fmt a) (decodeElem fmt b))).1

/-- The elements of a reduction's data. -/
def redElems (fmt : Nat) (bs : List Byte) : List Nat := (chunksOf (redBytes fmt) (bs.length + 1) bs).map leNat

/-- The bytes of elements. -/
def redOut (fmt : Nat) (v : List Nat) : List Byte := v.flatMap (leBytes (redBytes fmt))

/-! ### The ring (R339) -/

/-- This member's own chunk of the source, once it is ready. -/
def ownChunk (m : Mach) (o : OpCtx) (op : CollOp) (g : Group) (me c : Nat) : List Byte :=
  match xfWin m o (o.winNo 0) with
  | some w => let (off, len) := chunkSrc o op g.size me c; winRead m o.ctx w off len
  | none => []

/-- A chunk's place in a reduction, where the operation has that chunk. -/
def chunkPlace (o : OpCtx) (c : Nat) : Option Nat := if c < o.chunks then some (redPlace o c) else none

/-- A partial that its rank can add to: the rank's own chunk is ready, and a combine unit is free (R10, R339). -/
def partialReady (p : Part) (m : Mach) (o : OpCtx) (op : CollOp) (bs : List Byte) : Bool :=
  decide (pk bs 8 11 < op.sentN) && !groupCopies m o.ctx && (placement p m .combine).isSome

/-- The operations whose partials a hearth could add in this cycle. -/
def partialOps (p : Part) (m : Mach) : List OpCtx :=
  m.net.rx.filterMap fun x =>
    if x.vc == 3 && !x.mgmt && rxWhole x && pk (rxBytes x) 3 3 == kindRs && collVerdict m x == .take then
      match packetOp m x with
      | some (_, o, op) => if partialReady p m o op (rxBytes x) then some o else none
      | none => none
    else none

/-- A grant order of operations: the XFER lane's before the command engine's (R11), and of different contexts' commands
that of R406. -/
def opBefore (p : Part) (m : Mach) (a b : OpCtx) : Bool := match a.owner, b.owner with
  | .lane _, .cmd _ => true
  | .cmd _, .cmd _ => a.ctx != b.ctx && creditBefore p m a.ctx b.ctx
  | _, _ => false

/-- RING_RS (R339) for operations that a test picks: the rank's contribution is added; the owner writes the result and
sends it on as RING_AG, any other rank passes the partial on. Of several operations the first in the grant order
goes. -/
def ringRsOf (pick : OpCtx → Bool) (p : Part) (m : Mach) : Mach :=
  let waiting := (partialOps p m).filter pick
  collReceive p m kindRs (fun _ o op bs => partialReady p m o op bs && pick o && !waiting.any fun a => opBefore p m a o)
    fun m x h g o op bs =>
    let c := pk bs 8 11
    let me := myRank p m g
    let (src, len) := chunkSrc o op g.size me c
    match (xfWin m o (o.winNo 0)).bind fun w => winBad m o.ctx w src len with
    | some l => abortColl p (kilnNote p m l (some 0)) h reFault stUncorrectable
    | none =>
      onHearth p m .combine g.ctx (o.item m) (foldCycles (o.chunkElems c)) fun m =>
        let sum := redOut o.redFmt (((redElems o.redFmt (pkData bs)).zip
          (redElems o.redFmt (ownChunk m o op g me c))).map fun q => addInto o.redFmt q.1 q.2)
        let next := (me + 1) % g.size
        let m := acceptAck p m x
        let off := 1024 * c * redBytes o.redFmt
        if me = c % g.size then
          let m := writeDst p (updOp m h fun y => { y with done := addOnce y.done c }) o (redPlace o c) sum
          settleColl p (sendColl p m h g op next (collPacket h op.att kindAg g.epoch c me off op.opseq op.opc sum)) h
        else settleColl p (sendColl p m h g op next (collPacket h op.att kindRs g.epoch c me off op.opseq op.opc sum)) h

/-- RING_RS: the first partial in the grant order. -/
def ringRs (p : Part) (m : Mach) : Mach := ringRsOf (fun _ => true) p m

/-- RING_AG (R339): the result is written, and passed on unless the next rank is its owner. -/
def ringAg (p : Part) (m : Mach) : Mach :=
  collData p m kindAg (fun _ o bs => chunkPlace o (pk bs 8 11)) (misplacedData p) fun g o op bs m =>
    let h := pk bs 0 1
    let c := pk bs 8 11
    let me := myRank p m g
    let next := (me + 1) % g.size
    let m := updOp m h fun y => { y with done := addOnce y.done c }
    if next = c % g.size then m
    else sendColl p m h g op next (collPacket h op.att kindAg g.epoch c me (1024 * c * redBytes o.redFmt) op.opseq
      op.opc (pkData bs))

/-! ### A relay's slots (R315 to R318, R337, R338) -/

/-- A slot's state; absent is a slot that has seen nothing. -/
def slotOf (m : Mach) (n : Nat) : Option RedSlot := Assoc.find? m.coll.redSlots n

/-- A slot's state replaced. -/
def setSlot (m : Mach) (n : Nat) (s : RedSlot) : Mach :=
  { m with coll := { m.coll with redSlots := Assoc.set m.coll.redSlots n s } }

/-- The contribution whose turn it is is folded, ascending CHILD (R317). -/
def foldSlot (v : List F32) (s : RedSlot) : RedSlot :=
  { s with folded := s.folded + 1, acc := if s.folded = 0 then v else (s.acc.zip v).map fun q => addK q.1 q.2 }

/-- The rounded result's bytes (R317). -/
def partialBytes (s : RedSlot) : List Byte :=
  redOut s.fmt (s.acc.map fun f => (if s.fmt = 0 then f.toNat else (convertPlain s.fmt (val32 f)).1))

/-- A result goes to every child as RED_DOWN, ascending CHILD (R318, R338). -/
def sendDown (p : Part) (m : Mach) (r : RedResv) (n : Nat) (s : RedSlot) (data : List Byte) : Mach :=
  let m := bump p (setSlot m n { s with downOut := some r.children }) Reg.relayRedChunks 1
  r.children.zipIdx.foldl (fun m (d, i) =>
    sendFlow p m d 3 (redPacket r.handle s.att kindRedDown s.epoch s.chunk
      ((r.childBases.getD i 0 + (n - r.base)) % 2048) 0 s.fmt s.elems data) 8 (.red n s.chunk s.epoch s.att d)) m

/-- A slot whose contributions are all folded sends its partial up, or at the root the result down
(R318). -/
def slotComplete (p : Part) (m : Mach) (r : RedResv) (n : Nat) (s : RedSlot) : Mach :=
  if s.folded = r.children.length ∧ s.downOut = none then
    match r.parent with
    | some d =>
      sendFlow p (setSlot m n s) d 3 (redPacket r.handle s.att kindRedUp s.epoch s.chunk
        ((r.parentBase + (n - r.base)) % 2048) r.myChild s.fmt s.elems (partialBytes s)) 8 .none
    | none => sendDown p m r n s (partialBytes s)
  else setSlot m n s

/-- How a reduction packet stands to its slot (R316). -/
inductive RedCase where
  | hold | dropped | stale | fresh | more
  deriving DecidableEq, Repr

/-- (EPOCH, ATTEMPT) as one number. -/
def epochAtt (e a : Nat) : Nat := 16 * e + a

/-- The case of a reduction packet at a relay (R316, R338); CHILD is zero in a RED_DOWN. One of an epoch below the
reservation's is stale (R325); a contribution ahead of its turn is held (R317). -/
def redCase (m : Mach) (x : RxPkt) : RedCase :=
  let bs := rxBytes x
  let n := pk bs 12 13 % 2048
  match resvOf m n with
  | none => .dropped
  | some r =>
    if crcWrong x ∨ r.handle ≠ pk bs 0 1 ∨ r.children.length ≤ pk bs 14 14 then .dropped
    else if pk bs 4 7 < r.epoch then .stale
    else
      let now := epochAtt (pk bs 4 7) (pk bs 2 2 % 16)
      match slotOf m n with
      | none => .fresh
      | some s =>
        let was := epochAtt s.epoch s.att
        if now < was then .stale
        else if was < now then .fresh
        else if !s.busy then .fresh
        else if s.chunk = pk bs 8 11 then
          (if s.fmt ≠ pk bs 15 15 ∨ s.elems ≠ pk bs 16 17 then .dropped
           else if s.folded < pk bs 14 14 then .hold else .more)
        else .hold

/-- A contribution's values. -/
def redValues (bs : List Byte) : List F32 := (redElems (pk bs 15 15) (pkData bs)).map (widen (pk bs 15 15))

/-- A slot that starts a packet's chunk afresh (R316). -/
def freshSlot (bs : List Byte) : RedSlot :=
  { epoch := pk bs 4 7, att := pk bs 2 2 % 16, chunk := pk bs 8 11, fmt := pk bs 15 15, elems := pk bs 16 17 }

/-- A reduction packet is dropped unacknowledged: counted, and with its source where its CRC is wrong (R316, R330). -/
def redDropped (p : Part) (m : Mach) (x : RxPkt) : Mach :=
  bump p (if crcWrong x then crcDrop p m x else dropRx m x) Reg.relayRedDrop 1

/-- A relay can fold: a combine unit is free, and the reduction window's kiln group is not being copied (R10, R223). -/
def relayMay (p : Part) (m : Mach) : Bool := (placement p m .combine).isSome && !useMoves p m [.reduction]

/-- The oldest reduction packet of a kind at a relay that is not held back. -/
def findRed (p : Part) (m : Mach) (kind : Nat) : Option RxPkt :=
  findColl m kind fun x => isDuplicate m x || match redCase m x with
    | .hold => false
    | .dropped | .stale => true
    | .fresh | .more => relayMay p m

/-- A contribution is folded on a combine unit of a hearth (R317). -/
def foldOn (p : Part) (m : Mach) (r : RedResv) (n : Nat) (s : RedSlot) (v : List F32) : Mach :=
  onHearth p m .combine 8 .none (foldCycles s.elems) fun m => slotComplete p m r n (foldSlot v s)

/-- RED_UP (R316 to R318): the oldest contribution that its slot does not hold back. One that starts a chunk ahead of
its turn leaves its chunk in the slot and waits (R317). -/
def redUp (p : Part) (m : Mach) : Mach :=
  if !p.relay then m
  else match findRed p m kindRedUp with
  | some x =>
    let bs := rxBytes x
    let n := pk bs 12 13 % 2048
    let k := pk bs 14 14
    if isDuplicate m x then dropDuplicate p m x
    else match redCase m x, resvOf m n, slotOf m n with
      | .dropped, _, _ => redDropped p m x
      | .stale, _, _ => acceptAck p (crcPass m x.src) x
      | .fresh, some r, _ =>
        if k = 0 then foldOn p (acceptAck p (crcPass m x.src) x) r n (freshSlot bs) (redValues bs)
        else setSlot m n (freshSlot bs)
      | .more, some r, some s =>
        let m := acceptAck p (crcPass m x.src) x
        if k < s.folded then m else foldOn p m r n s (redValues bs)
      | _, _, _ => m
  | none => m

/-- RED_DOWN at a relay (R318, R338): the slot it names copies it to its children. -/
def redDownRelay (p : Part) (m : Mach) : Mach :=
  match findRed p m kindRedDown with
  | some x =>
    let bs := rxBytes x
    let n := pk bs 12 13 % 2048
    if isDuplicate m x then dropDuplicate p m x
    else match redCase m x, resvOf m n, slotOf m n with
      | .dropped, _, _ => redDropped p m x
      | .stale, _, _ => acceptAck p (crcPass m x.src) x
      | .fresh, some r, _ => sendDown p (acceptAck p (crcPass m x.src) x) r n (freshSlot bs) (pkData bs)
      | .more, some r, some s =>
        let m := acceptAck p (crcPass m x.src) x
        if s.downOut.isSome then m else sendDown p m r n s (pkData bs)
      | _, _, _ => m
  | none => m

/-- RED_DOWN (R337, R338): copied at a relay, written at a member; one of an earlier operation's chunks is
acknowledged there. -/
def redDown (p : Part) (m : Mach) : Mach :=
  if p.relay then redDownRelay p m
  else collData p m kindRedDown
    (fun g o bs => if pk bs 8 11 < g.c0 then none else chunkPlace o (pk bs 8 11 - g.c0))
    (fun m x => collRefuse p m x .dropAck) fun g _ _ bs m => updOp m (pk bs 0 1) fun y => { y with done := addOnce y.done (pk bs 8 11 - g.c0) }

/-! ### Flits that leave their input buffers (R286, R329) -/

/-- The flits of a VC3 packet whose header has come leave their input buffers as they come: no data of it waits to be
written, and nothing holds the packet back. -/
def flitsGo (p : Part) (m : Mach) (x : RxPkt) : Bool :=
  let kind := pk (rxBytes x) 3 3
  if kind = kindRedUp ∨ (p.relay = true ∧ kind = kindRedDown) then
    redCase m x != .hold && (redCase m x != .fresh || pk (rxBytes x) 14 14 == 0)
  else if kind = kindRedDown ∨ kind = kindData ∨ kind = kindAg then
    collVerdict m x != .hold && collVerdict m x != .take
  else if kind = kindRs then
    match collVerdict m x, packetOp m x with
    | .hold, _ => false
    | .take, some (_, _, op) => decide (pk (rxBytes x) 8 11 < op.sentN)
    | _, _ => true
  else if kind = kindCounts then collVerdict m x != .hold
  else if kind = kindJoin ∨ kind = kindAck ∨ kind = kindNak then formPick m x
  else true

/-- A flit of a VC3 packet may leave its input buffer: nothing holds the packet back, or the flit's bytes have been
written to the destination window. -/
def flitGoes (p : Part) (m : Mach) (x : RxPkt) (i : Nat) : Bool :=
  flitsGo p m x || (x.put.contains i && (packetOp m x).any fun q => !txnsOut m q.2.1.useW)

/-- Every flit of VC3 that may leave its input buffer leaves it. -/
def leaveBuffers (p : Part) (m : Mach) : Mach :=
  (m.net.rx.filter fun x => x.vc == 3 && !x.mgmt && rxStarted x && x.credit.any fun q => flitGoes p m x q.1).foldl
    (fun m x => (freeFlits m x (flitGoes p m x)).1) m

/-- A RED_DOWN copy is acknowledged; with the last the slot is free (R318). -/
def redAcked (m : Mach) (n chunk epoch att child : Nat) : Mach :=
  match slotOf m n with
  | some s =>
    if s.chunk = chunk ∧ s.epoch = epoch ∧ s.att = att ∧ s.busy then
      match s.downOut with
      | some l =>
        let l := l.filter fun d => d != child
        setSlot m n { s with downOut := some l, busy := !l.isEmpty }
      | none => m
    else m
  | none => m

/-! ### Acknowledgements, aborts, stalls, releases -/

/-- A packet of a group's operation is acknowledged. -/
def collAcked (p : Part) (m : Mach) (h opseq att : Nat) : Mach :=
  match groupOf m h with
  | some g => match g.op with
    | some op =>
      if op.opseq = opseq ∧ op.att = att then
        settleColl p (updOp m h fun x => { x with unacked := x.unacked - 1 }) h
      else m
    | none => m
  | none => m

/-- A packet of a group's operation has failed under R291 with a status. -/
def collLost (p : Part) (m : Mach) (h opseq att st : Nat) : Mach :=
  match groupOf m h with
  | some g => match g.op with
    | some op =>
      if op.opseq = opseq ∧ op.att = att then
        abortColl p m h (if st = stUnreachable then reUnreach else reTimeout) st
      else m
    | none => m
  | none => m

/-- COLL_ABORT (R322, R343). A terminal abort of an operation that has not started here is recorded, also while
the operation before it waits for its barrier. -/
def collAbort (p : Part) (m : Mach) : Mach :=
  match takeRecord m 0x40 with
  | some (r, m) =>
    let m := setEvt p (bump p m Reg.collAbortRx 1) Reg.collPage 0
    let h := bytesOf r.bytes 0 1
    let a := bitsOf r.bytes 19 16
    let reason := bytesOf r.bytes 3 3
    let opseq := bytesOf r.bytes 12 15
    match groupOf m h with
    | some g =>
      if bytesOf r.bytes 4 7 ≠ g.epoch then m
      else if g.forming.isSome then
        (if opseq = noOpseq ∧ isRerun reason = false then formFails p m h (remoteStatus reason) else m)
      else
        let m := raiseAtt m h a
        match g.op.filter fun op => op.opseq == opseq with
        | some op =>
          if isRerun reason then
            (if a = op.att then rerunColl p m h (reason == rePreempt) else m)
          else if a ≤ op.att then endColl (leaveBarrier m h) h (remoteStatus reason)
          else m
        | none =>
          if opseq < g.opseq then m
          else if isRerun reason then
            (if reason = rePreempt then updGroup m h fun g => { g with suspend := addOnce g.suspend opseq } else m)
          else updGroup m h fun g => { g with terminal := [(opseq, reason)] }
    | none => m
  | none => m

/-- STALL_US of COLL.TMO have passed since an operation's last packet (R346). -/
def stallDue (p : Part) (m : Mach) (op : CollOp) : Bool :=
  !op.suspended && !op.entered && decide (op.lastAt + 1000 * fsPerNs * rdF p m Reg.collTmo 31 16 ≤ m.tick.time)

/-- COLL_STALL (R346). -/
def collStall (h : Nat) (p : Part) (m : Mach) : Mach :=
  match groupOf m h with
  | some g => match g.op with
    | some op => if stallDue p m op then abortColl p m h reTimeout stTimeout else m
    | none => m
  | none => m

/-- A command of a collective is pre-empted: the group starts the operation again after the restore (R343 to R345). -/
def preemptOp (m : Mach) (h opseq : Nat) (r : Running) : Mach :=
  preemptCmd (updGroup m h fun g => { g with op := none, preempted := some opseq }) r

/-- The operation of a command aborts with PREEMPT and its command waits for the restore; where the
attempts are exhausted it ends. One of the XFER lane aborts with PREEMPT once for a save; its context is resident
until the step's cheap point, which waits for the lane (R54), so it runs again at once (R344). -/
def preemptColl (p : Part) (m : Mach) (h : Nat) (g : Group) (op : CollOp) : Mach :=
  match op.owner with
  | .lane _ =>
    if op.cut then m
    else abortColl p (updOp m h fun x => { x with cut := true }) h rePreempt stAbortedRemote
  | .cmd acc => match findAcc m acc with
    | some r =>
      if op.entered then m
      else
        let m := sendAborts p m h op.att rePreempt g.epoch op.opseq (otherNodes p m g)
        let m := raiseAtt m h op.att
        if g.dead || decide (15 ≤ op.att) then endColl m h stAbortedRemote
        else preemptOp m h op.opseq r
    | none => m

/-- The command whose operation is a group's next and is still being checked. -/
def checkedCmd (m : Mach) (h c : Nat) : Option (Running × OpCtx) :=
  ((runningOf m c).map fun r => (r, opOfCmd m r)).find? fun q =>
    isColl (recOp q.1.line) && q.2.handle == h && decide (q.2.stage < 2) && collTurn m q.2

/-- A command whose operation is the group's next and is still being checked aborts it with PREEMPT and waits for the
restore (R345). -/
def preemptChecked (p : Part) (m : Mach) (h : Nat) (g : Group) : Mach :=
  match checkedCmd m h g.ctx with
  | some (r, _) =>
    let m := raiseAtt (sendAborts p m h g.att rePreempt g.epoch g.opseq (otherNodes p m g)) h g.att
    preemptOp m h g.opseq r
  | none => m

/-- A formation that rank 0 has not entered the barrier of is held, and its command waits for the restore; what has
come for it is kept (R345, R411, R413). -/
def preemptForming (p : Part) (m : Mach) (h : Nat) (g : Group) (f : Forming) : Mach :=
  match findAcc m f.acc with
  | some r =>
    if f.entered then m
    else
      let m := sendAborts p m h 0 rePreempt g.epoch noOpseq (otherNodes p m g)
      preemptCmd (updGroup m h fun g => { g with forming := some { f with held := true } }) r
  | none => m

/-- What a save does to the group's work once the deferral is over (R345). -/
def deferOver (p : Part) (m : Mach) (h : Nat) (g : Group) : Mach :=
  match g.op, g.forming with
  | some op, _ => preemptColl p m h g op
  | none, some f => preemptForming p m h g f
  | none, none => preemptChecked p m h g

/-- COLL_DEFER (R345): a save has waited DEFER_US for an operation that has not entered its barrier. -/
def collDefer (h : Nat) (p : Part) (m : Mach) : Mach :=
  match groupOf m h with
  | some g =>
    let due := decide ((ctxOf m g.ctx).saveAt + 1000 * fsPerNs * rdF p m Reg.collTmo 15 0 ≤ m.tick.time)
    if (ctxOf m g.ctx).phase = 1 ∧ due = true then deferOver p m h g else m
  | none => m

/-- A save with DEFER_US = 0 defers nothing (R348). -/
def deferNone (p : Part) (m : Mach) (c : Nat) : Mach :=
  if rdF p m Reg.collTmo 15 0 = 0 then
    (m.coll.groups.filter fun q => q.2.ctx == c).foldl (fun m q => collDefer q.1 p m) m
  else m

/-- A step's SYNC BARRIER on a group has released. -/
def stepBarrierDone (m : Mach) (h c : Nat) : Mach :=
  updStep m c fun s => if s.barrier = some h then { s with barrier := none } else s

/-- What waited for a released barrier goes on (R322, R326, R347). -/
def afterRelease (m : Mach) (h : Nat) (g : Group) : Mach :=
  match g.forming, g.op with
  | some f, _ =>
    let m := updGroup m h fun x => { x with forming := none }
    match findAcc m f.acc with
    | some r => complete m r stDone
    | none => m
  | none, some op => if op.entered then endColl m h op.status else stepBarrierDone m h g.ctx
  | none, none => stepBarrierDone m h g.ctx

/-- BARRIER_RELEASE (R444): in the first cycle at or after the instant set for this node's release. -/
def barrierRelease (h : Nat) (p : Part) (m : Mach) : Mach :=
  match groupOf m h with
  | some g =>
    if (g.bar.releaseAt.any fun t => decide (t ≤ m.tick.time)) && g.bar.here.isSome then settleColl p (afterRelease (nextBarrier p m h) h g) h else m
  | none => m

/-! ### Kills and saves (R342, R345) -/

/-- The groups of a context that run an operation. -/
def runningGroups (m : Mach) (c : Nat) : List Nat :=
  m.coll.groups.filterMap fun (h, g) => if g.ctx = c ∧ g.op.isSome then some h else none

/-- The operations of a context are killed: aborted on the other members with REASON KILL, or FAULT
where the context faults, unless their barrier has been entered (R342, R420); that barrier's release still counts here
(R347). Their commands and lane items end where the kill ends them. -/
def killColls (p : Part) (m : Mach) (c reason : Nat) : Mach :=
  (runningGroups m c).foldl (fun m h => match groupOf m h with
    | some g => match g.op with
      | some op =>
        let m := if op.entered then m
          else raiseAtt (sendAborts p m h op.att reason g.epoch op.opseq (otherNodes p m g)) h op.att
        groupPast m h op.opseq ((findOp m c op.owner).elim 0 fun o => sentChunks o op)
      | none => m
    | none => m) m

/-- Groups of a context whose formation is in progress are given up with their command; the members hear of it unless
the barrier has been entered, and the relays that acknowledged are freed (R322, R342). -/
def killForming (p : Part) (m : Mach) (c : Nat) : Mach :=
  m.coll.groups.foldl (fun m (h, g) => match g.forming with
    | some f =>
      if g.ctx ≠ c then m
      else if f.entered then dropGroup m h
      else dropGroup (sendFree p (sendAborts p m h 0 reKill g.epoch noOpseq (otherNodes p m g)) h g.epoch c f.acks) h
    | none => m) m

/-! ### The meanings of the commands -/

/-- COLL_A2A (R332). -/
def execCollA2a (op : OpRef) (s : State) (read : StoreRead := .clean) : Host.Outcome State Fault Refusal :=
  .next { s with m := collA2a op read s.part s.m }

/-- COLL_A2AV (R333). -/
def execCollA2av (op : OpRef) (s : State) (read : StoreRead := .clean) : Host.Outcome State Fault Refusal :=
  .next { s with m := collA2av op read s.part s.m }

/-- COLL_REDUCE (R334). -/
def execCollReduce (op : OpRef) (s : State) (read : StoreRead := .clean) : Host.Outcome State Fault Refusal :=
  .next { s with m := collReduce op read s.part s.m }

/-- COLL_BARRIER (R335). -/
def execCollBarrier (op : OpRef) (s : State) : Host.Outcome State Fault Refusal :=
  .next { s with m := collBarrier op s.part s.m }

/-- COLL_ABORT (R343). -/
def execCollAbort (s : State) : Host.Outcome State Fault Refusal :=
  .next { s with m := collAbort s.part s.m }

/-- COLL_STALL (R346). -/
def execCollStall (group : Nat) (s : State) : Host.Outcome State Fault Refusal :=
  .next { s with m := collStall group s.part s.m }

/-- COLL_DEFER (R345). -/
def execCollDefer (group : Nat) (s : State) : Host.Outcome State Fault Refusal :=
  .next { s with m := collDefer group s.part s.m }

/-- BARRIER_RELEASE (R444). -/
def execBarrierRelease (group : Nat) (s : State) : Host.Outcome State Fault Refusal :=
  .next { s with m := barrierRelease group s.part s.m }

end Sys2Proof.Machine
end

