-- ==== Sys2Proof/Machine/Fab.lean ====
section
/-! DEFINITION. Fabric memory (R349 to R375): the region table, verbs and batches, fences, the checks
at a destination, atomics and the reply cache, subscriptions, Dux ownership, the lockout. -/

namespace Sys2Proof.Machine

/-! ### Packets (R357) -/

/-- The fields of a fabric memory packet that are not zero. -/
structure FabPkt where
  region : Nat := 0
  kind : Nat
  op : Nat := 0
  job : Nat := 0
  flags : Nat := 0
  status : Nat := 0
  reason : Nat := 0
  key : Nat := 0
  roff : Nat := 0
  len : Nat := 0
  rfsn : Nat := 0
  op0 : Nat := 0
  op1 : Nat := 0
  data : List Byte := []
  deriving DecidableEq, Repr

/-- Its bytes. -/
def FabPkt.bytes (k : FabPkt) : List Byte :=
  leBytes 2 k.region ++ leBytes 1 k.kind ++ leBytes 1 k.op ++ leBytes 1 k.job ++ leBytes 1 k.flags ++ leBytes 1 k.status
    ++ leBytes 1 k.reason ++ leBytes 8 k.key ++ leBytes 6 k.roff ++ leBytes 2 0 ++ leBytes 4 k.len ++ leBytes 4 k.rfsn
    ++ leBytes 8 k.op0 ++ leBytes 8 k.op1 ++ List.replicate 16 0 ++ k.data

/-- The number in bytes lo to hi of a packet. -/
def fb (bs : List Byte) (lo hi : Nat) : Nat := leNat ((bs.drop lo).take (hi + 1 - lo))

/-- A packet read. -/
def readFab (bs : List Byte) : FabPkt :=
  { region := fb bs 0 1, kind := fb bs 2 2, op := fb bs 3 3, job := fb bs 4 4, flags := fb bs 5 5, status := fb bs 6 6,
    reason := fb bs 7 7, key := fb bs 8 15, roff := fb bs 16 21, len := fb bs 24 27, rfsn := fb bs 28 31,
    op0 := fb bs 32 39, op1 := fb bs 40 47, data := (bs.drop 64).take (fb bs 24 27) }

/-- Bytes 22 to 23 and 48 to 63 are reserved in every kind. -/
def fabRsv (bs : List Byte) : Bool := fb bs 22 23 != 0 || fb bs 48 63 != 0

/-- The kinds. -/
def kWrite : Nat := 0x50
def kRead : Nat := 0x51
def kAtomic : Nat := 0x52
def kResp : Nat := 0x53
def kSub : Nat := 0x54
def kPub : Nat := 0x55
def kInval : Nat := 0x56
def kOwnReq : Nat := 0x57
def kOwnGrant : Nat := 0x58
def kOwnRel : Nat := 0x59

/-- The width of an atomic verb code; none where the code is no atomic (R354). -/
def atomicWidth (v : Nat) : Option Nat :=
  if v = 0x14 ∨ v = 0x1A then some 4 else if 0x11 ≤ v ∧ v ≤ 0x19 then some 8 else none

/-- The new value of an atomic (R354). -/
def atomicNew (v old a b : Nat) : Nat :=
  match v with
  | 0x11 => a
  | 0x12 => if old = a then b else old
  | 0x13 => (old + a) % 2 ^ 64
  | 0x14 => (old + a) % 2 ^ 32
  | 0x15 => old &&& a
  | 0x16 => old ||| a
  | 0x17 => old ^^^ a
  | 0x18 => max old a
  | 0x19 => min old a
  | 0x1A => (addK (BitVec.ofNat 32 old) (BitVec.ofNat 32 a)).toNat
  | _ => old

/-! ### Regions (R349 to R352) -/

/-- A region table entry; absent is an entry at reset. -/
def regionOf (m : Mach) (r : Nat) : Region := Assoc.get {} m.fab.regions r

/-- A region table entry replaced. -/
def setRegion (m : Mach) (r : Nat) (x : Region) : Mach :=
  { m with fab := { m.fab with regions := Assoc.set m.fab.regions r x } }

/-- Fields of CTRL. -/
def Region.v (x : Region) : Bool := bitOf x.ctrl 63
def Region.dux (x : Region) : Bool := bitOf x.ctrl 62
def Region.ctx (x : Region) : Nat := bitsOf x.ctrl 50 48

/-- What CTRL reads: its own fields with the Dux owner's (R350). -/
def Region.shownCtrl (x : Region) : Word :=
  match x.owner with
  | some n => x.ctrl ||| wordOf (2 ^ 28 + n * 2 ^ 16)
  | none => x.ctrl

/-- The bits of CTRL that a write stores. -/
def regionCtrlBits : Word := 0xFC07_1FFF_0000_0000

/-- INVAL packets to subscribers of a region; `gone` for R352. -/
def sendInval (p : Part) (m : Mach) (s : Subscription) (gone : Bool) (publisher roff len : Nat) (use : FlowUse) : Mach :=
  sendFlow p m s.node 4 (FabPkt.bytes {
    region := s.region, kind := kInval, op := if gone then 1 else 0,
    flags := 2 * s.ctx, roff := roff, len := len, op0 := publisher }) 8 use

/-- The first waiter of a region becomes its owner and is sent OWN_GRANT; none leaves it unowned
(R372, R373). -/
def grantNext (p : Part) (m : Mach) (r : Nat) : Mach :=
  match m.fab.waiters.find? fun w => w.1 == r with
  | some w =>
    let m := { m with fab := { m.fab with waiters := m.fab.waiters.erase w } }
    let m := setRegion m r { regionOf m r with owner := some w.2.1 }
    sendFlow p m w.2.1 4 (FabPkt.bytes { region := r, kind := kOwnGrant, job := w.2.2, status := stDone }) 8 (.grant r w.2.1)
  | none => setRegion m r { regionOf m r with owner := none }

/-- The effects of R352: subscriptions end with GONE, the owner is cleared, waiters are refused. -/
def endRegion (p : Part) (m : Mach) (r : Nat) : Mach :=
  let (gone, kept) := m.fab.subsHome.partition fun s => s.region == r
  let (wait, left) := m.fab.waiters.partition fun w => w.1 == r
  let m := { m with fab := { m.fab with subsHome := kept, waiters := left } }
  let m := setRegion m r { regionOf m r with owner := none }
  let m := if gone.isEmpty then m else setEvt p m Reg.fabPage 2
  let m := gone.foldl (fun m s => sendInval p m s true 0xFFF s.roff s.len .none) m
  wait.foldl (fun m w => sendFlow p m w.2.1 4
    (FabPkt.bytes { region := r, kind := kOwnGrant, job := w.2.2, status := stRegionKey }) 8 .none) m

/-- The key of a region changes (R352). -/
def setKey (p : Part) (m : Mach) (r : Nat) (k : Word) : Mach :=
  let x := regionOf m r
  if k = x.key then m else endRegion p (setRegion m r { x with key := k }) r

/-- A write of CTRL that R351 does not ignore. -/
def setRegionCtrl (p : Part) (m : Mach) (r : Nat) (v : Word) : Mach :=
  let x := regionOf m r
  let y := { x with ctrl := v &&& regionCtrlBits }
  let m := setRegion m r y
  if (x.v && !y.v) || (bitOf x.ctrl 58 && !bitOf y.ctrl 58) then endRegion p m r else m

/-- A write of CTRL is one R351 ignores. -/
def ctrlRefused (x : Region) (v : Word) : Bool :=
  (x.v && bitsOf v 50 48 != x.ctx) ||
  (bitOf v 63 && (decide (2 ^ 42 < x.base.toNat + x.len.toNat) || x.len == 0 || bitsOf x.len 5 0 != 0))

/-- The region of a window address, and which of its four registers (R350). -/
def regionAt (p : Part) (m : Mach) (addr : Nat) : Nat × Nat :=
  let o := addr - pg 0xC0 0
  (4096 * rdF p m Reg.fabWinSel 3 0 + o / 32, o % 32 / 8)

/-- The address lies in the region table window. -/
def inRegionWin (addr : Nat) : Bool := decide (pg 0xC0 0 ≤ addr) && decide (addr < pg 0xE0 0)

/-- A draw can be made now: instantiated and fewer than 4,096 since the last seeding (R553). -/
def drbgCan (m : Mach) : Bool := m.sec.drbgReady && decide (m.sec.draws < 4096)

/-- One 64-bit draw: a free value. The last one before a reseeding begins the wait for entropy. -/
def drbgTake (m : Mach) : Word × Mach :=
  let (v, m) := drawFree m
  let n := m.sec.draws + 1
  (v, { m with sec := { m.sec with
    draws := n, entropyAt := if n = 4096 then m.tick.time else m.sec.entropyAt } })

/-- A key is drawn until it is not 0 (R352); none where the seed material runs out, its draws made (R553). `n` bounds
the draws. -/
def drawKey : Nat → Mach → Option Word × Mach
  | 0, m => (none, m)
  | n + 1, m =>
    if drbgCan m then
      let (v, m) := drbgTake m
      if v = 0 then drawKey n m else (some v, m)
    else (none, m)

/-- KEYGEN of a region: drawn now, or when seed material comes (R352, R553). -/
def keygenRegion (p : Part) (m : Mach) (r : Nat) : Mach :=
  match drawKey 4096 m with
  | (some k, m) => setKey p m r k
  | (none, m) => { m with sec := { m.sec with drbgWaits := m.sec.drbgWaits ++ [.key r] } }

/-- REGION_ENTRY_WRITE (R350, R351). -/
def regionEntryWrite (src : Src) (addr : Nat) (v : Word) (p : Part) (m : Mach) : Mach :=
  if inRegionWin addr then gated p m src addr fun m =>
    let (r, k) := regionAt p m addr
    let x := regionOf m r
    match k with
    | 0 =>
      if ctrlRefused x v then ignored p m src addr
      else
        let m := setRegionCtrl p m r v
        if bitOf v 57 then keygenRegion p m r else m
    | 1 => if x.v then ignored p m src addr else setRegion m r { x with base := v &&& 0x3FF_FFFF_FFC0 }
    | 2 => if x.v then ignored p m src addr else setRegion m r { x with len := v &&& 0x7FF_FFFF_FFFF }
    | _ => setKey p m r v
  else m

/-- KEYGEN (R352): a write of CTRL whose KEYGEN bit is 1. -/
def keygen (src : Src) (addr : Nat) (v : Word) (p : Part) (m : Mach) : Mach :=
  if inRegionWin addr && addr % 32 == 0 && bitOf v 57 then regionEntryWrite src addr v p m else m

/-! ### The lockout (R361) -/

/-- A source's failure record. -/
def lockOf (m : Mach) (n : Nat) : LockRec := Assoc.get {} m.fab.locks n

/-- A source's failure record replaced. -/
def setLock (m : Mach) (n : Nat) (x : LockRec) : Mach :=
  { m with fab := { m.fab with locks := Assoc.set m.fab.locks n x } }

/-- A KEY failure counts (R361). -/
def countKeyFail (p : Part) (m : Mach) (src : Nat) (counts : Bool) : Mach :=
  let m := bump p m Reg.fabKeyFailCnt 1
  if !counts || !rdB p m Reg.fabCtrl 0 then m
  else
    let x := lockOf m src
    let win : Int := 1000000000 * rdF p m Reg.fabLockCtrl 31 16
    let x := if x.count = 0 ∨ win < m.tick.time - x.start then { count := 1, start := m.tick.time }
             else { x with count := x.count + 1 }
    if rdF p m Reg.fabLockCtrl 7 0 ≤ x.count then
      let m := setLock m src { x with locked := true, start := m.tick.time }
      let m := setEvt p (wrF p m Reg.fabLockStat 27 16 src) Reg.fabPage 0
      report p m { code := 0x70, page := Reg.fabPage, sev := .security, detail := leBytes 2 src }
    else setLock m src x

/-- A lockout ends. -/
def unlock (m : Mach) (n : Nat) : Mach := { m with fab := { m.fab with locks := Assoc.erase m.fab.locks n } }

/-- LOCKOUT_HOLD_END (R361): the hold of a locked source has passed; HOLD_MS = 0 never ends it. -/
def lockoutHoldEnd (n : Nat) (p : Part) (m : Mach) : Mach :=
  let x := lockOf m n
  let hold := rdF p m Reg.fabLockCtrl 47 32
  if x.locked ∧ hold ≠ 0 ∧ x.start + 1000000 * fsPerNs * hold ≤ m.tick.time then unlock m n else m

/-- LOCK_CLR (R361). -/
def lockClr (src : Src) (v : Word) (p : Part) (m : Mach) : Mach :=
  gated p m src Reg.fabLockClr fun m =>
    if bitOf v 12 then { m with fab := { m.fab with locks := m.fab.locks.filter fun q => !q.2.locked } }
    else if (lockOf m (bitsOf v 11 0)).locked then unlock m (bitsOf v 11 0) else m

/-! ### The checks at the destination (R360) -/

/-- FORM (R360): a reserved code or bit, or a length outside its range. -/
def fabForm (bs : List Byte) : Bool :=
  let k := readFab bs
  fabRsv bs || decide (2 ^ 42 ≤ k.roff) || k.status != 0 || k.reason != 0 ||
  (match k.kind with
   | 0x50 => k.op != 2 || decide (2 ≤ k.flags) || k.len == 0 || decide (8192 < k.len)
   | 0x51 => k.op != 1 || decide (2 ≤ k.flags) || k.len == 0 || decide (8192 < k.len)
   | 0x52 => decide (2 ≤ k.flags) || k.len != 0 || (match atomicWidth k.op with
     | some 4 => decide (2 ^ 32 ≤ k.op0) || decide (2 ^ 32 ≤ k.op1)
     | some _ => false
     | none => true)
   | 0x54 => decide (2 ≤ k.op) || decide (16 ≤ k.flags)
   | 0x55 => k.op != 0 || decide (16 ≤ k.flags)
   | 0x57 | 0x59 => k.op != 0 || decide (2 ≤ k.flags)
   | _ => true)

/-- The permission bit of a kind. -/
def permBit (kind : Nat) : Nat :=
  if kind = kRead then 61 else if kind = kAtomic then 59 else if kind = kSub then 58 else 60

/-- Reason and status of the first check that fails; reason 0 where all pass (R360). -/
def fabCheck (p : Part) (m : Mach) (src : Nat) (bs : List Byte) : Nat × Nat :=
  let k := readFab bs
  let x := regionOf m k.region
  let size := (atomicWidth k.op).getD 0
  let size := if k.kind = kAtomic then size else k.len
  if p.relay then (0x03, stRegionKey)
  else if (lockOf m src).locked then (0x01, stLockout)
  else if fabForm bs then (0x02, stFormat)
  else if !x.v || k.key == 0 || k.key != x.key.toNat || k.job != ctxJob p m x.ctx then (0x03, stRegionKey)
  else if !bitOf x.ctrl (permBit k.kind) then (0x04, stRegionKey)
  else if x.dux && (k.kind == kWrite || k.kind == kAtomic) && x.owner != some src then (0x05, stRegionKey)
  else if x.len.toNat < k.roff + size then (0x06, stRegionBounds)
  else if k.kind = kAtomic ∧ k.roff % size ≠ 0 then (0x07, stAlign)
  else (0, stDone)

/-- FAB.ERR takes a failure, and a KEY failure is counted (R360, R361). -/
def noteFail (p : Part) (m : Mach) (src : Nat) (k : FabPkt) (reason : Nat) (wasValid : Bool) : Mach :=
  if p.relay || reason == 0 then m
  else
    let m := wr p m Reg.fabErr (wordOf (reason * 2 ^ 56 + src * 2 ^ 32 + k.region))
    if reason = 0x03 then countKeyFail p m src (wasValid || k.flags % 2 == 0) else m

/-- A RESP to a request (R358). -/
def respond (p : Part) (m : Mach) (x : RxPkt) (st reason old : Nat) (data : List Byte) : Mach :=
  let k := readFab (rxBytes x)
  let m := if st = stUnknown then bump p m Reg.fabUnknownCnt 1 else m
  queuePacket p m 4 x.src false 0 8 .none (FabPkt.bytes {
    region := k.region, kind := kResp, job := k.job, status := st,
    reason := reason, len := data.length, rfsn := x.fsn, op0 := old, data := data })

/-! ### Serving requests (R359, R362) -/

/-- What the check of a request finds, with the entry in force (R351, R360). NEVT counts only where R386 lets the
region's context name it. -/
def fabSee (p : Part) (m : Mach) (x : RxPkt) : FabSeen :=
  let k := readFab (rxBytes x)
  let e := regionOf m k.region
  let (reason, st) := fabCheck p m x.src (rxBytes x)
  let n := bitsOf e.ctrl 43 32
  { reason := reason, status := st, base := e.base.toNat + k.roff,
    evt := if bitOf e.ctrl 44 && evtInRange p m e.ctx n then some n else none, wasValid := (filterOf m x.src 4).valid }

/-- Bytes of host memory that a request of a length names. -/
def fabSize (k : FabPkt) : Nat := if k.kind = kAtomic then (atomicWidth k.op).getD 0 else k.len

/-- The bytes of host memory a request touches: under the entry it was checked against, or the one in force. -/
def fabSpan (m : Mach) (x : RxPkt) : Nat × Nat :=
  let k := readFab (rxBytes x)
  ((match x.seen with
    | some s => s.base
    | none => (regionOf m k.region).base.toNat + k.roff), fabSize k)

/-- Two spans share a 64-byte line. -/
def sameLine (a b : Nat × Nat) : Bool :=
  decide (0 < a.2) && decide (0 < b.2) && decide (a.1 / 64 ≤ (b.1 + b.2 - 1) / 64) && decide (b.1 / 64 ≤ (a.1 + a.2 - 1) / 64)

/-- A whole request of fabric memory of one kind. -/
def isFab (x : RxPkt) (kind : Nat) : Bool := x.vc == 4 && !x.mgmt && rxWhole x && fb (rxBytes x) 2 2 == kind

/-- A WRITE or ATOMIC to a line of this one that arrived before it is not finished (R362). -/
def lineHeld (m : Mach) (x : RxPkt) : Bool :=
  (m.net.rx.takeWhile fun y => decide (y ≠ x)).any fun y =>
    (isFab y kWrite || isFab y kAtomic) && sameLine (fabSpan m y) (fabSpan m x)

/-- A WRITE or ATOMIC may be handled: its transfer has ended, or it has not begun and no line holds it. -/
def servable (m : Mach) (x : RxPkt) : Bool :=
  if x.taken then !txnsOut m (.serve x.serve) else !lineHeld m x

/-- The oldest WRITE or ATOMIC that has not been checked yet, or that can be handled. -/
def findServe (m : Mach) (kind : Nat) : Option RxPkt :=
  m.net.rx.find? fun x => isFab x kind && (x.seen.isNone || servable m x)

/-- The oldest packet of another kind whose transfer, if it has one, has ended. A packet of a reserved KIND goes with
the READs, to be answered FORM (R360). -/
def findOther (m : Mach) (kind : Nat) : Option RxPkt :=
  m.net.rx.find? fun x => (isFab x kind || (kind == kRead && isOdd x)) && (!x.taken || !(txnsOut m (.serve x.serve) || iringHolds m x.serve))
where
  isOdd (x : RxPkt) : Bool :=
    x.vc == 4 && !x.mgmt && rxWhole x && !(decide (kWrite ≤ fb (rxBytes x) 2 2) && decide (fb (rxBytes x) 2 2 ≤ kOwnRel))

/-- The one check of a WRITE or ATOMIC, made when it is first taken up (R351): the packet with what it found. -/
def seeRx (p : Part) (m : Mach) (x : RxPkt) : Mach × RxPkt :=
  match x.seen with
  | some _ => (m, x)
  | none =>
    let y := { x with seen := some (fabSee p m x) }
    (putRx m x y, y)

/-- What the check of a packet found. -/
def seenOf (p : Part) (m : Mach) (x : RxPkt) : FabSeen := x.seen.getD (fabSee p m x)

/-- A request's handling begins: the number of its memory transfer, and its packet so marked. -/
def beginServe (m : Mach) (x : RxPkt) (stage : Nat) : Mach × RxPkt :=
  let id := m.fab.nextServe
  let y := { x with taken := true, serve := id, stage := stage }
  (putRx { m with fab := { m.fab with nextServe := id + 1 } } x y, y)

/-- The transfer of a request failed. -/
def serveFailed (m : Mach) (x : RxPkt) : Bool := m.fab.serveFails.contains x.serve

/-- A request is answered by RESP and accepted (R359). -/
def answer (p : Part) (m : Mach) (x : RxPkt) (st reason : Nat) (data : List Byte) : Mach :=
  respond p (acceptRx m x) x st reason 0 data

/-- A WRITE whose bytes have been written, or could not be (R359, R360). -/
def writeEnds (p : Part) (m : Mach) (x : RxPkt) : Mach :=
  if serveFailed m x then
    respond p (noteFail p (dropRx m x) x.src (readFab (rxBytes x)) 0x08 true) x stUncorrectable 0x08 0 []
  else
    match (seenOf p m x).evt with
    | some n => acceptAck p (release (addEvt m n 1)) x
    | none => acceptAck p m x

/-- FAB_WRITE (R359, R360): checked once, written when its lines are free, and accepted when the bytes are visible. A
WRITE that fails is answered and leaves the filter as it was. -/
def fabWrite (p : Part) (m : Mach) : Mach :=
  match findServe m kWrite with
  | some x =>
    if x.taken then writeEnds p m x
    else if isDuplicate m x then dropDuplicate p m x
    else
      let k := readFab (rxBytes x)
      let (m, x) := seeRx p m x
      let s := seenOf p m x
      if s.reason ≠ 0 then respond p (noteFail p (dropRx m x) x.src k s.reason s.wasValid) x s.status s.reason 0 []
      else if lineHeld m x then m
      else
        let (m, y) := beginServe m x 1
        startWrites p m s.base k.data (.serve y.serve)
  | none => m

/-- FAB_READ (R359, R360); a packet of a reserved KIND is answered FORM. -/
def fabRead (p : Part) (m : Mach) : Mach :=
  match findOther m kRead with
  | some x =>
    let k := readFab (rxBytes x)
    if x.taken then
      if serveFailed m x then answer p (noteFail p m x.src k 0x08 true) x stUncorrectable 0x08 []
      else answer p m x stDone 0 (hostBytes m (seenOf p m x).base k.len)
    else
      let s := fabSee p m x
      if s.reason ≠ 0 then answer p (noteFail p m x.src k s.reason s.wasValid) x s.status s.reason []
      else
        let (m, x) := seeRx p m x
        let (m, y) := beginServe m x 1
        startReads p m s.base k.len (.serve y.serve)
  | none => m

/-! ### Atomics (R362 to R364) -/

/-- The reply cache's entry of a source and FSN, where it can be read. -/
def cacheLookup (m : Mach) (src fsn : Nat) : Option Reply :=
  m.fab.cache.find? fun e => e.src == src && e.fsn == fsn && !e.bad

/-- Entries the cache holds. -/
def cacheSize : Nat := 16384

/-- ATOMICs being carried out, each of which will make an entry. -/
def atomicsOut (m : Mach) : Nat := (m.net.rx.filter fun x => isFab x kAtomic && x.taken).length

/-- Entries that can be made: the free ones, and those at least 2 ms old (R363). -/
def cacheRoom (m : Mach) : Nat :=
  (cacheSize - m.fab.cache.length) + (m.fab.cache.filter fun e => decide (2000000 * fsPerNs ≤ m.tick.time - e.madeAt)).length

/-- An entry can be made, beside those of the ATOMICs being carried out (R363). -/
def cacheCanInsert (m : Mach) : Bool := decide (atomicsOut m < cacheRoom m)

/-- An answer enters the cache, in the place of the oldest where it is full. -/
def cacheStore (m : Mach) (src fsn st reason old : Nat) : Mach :=
  let kept := if m.fab.cache.length < cacheSize then m.fab.cache else m.fab.cache.drop 1
  { m with fab := { m.fab with cache := kept ++
    [{ src := src, fsn := fsn, status := st, reason := reason, old := wordOf old, madeAt := m.tick.time }] } }

/-- An ATOMIC is answered, with its cache entry. -/
def atomicAnswer (p : Part) (m : Mach) (x : RxPkt) (st reason old : Nat) (wasValid : Bool) : Mach :=
  let m := noteFail p (dropRx m x) x.src (readFab (rxBytes x)) reason wasValid
  respond p (cacheStore m x.src x.fsn st reason old) x st reason old []

/-- A duplicate ATOMIC is answered from the cache, or its outcome is unknown (R364). -/
def atomicAgain (p : Part) (m : Mach) (x : RxPkt) : Mach :=
  match cacheLookup m x.src x.fsn with
  | some e => respond p (bump p (dropRx m x) Reg.fabRcHitCnt 1) x e.status e.reason e.old.toNat []
  | none => respond p (noteFail p (dropRx m x) x.src (readFab (rxBytes x)) 0x09 true) x stUnknown 0x09 0 []

/-- The first handling of an ATOMIC (R364); a relay has no region table and no cache (R349). -/
def atomicArrives (p : Part) (m : Mach) (x : RxPkt) : Mach :=
  let k := readFab (rxBytes x)
  let s := seenOf p m x
  if p.relay then answer p m x stRegionKey 0x03 []
  else if isDuplicate m x then atomicAgain p m x
  else if !cacheCanInsert m then setEvt p (bump p (dropRx m x) Reg.fabRcFullCnt 1) Reg.fabPage 1
  else
    let valid := (filterOf m x.src 4).valid
    let m := markFilter m x.src x.vc x.fsn
    if k.flags % 2 = 1 ∧ valid = false then atomicAnswer p m x stUnknown 0x09 0 true
    else if s.reason ≠ 0 then atomicAnswer p m x s.status s.reason 0 s.wasValid
    else
      let (m, y) := beginServe m x 1
      startReads p m s.base (fabSize k) (.serve y.serve)

/-- FAB_ATOMIC (R364): checked once, taken up when its line is free, old value read (stage 1), new value written
(stage 2). -/
def fabAtomic (p : Part) (m : Mach) : Mach :=
  match findServe m kAtomic with
  | some x =>
    let k := readFab (rxBytes x)
    let (a, n) := fabSpan m x
    if !x.taken then
      let (m, x) := seeRx p m x
      if lineHeld m x && !p.relay then m else atomicArrives p m x
    else if serveFailed m x then atomicAnswer p m x stUncorrectable 0x08 0 true
    else if x.stage = 1 then
      let old := leNat (hostBytes m a n)
      let z := { x with rxOld := old }
      let (m, y) := beginServe (putRx m x z) z 2
      startWrites p m a (leBytes n (atomicNew k.op old k.op0 k.op1)) (.serve y.serve)
    else atomicAnswer p m x stDone 0 x.rxOld true
  | none => m

/-! ### Subscriptions (R367 to R370) -/

/-- A request whose check fails is answered; `f` carries out the others. A duplicate is handled
again (R359). -/
def request (p : Part) (m : Mach) (kind : Nat) (f : Mach → RxPkt → FabPkt → Mach) : Mach :=
  match findOther m kind with
  | some x =>
    let k := readFab (rxBytes x)
    let (reason, st) := fabCheck p m x.src (rxBytes x)
    if reason ≠ 0 then answer p (noteFail p m x.src k reason (filterOf m x.src 4).valid) x st reason []
    else f m x k
  | none => m

/-- A request refused for want of room (R360, FULL). -/
def refuseFull (p : Part) (m : Mach) (x : RxPkt) (k : FabPkt) : Mach :=
  answer p (noteFail p m x.src k 0x0A true) x stQuota 0x0A []

/-- SUB (R367). -/
def sub (p : Part) (m : Mach) : Mach :=
  request p m kSub fun m x k =>
    let s : Subscription := { node := x.src, ctx := k.flags / 2 % 8, region := k.region, roff := k.roff, len := k.len }
    if k.op = 1 then
      answer p { m with fab := { m.fab with subsHome := m.fab.subsHome.erase s } } x stDone 0 []
    else if m.fab.subsHome.contains s then answer p m x stDone 0 []
    else if 4096 ≤ m.fab.subsHome.length then refuseFull p m x k
    else answer p { m with fab := { m.fab with subsHome := m.fab.subsHome ++ [s] } } x stDone 0 []

/-- A subscription's range meets a published one. -/
def Subscription.meets (s : Subscription) (region roff len : Nat) : Bool :=
  s.region == region && decide (s.roff < roff + len) && decide (roff < s.roff + s.len)

/-- A publication whose INVALs are all settled is answered, and so accepted (R359, R368). -/
def pubSettle (p : Part) (m : Mach) (id : Nat) : Mach :=
  match m.fab.pubs.find? fun q => q.id == id with
  | some q =>
    if q.left = 0 then
      let m := { m with fab := { m.fab with pubs := m.fab.pubs.filter fun z => z.id != id } }
      queuePacket p (markFilter m q.src 4 q.fsn) 4 q.src false 0 8 .none (FabPkt.bytes {
        region := q.region, kind := kResp, job := q.job,
        status := q.status, rfsn := q.fsn })
    else m
  | none => m

/-- An INVAL of a publication is settled: acknowledged, or failed with a status, which drops its
subscription (R368). -/
def invalSettled (p : Part) (m : Mach) (id : Nat) (s : Subscription) (st : Nat) : Mach :=
  let m := if st ≠ stDone && m.fab.subsHome.contains s then
      setEvt p { m with fab := { m.fab with subsHome := m.fab.subsHome.erase s } } Reg.fabPage 2
    else m
  let m := { m with fab := { m.fab with pubs := m.fab.pubs.map fun q =>
    if q.id = id then { q with left := q.left - 1, status := if q.status = stDone then st else q.status } else q } }
  pubSettle p m id

/-- PUB (R368). -/
def pub (p : Part) (m : Mach) : Mach :=
  request p m kPub fun m x k =>
    let c := k.flags / 2 % 8
    let hit := m.fab.subsHome.filter fun s => s.meets k.region k.roff k.len && !(s.node == x.src && s.ctx == c)
    let id := m.fab.nextPub
    let m := dropRx m x
    let q : Pub := { id := id, src := x.src, fsn := x.fsn, region := k.region, job := k.job, left := hit.length }
    let m := { m with fab := { m.fab with nextPub := id + 1, pubs := m.fab.pubs ++ [q] } }
    let m := hit.foldl (fun m s => sendInval p m s false x.src k.roff k.len 
      (.inval id s.node s.ctx s.region s.roff s.len)) m
    pubSettle p m id

/-- INVAL (R369, R370): the record is written; the packet is acknowledged once the counter has risen. -/
def inval (p : Part) (m : Mach) : Mach :=
  match findOther m kInval with
  | some x =>
    let k := readFab (rxBytes x)
    let c := k.flags / 2 % 8
    let gone := k.op % 2 = 1
    if x.taken then acceptAck p m x
    else if isDuplicate m x then dropDuplicate p m x
    else
      let s : Subscription := { node := x.src, ctx := c, region := k.region, roff := k.roff, len := k.len }
      let m := if gone && m.fab.subsOwn.contains s then
          setEvt p { m with fab := { m.fab with subsOwn := m.fab.subsOwn.erase s } } Reg.fabPage 2
        else m
      let (m, y) := beginServe m x 1
      let pubr := if gone then 0xFFF else k.op0 % 4096
      let m := iringWrite p m c (iringRecord k.region x.src pubr (if gone then 1 else 0) k.roff k.len) (some y.serve)
      if iringHolds m y.serve then m else acceptAck p m y
  | none => m

/-- FAB_IRING_TAIL_WRITE (R369). -/
def fabIringTailWrite (src : Src) (c : Nat) (v : Word) (p : Part) (m : Mach) : Mach :=
  if c < 8 then gated p m src (Reg.ctxFabIringTail c) fun m =>
    iringOverflow p (wr p m (Reg.ctxFabIringTail c) (wordOf (bitsOf v 31 0))) c
  else m

/-! ### Dux ownership (R371 to R373) -/

/-- OWN_REQ (R372). -/
def ownReq (p : Part) (m : Mach) : Mach :=
  request p m kOwnReq fun m x k =>
    let r := regionOf m k.region
    match r.owner with
    | none => answer p (setRegion m k.region { r with owner := some x.src }) x stDone 0 []
    | some n =>
      if n = x.src then answer p m x stDone 0 []
      else if m.fab.waiters.any (fun w => w.1 == k.region && w.2.1 == x.src) then acceptAck p m x
      else if 1024 ≤ m.fab.waiters.length then refuseFull p m x k
      else acceptAck p { m with fab := { m.fab with waiters := m.fab.waiters ++ [(k.region, x.src, k.job)] } } x

/-- OWN_REL (R373). -/
def ownRel (p : Part) (m : Mach) : Mach :=
  request p m kOwnRel fun m x k =>
    let m := if (regionOf m k.region).owner = some x.src then grantNext p m k.region
      else { m with fab := { m.fab with waiters := m.fab.waiters.filter fun w => !(w.1 == k.region && w.2.1 == x.src) } }
    answer p m x stDone 0 []

/-- DUX_FORCE (R373). -/
def duxForce (src : Src) (v : Word) (p : Part) (m : Mach) : Mach :=
  gated p m src Reg.fabDuxForce fun m =>
    let r := bitsOf v 15 0
    if (regionOf m r).owner.isSome then grantNext p m r else m

/-- The OWN_ACQUIREs that have been sent for a region of a home and wait for it. -/
def acquiring (m : Mach) (home region : Nat) : List Running :=
  m.cmd.running.filter fun r => recOp r.line == 0x24 && r.stage == 1 && bytesOf r.line 16 17 % 4096 == home &&
    bytesOf r.line 18 19 == region

/-- OWN_GRANT (R372): every OWN_ACQUIRE that waits here for the region completes with its status. -/
def ownGrant (p : Part) (m : Mach) : Mach :=
  match m.net.rx.find? fun x => isFab x kOwnGrant with
  | some x =>
    let k := readFab (rxBytes x)
    if isDuplicate m x then dropDuplicate p m x
    else
      let m := acceptAck p m x
      (acquiring m x.src k.region).foldl (fun m r => complete m r k.status) m
  | none => m

/-! ### Verbs and batches at the source (R353 to R356) -/

/-- A verb's fields. -/
def vf (v : Line) (lo hi : Nat) : Nat := bytesOf v lo hi
def verbOf (v : Line) : Nat := vf v 0 0
def verbNode (v : Line) : Nat := vf v 4 5 % 4096
def verbLen (v : Line) : Nat := vf v 28 31
def verbRoff (v : Line) : Nat := vf v 16 21
def verbLoff (v : Line) : Nat := vf v 22 27
def verbAfter (v : Line) : Bool := vf v 1 1 % 2 = 1

/-- Bytes a verb moves at LOFF. -/
def verbBytes (v : Line) : Nat := (atomicWidth (verbOf v)).getD (verbLen v)

/-- The batch of a command. -/
def batchOf (m : Mach) (acc : Nat) : Option Batch := m.cmd.batches.find? fun b => b.acc == acc

/-- A batch changed. -/
def updBatch (m : Mach) (acc : Nat) (f : Batch → Batch) : Mach :=
  { m with cmd := { m.cmd with batches := m.cmd.batches.map fun b => if b.acc = acc then f b else b } }

/-- A verb of a batch changed. -/
def updVerb (m : Mach) (acc idx : Nat) (f : VerbSt → VerbSt) : Mach :=
  updBatch m acc fun b => { b with verbs := b.verbs.map fun v => if v.idx = idx then f v else v }

/-- The operation that stands for a batch where windows are read. -/
def batchOp (b : Batch) : OpCtx :=
  { owner := .cmd b.acc, ctx := b.ctx, opc := 0x20, line := 0, wins := b.wins, stage := 0, memFail := false, bufs := [] }

/-- The local window of a verb. -/
def verbWin (m : Mach) (b : Batch) (v : Line) : Option XWin := xfWin m (batchOp b) (vf v 2 2 % 4)

/-- FIELD, WINDOW, ALIGN and BOUNDS for a verb (R355). -/
def verbCheck (m : Mach) (b : Batch) (v : Line) : Option XfFail :=
  let a := atomicWidth (verbOf v)
  let operand := if verbOf v = 2 then 0 else 1
  let lenBad := match a with
    | some w => verbLen v != 0 || (w == 4 && (decide (2 ^ 32 ≤ vf v 32 39) || decide (2 ^ 32 ≤ vf v 40 47)))
    | none => verbLen v == 0 || decide (16777216 < verbLen v)
  if decide (2 ≤ vf v 1 1) || decide (4 ≤ vf v 2 2) || vf v 3 3 != 0 || decide (4096 ≤ vf v 4 5) || vf v 48 63 != 0 ||
      decide (2 ^ 42 ≤ verbRoff v) || decide (2 ^ 42 ≤ verbLoff v) ||
      (a.isNone && verbOf v != 1 && verbOf v != 2) || lenBad then some ⟨0x01, stFormat, 3, 0⟩
  else match verbWin m b v with
    | none => some ⟨0x03, stRegionBounds, operand, 0⟩
    | some w =>
      let n := a.getD 1
      if verbLoff v % n ≠ 0 ∨ verbRoff v % n ≠ 0 then some ⟨0x04, stAlign, operand, 0⟩
      else if w.len < verbLoff v + verbBytes v then some ⟨0x06, stRegionBounds, operand, 0⟩
      else none

/-- A status byte is written, before the command completes as part of it (R356). -/
def statusByte (p : Part) (m : Mach) (b : Batch) (idx st : Nat) : Mach :=
  startWrites p m (b.statusAddr + idx) (leBytes 1 st) (if b.complete then .other else .cmdWrite b.acc)

/-- A batch whose command has completed and whose verbs are all settled is forgotten. -/
def pruneBatch (m : Mach) (acc : Nat) : Mach :=
  { m with cmd := { m.cmd with batches := m.cmd.batches.filter fun b =>
    !(b.acc == acc && b.complete && b.verbs.all fun v => v.status.isSome) } }

/-- A verb has its final status; a killed batch's answers are discarded (R374). -/
def verbStatus (p : Part) (m : Mach) (acc idx st : Nat) : Mach :=
  match batchOf m acc with
  | some b =>
    let m := updVerb m acc idx fun v => { v with status := some st }
    pruneBatch (if b.killed then m else statusByte p m b idx st) acc
  | none => m

/-- The use of a packet of a verb. -/
def ofVerb (acc idx : Nat) (u : FlowUse) : Bool :=
  match u with
  | .verb a _ i _ => a == acc && i == idx
  | _ => false

/-- A verb has been issued whole: no packet of it is held back (R290, R355). -/
def issuedWhole (m : Mach) (acc : Nat) (v : VerbSt) : Bool := v.issued && heldBack m (ofVerb acc v.idx) == 0

/-- The status of a batch and the list index of the verb that has it (R356, R393). -/
def batchStatus (b : Batch) : Nat × Nat :=
  (b.verbs.findSome? fun v => match v.status with
    | some s => if s = stDone then none else some (s, v.idx)
    | none => none).getD (stDone, 0)

/-- A batch completes when every verb has been issued or has failed its check, every READ and atomic
has been answered, and its writes have ended (R356); one whose writes failed, with ERR_UNCORRECTABLE. -/
def batchSettle (p : Part) (m : Mach) (acc : Nat) : Mach :=
  match batchOf m acc, findAcc m acc with
  | some b, some r =>
    let ready := b.verbs.all fun v => v.status.isSome || (verbOf v.line == 2 && issuedWhole m acc v)
    if ready && !b.complete && !txnsOut m (.cmdWrite acc) then
      let st := if r.memFail then (stUncorrectable, 0) else batchStatus b
      pruneBatch (complete (updBatch m acc fun b => { b with complete := true }) r st.1 st.2) acc
    else m
  | _, _ => m

/-- A verb's packet i. -/
def verbPacket (p : Part) (m : Mach) (b : Batch) (v : Line) (w : XWin) (i : Nat) : List Byte :=
  let verb := verbOf v
  let n := min 8192 (verbLen v - 8192 * i)
  let base : FabPkt := { region := vf v 6 7, kind := kRead, op := verb, job := ctxJob p m b.ctx, key := vf v 8 15,
                         roff := verbRoff v + 8192 * i, len := n }
  if verb = 2 then FabPkt.bytes { base with kind := kWrite, data := winRead m b.ctx w (verbLoff v + 8192 * i) n }
  else if verb = 1 then base.bytes
  else FabPkt.bytes { base with kind := kAtomic, len := 0, op0 := vf v 32 39, op1 := vf v 40 47 }

/-- A verb is issued: its packets enter the flow to its node, the first at once (R355, R356). -/
def issueVerb (p : Part) (m : Mach) (b : Batch) (v : VerbSt) (w : XWin) : Mach :=
  let n := if (atomicWidth (verbOf v.line)).isSome then 1 else ceilDiv (verbLen v.line) 8192
  let m := updVerb m b.acc v.idx fun v => { v with issued := true, left := n }
  let m := if verbOf v.line = 2 then statusByte p m b v.idx 0xFF else m
  (List.range n).foldl (fun m i =>
    sendFlow p m (verbNode v.line) 4 (verbPacket p m b v.line w i) b.ctx (.verb b.acc b.ctx v.idx i)) m

/-- A verb waits: behind an earlier verb to its node that is not acknowledged or answered whole (AFTER), or for the
flow to its node (R290, R355). -/
def verbWaits (m : Mach) (b : Batch) (v : VerbSt) : Bool :=
  !flowFree m (verbNode v.line) 4 ||
  (verbAfter v.line && b.verbs.any fun u => decide (u.idx < v.idx) && verbNode u.line == verbNode v.line &&
    (u.status.isNone || decide (0 < u.left)))

/-- Verbs are taken in list order (R355); `n` bounds how many. -/
def pumpVerbs (p : Part) (acc : Nat) : Nat → Mach → Mach
  | 0, m => m
  | n + 1, m =>
    match batchOf m acc with
    | some b =>
      match b.verbs.find? fun v => !v.issued && v.status.isNone with
      | some v =>
        match verbCheck m b v.line with
        | some e =>
          let m := wr p m (Reg.ctxXfErr b.ctx) (wordOf (e.reason * 2 ^ 56 + e.operand * 2 ^ 54))
          pumpVerbs p acc n (verbStatus p m acc v.idx e.status)
        | none =>
          if verbWaits m b v then m
          else match verbWin m b v.line with
            | some w =>
              if verbOf v.line = 2 then
                let m := if v.fetched then m else
                  winFetch p (updVerb m acc v.idx fun v => { v with fetched := true }) w (verbLoff v.line) (verbLen v.line) (.cmdRead acc)
                let failed := match findAcc m acc with
                  | some r => r.memFail
                  | none => false
                if txnsOut m (.cmdRead acc) then m
                else if failed || (winBad m b.ctx w (verbLoff v.line) (verbLen v.line)).isSome then
                  let m := match winBad m b.ctx w (verbLoff v.line) (verbLen v.line) with
                    | some l => kilnNote p m l (some 0)
                    | none => m
                  pumpVerbs p acc n (verbStatus p (match findAcc m acc with
                    | some r => setRunning m { r with memFail := false }
                    | none => m) acc v.idx stUncorrectable)
                else pumpVerbs p acc n (issueVerb p m b v w)
              else pumpVerbs p acc n (issueVerb p m b v w)
            | none => m
      | none => m
    | none => m

/-- FAB_BATCH (R355, R356). -/
def fabBatch (w seq : Nat) (f : StoreRead) (p : Part) (m : Mach) : Mach :=
  match dueCmd p m w seq 0x20 with
  | some r =>
    if groupCopies m w then m
    else
    let m := readFinds p m f
    let n := bytesOf r.line 32 35
    if r.stage = 0 then
      if r.memFail then complete m r stUncorrectable
      else if txnsOut m (.cmdRead r.acc) then m
      else
        let list := imageLines m (bytesOf r.line 16 23 % 2 ^ 42) n
        let b : Batch := { acc := r.acc, ctx := w, statusAddr := bytesOf r.line 24 31 % 2 ^ 42, wins := r.wins,
                           verbs := list.zipIdx.map fun (l, i) => { idx := i, line := l } }
        let m := setRunning { m with cmd := { m.cmd with batches := m.cmd.batches ++ [b] } } { r with stage := 1 }
        batchSettle p (pumpVerbs p r.acc (n + 1) m) r.acc
    else batchSettle p (pumpVerbs p r.acc (n + 1) m) r.acc
  | none => m
where
  imageLines (m : Mach) (a n : Nat) : List Line := (List.range n).map fun i => hostLine m (a + 64 * i)

/-- A packet of a verb is settled with a status (R356, R366). -/
def verbPktDone (p : Part) (m : Mach) (acc idx pkt st : Nat) : Mach :=
  let here := fun (k : WritePkt) => k.acc == acc && k.idx == idx && k.pkt == pkt
  let ws := if st = stDone then m.cmd.writes.filter fun k => !here k
    else m.cmd.writes.map fun k => if here k then { k with failed := some st } else k
  let m := { m with cmd := { m.cmd with writes := ws } }
  let m := updVerb m acc idx fun v => { v with left := v.left - 1, fail := if st = stDone then v.fail else some (v.fail.getD st) }
  match (batchOf m acc).bind fun b => b.verbs.find? fun v => v.idx == idx with
  | some v =>
    let final := if v.status.isSome then none
      else if verbOf v.line = 2 then (if v.fail.isSome ∨ v.left = 0 then some (v.fail.getD stDone) else none)
      else if v.left = 0 then some (v.fail.getD stDone) else none
    let m := match final with
      | some st => verbStatus p m acc idx st
      | none => m
    batchSettle p (pumpVerbs p acc 65537 m) acc
  | none => m

/-- The answer's data or old value reaches the local window; the status its packet ends with (R354, R356, R222). -/
def verbResult (p : Part) (m : Mach) (acc idx pkt : Nat) (k : FabPkt) : Mach × Nat :=
  match (batchOf m acc).bind fun b => if b.killed then none else (b.verbs.find? fun v => v.idx == idx).map fun v => (b, v) with
  | some (b, v) =>
    let put := match atomicWidth (verbOf v.line) with
      | some n => (verbLoff v.line, leBytes n k.op0)
      | none => if verbOf v.line = 1 then (verbLoff v.line + 8192 * pkt, k.data) else (0, [])
    match verbWin m b v.line with
    | some w =>
      if put.2.isEmpty then (m, stDone)
      else match winPut p m b.ctx w put.1 put.2 (.cmdWrite acc) with
        | (m, some _) => (m, stUncorrectable)
        | (m, none) => (m, stDone)
    | none => (m, stDone)
  | none => (m, stDone)

/-! ### The other commands -/

/-- FENCE (R366): the packets it covers are those issued before it started. -/
def fence (w seq : Nat) (p : Part) (m : Mach) : Mach :=
  match dueCmd p m w seq 0x21 with
  | some r =>
    let node := bytesOf r.line 16 17 % 4096
    let all := bitOf r.line 143
    let covered := m.cmd.writes.filter fun k => k.ctx == w && decide (k.order < r.n) && (all || k.node == node)
    if covered.any fun k => k.failed.isNone then m
    else complete m r (((covered.head?).bind (·.failed)).getD stDone)
  | none => m

/-- The packet of SUBSCRIBE, PUBLISH_INVAL, OWN_ACQUIRE and OWN_RELEASE. -/
def cmdPacket (p : Part) (m : Mach) (w : Nat) (l : Line) (kind : Nat) : List Byte :=
  let range := kind == kSub || kind == kPub
  FabPkt.bytes {
    region := bytesOf l 18 19, kind := kind, op := if kind = kSub then bytesOf l 20 20 % 2 else 0,
    job := ctxJob p m w, flags := if range then 2 * w else 0, key := bytesOf l 24 31,
    roff := if range then bytesOf l 32 37 % 2 ^ 42 else 0, len := if range then bytesOf l 40 43 else 0 }

/-- SUBSCRIBEs sent and not yet answered, each of which may add a subscription. -/
def subscribing (m : Mach) : Nat :=
  (m.cmd.running.filter fun r => recOp r.line == 0x22 && r.stage == 1 && bytesOf r.line 20 20 % 2 == 0).length

/-- Such a command sends its packet once, and then waits for its answer; a SUBSCRIBE that this node's table might
have no room for is not sent (R367). -/
def sendCmd (w seq op kind : Nat) (p : Part) (m : Mach) : Mach :=
  match dueCmd p m w seq op with
  | some r =>
    if r.stage ≠ 0 then m
    else if op = 0x22 ∧ bytesOf r.line 20 20 % 2 = 0 ∧ 4096 ≤ m.fab.subsOwn.length + subscribing m then complete m r stQuota
    else sendFlow p (setRunning m { r with stage := 1 }) (bytesOf r.line 16 17 % 4096) 4 (cmdPacket p m w r.line kind) w
      (.cmd r.acc w)
  | none => m

/-- SUBSCRIBE (R367). -/
def subscribe (w seq : Nat) (p : Part) (m : Mach) : Mach := sendCmd w seq 0x22 kSub p m

/-- PUBLISH_INVAL (R368). -/
def publishInval (w seq : Nat) (p : Part) (m : Mach) : Mach := sendCmd w seq 0x23 kPub p m

/-- OWN_ACQUIRE (R372). -/
def ownAcquire (w seq : Nat) (p : Part) (m : Mach) : Mach := sendCmd w seq 0x24 kOwnReq p m

/-- OWN_RELEASE (R373). -/
def ownRelease (w seq : Nat) (p : Part) (m : Mach) : Mach := sendCmd w seq 0x25 kOwnRel p m

/-- A command's request has its answer (R367, R368, R372, R373). -/
def cmdAnswered (m : Mach) (acc st : Nat) : Mach :=
  match findAcc m acc with
  | some r =>
    let l := r.line
    let s : Subscription := { node := bytesOf l 16 17 % 4096, ctx := r.win, region := bytesOf l 18 19,
                              roff := bytesOf l 32 37 % 2 ^ 42, len := bytesOf l 40 43 }
    let m := if recOp l = 0x22 ∧ st = stDone then
        if bytesOf l 20 20 % 2 = 1 then { m with fab := { m.fab with subsOwn := m.fab.subsOwn.erase s } }
        else if m.fab.subsOwn.contains s then m
        else { m with fab := { m.fab with subsOwn := m.fab.subsOwn ++ [s] } }
      else m
    complete m r st
  | none => m

/-- What an answer does for what its request carries (R356, R358, R368). -/
def respEffect (p : Part) (m : Mach) (use : FlowUse) (k : FabPkt) : Mach :=
  match use with
  | .verb acc _ idx pkt =>
    let (m, st) := if k.status = stDone then verbResult p m acc idx pkt k else (m, k.status)
    verbPktDone p m acc idx pkt st
  | .cmd acc _ => cmdAnswered m acc k.status
  | .inval id n c r o l => invalSettled p m id ⟨n, c, r, o, l⟩ k.status
  | _ => m

/-- The answer is for a window in a group that is being copied: it waits (R223). -/
def respWaits (m : Mach) (use : FlowUse) : Bool :=
  match use with
  | .verb _ c _ _ => groupCopies m c
  | _ => false

/-- RESP (R358): the first for an outstanding request is applied, any other dropped; one for a request that failed
still acknowledges it. -/
def resp (p : Part) (m : Mach) : Mach :=
  match m.net.rx.find? fun x => isFab x kResp with
  | some x =>
    let k := readFab (rxBytes x)
    match findOut m x.src 4 k.rfsn with
    | some o =>
      if respWaits m o.use then m else respEffect p (settleFlow p (dropRx m x) x.src 4 k.rfsn) o.use k
    | none => settleFlow p (dropRx m x) x.src 4 k.rfsn
  | none => m

/-! ### Kill and save (R374) -/

/-- The verb of a batch that is killed: one not issued is KILLED, one whose packets held back are dropped waits only
for those sent. -/
def killVerb (m : Mach) (acc : Nat) (v : VerbSt) : VerbSt :=
  if !v.issued then { v with status := some (v.status.getD stKilled) }
  else
    let left := v.left - heldBack m (ofVerb acc v.idx)
    { v with left := left, status := if left = 0 then some (v.status.getD stKilled) else v.status }

/-- A batch is killed: the status bytes of its verbs, and their issue stops. -/
def killBatch (p : Part) (m : Mach) (b : Batch) : Mach :=
  let m := b.verbs.foldl (fun m v =>
    if v.status.isSome then m
    else startWrites p m (b.statusAddr + v.idx)
      (leBytes 1 (if v.issued && verbOf v.line != 1 then stUnknown else stKilled)) .other) m
  updBatch m b.acc fun b => { b with killed := true, complete := true, verbs := b.verbs.map (killVerb m b.acc) }

/-- A batch is killed before its list has been read: every status byte says KILLED. -/
def killUnread (p : Part) (m : Mach) (r : Running) : Mach :=
  startWrites p m (bytesOf r.line 24 31 % 2 ^ 42) (List.replicate (bytesOf r.line 32 35) (BitVec.ofNat 8 stKilled)) .other

/-- Packets of a context's verbs and commands. -/
def ofFabCtx (c : Nat) (u : FlowUse) : Bool :=
  match u with
  | .verb _ d _ _ | .cmd _ d => d == c
  | _ => false

/-- The fabric memory commands of a killed context: the statuses of its batches' verbs, the packets held back, which
are not sent, and the release of a region it waits for. The commands themselves end where the kill ends them. -/
def killFab (p : Part) (m : Mach) (c : Nat) : Mach :=
  let m := m.cmd.batches.foldl (fun m b => if b.ctx = c && !b.complete then killBatch p m b else m) m
  let m := m.cmd.running.foldl (fun m r => if r.win = c && recOp r.line == 0x20 && r.stage == 0 then killUnread p m r else m) m
  let m := dropHeld (m.cmd.batches.foldl (fun m b => pruneBatch m b.acc) m) (ofFabCtx c)
  m.cmd.running.foldl (fun m r =>
    if r.win = c && recOp r.line == 0x24 && r.stage == 1 then
      sendFlow p m (bytesOf r.line 16 17 % 4096) 4 (cmdPacket p m c r.line kOwnRel) c (.rel c)
    else m) m

/-! ### The meanings of the commands -/

/-- FAB_BATCH (R355). -/
def execFabBatch (win seq : Nat) (s : State) (read : StoreRead := .clean) : Host.Outcome State Fault Refusal :=
  .next { s with m := fabBatch win seq read s.part s.m }

/-- FENCE (R366). -/
def execFence (win seq : Nat) (s : State) : Host.Outcome State Fault Refusal :=
  .next { s with m := fence win seq s.part s.m }

/-- SUBSCRIBE (R367). -/
def execSubscribe (win seq : Nat) (s : State) : Host.Outcome State Fault Refusal :=
  .next { s with m := subscribe win seq s.part s.m }

/-- PUBLISH_INVAL (R368). -/
def execPublishInval (win seq : Nat) (s : State) : Host.Outcome State Fault Refusal :=
  .next { s with m := publishInval win seq s.part s.m }

/-- OWN_ACQUIRE (R372). -/
def execOwnAcquire (win seq : Nat) (s : State) : Host.Outcome State Fault Refusal :=
  .next { s with m := ownAcquire win seq s.part s.m }

/-- OWN_RELEASE (R373). -/
def execOwnRelease (win seq : Nat) (s : State) : Host.Outcome State Fault Refusal :=
  .next { s with m := ownRelease win seq s.part s.m }

/-- RESP (R358). -/
def execResp (s : State) : Host.Outcome State Fault Refusal :=
  .next { s with m := resp s.part s.m }

/-- LOCKOUT_HOLD_END (R361). -/
def execLockoutHoldEnd (node : Nat) (s : State) : Host.Outcome State Fault Refusal :=
  .next { s with m := lockoutHoldEnd node s.part s.m }

/-- LOCK_CLR (R361). -/
def execLockClr (src : Src) (value : Word) (s : State) : Host.Outcome State Fault Refusal :=
  .next { s with m := responded s.m src none (lockClr src value s.part s.m) }

/-- DUX_FORCE (R373). -/
def execDuxForce (src : Src) (value : Word) (s : State) : Host.Outcome State Fault Refusal :=
  .next { s with m := responded s.m src none (duxForce src value s.part s.m) }

/-- REGION_ENTRY_WRITE (R351). -/
def execRegionEntryWrite (src : Src) (addr : Nat) (value : Word) (s : State) : Host.Outcome State Fault Refusal :=
  .next { s with m := responded s.m src none (regionEntryWrite src addr value s.part s.m) }

/-- KEYGEN (R352). -/
def execKeygen (src : Src) (addr : Nat) (value : Word) (s : State) : Host.Outcome State Fault Refusal :=
  .next { s with m := responded s.m src none (keygen src addr value s.part s.m) }

/-- FAB_IRING_TAIL_WRITE (R369). -/
def execFabIringTailWrite (src : Src) (ctx : Nat) (value : Word) (s : State) : Host.Outcome State Fault Refusal :=
  .next { s with m := responded s.m src none (fabIringTailWrite src ctx value s.part s.m) }

end Sys2Proof.Machine
end

