-- ==== Sys2Proof/Machine/E2e.lean ====
section
/-! DEFINITION. End-to-end acknowledgement, resending and failure of VC3 to VC5 packets (R291), and
what each means for what the packet carries. -/

namespace Sys2Proof.Machine

/-- A packet has been acknowledged. -/
def ackEffect (p : Part) (m : Mach) (use : FlowUse) : Mach :=
  match use with
  | .coll h o a => collAcked p m h o a
  | .verb acc _ idx pkt => verbPktDone p m acc idx pkt stDone
  | .inval id n c r o l => invalSettled p m id ⟨n, c, r, o, l⟩ stDone
  | .red n chunk e a d => redAcked m n chunk e a d
  | .join _ | .tree _ _ | .cmd _ _ | .rel _ | .grant _ _ | .mgmt | .none => m

/-- A packet has failed with a status (R291): ERR_UNREACHABLE or ERR_TIMEOUT. -/
def lossEffect (p : Part) (m : Mach) (use : FlowUse) (st : Nat) : Mach :=
  match use with
  | .coll h o a => collLost p m h o a st
  | .join h =>
    let m := match groupOf m h with
      | some g => sendAborts p m h 0 (if st = stUnreachable then reUnreach else reTimeout) g.epoch noOpseq (otherNodes p m g)
      | none => m
    formFails p m h st
  | .tree h node => formRefused p m h 8 node
  | .verb acc _ idx pkt => verbPktDone p m acc idx pkt st
  | .cmd acc _ => cmdAnswered m acc st
  | .inval id n c r o l => invalSettled p m id ⟨n, c, r, o, l⟩ st
  | .grant r node => if (regionOf m r).owner = some node then grantNext p m r else m
  | .red _ _ _ _ _ | .rel _ | .mgmt | .none => m

/-- E2E_ACK (R289, R291). -/
def e2eAck (p : Part) (m : Mach) : Mach :=
  match takeRecord m 0x20 with
  | some (r, m) =>
    let fsn := bytesOf r.bytes 0 3
    let vc := bytesOf r.bytes 4 4
    match findOut m r.src vc fsn with
    | some o => ackEffect p (settleFlow p m r.src vc fsn) o.use
    | none => settleFlow p m r.src vc fsn
  | none => m

/-- The bytes of a resend: RETRY is 1 in a fabric memory packet (R357). -/
def resendBody (o : Outst) : List Byte :=
  if o.vc = 4 then o.body.set 5 ((o.body.getD 5 0) ||| 1) else o.body

/-- E2E_TIMEOUT (R291): resent with the same FSN and a new PTAG, or failed after RETRIES resends. -/
def e2eTimeout (d vc fsn : Nat) (p : Part) (m : Mach) : Mach :=
  match findOut m d vc fsn with
  | some o =>
    if m.tick.time < o.sentAt + e2eTmo p m then m
    else if o.resends < rdF p m Reg.routeE2eCtrl 19 16 then
      let y := { o with resends := o.resends + 1, sentAt := m.tick.time }
      let m := { m with net := { m.net with outst := m.net.outst.map fun z => if z = o then y else z } }
      queuePacket p (bump p m Reg.routeE2eResend 1) vc d o.mgmt fsn o.ctx (.flow d vc fsn) (resendBody o)
    else
      let st := if noRoute p m d then stUnreachable else stTimeout
      lossEffect p (failFlow m d vc fsn) o.use st
  | none => m

/-! ### The meanings of the commands -/

/-- E2E_ACK (R291). -/
def execE2eAck (s : State) : Host.Outcome State Fault Refusal :=
  .next { s with m := e2eAck s.part s.m }

/-- E2E_TIMEOUT (R291). -/
def execE2eTimeout (dest vc fsn : Nat) (s : State) : Host.Outcome State Fault Refusal :=
  .next { s with m := e2eTimeout dest vc fsn s.part s.m }

end Sys2Proof.Machine
end

