-- ==== Sys2Proof/Machine/Links.lean ====
section
/-! DEFINITION. The Oanga link: training (R268 to R274), flits received (R275 to R282), replay (R283),
link credit and the choice at each flit slot (R284 to R289), delay measurement (R293, R294),
retirement and salvage (R295 to R299). -/

namespace Sys2Proof.Machine

/-! ### Settings and small parts -/

/-- What a link's event does while the links run; held in reset, at SCAN, outside Lit and before DONE nothing does
(R476, R487, R491, R504). -/
def whileLinks (m after : Mach) : Mach := if linksUp m then after else m

/-- REPLAY_TMO_NS of a link in femtoseconds (R282, R283). -/
def replayTmo (p : Part) (m : Mach) (l : Nat) : Int := fsPerNs * rdF p m (Reg.linkTimers l) 31 16

/-- A channel's field of a CRED_ADV layout. -/
def advOf (w : Word) (vc : Nat) : Nat := bitsOf w (10 * vc + 9) (10 * vc)

/-- The link credit held for a channel (R284). -/
def linkCredit (x : Link) (vc : Nat) : Nat :=
  advOf x.advPartner vc - (cnt x.sent vc + 4096 - cnt x.partnerFreed vc) % 4096

/-- The state code of R273. -/
def phaseCode : LinkPhase → Nat
  | .disabled => 0 | .down => 1 | .align => 2 | .config => 3 | .ready => 4 | .active => 5
  | .retrain => 6 | .retired => 7

/-- A TRANSIENT event with no log code of its own: counted and summarised (R295, R452). -/
def transOnly (p : Part) (m : Mach) (page : Nat) : Mach :=
  orReg p (bump p m (Reg.cntTrans page) 1) Reg.glbFaultStat 1

/-- A link's state without sequence numbers, credit counts and replay flits, and without a LINK_DOWN that named those
of the training before (R274, R297, R298). -/
def freshLink (x : Link) : Link :=
  { x with fresh := true, txSeq := 0, rxSeq := 1023, held := [], resend := [], replayFirst := none,
           consecFails := 0, nakDue := false, resentTo := none, nakSeq := none, ueRun := 0, sent := [],
           recv := [], freed := [], partnerFreed := [], crvc := 0, downGot := none }

/-- A link enters DOWN: PARTNER is cleared, a run from here trains fresh (R273, R300). -/
def toDown (x : Link) : Link :=
  { freshLink x with phase := .down, partner := none, fromDown := true }

/-- A training run starts: ALIGN (R273). One from DOWN takes CRED_ADV as it stands (R300). -/
def startRun (p : Part) (m : Mach) (l : Nat) (x : Link) : Link :=
  { x with phase := .align, runStart := m.tick.time, tsGood := 0, readySent := 0, readyGot := false,
           adaptUp := false, aligned := false, bothAligned := false,
           advOwn := if x.fromDown then rd p m (Reg.linkCredAdv l) else x.advOwn }

/-- pl_en (R273). -/
def plEn (x : Link) : Bool := decide (x.phase ≠ .disabled)

/-- pl_adapt_req: held until pl_adapt_ack rises (R269, R273). -/
def plAdaptReq (x : Link) : Bool := decide (x.phase = .retrain) && !x.adaptUp

/-- Both lanes take words and have locked (R268, R273). -/
def lanesUp (x : Link) : Bool := x.txLock == 3 && x.rxLock == 3

/-- The timestamp of a flit whose first byte crosses the lane interface now, at a place of the frame, in 10 ps
units: the edge of its lane cycle, and its offset in the link word (R293). -/
def flitStamp (m : Mach) (pos : Nat) : Int := time10 m + 264 * pos % 64

/-! ### Delay measurements end (R294) -/

/-- The first status of a CAL_MEASURE's parts that is no DONE, by link. -/
def worstPart (l : List Nat) : Nat := (l.find? fun s => s != 0).getD 0

/-- A link's part of a CAL_MEASURE ends; with the last part the command completes. -/
def measPart (m : Mach) (l acc st : Nat) : Mach :=
  match findAcc m acc with
  | some r =>
    let r := { r with n := r.n - 1, status := r.status.set l st }
    if r.n = 0 then complete m r (worstPart r.status) else setRunning m r
  | none => m

/-- A link that leaves ACTIVE ends its measurement (R294). -/
def endMeas (m : Mach) (l st : Nat) : Mach :=
  let x := linkOf m l
  match x.meas with
  | some d => measPart (setLink m l { x with meas := none }) l d.acc st
  | none => m

/-! ### Loss of replay flits (R297) -/

/-- Held flits are dropped: SALVAGE_DROP, its entry, and the failing of the node's own items of VC1
and VC2. -/
def loseHeld (p : Part) (m : Mach) (l : Nat) (hs : List Held) : Mach :=
  if hs.isEmpty then m
  else
    let m := setEvt p m (Reg.linkPage l) 3
    let m := report p m { code := 0x32, page := Reg.linkPage l, sev := .transient,
                          detail := [BitVec.ofNat 8 l, 0] ++ leBytes 2 hs.length }
    hs.foldl (fun m h => if h.transitOf.isSome then m else failOrigin p m h.own.origin stChannelRetired) m

/-- The flits queued to a link and not sent go to the usable sets of their destinations, in queue
order (R297). -/
def respread (p : Part) (m : Mach) (own : List OwnFlit) (transit : List TransitFlit) : Mach :=
  transit.foldl (queueTransit p) (own.foldl (queueFlit p) m)

/-- A held flit is queued again as a new transmission (R297). -/
def requeueHeld (p : Part) (m : Mach) (h : Held) : Mach :=
  match h.transitOf with
  | some i => queueTransit p m { inLink := i, flit := h.own.flit, at10 := h.at10, owns := false }
  | none => queueFlit p m { h.own with again := true, at10 := some h.at10 }

/-- The salvage of R297: held flits that follow RX_LSEQ are queued again in LSEQ order. -/
def salvageLink (p : Part) (m : Mach) (l rx : Nat) : Mach :=
  let x := linkOf m l
  let late := x.salvage.filter fun h =>
    let d := (h.lseq + 1024 - rx) % 1024
    decide (0 < d) && decide (d < 512)
  late.foldl (requeueHeld p) (setLink m l { x with salvage := [], downGot := none })

/-! ### Retirement, retraining, failed runs (R274, R295, R296) -/

/-- The records bound to a link are lost when it leaves ACTIVE. -/
def dropBound (m : Mach) (l : Nat) : Mach :=
  { m with net := { m.net with vc0Out := m.net.vc0Out.filter fun r => r.link != some l } }

/-- LINK_DOWN to the partner of a retired link (R289, R296). -/
def sendLinkDown (p : Part) (m : Mach) (l : Nat) (x : Link) : Mach :=
  match x.partner with
  | some (n, pl, _) =>
    sendRecord p m n (mkRecord (leBytes 2 x.rxSeq ++ [BitVec.ofNat 8 l, BitVec.ofNat 8 pl]) 0x21 [])
  | none => m

/-- The link's stream is cut into frames (R267). -/
def framed (x : Link) : Bool := decide (x.phase = .config) || decide (x.phase = .ready) || decide (x.phase = .active)

/-- A link retires with a cause of R468 (R296). -/
def retireLink (p : Part) (m : Mach) (l cause : Nat) : Mach :=
  let x := linkOf m l
  if x.phase = .retired then m
  else
    let m := endMeas (dropBound m l) l stChannelRetired
    let x := linkOf m l
    let m := withReroute p m fun m =>
      let m := setLink m l { x with phase := .retired, retired := true, retiredAt := m.tick.time,
                                    salvage := x.held, held := [], resend := [], own := [], transit := [],
                                    replayFirst := none, frame := if framed x then x.frame else 0 }
      let m := setEvt p (setLastStatus p m (Reg.linkPage l) stChannelRetired) (Reg.linkPage l) 2
      report p m { code := 0x31, page := Reg.linkPage l, sev := .permanent,
                   detail := [BitVec.ofNat 8 l, BitVec.ofNat 8 cause] ++
                     leBytes 2 (match x.partner with
                       | some (n, _, _) => n
                       | none => 0xFFF) }
    let m := respread p m x.own x.transit
    let m := sendLinkDown p m l x
    match x.downGot with
    | some rx => salvageLink p m l rx
    | none => m

/-- An ACTIVE link retrains (R273, R274): replay flits, sequence numbers and credit counts stay. -/
def retrainLink (p : Part) (m : Mach) (l : Nat) : Mach :=
  if (linkOf m l).phase = .active then
    let m := endMeas (dropBound m l) l stTimeout
    withReroute p m fun m =>
      let x := linkOf m l
      setEvt p (setLink m l { x with phase := .retrain, adaptUp := false, fresh := false, fromDown := false,
                                     consecFails := 0, ueRun := 0, resend := [] }) (Reg.linkPage l) 1
  else m

/-- A training run fails (R273, R295): logged, and the link retires when the threshold is met. -/
def trainFail (p : Part) (m : Mach) (l : Nat) : Mach :=
  let x := linkOf m l
  let m := setLastStatus p m (Reg.linkPage l) stTimeout
  let m := report p m { code := 0x30, page := Reg.linkPage l, sev := .transient,
                        detail := [BitVec.ofNat 8 l, BitVec.ofNat 8 (phaseCode x.phase)] }
  let win := 1000 * 1000 * fsPerNs * rdF p m (Reg.linkThresh l) 47 32
  let n := rdF p m (Reg.linkThresh l) 31 24
  let fails := within m.tick.time win x.trainFailAt ++ [m.tick.time]
  let x := { x with trainFailAt := fails }
  if n ≠ 0 ∧ win ≠ 0 ∧ n ≤ fails.length then retireLink p (setLink m l x) l 2
  else if x.fromDown then setLink m l (toDown x)
  else setLink m l { x with phase := .retrain, adaptUp := false }

/-- A protocol violation of R295. -/
def protoError (p : Part) (m : Mach) (l : Nat) : Mach :=
  let m := setLastStatus p (transOnly p m (Reg.linkPage l)) (Reg.linkPage l) stFormat
  retrainLink p (setEvt p m (Reg.linkPage l) 5) l

/-! ### Replay (R281 to R283) -/

/-- Acknowledgement up to an LSEQ: none where it lies outside the outstanding window. -/
def ackHeld (x : Link) (n : Nat) : Option Link :=
  let oldest := match x.held with
    | h :: _ => h.lseq
    | [] => x.txSeq
  let k := (n + 1 + 1024 - oldest) % 1024
  if k ≤ x.held.length then
    let held := x.held.drop k
    let done := match x.replayFirst with
      | some f => !(held.any fun h => h.lseq == f)
      | none => false
    some { x with held := held, resend := x.resend.filter fun s => held.any fun h => h.lseq == s,
                  replayFirst := if done then none else x.replayFirst,
                  consecFails := if done then 0 else x.consecFails }
  else none

/-- A replay starts from the oldest unacknowledged flit, unless one from the same flit
has started less than the timeout earlier (R283). -/
def startReplay (p : Part) (m : Mach) (l : Nat) : Mach :=
  let x := linkOf m l
  match x.held with
  | [] => m
  | h :: _ =>
    if x.replayFirst == some h.lseq && decide (m.tick.time - x.replayAt < replayTmo p m l) then m
    else
      let failed := x.replayFirst.isSome
      let m := transOnly p (bump p m (Reg.linkReplayCnt l) 1) (Reg.linkPage l)
      let win := 1000 * fsPerNs * rdF p m (Reg.linkThresh l) 23 8
      let fails := within m.tick.time win x.failAt
      let fails := if failed then fails ++ [m.tick.time] else fails
      let x := { x with replayFirst := some h.lseq, replayAt := m.tick.time, failAt := fails,
                        consecFails := if failed then x.consecFails + 1 else x.consecFails,
                        resend := x.held.map fun h => h.lseq }
      let m := if failed then setLastStatus p m (Reg.linkPage l) stTimeout else m
      let m := setLink (bump p m (Reg.linkReplayFailCnt l) (if failed then 1 else 0)) l x
      let n := rdF p m (Reg.linkThresh l) 7 0
      if failed ∧ n ≠ 0 ∧ win ≠ 0 ∧ n ≤ fails.length then retireLink p m l 1
      else if failed ∧ 4 ≤ x.consecFails then retrainLink p m l
      else m

/-- A NAK becomes due for the next in-order LSEQ; again for the same only after the timeout (R282). Flits up to the
highest LSEQ that had been sent come a second time: the one seen, or, where a flit did not decode and showed none, one
more than before (R293). -/
def askNak (p : Part) (m : Mach) (l : Nat) (seen : Option Nat) : Mach :=
  let x := linkOf m l
  let want := (x.rxSeq + 1) % 1024
  let x := { x with resentTo := some (seen.getD ((x.resentTo.getD x.rxSeq + 1) % 1024)) }
  if x.nakSeq = some want ∧ m.tick.time - x.nakAt < replayTmo p m l then setLink m l x
  else setLink m l { x with nakDue := true, nakSeq := some want, nakAt := m.tick.time }

/-- REPLAY_TIMEOUT (R282, R283): the oldest flit out starts a replay, and a NAK that brought nothing
is repeated. -/
def replayTimeout (l : Nat) (p : Part) (m : Mach) : Mach :=
  let x := linkOf m l
  if x.phase = .active then
    let due := fun t : Int => decide (t + replayTmo p m l ≤ m.tick.time)
    let m := if x.nakSeq = some ((x.rxSeq + 1) % 1024) ∧ due x.nakAt = true then
        setLink m l { x with nakDue := true, nakAt := m.tick.time } else m
    if x.held.head?.any fun h => due h.sentAt then startReplay p m l else m
  else m

/-! ### Training (R270 to R274) -/

/-- PHY_LOCK: both lanes take words and have locked; a link in DOWN begins its run (R273). -/
def phyLock (l : Nat) (p : Part) (m : Mach) : Mach :=
  if l < linkCount p.conf then
    let x := { linkOf m l with txLock := 3, rxLock := 3 }
    if x.phase = .down then setLink m l (startRun p m l x)
    else if x.phase = .disabled then m
    else setLink m l x
  else m

/-- PHY_LOCK_LOSS (R274, R548): an ACTIVE link retrains, at a fall of a lane's receive lock or transmit ready. -/
def phyLockLoss (l lane : Nat) (tx : Bool) (p : Part) (m : Mach) : Mach :=
  let x := linkOf m l
  if x.phase = .disabled ∨ lane > 1 then m
  else
    let x := if tx then { x with txLock := x.txLock &&& (3 - 2 ^ lane) }
      else { x with rxLock := x.rxLock &&& (3 - 2 ^ lane) }
    retrainLink p (setLink m l x) l

/-- PL_ADAPT_ACK: it rises, the request falls; it falls, and the run from RETRAIN begins, counted
in RETRAIN_CNT (R269, R273). -/
def plAdaptAck (l : Nat) (rise : Bool) (p : Part) (m : Mach) : Mach :=
  let x := linkOf m l
  if x.phase = .retrain then
    if rise then setLink m l { x with adaptUp := true }
    else if x.adaptUp then bump p (setLink m l (startRun p m l x)) (Reg.linkRetrainCnt l) 1
    else m
  else m

/-- CONFIG begins at the transmitter's next FPOS 0 once both ends are aligned (R270, R273). -/
def configStart (x : Link) : Link :=
  if x.phase = .align ∧ x.bothAligned = true ∧ x.frame = 0 then { x with phase := .config } else x

/-- Both lanes have been found: the mapping, the offsets and the deskew stand (R271). -/
def lanesFound (x : Link) (a b : LaneFound) : Link :=
  configStart { x with aligned := true, bothAligned := x.bothAligned || (a.aligned && b.aligned),
                       laneOffs := laneStarts a b, laneSwap := a.lane == 1, skew := (skewBits a b + 255) / 256 }

/-- LANE_ALIGNED: what the two physical lanes have received in ALIGN, word by word from one moment on, is searched
for training words. More skew than 16 lane cycles fails the run (R269, R271, R273). -/
def laneAligned (l : Nat) (rx0 rx1 : List (BitVec 256)) (p : Part) (m : Mach) : Mach :=
  let x := linkOf m l
  if x.phase = .align ∧ x.rxLock = 3 then
    match laneFind rx0, laneFind rx1 with
    | some a, some b =>
      if a.lane + b.lane ≠ 1 then m
      else if 16 * 256 < skewBits a b then trainFail p m l
      else setLink m l (lanesFound x a b)
    | _, _ => m
  else m

/-- TRAINING_TIMEOUT (R273). -/
def trainingTimeout (l : Nat) (p : Part) (m : Mach) : Mach :=
  let x := linkOf m l
  let due := decide (x.runStart + 1000 * fsPerNs * rdF p m (Reg.linkTimers l) 15 0 ≤ m.tick.time)
  if (x.phase = .align ∨ x.phase = .config ∨ x.phase = .ready) ∧ due = true then trainFail p m l else m

/-- A link enters ACTIVE: 8 tokens, and sending goes on from the partner's RX_LSEQ + 1 (R274, R287). -/
def enterActive (p : Part) (m : Mach) (l : Nat) : Mach :=
  let x := linkOf m l
  let again := !x.fromDown
  let x := (ackHeld x x.resumeAt).getD x
  let x := { x with phase := .active, tokens := 8, tokenAt := 0, sinceActive := 0, replayFirst := none, ueRun := 0,
                    resend := x.held.map fun h => h.lseq,
                    held := x.held.map fun h => { h with sentAt := m.tick.time } }
  let m := withReroute p m fun m => setEvt p (setLink m l x) (Reg.linkPage l) 0
  if again then transOnly p m (Reg.linkPage l) else m

/-- ACTIVE is entered at the next frame when 8 READY flits have been sent and one received (R273). -/
def readyCheck (p : Part) (m : Mach) (l : Nat) : Mach :=
  let x := linkOf m l
  if x.phase = .ready ∧ x.readyGot = true ∧ 8 ≤ x.readySent ∧ x.frame = 0 then enterActive p m l else m

/-- CONFIG completes: PARTNER is set, the partner's CRED_ADV taken by a run from DOWN, and a partner
that lost its link state makes this side start afresh too (R274, R285, R300). -/
def configDone (p : Part) (m : Mach) (l : Nat) (t : TsFields) : Mach :=
  let x := linkOf m l
  let x := { x with phase := .ready, partner := some (t.node, t.link, t.relay), resumeAt := t.rxLseq }
  let x := if x.fresh || t.fresh then { x with advPartner := t.adv } else x
  if t.fresh && !x.fresh then loseHeld p (setLink m l (freshLink x)) l x.held
  else setLink m l x

/-- A training flit received (R272, R273, R274). -/
def tsReceive (p : Part) (m : Mach) (l : Nat) (t : TsFields) : Mach :=
  let x := linkOf m l
  if x.phase = .disabled ∨ x.phase = .retired then m
  else if t.state = 3 then retireLink p m l 3
  else match x.phase with
  | .config =>
    if t.state = 1 ∨ t.state = 2 then
      let same := x.tsGood = 0 ∨ (x.tsNode = t.node ∧ x.tsLink = t.link)
      let x := { x with tsGood := if same then x.tsGood + 1 else 1, tsNode := t.node, tsLink := t.link,
                        readyGot := x.readyGot || t.state == 2 }
      let m := setLink m l x
      if 8 ≤ x.tsGood then configDone p m l t else m
    else setLink m l { x with tsGood := 0 }
  | .ready => if t.state = 2 then readyCheck p (setLink m l { x with readyGot := true }) l else m
  | .active => if t.state = 2 ∧ x.sinceActive < 64 then m else retrainLink p m l
  | _ => m

/-! ### Flits received (R279 to R286, R299) -/

/-- The entries of a management packet: its length in its first entry, one where that is none of 1 to 4
(R234, R484). -/
def mgmtEntries (bs : List Byte) : Nat :=
  let n := (bs.getD 1 0).toNat
  if 1 ≤ n ∧ n ≤ 4 then n else 1

/-- A whole management packet is accepted and queued to PQ4 (R234, R291). -/
def queueMgmt (p : Part) (m : Mach) (x : RxPkt) : Mach :=
  let bs := rxBytes x
  let acc := m.cmd.nextAcc
  let m := acceptAck p { m with cmd := { m.cmd with nextAcc := acc + 1 } } x
  (List.range (mgmtEntries bs)).foldl (fun m i => enterQueue p m 8
    { line := lineOf (bs.drop (64 * i)), win := 8, acc := acc, hseq := 0,
      kind := if i = 0 then .mgmt else .cont, src := x.src, ptag := x.ptag }) m

/-- The oldest whole management packet goes to PQ4 where that has room; a duplicate is dropped (R292), and one that a
flush discards is accepted and gone (R237). -/
def takeMgmt (p : Part) (m : Mach) : Mach :=
  match m.net.rx.find? fun x => x.vc == 5 && x.mgmt && rxWhole x with
  | some x =>
    if isDuplicate m x then dropDuplicate p m x
    else if x.flushed then acceptAck p m x
    else if queueFull p m 4 8 then m else queueMgmt p m x
  | none => m

/-- A flit for this node comes to the front of the input buffer: management flits on a link that is no management
port are dropped, their packet reported with its last (R299); VC0 records and packets go to their consumers
(R277, R289). A flit of VC3 keeps its space until its bytes have been written or taken (R286, R329); whole packets of
VC4 stand in the order in which they became whole (R362). -/
def deliverFlit (p : Part) (m : Mach) (l : Nat) (t : TransitFlit) : Mach :=
  let f := t.flit
  let keeps := f.vc == 3 && !f.mgmt
  let m := if keeps then m else freeCredit m l f.vc
  let held := if keeps then [(f.ppos, l)] else []
  if f.mgmt && !rdB p m (Reg.linkCtrl l) 0 then
    if f.last then report p (setEvt p m (Reg.linkPage l) 4)
      { code := 0x33, page := Reg.linkPage l, sev := .security,
        detail := [BitVec.ofNat 8 l, 0] ++ leBytes 2 f.src }
    else m
  else if f.vc = 0 then
    let rs := (payloadRecords f.payload).map fun r : BitVec 128 =>
      ({ src := f.src, link := l, bytes := r, at10 := t.at10, replayed := t.replayed } : In0)
    { m with net := { m.net with vc0In := m.net.vc0In ++ rs } }
  else
    match m.net.rx.find? fun x => x.src == f.src && x.vc == f.vc && x.ptag == f.ptag && x.mgmt == f.mgmt with
    | some x =>
      let y := { x with parts := Assoc.set x.parts f.ppos f.payload, credit := x.credit ++ held,
                        lastPos := if f.last then some f.ppos else x.lastPos }
      takeMgmt p (if f.vc = 4 && rxWhole y then { m with net := { m.net with rx := m.net.rx.erase x ++ [y] } } else packetHeard (putRx m x y) y)
    | none =>
      let y : RxPkt := { src := f.src, vc := f.vc, ptag := f.ptag, mgmt := f.mgmt, fsn := f.fsn, link := l,
                         firstAt := m.tick.time, parts := [(f.ppos, f.payload)], credit := held,
                         lastPos := if f.last then some f.ppos else none }
      takeMgmt p (packetHeard { m with net := { m.net with rx := m.net.rx ++ [y] } } y)

/-- The flits for this node at the front of a channel's input buffer are delivered; a transit flit
holds those behind it (R286). `n` bounds how many. -/
def deliverFront (p : Part) (l vc : Nat) : Nat → Mach → Mach
  | 0, m => m
  | n + 1, m =>
    let x := linkOf m l
    match x.waiting.find? fun t => t.flit.vc == vc with
    | some t =>
      if t.flit.dst = nodeId p m then
        deliverFront p l vc n (deliverFlit p (setLink m l { x with waiting := x.waiting.erase t }) l t)
      else m
    | none => m

/-- The LSEQ is one that had been sent before, so that the flit is a resend (R293). -/
def isResend (x : Link) (s : Nat) : Bool :=
  x.nakSeq == some s || (match x.resentTo with
    | some t => decide ((t + 1024 - s) % 1024 < 512)
    | none => false)

/-- A DATA flit in order is accepted (R282): it enters the input buffer, and what can leaves it. -/
def acceptFlit (p : Part) (m : Mach) (l pos s : Nat) (f : Flit) : Mach :=
  let x := linkOf m l
  let t : TransitFlit := { inLink := l, flit := f, at10 := flitStamp m pos, replayed := isResend x s }
  let x := { x with rxSeq := s, recv := inc4096 x.recv f.vc, waiting := x.waiting ++ [t],
                    nakSeq := if x.nakSeq = some s then none else x.nakSeq,
                    resentTo := if x.resentTo = some s then none else x.resentTo }
  let m := bump p (setLink m l x) (Reg.linkFlitsRx l) 1
  let m := if f.dst = nodeId p m then m else bump p m (Reg.linkTransitRx l) 1
  deliverFront p l f.vc x.waiting.length m

/-- A header holds a reserved FKIND, VC or CRVC, whatever its kind (R280, R295). -/
def badCodes (h : LinkFields) (f : Flit) : Bool := h.fkind == 2 || decide (5 < f.vc) || decide (5 < h.crvc)

/-- A header's credit is a protocol violation of R295: a total above the advertised amount, or a DATA flit on a
channel without credit. Its codes and its LACK are judged apart. -/
def badCredit (x : Link) (h : LinkFields) (f : Flit) : Bool :=
  decide (advOf x.advPartner h.crvc < (cnt x.sent h.crvc + 4096 - h.crtot) % 4096) ||
  (h.fkind == 1 && h.lseq == (x.rxSeq + 1) % 1024 &&
    decide (advOf x.advOwn f.vc ≤ (cnt x.recv f.vc + 4096 - cnt x.freed f.vc) % 4096))

/-- A flit that decodes on an ACTIVE link: its acknowledgement, NAK and credit act, and a DATA flit
in order is accepted (R280, R282, R284). -/
def dataReceive (p : Part) (m : Mach) (l pos : Nat) (h : LinkFields) (f : Flit) : Mach :=
  let x := linkOf m l
  if badCredit x h f then protoError p m l
  else match ackHeld x h.lack with
  | none => protoError p m l
  | some x =>
    let m := setLink m l { x with partnerFreed := Assoc.set x.partnerFreed h.crvc h.crtot }
    let m := if h.nak then startReplay p m l else m
    if (linkOf m l).phase ≠ .active then m
    else
      let d := (h.lseq + 1024 - (x.rxSeq + 1) % 1024) % 1024
      if d = 0 then (if h.fkind = 1 then acceptFlit p m l pos h.lseq f else m)
      else if d < 512 then askNak p m l (some ((h.lseq + (if h.fkind = 1 then 0 else 1023)) % 1024))
      else m

/-- The codewords of a received flit are counted (R279, R280). -/
def countCodewords (p : Part) (m : Mach) (l : Nat) (d : Decoded) : Mach :=
  let page := Reg.linkPage l
  let m := (List.range d.corrected).foldl (fun m _ =>
    report p m { code := 0x10, page := page, sev := .corrected, detail := [4, 0, 0, 0] ++ leBytes 4 l }) m
  bump p m (Reg.linkUeCnt l) ((if d.bad0 then 1 else 0) + (if d.bad1 then 1 else 0))

/-- A flit that does not decode is discarded; 16 in a row with a bad codeword 0 retrain (R274, R280). -/
def badFlit (p : Part) (m : Mach) (l : Nat) (bad0 : Bool) : Mach :=
  let x := linkOf m l
  let n := if bad0 then x.ueRun + 1 else 0
  let m := setLink m l { x with ueRun := n, tsGood := 0 }
  if x.phase = .active then (if 16 ≤ n then retrainLink p m l else askNak p m l none) else m

/-- A flit that decodes on a link whose stream is framed: a reserved code is a violation, a training flit trains,
and any other flit counts on an ACTIVE link and breaks the run of training flits in CONFIG (R273, R280, R295). -/
def flitReceived (p : Part) (m : Mach) (l pos : Nat) (h : LinkFields) (f : Flit) : Mach :=
  let x := linkOf m l
  let cut := setLink m l { x with ueRun := 0, tsGood := 0 }
  if badCodes h f then protoError p cut l
  else if h.fkind = fkTs then tsReceive p (setLink m l { x with ueRun := 0 }) l (readTs f.payload)
  else if x.phase = .active then dataReceive p cut l pos h f
  else cut

/-- A flit arrives at a place of the frame: the words of the two physical lanes from the lane cycle on in which the
earlier lane's part of it begins, read at the offsets that training found. Nothing is taken while a lane has no lock
(R269, R271, R275, R279, R280). -/
def receiveWire (l pos : Nat) (lanes : List (BitVec 256) × List (BitVec 256)) (p : Part) (m : Mach) : Mach :=
  let x := linkOf m l
  let d := decodeFlit (pos % 8)
    (gatherFlit x.laneSwap (pos % 8) (laneBits x.laneOffs.1 lanes.1) (laneBits x.laneOffs.2 lanes.2))
  if x.rxLock ≠ 3 then m
  else if framed x then
    let m := countCodewords p m l d
    if d.bad0 || d.bad1 then badFlit p m l d.bad0 else flitReceived p m l (pos % 8) d.link d.flit
  else if x.phase = .down ∨ x.phase = .align ∨ x.phase = .retrain then
    if !d.bad0 && !d.bad1 && !badCodes d.link d.flit && d.link.fkind == fkTs && (readTs d.flit.payload).state == 3
    then retireLink p m l 3 else m
  else m

/-! ### The choice at a flit slot (R281, R284, R287 to R289, R312) -/

/-- A VC0 record with its residence added where its kind carries RESID, or TURN in an echo, at
departure (R293, R314, R433, R442). -/
def departRecord (now : Int) (r : Rec0) : BitVec 128 :=
  match r.since with
  | some t =>
    let d := (now - t).toNat
    let add := fun (lo : Nat) => BitVec.ofNat 128 (r.bytes.toNat - (bytesOf r.bytes lo (lo + 3) <<< (8 * lo))
      + ((bytesOf r.bytes lo (lo + 3) + d) % 2 ^ 32 <<< (8 * lo)))
    match recordKind r.bytes with
    | 0x60 => add 4
    | 0x63 => add 12
    | 0x23 => add 0
    | _ => r.bytes
  | none => r.bytes

/-- The tick and barrier records of a VC0 flit take its residence since a time, and a BAR_RELEASE a link's delay
besides (R314, R444). -/
def addResidence (now delay since : Int) (f : Flit) : Flit :=
  if f.vc = 0 then
    { f with payload := recordsPayload (((List.range 15).map fun i =>
        (BitVec.ofNat 128 (bytesOf f.payload (16 * i) (16 * i + 15)) : BitVec 128)).map fun r =>
          if recordKind r = 0x60 ∨ recordKind r = 0x63 then
            departRecord (if recordKind r = 0x63 then now + delay else now)
              { dst := f.dst, bytes := r, since := some since } else r) }
  else f

/-- A transit flit as it leaves: its residence counts from its arrival, or from its first departure where it was
salvaged, and the delay of the link it came in on is added once (R314, R444). -/
def departTransit (now delay : Int) (t : TransitFlit) : Flit :=
  addResidence now (if t.owns then delay else 0) t.at10 t.flit

/-- The link fields of the next flit, and the link after it has carried them (R276, R282, R284). -/
def nextHeader (x : Link) (fkind lseq : Nat) : LinkFields × Link :=
  ({ fkind := fkind, lseq := lseq, lack := x.rxSeq, nak := x.nakDue, crvc := x.crvc, crtot := cnt x.freed x.crvc },
   { x with nakDue := false, crvc := (x.crvc + 1) % 6 })

/-- Lane words as the two transmit lanes carry them. -/
def laneOuts (l : Nat) (ws : List (BitVec 256 × BitVec 256)) : List Output :=
  ws.flatMap fun (a, b) => [.lane l 0 a, .lane l 1 b]

/-- A flit goes onto the wire: the stream's whole link words go out on the lanes (R266, R275). -/
def emitFlit (m : Mach) (l : Nat) (x : Link) (h : LinkFields) (f : Flit) : Mach :=
  let bs := x.txTail ++ wireBytes (encodeFlit x.frame h f)
  let n := 64 * (bs.length / 64)
  setLink { m with out := m.out ++ [.flit l x.frame h f] ++ laneOuts l (linkWords (bs.take n)) } l
    { x with frame := (x.frame + 1) % 8, sinceActive := x.sinceActive + 1, txTail := bs.drop n }

/-- The lane cycles that begin in a flit slot carry words of their own, after the rest of a flit that went before
(R270, R273). -/
def emitWords (m : Mach) (l : Nat) (word : Nat → Nat → BitVec 256) : Mach :=
  let x := linkOf m l
  let rest := if x.txTail.isEmpty then [] else linkWords (padTo 64 x.txTail)
  setLink { m with out := m.out ++ laneOuts l (rest ++ (slotCycles x.frame).map fun w => (word w 0, word w 1)) } l
    { x with frame := (x.frame + 1) % 8, txTail := [] }

/-- A resend of a held flit (R283); a probe sent again leaves the measurement (R293). -/
def sendResend (m : Mach) (l : Nat) (x : Link) (s : Nat) (h : Held) : Mach :=
  let (lf, x) := nextHeader x fkData s
  let seqs := if h.own.flit.vc = 0 then (payloadRecords h.own.flit.payload).filterMap fun r =>
    if recordKind r = 0x22 then some (bytesOf r 4 5) else none else []
  let x := { x with resend := x.resend.drop 1,
                    held := x.held.map fun y => if y.lseq = s then { y with sentAt := m.tick.time } else y,
                    meas := x.meas.map fun d => { d with out := d.out.filter fun q => !seqs.contains q.1 } }
  emitFlit m l x lf h.own.flit

/-- A DATA flit is sent for the first time: numbered, held for replay, charged, counted (R281, R284). -/
def sendData (p : Part) (m : Mach) (l : Nat) (x : Link) (own : OwnFlit) (inLink : Option Nat) : Mach :=
  let s := x.txSeq
  let (lf, x) := nextHeader x fkData s
  let x := { x with txSeq := (s + 1) % 1024, sent := inc4096 x.sent own.flit.vc,
                    held := x.held ++ [{ lseq := s, own := own, transitOf := inLink, sentAt := m.tick.time,
                                         at10 := flitStamp m x.frame }],
                    tokens := if own.flit.vc = 0 then x.tokens - 1 else x.tokens }
  let m := bump p (emitFlit m l x lf own.flit) (Reg.linkFlitsTx l) 1
  if inLink.isSome then bump p m (Reg.linkTransitTx l) 1 else m

/-- The link that a VC0 record takes now: its own, or the pick of its destination's usable set. -/
def recLink (p : Part) (m : Mach) (r : Rec0) : Option Nat :=
  match r.link with
  | some l => some l
  | none =>
    match usableSet p m r.dst with
    | .links _ ls => ownPick m r.dst 0 ls
    | _ => none

/-- Records whose destination has no usable route are lost (R303); a kindling request among them
waits for nothing more. -/
def loseRecords (p : Part) (m : Mach) : Mach :=
  let (gone, kept) := m.net.vc0Out.partition fun r => r.link.isNone && noRoute p m r.dst
  let m := { m with net := { m.net with vc0Out := kept } }
  (gone.filterMap fun r => r.kindle).foldl kindleGone m

/-- The records of the next own VC0 flit of a link: up to 15 of one destination, in order (R289). -/
def nextRecords (p : Part) (m : Mach) (l : Nat) : List Rec0 :=
  match m.net.vc0Out.find? fun r => recLink p m r == some l with
  | some r => ((m.net.vc0Out.filter fun q => q.dst == r.dst && recLink p m q == some l).take 15)
  | none => []

/-- A VC0 flit of the node's own records leaves. -/
def sendRecords (p : Part) (m : Mach) (l : Nat) (rs : List Rec0) : Mach :=
  let dst := (rs.head?.map fun r => r.dst).getD 0
  let now := flitStamp m (linkOf m l).frame
  let bytes := rs.map (departRecord now)
  let (tag, m) := drawPtag m dst
  let m := { m with net := { m.net with vc0Out := rs.foldl (fun q r => q.erase r) m.net.vc0Out } }
  let m := if rs.any fun r => r.link.isNone then moveOwn m dst 0 l else m
  let x := linkOf m l
  let x := { x with meas := x.meas.map fun d => { d with
    out := d.out ++ (bytes.filter fun r => recordKind r == 0x22).map fun r => (bytesOf r 4 5, now) } }
  let ks := rs.filterMap fun r => r.kindle
  let f : OwnFlit := { flit := { vc := 0, src := nodeId p m, dst := dst, ptag := tag, ttl := (routeOf m dst).ttl,
                                 payload := recordsPayload bytes }, origin := .records ks }
  flitGone (sendData p m l x f none) f.origin

/-- Numbers in ascending order. -/
def sortNat (l : List Nat) : List Nat := sortBy (fun a b => decide (a < b)) l

/-- The own flit of a channel that a link sends next (R166, R192, R407): VC1 and VC2 turn over the
destinations, VC3 to VC5 over the contexts, one packet each. DESIGN CHOICE: before any has been served the turn is that
after node 0 (log entry 140). -/
def nextOwn (x : Link) (vc : Nat) : Option OwnFlit :=
  let q := x.own.filter fun f => f.flit.vc == vc
  if vc ≤ 2 then
    match nextAfter (sortNat (q.map fun f => f.flit.dst)) (cnt x.rrDest vc) with
    | some d => q.find? fun f => f.flit.dst == d
    | none => none
  else
    match q.find? fun f => f.ctx == cnt x.rrCtx vc && f.flit.ptag + 1 == cnt x.rrCtx (8 + vc) &&
        f.flit.dst == cnt x.rrCtx (16 + vc) with
    | some f => some f
    | none =>
      match nextAfter (sortNat (q.map fun f => f.ctx)) (cnt x.rrCtx vc) with
      | some c => q.find? fun f => f.ctx == c
      | none => none

/-- The transit flit of a channel that a link sends next: input links in turn (R312). -/
def nextTransit (x : Link) (vc : Nat) : Option TransitFlit :=
  let q := x.transit.filter fun t => t.flit.vc == vc
  match nextAfter (sortNat (q.map fun t => t.inLink)) (cnt x.rrIn vc) with
  | some i => q.find? fun t => t.inLink == i
  | none => none

/-- Transit goes before the node's own flits in a channel, by the alternation of R312. -/
def transitFirst (x : Link) (vc : Nat) : Bool := !x.lastTransit.contains vc

/-- What a link carries in this cycle, for the charges of R409: a context's flit, or a transit flit (9). -/
def carry (m : Mach) (l who : Nat) : Mach := { m with run := { m.run with carried := m.run.carried ++ [(l, who)] } }

/-- An own flit as it leaves: the residence of a salvaged one goes on from its first departure (R314). -/
def departOwn (now : Int) (f : OwnFlit) : OwnFlit :=
  match f.at10 with
  | some t => { f with flit := addResidence now 0 t f.flit }
  | none => f

/-- An own flit leaves: it is sent, and what its leaving means happens. -/
def sendOwn (p : Part) (m : Mach) (l : Nat) (f : OwnFlit) : Mach :=
  let vc := f.flit.vc
  let x := linkOf m l
  let x := { x with own := x.own.erase f, rrDest := if vc ≤ 2 then Assoc.set x.rrDest vc f.flit.dst else x.rrDest,
                    rrCtx := if vc ≤ 2 then x.rrCtx
                      else Assoc.set (Assoc.set (Assoc.set x.rrCtx vc f.ctx) (8 + vc) (f.flit.ptag + 1)) (16 + vc) f.flit.dst,
                    lastTransit := x.lastTransit.erase vc }
  let m := packetSent (carry (sendData p m l x (departOwn (flitStamp m x.frame) f) none) l f.ctx) f.origin
  if f.again then m else flitGone m f.origin

/-- A transit flit leaves: TTL was lowered when it was routed (R305); its place is free, and at a relay the flits
behind it in its input buffer come up (R286, R310). -/
def sendTransit (p : Part) (m : Mach) (l : Nat) (t : TransitFlit) : Mach :=
  let vc := t.flit.vc
  let x := linkOf m l
  let x := { x with transit := x.transit.erase t, rrIn := Assoc.set x.rrIn vc t.inLink,
                    lastTransit := if x.lastTransit.contains vc then x.lastTransit else vc :: x.lastTransit }
  let f := departTransit (flitStamp m x.frame) (linkDelay p m t.inLink) t
  let m := releaseTransit p (carry (sendData p m l x { flit := f } (some t.inLink)) l 9) t
  deliverFront p t.inLink vc (linkOf m t.inLink).waiting.length m

/-- The queues of a link with what may not be read now left out: the flits of a context, or transit flits, whose
kiln group is being copied (R223). -/
def readable (p : Part) (m : Mach) (x : Link) : Link :=
  { x with own := x.own.filter fun f => !(kilnFlit f.origin && groupCopies m f.ctx),
           transit := if transitCopies p m then [] else x.transit }

/-- An IDLE flit, which shows the number of the next DATA flit (R276, R277). -/
def sendIdle (m : Mach) (l : Nat) : Mach :=
  let (lf, x) := nextHeader (linkOf m l) fkIdle (linkOf m l).txSeq
  emitFlit m l x lf { vc := 0, src := 0, dst := 0, last := false }

/-- The kiln's answer to a link's read of an own flit that no longer decodes: the item fails (R222). -/
def ownUnread (p : Part) (m : Mach) (l line : Nat) (f : OwnFlit) : Mach :=
  let x := linkOf m l
  let m := setLink (kilnNote p m line (some 0)) l { x with own := x.own.erase f }
  let m := failOrigin p m f.origin stUncorrectable
  if f.again then m else flitGone m f.origin

/-- The same of a transit flit: its packet is dropped (R222). -/
def transitUnread (p : Part) (m : Mach) (l line : Nat) (t : TransitFlit) : Mach :=
  let x := linkOf m l
  let m := releaseTransit p (setLink (kilnNote p m line (some 3)) l { x with transit := x.transit.erase t }) t
  noteDropped m ((droppedOf m t.flit).getD { id := packetId t.flit, seen := [], lastPos := none }) t.flit

/-- An own flit goes, with what its read of the kiln finds (R221, R222). -/
def ownGoes (p : Part) (m : Mach) (l : Nat) (r : StoreRead) (f : OwnFlit) : Mach :=
  if !kilnFlit f.origin || f.again then sendOwn p m l f
  else match r with
  | .line n true => sendOwn p (kilnCorrected p m n) l f
  | .line n false => sendIdle (ownUnread p m l n f) l
  | _ => sendOwn p m l f

/-- A transit flit goes, with what its read of its buffer finds. -/
def transitGoes (p : Part) (m : Mach) (l : Nat) (r : StoreRead) (t : TransitFlit) : Mach :=
  match r with
  | .line n true => sendTransit p (kilnCorrected p m n) l t
  | .line n false => sendIdle (transitUnread p m l n t) l
  | _ => sendTransit p m l t

/-- A channel's own or transit flit is sent; none where it has none. -/
def sendChannel (p : Part) (m : Mach) (l vc : Nat) (r : StoreRead) : Option Mach :=
  let x := readable p m (linkOf m l)
  match nextTransit x vc, nextOwn x vc with
  | some t, some f => some (if transitFirst x vc then transitGoes p m l r t else ownGoes p m l r f)
  | some t, none => some (transitGoes p m l r t)
  | none, some f => some (ownGoes p m l r f)
  | none, none => none

/-- A channel of VC1 to VC5 has an eligible flit: credit and a flit ready (R287, R528). -/
def eligible (x : Link) (vc : Nat) : Bool :=
  !x.quiesce && decide (0 < linkCredit x vc) && ((nextTransit x vc).isSome || (nextOwn x vc).isSome)

/-- The channel's weight (R288). -/
def weightOf (p : Part) (m : Mach) (l vc : Nat) : Nat := rdF p m (Reg.linkWeight l) (6 * vc - 1) (6 * vc - 6)

/-- A turn whose channel has no eligible flit has ended (R288). -/
def endTurn (p : Part) (m : Mach) (x : Link) : Link :=
  if eligible (readable p m x) x.turn then x else { x with turnWeight := 0 }

/-- The channel whose turn it is at this slot, with the turn's count and weight (R288). -/
def turnAt (p : Part) (m : Mach) (l : Nat) (x : Link) : Option (Nat × Nat × Nat) :=
  let e := readable p m x
  if eligible e x.turn && decide (x.turnSent < x.turnWeight) then some (x.turn, x.turnSent, x.turnWeight)
  else
    ((List.range 5).map fun i => (x.turn + i) % 5 + 1).findSome? fun vc =>
      if eligible e vc then some (vc, 0, weightOf p m l vc) else none

/-- A VC0 flit: transit, a salvaged own flit, or the node's own records, in alternation. -/
def sendVc0 (p : Part) (m : Mach) (l : Nat) (r : StoreRead) : Option Mach :=
  let x := linkOf m l
  if x.tokens = 0 ∨ linkCredit x 0 = 0 then none
  else
    match nextTransit (readable p m x) 0, nextOwn x 0, nextRecords p m l with
    | some t, none, [] => some (transitGoes p m l r t)
    | some t, none, rs => some (if transitFirst x 0 then transitGoes p m l r t else
        sendRecords p (setLink m l { x with lastTransit := x.lastTransit.erase 0 }) l rs)
    | some t, some f, _ => some (if transitFirst x 0 then transitGoes p m l r t else sendOwn p m l f)
    | none, some f, _ => some (sendOwn p m l f)
    | none, none, [] => none
    | none, none, rs => some (sendRecords p m l rs)

/-- A flit slot of an ACTIVE link (R287, R288). -/
def activeSlot (p : Part) (m : Mach) (l : Nat) (r : StoreRead) : Mach :=
  let x := endTurn p m (linkOf m l)
  let m := setLink m l x
  match x.resend.head?.bind (fun s => x.held.find? fun h => h.lseq == s) with
  | some h => sendResend m l x h.lseq h
  | none =>
    if 64 ≤ x.held.length then sendIdle m l
    else
      match sendVc0 p m l r with
      | some m => m
      | none =>
        match turnAt p m l x with
        | some (vc, n, w) =>
          (sendChannel p (setLink m l { x with turn := vc, turnSent := n + 1, turnWeight := w }) l vc r).getD m
        | none => sendIdle m l

/-- A training flit is sent (R272). -/
def sendTs (p : Part) (m : Mach) (l st : Nat) : Mach :=
  let x := linkOf m l
  emitFlit m l x { fkind := fkTs }
    { vc := 0, src := 0, dst := 0, last := false,
      payload := tsPayload st x.fresh p.relay (nodeId p m) l x.rxSeq x.advOwn }

/-- A slot of a link that sends zero words (R273). -/
def zeroSlot (m : Mach) (l : Nat) : Mach := emitWords m l fun _ _ => 0

/-- A slot of a link in ALIGN: training words, and CONFIG from the next FPOS 0 where both ends are aligned. -/
def alignSlot (p : Part) (m : Mach) (l : Nat) : Mach :=
  let m := emitWords m l fun w lane => trainWord w lane (linkOf m l).aligned (nodeId p m) l
  setLink m l (configStart (linkOf m l))

/-- LINK_FLIT_SLOT (R273, R287): the time of one flit on a link. -/
def linkFlitSlot (l : Nat) (r : StoreRead) (p : Part) (m : Mach) : Mach :=
  let x := linkOf m l
  match x.phase with
  | .active => activeSlot p (loseRecords p m) l r
  | .config => sendTs p m l 1
  | .ready =>
    let m := sendTs p m l 2
    let x := linkOf m l
    readyCheck p (setLink m l { x with readySent := x.readySent + 1 }) l
  | .retired => if lanesUp x then sendTs p m l 3 else m
  | .down =>
    let m := zeroSlot m l
    if lanesUp x then setLink m l (startRun p m l (linkOf m l)) else m
  | .retrain => zeroSlot m l
  | .align => alignSlot p m l
  | .disabled => m

/-- READY_FLIT_SENT: the eighth READY flit, or one after it, goes out when one has been received; ACTIVE begins
(R273). -/
def readyFlitSent (l : Nat) (p : Part) (m : Mach) : Mach :=
  let x := linkOf m l
  if x.phase = .ready ∧ x.readyGot = true ∧ 7 ≤ x.readySent then
    let m := sendTs p m l 2
    let x := linkOf m l
    readyCheck p (setLink m l { x with readySent := x.readySent + 1 }) l
  else m

/-- VC0_TOKEN: 20 flit times after the last (R287). -/
def vc0Token (l : Nat) (_p : Part) (m : Mach) : Mach :=
  let x := linkOf m l
  if x.phase = .active ∧ x.tokenAt + 20 ≤ x.sinceActive then
    setLink m l { x with tokens := min 8 (x.tokens + 1), tokenAt := x.tokenAt + 20 }
  else m

/-! ### Enabling, disabling, retrain request (R273, R274, R298) -/

/-- A link is disabled: what it held is lost as in a retirement without salvage, what it had queued
goes elsewhere. -/
def disableLink (p : Part) (m : Mach) (l : Nat) : Mach :=
  let m := endMeas (dropBound m l) l stTimeout
  let x := linkOf m l
  let m := withReroute p m fun m =>
    setLink m l { freshLink x with phase := .disabled, partner := none, own := [], transit := [], txLock := 0, rxLock := 0, frame := 0, txTail := [] }
  respread p (loseHeld p m l x.held) x.own x.transit

/-- ENABLE of a link page written (R273, R298, R301): 1 takes a DISABLED link to DOWN, and a retired
one whose ENABLE was 0; 0 disables a link that is not retired. -/
def linkEnabled (p : Part) (m : Mach) (l : Nat) (was now : Bool) : Mach :=
  let x := linkOf m l
  if now then
    if x.phase = .disabled ∨ (x.phase = .retired ∧ was = false) then
      let m := loseHeld p m l x.salvage
      let x := linkOf m l
      withReroute p m fun m => setLink m l { toDown x with
        retired := false, trainFailAt := [], failAt := [], salvage := [], downGot := none }
    else m
  else if x.phase = .disabled ∨ x.phase = .retired then m
  else disableLink p m l

/-- LINK_RETRAIN_REQUEST: a write of LINKn.CTRL (R274, R300); MGMT_PORT takes its bit. -/
def linkRetrainRequest (src : Src) (l : Nat) (v : Word) (p : Part) (m : Mach) : Mach :=
  if l < linkCount p.conf then
    gated p m src (Reg.linkCtrl l) fun m =>
      let m := wrF p m (Reg.linkCtrl l) 0 0 (bitsOf v 0 0)
      if bitOf v 1 then retrainLink p m l else m
  else m

/-! ### LINK_DOWN and the end of the salvage wait (R297) -/

/-- LINK_DOWN: the record of the partner's retirement; before this end has retired it is kept. -/
def linkDown (p : Part) (m : Mach) : Mach :=
  match takeRecord m 0x21 with
  | some (r, m) =>
    let l := bytesOf r.bytes 3 3
    let rx := bitsOf r.bytes 9 0
    if l < linkCount p.conf then
      let x := linkOf m l
      if x.phase = .retired then salvageLink p m l rx else setLink m l { x with downGot := some rx }
    else m
  | none => m

/-- SALVAGE_DROP: the held flits of a retired link are dropped. -/
def salvageDrop (l : Nat) (p : Part) (m : Mach) : Mach :=
  let x := linkOf m l
  if x.phase = .retired ∧ x.retiredAt + 100000 * fsPerNs ≤ m.tick.time then
    loseHeld p (setLink m l { x with salvage := [] }) l x.salvage
  else m

/-! ### Delay measurement (R293, R294) -/

/-- A microsecond has passed since a link's last probe (R294). -/
def probeDue (m : Mach) (d : DlyMeas) : Bool :=
  match d.lastAt with
  | some t => decide (t + 1000 * fsPerNs ≤ m.tick.time)
  | none => true

/-- DLY_PROBE: a measuring link sends its next probe. -/
def dlyProbe (l : Nat) (p : Part) (m : Mach) : Mach :=
  let x := linkOf m l
  match x.meas, x.partner with
  | some d, some (n, _, _) =>
    if x.phase = .active ∧ probeDue m d = true then
      sendRec p (setLink m l { x with meas := some { d with seq := (d.seq + 1) % 65536, lastAt := some m.tick.time } })
        { dst := n, link := some l,
          bytes := mkRecord ([0, 0, 0, 0] ++ leBytes 2 d.seq ++ [BitVec.ofNat 8 l]) 0x22 [] }
    else m
  | _, _ => m

/-- DLY_PROBE_RECEIVE: the echo carries TURN, which is completed when it leaves. -/
def dlyProbeReceive (p : Part) (m : Mach) : Mach :=
  match takeRecord m 0x22 with
  | some (r, m) =>
    sendRec p m { dst := r.src, link := some r.link, since := some r.at10,
                  bytes := mkRecord ([0, 0, 0, 0] ++ leBytes 2 (bytesOf r.bytes 4 5) ++ [byteOf r.bytes 6]) 0x23 [] }
  | none => m

/-- The result of a measurement: mean, spread and count in DLY_MEAS (R294). -/
def measResult (s : List Int) : Word :=
  let n := s.length
  let mean := s.sum / (max 1 n : Nat)
  let hi := s.foldl max (s.headD 0)
  let lo := s.foldl min (s.headD 0)
  wordOf (2 ^ 56 + (n % 65536) * 2 ^ 40 + ((hi - lo).toNat % 65536) * 2 ^ 24 + mean.toNat % 2 ^ 24)

/-- A sample of R293: half of the round trip less TURN, truncated. -/
def delaySample (t1 t4 : Int) (turn : Nat) : Int := ((t4 - t1) - turn).tdiv 2

/-- DLY_ECHO: an echo of the link's own probe is a sample; with enough samples the result is
written. A resent echo is left out. -/
def dlyEcho (p : Part) (m : Mach) : Mach :=
  match takeRecord m 0x23 with
  | some (r, m) =>
    let l := r.link
    let x := linkOf m l
    match x.meas with
    | some d =>
      match d.out.find? fun q => q.1 == bytesOf r.bytes 4 5 with
      | some (s, t1) =>
        let out := d.out.filter fun q => q.1 != s
        if r.replayed then setLink m l { x with meas := some { d with out := out } }
        else
          let samples := d.samples ++ [delaySample t1 r.at10 (bytesOf r.bytes 0 3)]
          if samples.length < d.want then setLink m l { x with meas := some { d with out := out, samples := samples } }
          else measPart (wr p (setLink m l { x with meas := none }) (Reg.linkDlyMeas l) (measResult samples)) l d.acc stDone
      | none => m
    | none => m
  | none => m

/-! ### Transit (R305, R309, R310) -/

/-- Transit slots in use. -/
def slotsUsed (p : Part) (m : Mach) : Nat :=
  ((List.range (linkCount p.conf)).map fun l => (linkOf m l).slotsHeld).sum

/-- Slots of the transit pool (R310). -/
def transitSlots : Conf → Nat
  | .ihlan12 => 4096
  | _ => 8192

/-- A flit may take a transit slot (R310); a relay has none to take. -/
def slotFree (p : Part) (m : Mach) (l vc : Nat) : Bool :=
  p.relay ||
  (decide ((linkOf m l).slotsHeld < rdF p m Reg.routeTransitCtrl 13 0) &&
    decide (slotsUsed p m < transitSlots p.conf) &&
    (vc == 0 || decide (rdF p m Reg.routeTransitCtrl 26 16 < transitSlots p.conf - slotsUsed p m)))

/-- A transit flit is dropped where its packet was, where its hops are used up, or where its destination has no
route (R305, R309); none where it goes on. -/
def transitDrop (p : Part) (m : Mach) (l : Nat) (t : TransitFlit) : Option Mach :=
  let f := t.flit
  if let some d := droppedOf m f then some (noteDropped (freeCredit m l f.vc) d f)
  else if f.ttl = 0 then some (dropPacket p (freeCredit m l f.vc) Reg.routeTtlDrop 1 f)
  else if noRoute p m f.dst then some (dropPacket p (freeCredit m l f.vc) Reg.routeNorouteDrop 2 f)
  else none

/-- A transit flit is routed with its TTL lowered. At an endpoint it leaves the input buffer for a slot of the
transit pool; at a relay it stays in front there until it starts (R286, R305, R310). -/
def forwardFlit (p : Part) (m : Mach) (l : Nat) (t : TransitFlit) : Mach :=
  let x := linkOf m l
  let y := { t with flit := { t.flit with ttl := t.flit.ttl - 1 }, routed := true }
  if p.relay then
    queueTransit p (setLink m l { x with waiting := x.waiting.map fun z => if z = t then { z with routed := true } else z }) y
  else
    let m := freeCredit (setLink m l { x with waiting := x.waiting.erase t, slotsHeld := x.slotsHeld + 1 }) l t.flit.vc
    deliverFront p l t.flit.vc x.waiting.length (queueTransit p m y)

/-- TRANSIT_FLIT: the flit at the front of a link's input buffer of a channel goes on; while its
usable set is "wait" it stays, or no slot is free for it. A halted node forwards nothing (R462). -/
def transitFlit (l vc : Nat) (p : Part) (m : Mach) : Mach :=
  let x := linkOf m l
  let n := x.waiting.length
  match x.waiting.find? fun t => t.flit.vc == vc with
  | some t =>
    if isFatal p m then m
    else if t.flit.dst = nodeId p m then deliverFront p l vc n m
    else if t.routed then m
    else match transitDrop p (setLink m l { x with waiting := x.waiting.erase t }) l t with
      | some m => deliverFront p l vc n m
      | none =>
        if usableSet p m t.flit.dst = .wait ∨ slotFree p m l vc = false then m else forwardFlit p m l t
  | none => m

/-- REASSEMBLY_TIMEOUT: a partly received packet of VC3 to VC5 is discarded (R291). -/
def reassemblyTimeout (node vc ptag : Nat) (p : Part) (m : Mach) : Mach :=
  if 3 ≤ vc ∧ vc ≤ 5 then
    (m.net.rx.filter fun x => x.src == node && x.vc == vc && x.ptag == ptag && !rxWhole x &&
      decide (x.firstAt + e2eTmo p m ≤ m.tick.time)).foldl dropRx m
  else m

/-! ### The meanings of the commands -/

/-- LINK_RETRAIN_REQUEST (R274). -/
def execLinkRetrainRequest (src : Src) (link : Nat) (value : Word) (s : State) : Host.Outcome State Fault Refusal :=
  .next { s with m := responded s.m src none (linkRetrainRequest src link value s.part s.m) }

/-- PHY_LOCK (R273). -/
def execPhyLock (link : Nat) (s : State) : Host.Outcome State Fault Refusal :=
  .next { s with m := whileLinks s.m (phyLock link s.part s.m) }

/-- PHY_LOCK_LOSS (R274). -/
def execPhyLockLoss (link lane : Nat) (tx : Bool) (s : State) : Host.Outcome State Fault Refusal :=
  .next { s with m := whileLinks s.m (phyLockLoss link lane tx s.part s.m) }

/-- PL_ADAPT_ACK (R273). -/
def execPlAdaptAck (link : Nat) (rise : Bool) (s : State) : Host.Outcome State Fault Refusal :=
  .next { s with m := whileLinks s.m (plAdaptAck link rise s.part s.m) }

/-- LANE_ALIGNED (R271). -/
def execLaneAligned (link : Nat) (rx0 rx1 : List (BitVec 256)) (s : State) : Host.Outcome State Fault Refusal :=
  .next { s with m := whileLinks s.m (laneAligned link rx0 rx1 s.part s.m) }

/-- TS_FLIT_RECEIVE (R273). -/
def execTsFlitReceive (link pos : Nat) (lanes : List (BitVec 256) × List (BitVec 256)) (s : State) : Host.Outcome State Fault Refusal :=
  .next { s with m := whileLinks s.m (receiveWire link pos lanes s.part s.m) }

/-- TRAINING_TIMEOUT (R273). -/
def execTrainingTimeout (link : Nat) (s : State) : Host.Outcome State Fault Refusal :=
  .next { s with m := whileLinks s.m (trainingTimeout link s.part s.m) }

/-- FLIT_RECEIVE (R282). -/
def execFlitReceive (link pos : Nat) (lanes : List (BitVec 256) × List (BitVec 256)) (s : State) : Host.Outcome State Fault Refusal :=
  .next { s with m := whileLinks s.m (receiveWire link pos lanes s.part s.m) }

/-- REPLAY_TIMEOUT (R283). -/
def execReplayTimeout (link : Nat) (s : State) : Host.Outcome State Fault Refusal :=
  .next { s with m := whileLinks s.m (replayTimeout link s.part s.m) }

/-- LINK_FLIT_SLOT (R287). -/
def execLinkFlitSlot (link : Nat) (s : State) (read : StoreRead := .clean) : Host.Outcome State Fault Refusal :=
  .next { s with m := whileLinks s.m (linkFlitSlot link read s.part s.m) }

/-- VC0_TOKEN (R287). -/
def execVc0Token (link : Nat) (s : State) : Host.Outcome State Fault Refusal :=
  .next { s with m := whileLinks s.m (vc0Token link s.part s.m) }

/-- LINK_DOWN (R297). -/
def execLinkDown (s : State) : Host.Outcome State Fault Refusal :=
  .next { s with m := whileLinks s.m (linkDown s.part s.m) }

/-- SALVAGE_DROP (R297). -/
def execSalvageDrop (link : Nat) (s : State) : Host.Outcome State Fault Refusal :=
  .next { s with m := whileLinks s.m (salvageDrop link s.part s.m) }

/-- REASSEMBLY_TIMEOUT (R291). -/
def execReassemblyTimeout (node vc ptag : Nat) (s : State) : Host.Outcome State Fault Refusal :=
  .next { s with m := whileLinks s.m (reassemblyTimeout node vc ptag s.part s.m) }

/-- DLY_PROBE (R294). -/
def execDlyProbe (link : Nat) (s : State) : Host.Outcome State Fault Refusal :=
  .next { s with m := whileLinks s.m (dlyProbe link s.part s.m) }

/-- DLY_PROBE_RECEIVE (R293). -/
def execDlyProbeReceive (s : State) : Host.Outcome State Fault Refusal :=
  .next { s with m := whileLinks s.m (dlyProbeReceive s.part s.m) }

/-- DLY_ECHO (R293). -/
def execDlyEcho (s : State) : Host.Outcome State Fault Refusal :=
  .next { s with m := whileLinks s.m (dlyEcho s.part s.m) }

/-- READY_FLIT_SENT (R273). -/
def execReadyFlitSent (link : Nat) (s : State) : Host.Outcome State Fault Refusal :=
  .next { s with m := whileLinks s.m (readyFlitSent link s.part s.m) }

end Sys2Proof.Machine
end

