-- ==== Sys2Proof/Machine/Ports.lean ====
section
/-! DEFINITION. Host stream ports: bindings, pairs and credit (R150 to R155), record lengths and header
checks (R66, R130, R163, R187, R211), outbound records; and what is recorded of a step for replay
(R448, R449). -/

namespace Sys2Proof.Machine

/-! ### Replay rings and digests (R448, R449) -/

/-- REPLAY_CTRL.MODE where the ring is in use, 0 otherwise. -/
def replayMode (p : Part) (m : Mach) (c : Nat) : Nat :=
  if rdB p m (Reg.ctxReplayCtrl c) 8 then rdF p m (Reg.ctxReplayCtrl c) 10 9 else 0

/-- Bytes of a replay ring. -/
def replaySize (p : Part) (m : Mach) (c : Nat) : Nat := 2 ^ rdF p m (Reg.ctxReplayCtrl c) 4 0

/-- The ring has room for n more bytes. -/
def replayRoom (p : Part) (m : Mach) (c n : Nat) : Bool :=
  decide ((rd p m (Reg.ctxReplayHead c) - rd p m (Reg.ctxReplayTail c)).toNat + n ≤ replaySize p m c)

/-- The header of an entry (R448). -/
def replayHeader (kind chan layer step att len : Nat) (side : Word) (crc count : Nat) (seed : Word) : List Byte :=
  [BitVec.ofNat 8 kind, BitVec.ofNat 8 chan] ++ leBytes 2 layer ++ leBytes 6 step
    ++ [BitVec.ofNat 8 att, 0] ++ leBytes 4 len ++ leBytes 8 side.toNat ++ leBytes 4 crc
    ++ leBytes 4 count ++ leBytes 8 seed.toNat ++ List.replicate 24 0

/-- Bytes are written at the ring's head, which moves past them. -/
def ringPut (p : Part) (m : Mach) (c : Nat) (bs : List Byte) : Mach :=
  let size := replaySize p m c
  let h := rd p m (Reg.ctxReplayHead c)
  let off := h.toNat % size
  let base := (rd p m (Reg.ctxReplayBase c)).toNat
  let m := startWrites p m (base + off) (bs.take (size - off)) .other
  let m := startWrites p m base (bs.drop (size - off)) .other
  wr p m (Reg.ctxReplayHead c) (h + BitVec.ofNat 64 bs.length)

/-- An entry is written, or waits in order for room (R448). -/
def recordEntry (p : Part) (m : Mach) (c : Nat) (bs : List Byte) : Mach :=
  let x := ctxOf m c
  if x.replayWait.isEmpty && replayRoom p m c bs.length then ringPut p m c bs
  else setCtx m c { x with replayWait := x.replayWait ++ [bs] }

/-- Waiting entries are written while there is room; `n` bounds how many. -/
def pumpReplay (p : Part) (c : Nat) : Nat → Mach → Mach
  | 0, m => m
  | n + 1, m =>
    let x := ctxOf m c
    match x.replayWait with
    | bs :: rest =>
      if replayRoom p m c bs.length then pumpReplay p c n (ringPut p (setCtx m c { x with replayWait := rest }) c bs)
      else m
    | [] => m

/-- The channels of the context hold the host off while recording waits for room (R448). -/
def inputRoom (p : Part) (m : Mach) (c len : Nat) : Bool :=
  (ctxOf m c).replayWait.isEmpty && (replayMode p m c != 2 || replayRoom p m c (64 + len))

/-- The bytes of a record's beats. -/
def beatBytes (bs : List (BitVec 4096)) : List Byte := bs.flatMap fun b => leBytes 512 b.toNat

/-- A record enters the digest of its channel and layer phase: the CRC-32C of its first sideband word
followed by its beats, added modulo 2³² (R449). -/
def addDigest (s : StepRun) (chan layer crc : Nat) : StepRun :=
  let old := s.digests.find? fun d => d.1 == chan && d.2.1 == layer
  let rest := s.digests.filter fun d => !(d.1 == chan && d.2.1 == layer)
  let (sum, n) := match old with
    | some d => d.2.2
    | none => (0, 0)
  { s with digests := (chan, layer, (sum + crc) % 2 ^ 32, n + 1) :: rest }

/-- A record's digest. -/
def recordDigest (side : Word) (bs : List Byte) : Nat := crc32c (leBytes 8 side.toNat ++ bs)

/-- An accepted input record is digested, and in MODE 2 written as an INPUT entry (R448, R449). -/
def recordInput (p : Part) (m : Mach) (c layer : Nat) (r : InRec) : Mach :=
  let bs := beatBytes r.beats
  let m := updStep m c fun s => addDigest s r.kind layer (recordDigest r.header bs)
  if replayMode p m c = 2 then
    match stepOfCtx m c with
    | some s => recordEntry p m c
        (replayHeader 2 r.kind layer s.step s.att bs.length r.header (crc32c bs) 0 0 ++ bs)
    | none => m
  else m

/-! ### Ports, slots, bindings (R150 to R155) -/

/-- Channel kinds of R152. -/
def chScore : Nat := 1
def chToken : Nat := 2
def chExpout : Nat := 3
def chHint : Nat := 4
def chRick : Nat := 9
def chComb : Nat := 10

/-- A stream port. -/
def strmOf (m : Mach) (q : Nat) : StrmPort := Assoc.get {} m.run.ports q

/-- A stream port replaced. -/
def setStrm (m : Mach) (q : Nat) (x : StrmPort) : Mach :=
  { m with run := { m.run with ports := Assoc.set m.run.ports q x } }

/-- A channel slot of a port. -/
def slotAt (m : Mach) (q k : Nat) : StrmSlot := Assoc.get {} (strmOf m q).slots k

/-- A channel slot replaced. -/
def setSlotAt (m : Mach) (q k : Nat) (x : StrmSlot) : Mach :=
  let y := strmOf m q
  setStrm m q { y with slots := Assoc.set y.slots k x }

/-- The fields of a binding. -/
def bindEn (w : Word) : Bool := bitOf w 7
def bindCtx (w : Word) : Nat := bitsOf w 6 4
def bindKind (w : Word) : Nat := bitsOf w 3 0

/-- A binding that R153 lets a slot hold. -/
def bindOk (k : Nat) (w : Word) : Bool :=
  let kind := bindKind w
  kind == 0 || (if k < 4 then decide (1 ≤ kind) && decide (kind ≤ 4) else kind == chRick || kind == chComb)

/-- The pairs of a kind of a context, in ascending order of port, then slot (R153); a retired port's
bindings are disabled (R458). -/
def pairs (p : Part) (m : Mach) (c kind : Nat) : List (Nat × Nat) :=
  (List.range (streamCount p.conf)).flatMap fun q =>
    if (strmOf m q).retired then []
    else (List.range 8).filterMap fun k =>
      let w := (slotAt m q k).bind
      if bindEn w && bindCtx w == c && bindKind w == kind then some (q, k) else none

/-- The context whose records a record carries on, its layer phase, kind and pair number (R154). -/
def OutUse.ctx : OutUse → Nat
  | .rick c _ _ _ => c
  | .comb c _ _ _ => c
def OutUse.key : OutUse → Key
  | .rick _ k _ _ => k
  | .comb _ k _ _ => k
def OutUse.kind : OutUse → Nat
  | .rick _ _ _ _ => chRick
  | .comb _ _ _ _ => chComb
def OutUse.pairNo : OutUse → Nat
  | .rick _ _ j _ => j
  | .comb _ _ t _ => t

/-- The engine returns n credits of an inbound slot to the host (R151): a retired port returns none, and a quiescing
one keeps them back (R458, R528). -/
def giveCredit (m : Mach) (q k n : Nat) : Mach :=
  let x := slotAt m q k
  if n = 0 ∨ (strmOf m q).retired = true then m
  else if (strmOf m q).quiesce then setSlotAt m q k { x with owed := x.owed + n }
  else
    let m := setSlotAt m q k { x with credit := x.credit + n }
    { m with out := m.out ++ [.credit q k n] }

/-- A port that quiesces no longer returns what it kept back. -/
def payOwed (m : Mach) (q : Nat) : Mach :=
  ([0, 1, 2, 3] : List Nat).foldl (fun m k =>
    let x := slotAt m q k
    giveCredit (if x.owed = 0 then m else setSlotAt m q k { x with owed := 0 }) q k x.owed) m

/-! ### Outbound records (R152 to R154, R175, R209) -/

/-- A billet placed here loses one reference to its buffer: a row of it has been delivered, or has
failed (R175, R186). With the buffer free already the row's item fails with ERR_INTERNAL (R231). -/
def rowGone (p : Part) (c : Nat) (k : Key) (m : Mach) (row : Nat × Nat) : Mach :=
  match stepOfCtx m c with
  | some s =>
    if keyOfStep s k then
      match (phaseOf s k.layer).billets.find? fun b => b.home == row.1 && b.token == row.2 with
      | some b =>
        let free := (Assoc.find? (ctxOf m c).bufs (bufKey b.cls b.buf)).isNone
        decBuf p (if free then failKey m c k ⟨k.layer, laneFeed, true, row.1, row.2, 0, stInternal⟩ else m) c b.cls b.buf
      | none => m
    else m
  | none => m

/-- A row a record carried has been delivered: the billet's reference count falls, and the row is one
the host returns tiles for (R175, R186). -/
def rowDone (p : Part) (c : Nat) (k : Key) (slot : Nat) (m : Mach) (row : Nat × Nat) : Mach :=
  rowGone p c k (updPhase (bump p m (Reg.ctxRickRows c) 1) c k fun x =>
    { x with rows := x.rows ++ [{ slot := slot, home := row.1, token := row.2 }] }) row

/-- The place in a record of row i's last beat (R182). -/
def rowEnd (r : OutRec) (i : Nat) : Nat := if r.tiled then r.beats.length + i - 16 else r.beats.length - 1

/-- What a record in progress has still to deliver: the rows whose last beat has not gone. -/
def undone (r : OutRec) : OutUse :=
  match r.use with
  | .rick c k slot rows => .rick c k slot ((rows.zipIdx.filter fun q => decide (r.sent ≤ rowEnd r q.2)).map fun q => q.1)
  | u => u

/-- Beat n of a record has gone: the rows whose last beat it is have been delivered (R175). -/
def rowsEnd (p : Part) (m : Mach) (r : OutRec) (n : Nat) : Mach :=
  match r.use with
  | .rick c k slot rows => ((rows.zipIdx.filter fun q => rowEnd r q.2 == n).map fun q => q.1).foldl (rowDone p c k slot) m
  | .comb _ _ _ _ => m

/-- The last beat of an outbound record has been sent. -/
def outDone (p : Part) (m : Mach) (q : Nat) (r : OutRec) : Mach :=
  let bs := beatBytes (r.beats.map fun b => b.2)
  let side : Word := (r.beats.head?.map fun b => b.1).getD 0
  let k := r.use.key
  let m := updStep m r.use.ctx fun s => if keyOfStep s k then
      addDigest s r.use.kind k.layer
        (recordDigest (if r.use.kind = chRick then side &&& 0xFFFFFFFFFFFF0000 else side) bs)
    else s
  match r.use with
  | .rick c k _ _ =>
    updPhase m c k fun x => { x with outRicks := x.outRicks - 1 }
  | .comb _ _ _ _ =>
    let x := strmOf m q
    setStrm m q { x with unaccepted := x.unaccepted ++ [r.use] }

/-- A binding comes into force on a slot (R151, R153): an inbound slot newly enabled gets 32 credits,
one disabled loses its credit. DESIGN CHOICE: the beats that it still holds return their credit as they drain, on top of
a fresh 32 (log entry 137). -/
def bindNow (m : Mach) (q k : Nat) (w : Word) : Mach :=
  let x := slotAt m q k
  let was := bindEn x.bind
  let m := setSlotAt m q k { x with
    bind := w, nextBind := none, credit := if k < 4 ∧ bindEn w = false then 0 else x.credit,
    owed := if bindEn w then x.owed else 0 }
  if k < 4 ∧ was = false ∧ bindEn w then giveCredit m q k 32 else m

/-- One beat of the record at the head of an outbound slot is sent. -/
def sendBeat (p : Part) (m : Mach) (q k : Nat) : Mach :=
  let x := slotAt m q k
  match x.out with
  | r :: rest =>
    match r.beats[r.sent]? with
    | some b =>
      let whole := decide (r.beats.length ≤ r.sent + 1)
      let r' := { r with sent := r.sent + 1 }
      let m := setSlotAt m q k { x with credit := x.credit - 1, out := if whole then rest else r' :: rest }
      let m := setStrm m q { strmOf m q with rrOut := k }
      let m := bump p { m with out := m.out ++ [.beat q k (r.sent == 0) b.1 b.2 (beatParity b.1 b.2)] } (Reg.strmBeatsOut q) 1
      let m := rowsEnd p m r r.sent
      if whole then
        let m := outDone p m q r
        match (slotAt m q k).nextBind with
        | some w => bindNow m q k w
        | none => m
      else m
    | none => m
  | [] => m

/-- An outbound slot has a beat that may go: it holds credit, its row's code has landed as far as it needs, a combined tile became
complete in an earlier cycle, and it starts no record while the port is quiescing or its binding is to change
(R152, R153, R171, R209, R528). -/
def beatReady (m : Mach) (q k : Nat) : Bool :=
  let x := slotAt m q k
  decide (0 < x.credit) && (match x.out with
    | r :: _ => (r.awaits.isEmpty || decide (r.sent < r.landed)) && (r.use.kind != chComb || decide (r.cycle < m.tick.cycle)) &&
        (r.sent != 0 || (!(strmOf m q).quiesce && x.nextBind.isNone))
    | [] => false)

/-- A port sends beats in round-robin order while some slot has one; `n` bounds how many. -/
def drainPort (p : Part) (q : Nat) : Nat → Mach → Mach
  | 0, m => m
  | n + 1, m =>
    if (strmOf m q).retired then m
    else match nextAfter (([4, 5, 6, 7] : List Nat).filter (beatReady m q)) (strmOf m q).rrOut with
      | some k => drainPort p q n (sendBeat p m q k)
      | none => m

/-- The beats that wait on a port. -/
def portBeats (m : Mach) (q : Nat) : Nat :=
  (([4, 5, 6, 7] : List Nat).map fun k => ((slotAt m q k).out.map fun r => r.beats.length - r.sent).sum).sum

/-- The pair that the numbering now in force names for a record (R154). -/
def pairFor (p : Part) (m : Mach) (r : OutRec) : Option (Nat × Nat) :=
  let ps := pairs p m r.use.ctx r.use.kind
  ps[r.use.pairNo % ps.length]?

/-- The ports' outbound slots. -/
def outSlots (p : Part) : List (Nat × Nat) :=
  (List.range (streamCount p.conf)).flatMap fun q => ([4, 5, 6, 7] : List Nat).map fun k => (q, k)

/-- Some record that has not begun sits elsewhere than the numbering in force says (R154). -/
def outMisplaced (p : Part) (m : Mach) : Bool :=
  (m.run.outWait.any fun r => (pairFor p m r).isSome) ||
    (outSlots p).any fun s => (slotAt m s.1 s.2).out.any fun r => r.sent == 0 && pairFor p m r != some s

/-- The order of records that have not begun: that in which they came to be, and of combined tiles complete in
one cycle the lower TOKEN, then the lower COLT first (R209). -/
def outBefore (a b : OutRec) : Bool :=
  match a.use, b.use with
  | .comb _ _ t i, .comb _ _ u j =>
    decide (a.cycle < b.cycle) || (a.cycle == b.cycle && (decide (t < u) || (t == u && decide (i < j))))
  | _, _ => decide (a.no < b.no)

/-- A record is given to the pair that the numbering now in force names, or waits for one (R154). -/
def putOut (p : Part) (m : Mach) (r : OutRec) : Mach :=
  match pairFor p m r with
  | some (q, k) =>
    let x := slotAt m q k
    let (begun, rest) := x.out.partition fun r => r.sent != 0
    setSlotAt m q k { x with out := begun ++ sortBy outBefore (rest ++ [r]) }
  | none => { m with run := { m.run with outWait := m.run.outWait ++ [r] } }

/-- Every record that has not begun is placed afresh (R153, R154, R458). -/
def replaceOut (p : Part) (m : Mach) : Mach :=
  let waiting := (m.run.outWait ++ (outSlots p).flatMap fun s => (slotAt m s.1 s.2).out.filter fun r => r.sent == 0)
  let m := (outSlots p).foldl (fun m (q, k) =>
    let x := slotAt m q k
    if x.out.isEmpty then m else setSlotAt m q k { x with out := x.out.filter fun r => r.sent != 0 })
    { m with run := { m.run with outWait := [] } }
  (sortBy (fun (a b : OutRec) => decide (a.no < b.no)) waiting).foldl (putOut p) m

/-- Every port sends what it can. -/
def drainPorts (p : Part) (m : Mach) : Mach :=
  (List.range (streamCount p.conf)).foldl (fun m q => drainPort p q (portBeats m q) m) m

/-- Records sit where the numbering in force says, and what can be sent is sent; `n` bounds how often a binding
that comes into force moves them. -/
def settleOut (p : Part) : Nat → Mach → Mach
  | 0, m => m
  | n + 1, m => if outMisplaced p m then settleOut p n (drainPorts p (replaceOut p m)) else m

/-- Outbound records are placed under the numbering in force, and a port sends what it can (R152, R154). -/
def drainOut (p : Part) (m : Mach) (q : Nat) : Mach := settleOut p 16 (drainPort p q (portBeats m q) m)

/-- Every port's outbound records go as far as they can. -/
def drainAllOut (p : Part) (m : Mach) : Mach := settleOut p 16 (drainPorts p m)

/-- A new outbound record takes its place (R154); `since` is the cycle in which its tile became complete (R209). -/
def placeOut (p : Part) (m : Mach) (r : OutRec) (since : Nat := m.tick.cycle) : Mach :=
  let m := { m with run := { m.run with outNo := m.run.outNo + 1 } }
  drainAllOut p (putOut p m { r with no := m.run.outNo, cycle := since })

/-- A record is in progress on a slot. -/
def slotBusy (m : Mach) (q k : Nat) : Bool :=
  let x := slotAt m q k
  x.cur.isSome || x.dropping || (match x.out with
    | r :: _ => r.sent != 0
    | [] => false)

/-- A binding takes effect, at once or after the record in progress (R153); one that a failed header began lasts
until the next first beat (R150). A write of the binding in force withdraws one that waits. -/
def applyBind (p : Part) (m : Mach) (q k : Nat) (w : Word) : Mach :=
  let m := if w = (slotAt m q k).bind then setSlotAt m q k { slotAt m q k with nextBind := none }
    else if slotBusy m q k then setSlotAt m q k { slotAt m q k with nextBind := some w }
    else bindNow m q k w
  drainAllOut p m

/-! ### Record lengths and headers (R62 to R66, R130, R131, R163, R187, R211) -/

/-- The layer template of a layer phase in a context: that of the running step's bindings, else that
of a bundle of the loaded program that opens the lane for the layer. -/
def tmplFor (m : Mach) (c lane layer : Nat) : Option LayerT :=
  match (stepOfCtx m c).bind fun s => (boundTmpl s lane layer).orElse fun _ => layerOf s layer with
  | some t => some t
  | none =>
    match (ctxOf m c).program with
    | some pr =>
      let bs := pr.bundles.filter fun b => bunLayer b == layer
      match (bs.find? fun b => laneOp b lane != 0).orElse fun _ => bs.head? with
      | some b => layerTmpl pr (bunTmpl b)
      | none => none
    | none => none

/-- The lane that takes a channel kind's records, and the layer a header names. -/
def kindLane (kind : Nat) : Nat :=
  if kind = chScore then laneScore else if kind = chToken then lanePack
  else if kind = chExpout then laneTake else laneSend
def headLayer (kind : Nat) (w : Word) : Nat := if kind = chExpout then bitsOf w 33 24 else bitsOf w 25 16

/-- Score record header fields (R63). -/
def scCount (w : Word) : Nat := bitsOf w 44 32
def scEob (w : Word) : Bool := bitOf w 31
def scWts (w : Word) : Bool := bitOf w 30
def scFmt (w : Word) : Nat := bitsOf w 29 26
def scToken (w : Word) : Nat := bitsOf w 15 0

/-- The layer takes host-supplied weights: an EXPERT layer with GATE_FN 4 (R66). -/
def wantsWts (t : LayerT) : Bool := t.mode == modeExpert && t.gateFn == 4

/-- The first check of R66 that a score record fails; `prev` is the TOKEN of the previous record with
EOB = 0 of its batch. -/
def scoreReason (t : LayerT) (prev : Option Nat) (w : Word) : Nat :=
  if 2 < scFmt w then 1
  else if !scEob w && scCount w != t.experts then 2
  else if !scEob w && (match prev with
      | some q => decide (scToken w ≤ q)
      | none => false) then 3
  else if bitsOf w 63 45 ≠ 0 then 4
  else if !scEob w && scWts w != wantsWts t then 5
  else if scEob w && (scCount w != 0 || scToken w != 0 || scFmt w != 0 || scWts w) then 6
  else 0

/-- Token record header fields (R130). -/
def tkCount (w : Word) : Nat := bitsOf w 47 32
def tkFmt (w : Word) : Nat := bitsOf w 29 26

/-- The first check of R133, of a header, that a token record fails; `pair` is the TOKEN of the score
record it pairs with. -/
def tokenReason (t : LayerT) (pair : Option Nat) (w : Word) : Nat :=
  if 2 < tkFmt w ∧ ¬ (tkFmt w = t.format ∧ isMx t.format = true) then 1
  else if tkCount w ≠ t.hidden then 2
  else if pair.any fun q => scToken w != q then 3
  else if bitsOf w 63 48 ≠ 0 ∨ bitsOf w 31 30 ≠ 0 then 4
  else 0

/-- Expert output header fields (R186). -/
def exHome (w : Word) : Nat := bitsOf w 61 50
def exToken (w : Word) : Nat := bitsOf w 49 34
def exSlot (w : Word) : Nat := bitsOf w 23 16
def exColt (w : Word) : Nat := bitsOf w 15 10
def exFmt (w : Word) : Nat := bitsOf w 9 6

/-- Elements of column tile i of a row (R185). -/
def tileElems (hidden i : Nat) : Nat := min 512 (hidden - 512 * i)

/-- Column tiles of a row: NT = ceil(HIDDEN / 512) (R185). -/
def LayerT.nt (t : LayerT) : Nat := ceilDiv t.hidden 512

/-- A hint record's header fails (R163). -/
def hintBad (w : Word) : Bool := decide (4096 < bitsOf w 47 32) || bitsOf w 63 48 != 0 || bitsOf w 31 26 != 0 || bitsOf w 15 0 != 0

/-- Headers of the records of a kind and layer phase that wait on a slot, oldest first. -/
def queuedHeads (m : Mach) (q k c kind layer : Nat) : List Word :=
  ((slotAt m q k).ready.filter fun r => r.ctx == c && r.kind == kind && headLayer kind r.header == layer).map fun r => r.header

/-- The layer phase of a context's step that a header names. -/
def headPhase (m : Mach) (c kind : Nat) (w : Word) : Option LayerPhase :=
  (stepOfCtx m c).map fun s => phaseOf s (headLayer kind w)

/-- The TOKEN of the score record before a new one in its batch (R66). -/
def prevToken (m : Mach) (q k c : Nat) (w : Word) : Option Nat :=
  let before := match headPhase m c chScore w with
    | some x => if x.eob then none else x.lastTok
    | none => none
  (queuedHeads m q k c chScore (headLayer chScore w)).foldl (fun t h => if scEob h then none else some (scToken h)) before

/-- The tokens of a batch in score-record order, as far as their records have come: TOKEN, and whether one that
has been dealt with was decided (R133). -/
def batchTokens (p : Part) (m : Mach) (c : Nat) (w : Word) (x : LayerPhase) : List (Nat × Bool) :=
  (x.toks.map fun t => (t.token, t.decided)) ++
    (pairs p m c chScore).flatMap fun (q, k) =>
      ((queuedHeads m q k c chScore (headLayer chScore w)).filter fun h => !scEob h).map fun h => (scToken h, true)

/-- The score record that a new token record pairs with, where it has come (R133). -/
def pairedWith (p : Part) (m : Mach) (q k c : Nat) (w : Word) : Option (Nat × Bool) :=
  match headPhase m c chToken w with
  | some x => (batchTokens p m c w x)[x.paired + (queuedHeads m q k c chToken (headLayer chToken w)).length]?
  | none => none

/-- The check of R211 on the row and tile that an expert output record names: ROW, COLT or DUP. -/
def rowCode (m : Mach) (q k c : Nat) (t : LayerT) (w : Word) : Nat :=
  match headPhase m c chExpout w with
  | some x => match x.rows.find? fun r => r.home == exHome w && r.token == exToken w && r.slot == exSlot w with
    | some r =>
      if t.nt ≤ exColt w then 3
      else if r.taken.contains (exColt w) || (queuedHeads m q k c chExpout (headLayer chExpout w)).any fun h =>
          exHome h == exHome w && exToken h == exToken w && exSlot h == exSlot w && exColt h == exColt w then 4
      else 0
    | none => 2
  | none => 0

/-- The template that a header is checked against at its first beat: that of the lane of its kind, where the lane is
open for the layer it names. -/
def boundHead (m : Mach) (c kind : Nat) (w : Word) : Option LayerT :=
  match (liveStep m).filter fun s => s.ctx == c && laneOpenAt s (kindLane kind) (headLayer kind w) with
  | some s => boundTmpl s (kindLane kind) (headLayer kind w)
  | none => none

/-- The check of R66 that a score record's header fails at its first beat. -/
def scoreHead (m : Mach) (q k c : Nat) (t : Option LayerT) (w : Word) : Nat := match t with
  | some t => scoreReason t (prevToken m q k c w) w
  | none =>
    if 2 < scFmt w then 1
    else if bitsOf w 63 45 ≠ 0 then 4
    else if scEob w && (scCount w != 0 || scToken w != 0 || scFmt w != 0 || scWts w) then 6
    else 0

/-- The check of R133 that a token record's header fails at its first beat; one that pairs with an undecided token is
not checked. -/
def tokenHead (p : Part) (m : Mach) (q k c : Nat) (t : Option LayerT) (w : Word) : Nat := match t with
  | some t => match pairedWith p m q k c w with
    | some (n, decided) => if decided then tokenReason t (some n) w else 0
    | none => tokenReason t none w
  | none =>
    if 2 < tkFmt w ∧ isMx (tkFmt w) = false then 1
    else if bitsOf w 63 48 ≠ 0 ∨ bitsOf w 31 30 ≠ 0 then 4
    else 0

/-- The check of R211 that an expert output record's header fails at its first beat. -/
def outHead (m : Mach) (q k c : Nat) (t : Option LayerT) (w : Word) : Nat :=
  let row := match t with
    | some t => rowCode m q k c t w
    | none => 0
  if !(decide (exFmt w ≤ 2) || isMx (exFmt w)) then 1
  else if row ≠ 0 then row
  else if bitsOf w 63 62 ≠ 0 ∨ bitsOf w 5 0 ≠ 0 then 5
  else 0

/-- The check of its kind that the header of an inbound record fails at its first beat, so that its length is not
taken from it (R150): those of R66, R133, R163 and R211, in their order. DEDUCED: a header whose lane is not open for
its layer meets here only the checks that need no template, and the others when it is taken. -/
def headCode (p : Part) (m : Mach) (q k c kind : Nat) (w : Word) : Nat :=
  let t := boundHead m c kind w
  if kind = chScore then scoreHead m q k c t w
  else if kind = chToken then tokenHead p m q k c t w
  else if kind = chExpout then outHead m q k c t w
  else if hintBad w then 1 else 0

/-- The beats of an inbound record, from its header (R62, R131, R163, R187). DESIGN CHOICE: an expert output record of a
layer that no template names is a full column tile without statistics (log entry 142). -/
def recNeed (m : Mach) (c kind : Nat) (w : Word) : Nat :=
  let bytes :=
    if kind = chScore then
      if scEob w then 1 else scCount w * (if scFmt w = 0 then 4 else 2) * (if scWts w then 2 else 1)
    else if kind = chToken then areaLen (tkFmt w) (tkCount w) 64
    else if kind = chExpout then
      match tmplFor m c laneTake (headLayer kind w) with
      | some t => areaLen (exFmt w) (tileElems t.hidden (exColt w)) 64 + (if t.mode = modeKv then 512 else 0)
      | none => areaLen (exFmt w) 512 64
    else 4 * bitsOf w 47 32
  max 1 (ceilDiv bytes 512)

/-- The lane that takes records of a kind is open for the layer the header names (R33, R164). -/
def laneTakes (m : Mach) (c kind : Nat) (w : Word) : Bool :=
  match liveStep m with
  | some s =>
    s.ctx == c && (if kind = chHint then !s.hintWait.isEmpty else laneOpenAt s (kindLane kind) (headLayer kind w))
  | none => false

/-- The record at the head of an inbound slot. -/
def headRec (x : StrmSlot) : Option InRec := match x.ready with
  | r :: _ => some r
  | [] => x.cur

/-- The classes of the stage buffers of an element area (R559). -/
def stageClasses (n : Nat) : List Nat := if n ≤ 32768 then [classFor n] else List.replicate (ceilDiv n 32768) 7

/-- The stage buffers in which a token record's element area of n bytes lands: those it has, or new ones; none
while they cannot be had (R559). -/
def landStage (p : Part) (m : Mach) (r : InRec) (n : Nat) : Option (List (Nat × Nat) × Mach) :=
  if r.stage.isEmpty then allocAll p r.ctx .stage (stageClasses n) m else some (r.stage, m)

/-- What a record needs before its first beat is drained: of a token record, its stage buffers (R559). -/
def readyToDrain (p : Part) (m : Mach) (r : InRec) : Option (InRec × Mach) :=
  if r.kind = chToken then
    (landStage p m r (areaLen (tkFmt r.header) (tkCount r.header) 64)).map fun (b, m) => ({ r with stage := b }, m)
  else some (r, m)

/-- The head record of an inbound slot is drained as far as it has come, and its beats' credit
returned, where its lane takes it (R151, R33, R559). -/
def drainIn (p : Part) (m : Mach) (q k : Nat) : Mach :=
  let x := slotAt m q k
  match headRec x with
  | some r =>
    if r.held = 0 ∨ (strmOf m q).retired ∨ !(laneTakes m r.ctx r.kind r.header && (ctxOf m r.ctx).replayWait.isEmpty) then m
    else match readyToDrain p m r with
    | some (r', m) =>
      let r' := { r' with held := 0 }
      let x := match x.ready with
        | _ :: rest => { x with ready := r' :: rest }
        | [] => { x with cur := some r' }
      let m := setSlotAt m q k x
      if bindEn x.bind then giveCredit m q k r.held else m
    | none => m
  | none => m

/-- Every inbound slot is drained as far as its lane takes its head record. -/
def drainAllIn (p : Part) (m : Mach) : Mach :=
  (List.range (streamCount p.conf)).foldl (fun m q => [0, 1, 2, 3].foldl (fun m k => drainIn p m q k) m) m

/-- The record at the head of a slot is taken: what it held is credited (R151). -/
def takeRec (p : Part) (m : Mach) (q k : Nat) : Mach :=
  let x := slotAt m q k
  match x.ready with
  | r :: rest =>
    let m := setSlotAt m q k { x with ready := rest }
    drainIn p (if bindEn x.bind then giveCredit m q k r.held else m) q k
  | [] => m

/-- The stage buffers of a context's records that still wait on their slots are no longer theirs. -/
def dropStages (m : Mach) (c : Nat) : Mach :=
  let off := fun (r : InRec) => if r.ctx = c then { r with stage := [] } else r
  { m with run := { m.run with ports := m.run.ports.map fun (q, x) =>
      (q, { x with slots := x.slots.map fun (k, y) => (k, { y with cur := y.cur.map off, ready := y.ready.map off }) }) } }

end Sys2Proof.Machine
end

