-- ==== Sys2Proof/Machine/Kill.lean ====
section
/-! DEFINITION. Ending steps and contexts early: STEP_ABORT records, the abandonment of a step (R51,
R423, R441), the kill of a context (R420, R421) and its teardown (R425), and the halt of FATAL
(R462). -/

namespace Sys2Proof.Machine

/-! ### What a killed or abandoned step held -/

/-- Units held by each requester, counted over allocated buffers (R232). -/
def unitsOf (bs : Assoc (Nat × Nat)) : Counters :=
  bs.foldl (fun u b => Sparse.set (fun _ => 0) u b.2.2
    (Sparse.get (fun _ => 0) u b.2.2 + 2 ^ (b.1 / 65536))) []

/-- Only some of a context's buffers stay allocated; the others are free from the next cycle (R231). -/
def keepBufs (now : Nat) (x : Ctx) (keep : List Nat) : Ctx :=
  let (bs, gone) := x.bufs.partition fun b => keep.contains b.1
  { x with bufs := bs, used := unitsOf bs,
           freed := (gone.map fun b => (b.1, now)) ++ x.freed.filter fun f => f.2 == now }

/-- The keys of buffers. -/
def bufKeys (l : List (Nat × Nat)) : List Nat := l.map fun b => bufKey b.1 b.2

/-- Outbound records of a context that have not begun are dropped. -/
def dropOutbound (m : Mach) (c : Nat) : Mach :=
  let keep := fun (r : OutRec) => decide (r.use.ctx ≠ c) || r.sent != 0
  let ports := m.run.ports.map fun (q, x) =>
    (q, { x with slots := x.slots.map fun (k, y) => (k, { y with out := y.out.filter keep }),
                 unaccepted := x.unaccepted.filter fun u => u.ctx != c })
  { m with run := { m.run with ports := ports, outWait := m.run.outWait.filter keep } }

/-- Queued VC0 records that carry a kindling request are dropped where `pick` says so. -/
def dropKindles (m : Mach) (pick : Option Nat → Bool) : Mach :=
  { m with net := { m.net with vc0Out := m.net.vc0Out.filter fun r => match r.kindle with
    | some k => !pick k.acc
    | none => true } }

/-- Loopback billets and return tiles of a context are dropped. -/
def dropLoops (m : Mach) (c : Nat) : Mach :=
  { m with run := { m.run with loopBillets := m.run.loopBillets.filter fun b => b.1 != c,
                               loopTiles := m.run.loopTiles.filter fun t => t.1 != c } }

/-- A running or parked step is gone. -/
def removeStep (m : Mach) (s : StepRun) : Mach :=
  { m with run := { m.run with step := m.run.step.filter fun x => x.acc != s.acc,
                               parked := m.run.parked.filter fun x => x.acc != s.acc } }

/-- The steps of a context: the one that runs, and those parked (R413). -/
def ctxSteps (m : Mach) (c : Nat) : List StepRun := (m.run.step.toList ++ m.run.parked).filter fun s => s.ctx == c

/-- A lane operation whose ACCUMULATE write-back has begun (R262, R263). -/
def laneCommitted (m : Mach) (c t : Nat) : Bool :=
  (stepOfCtx m c).any fun s => s.xfers.any fun x =>
    outstanding t x && decide (3 ≤ x.stage) && [opXform, opGather, opScatter].contains (bytesOf x.line 1 1) && bitOf x.line 64

/-- The lane transactions of a context that are left are a write-back that no step owns any more (R262, R263). -/
def writeBacks (m : Mach) (c : Nat) : Mach :=
  let own := fun (t : Txn) => match t.use with
    | .xfer d _ => if d = c then { t with use := .back c } else t
    | _ => t
  { m with mem := { m.mem with txns := m.mem.txns.map own, waiting := m.mem.waiting.map own } }

/-- The items of a context's step are stopped: records and flits not begun, lane transactions but those of a
write-back that has begun (R420, R262). An arrival at a SYNC BARRIER stands, and its release still counts (R347). -/
def stopItems (m : Mach) (c : Nat) : Mach :=
  let m := match stepOfCtx m c with
    | some _ => dropKindles m fun a => a.isNone
    | none => m
  let kept := laneCommitted m c
  let m := dropStages (dropLoops (dropOutbound (unplace m fun i => i.ctx == c) c) c) c
  writeBacks (dropTxns m fun u => match u with
    | .xfer d t => d != c || kept t
    | _ => true) c

/-! ### STEP_ABORT (R422, R423) -/

/-- REASON codes. -/
def abKill : Nat := 1
def abFault : Nat := 2
def abAbandon : Nat := 3

/-- A STEP_ABORT record (R422). -/
def abortRecord (step att job reason : Nat) : BitVec 128 :=
  mkRecord (leBytes 6 step ++ leBytes 1 (att % 16) ++ leBytes 1 job ++ leBytes 1 reason) 0x41 []

/-- One STEP_ABORT for a step to every other node of its program's layer templates (R422). -/
def sendStepAbort (p : Part) (m : Mach) (s : StepRun) (reason : Nat) : Mach :=
  ((jobNodes s.prog).filter fun n => n != nodeId p m).foldl
    (fun m n => sendRecord p m n (abortRecord s.step s.att (ctxJob p m s.ctx) reason)) m

/-! ### Abandonment (R51) -/

/-- The command of a step. -/
def stepCmd (m : Mach) (s : StepRun) : Option Running := findAcc m s.acc

/-- The layer of the bundle a step is in. -/
def stepLayer (s : StepRun) : Nat := bunLayer (curBundle s)

/-- The buffers that outlast an abandoned step: those of running commands, and of reservations held
for other steps. -/
def buffersKept (m : Mach) (c : Nat) (s : StepRun) : List Nat :=
  ((runningOf m c).flatMap fun r => bufKeys r.bufs)
    ++ (((ctxOf m c).resv.filter fun v => !keyOfStep s v.key).map fun v => bufKey v.cls v.buf)

/-- The collective operations of a context's XFER lane are aborted (R342). -/
def killLaneColls (p : Part) (m : Mach) (c reason : Nat) : Mach :=
  (runningGroups m c).foldl (fun m h => match groupOf m h with
    | some g => match g.op with
      | some op => match op.owner, findOp m c op.owner with
        | .lane _, some o =>
          let m := if op.entered then m
            else raiseAtt (sendAborts p m h op.att reason g.epoch op.opseq (otherNodes p m g)) h op.att
          groupPast m h op.opseq (sentChunks o op)
        | _, _ => m
      | none => m
    | none => m) m

/-- A step is abandoned with a reason of STEP_ABANDON and a status: its items are stopped as by a kill,
its STEP_RUN completes, its program's other nodes are told, and the context goes on (R51, R423). -/
def abandonStep (p : Part) (m : Mach) (c reason st : Nat) : Mach :=
  match stepOfCtx m c with
  | some s =>
    let m := report p m { code := 0x60, page := Reg.ctxPage c, sev := .transient, ctx := c,
                          detail := leBytes 2 (stepLayer s) ++ [BitVec.ofNat 8 reason] }
    let m := stopItems (killLaneColls p m c reKill) c
    let x := ctxOf m c
    let m := setCtx m c { keepBufs m.tick.cycle x (buffersKept m c s) with
      embers := [], parkedVoid := x.parkedVoid || !x.resident,
      resv := x.resv.filter (fun v => !keyOfStep s v.key),
      credits := x.credits.filter (fun v => !keyOfStep s v.key),
      asks := x.asks.filter (fun v => !keyOfStep s v.key),
      asked := x.asked.filter (fun v => !keyOfStep s v.2),
      kindled := x.kindled.filter (fun v => !keyOfStep s v.2.1),
      admitCredits := x.admitCredits.filter (fun v => !keyOfStep s v.key) }
    let m := sendStepAbort p (removeStep m s) s abAbandon
    match stepCmd m s with
    | some r => completeStep m r st (stepLayer s) s.step s.att s.nan
    | none => m
  | none => m

/-! ### CTX_KILL (R420, R421) -/

/-- A layout command whose ACCUMULATE write-back has begun: it is finished, not stopped (R262). One without
ACCUMULATE commits only when it completes (R261). -/
def pastCommit (r : Running) : Bool :=
  [opXform, opGather, opScatter].contains (recOp r.line) && decide (3 ≤ r.stage) && r.desc.any fun l => bitOf l 64

/-- The operation number of a collective that a command runs. -/
def opseqOf (m : Mach) (acc : Nat) : Nat :=
  (m.coll.groups.findSome? fun (_, g) => match g.op with
    | some op => if op.owner = .cmd acc then some op.opseq else none
    | none => none).getD 0

/-- A killed command completes: the command of the context's step with the step's status, one that waits for its
tick edge with KILLED and the step it names. -/
def completeKilled (m : Mach) (step : Option StepRun) (stepSt stepDetail : Nat) (r : Running) (detail : Nat) : Mach :=
  match step.filter fun s => s.acc == r.acc with
  | some s => completeStep m r stepSt stepDetail s.step s.att s.nan
  | none =>
    if recOp r.line = 0x01 ∨ recOp r.line = 0x02 then
      completeStep m r stKilled 0 (bytesOf r.line 16 21) (bytesOf r.line 22 22 % 16) false
    else complete m r stKilled detail

/-- The kill of a context (R420, R425): its step, its items and its running commands stop, everything
they hold is freed, and commands not yet started stay. `reason` is the REASON of STEP_ABORT and
`stepSt` the status of a step command. -/
def killContext (p : Part) (m : Mach) (c reason stepSt stepDetail : Nat) : Mach :=
  let step := stepOfCtx m c
  let details := (runningOf m c).map fun r => (r.acc, if isColl (recOp r.line) then opseqOf m r.acc else 0)
  let m := killColls p m c (if reason = abFault then reFault else reKill)
  let m := killFab p (killForming p m c) c
  let m := stopItems m c
  let accs := (runningOf m c).map fun r => r.acc
  let m := dropKindles m fun a => a.any fun k => accs.contains k
  let x := ctxOf m c
  let keep := ((runningOf m c).filter pastCommit).flatMap fun r => bufKeys r.bufs
  let m := setCtx m c { keepBufs m.tick.cycle x keep with
    embers := [], resv := [], credits := [], asks := [], asked := [], kindled := [], admitCredits := [],
    parkedVoid := !x.resident && (x.parkedVoid || step.isSome),
    pend := x.pend.filter fun t => match t with
      | .update _ _ _ _ _ _ _ _ _ => false
      | _ => true }
  let m := (ctxSteps m c).foldl (fun m s => removeStep (sendStepAbort p m s reason) s) m
  (runningOf m c).foldl (fun m r => if pastCommit r then m
    else completeKilled m step stepSt stepDetail r ((Assoc.find? details r.acc).getD 0)) m

/-- The kill of a context that is not resident ends its parked step (R421). -/
def killParked (p : Part) (m : Mach) (c : Nat) : Mach :=
  match stepOfCtx m c with
  | some s =>
    let m := removeStep (sendStepAbort p m s abKill) s
    let m := setCtx m c { ctxOf m c with parkedVoid := true }
    match stepCmd m s with
    | some r => completeStep m r stKilled 0 s.step s.att s.nan
    | none => m
  | none => m

/-- CTX_KILL's effect on any defined context. -/
def killAny (p : Part) (m : Mach) (c : Nat) : Mach :=
  if (ctxOf m c).resident then killContext p m c abKill stKilled 0 else killParked p m c

/-! ### Teardown (R425) -/

/-- The causes of CTXn.FAULT. -/
def causeInternal : Nat := 1
def causePartition : Nat := 2

/-- A context is torn down. `low` fills CTXn.FAULT's low bits: the layer phase, or the group. -/
def teardown (p : Part) (m : Mach) (c cause low : Nat) : Mach :=
  let worst := match stepOfCtx m c with
    | some s => worstFailure s.fails
    | none => none
  let m := killContext p m c abFault ((worst.map fun f => f.status).getD stKilled) ((worst.map fun f => f.layer).getD 0)
  let m := setCtx m c { ctxOf m c with faulted := true }
  let m := wr p m (Reg.ctxFault c) (wordOf (cause * 2 ^ 56 + low))
  let m := setEvt p m Reg.schedPage 3
  reportOnly p m { code := 0x61, page := Reg.ctxPage c,
                   sev := if cause = causeInternal then .transient else .permanent, ctx := c,
                   detail := BitVec.ofNat 8 cause :: leBytes 2 low }

/-- A context whose step holds an item that failed with ERR_INTERNAL is torn down; the first such item in the
order of R37 gives the layer (R425). -/
def settleInternal (p : Part) (m : Mach) (c : Nat) : Mach :=
  match stepOfCtx m c with
  | some s => match worstFailure (s.fails.filter fun f => f.status == stInternal) with
    | some f => teardown p m c causeInternal f.layer
    | none => m
  | none => m

/-! ### FATAL (R462) -/

/-- VC0 flits leave a link while it has some and credit lasts; `n` bounds how many. -/
def drainVc0 (p : Part) (l : Nat) : Nat → Mach → Mach
  | 0, m => m
  | n + 1, m =>
    match sendVc0 p m l .clean with
    | some m => drainVc0 p l n m
    | none => m

/-- Every step, running or parked. -/
def allSteps (m : Mach) : List StepRun := m.run.step.toList ++ m.run.parked

/-- The engine becomes FATAL with a cause and a unit: entry and freeze, FAULT_STAT, STEP_ABORT for every
step, and every link RETIRED (R462). -/
def fatal (p : Part) (m : Mach) (cause unit : Nat) : Mach :=
  if isFatal p m then m
  else
    let e : Report := { code := 0xFF, page := Reg.glbPage, sev := .fatal,
                        detail := [BitVec.ofNat 8 cause, BitVec.ofNat 8 unit] }
    let m := flushEntries p (report p (flushEntries p m) e)
    let m := orReg p m Reg.logCtrl 1
    let m := orReg p m Reg.glbFaultStat (2 ^ 3 + cause * 2 ^ 56)
    let m := (allSteps m).foldl (fun m s => sendStepAbort p m s abFault) m
    let active := (List.range (linkCount p.conf)).filter fun l => (linkOf m l).phase == .active
    let m := active.foldl (fun m l => drainVc0 p l (1 + m.net.vc0Out.length) m) m
    (List.range (linkCount p.conf)).foldl (fun m l => retireLink p m l 5) m

end Sys2Proof.Machine
end

