-- ==== Sys2Proof/Machine/Channels.lean ====
section
/-! DEFINITION. Errors and retirement of channels that a reading or a transfer finds (R221 to R225,
R453, R457 to R460): kiln groups, ember banks, host stream ports and memory ports. -/

namespace Sys2Proof.Machine

/-! ### The retirement of a kiln group (R223, R224) -/

/-- A self-test command ends: BIST.LAST, the counts, the events, and its completion (R518 to R521). -/
def endBist (p : Part) (m : Mach) (acc st : Nat) (ran failed : Bool) : Mach :=
  match findAcc m acc with
  | some r =>
    let unit := bytesOf r.line 16 16
    let pass := ran && !failed && st == stDone
    let m := wr p m Reg.bistLast (wordOf (st * 2 ^ 56 + unit * 2 ^ 48 + bytesOf r.line 17 17 * 2 ^ 40
      + if pass then 1 else 0))
    let m := if ran then bump p m Reg.bistRunCnt 1 else m
    let m := if failed then setEvt p (bump p m Reg.bistFailCnt 1) Reg.bistPage 1 else m
    complete (setEvt p m Reg.bistPage 0) r st
  | none => m

/-- The context that owns a partition group. -/
def groupOwner (m : Mach) (g : Nat) : Option Nat :=
  (residents m).find? fun c => (ctxOf m c).groups.contains g

/-- A kiln group or an ember bank has been retired in service: RETIRED of the KILN page, whose thresholds they are
retired by (R452, R453). -/
def kilnPageRetired (p : Part) (m : Mach) : Mach := orReg p m (Reg.pageStat Reg.kilnPage) 4

/-- A logical group retires (R223, R224): onto the spare, which ends a test that holds it, or, with the
spare in use, it becomes unusable. -/
def retireGroup (p : Part) (m : Mach) (g : Nat) : Mach :=
  let k := m.run.kilnSt
  let m := kilnPageRetired p m
  if k.served.isNone then
    let m := match k.bist with
      | some _ => endBist p { m with run := { m.run with kilnSt := { k with bist := none } } } k.bistAcc stKilled true false
      | none => m
    report p { m with run := { m.run with kilnSt := { m.run.kilnSt with served := some g, copying := some m.tick.cycle } } }
      { code := 0x12, page := Reg.kilnPage, sev := .permanent, detail := [BitVec.ofNat 8 g, 1] }
  else
    let m := orReg p m Reg.kilnGroupUnusable (2 ^ g)
    let m := report p m { code := 0x12, page := Reg.kilnPage, sev := .permanent, detail := [BitVec.ofNat 8 g, 2] }
    match groupUse p g with
    | .partition => match groupOwner m g with
      | some c => teardown p m c causePartition g
      | none => m
    | .program | .system => fatal p m 1 g
    | .transit | .reduction | .none => m

/-- The groups that a second error has given up retire (R223). -/
def settleRetire (p : Part) (m : Mach) : Mach :=
  m.run.kilnSt.due.foldl (retireGroup p) { m with run := { m.run with kilnSt := { m.run.kilnSt with due := [] } } }

/-- A read finds an uncorrectable line, and the group it gives up retires (R222, R223). -/
def kilnUe (p : Part) (m : Mach) (line : Nat) (known : Option Nat) : Mach := settleRetire p (kilnNote p m line known)

/-- What a unit's read of a kiln byte address found; true where the reading item fails. -/
def kilnRead (p : Part) (m : Mach) (addr : Nat) (f : ReadFinding) (known : Option Nat) : Bool × Mach :=
  match f with
  | .clean => (false, m)
  | .corrected => (false, kilnCorrected p m (addr / 64))
  | .uncorrectable => (true, kilnUe p m (addr / 64) known)

/-! ### Ember banks (R453, R457) -/

/-- The bank of a granule: banks of 128 KiB hold 128 granules each, in order (R3). -/
def emberBank (granule : Nat) : Nat := granule / 128

/-- An ember bank is unusable. -/
def emberUnusable (p : Part) (m : Mach) (b : Nat) : Bool :=
  if b < 52 then rdB p m Reg.glbFaultStat (4 + b) else rdB p m Reg.glbEmberUnusableHi (b - 52)

/-- An ember bank is marked unusable (R457). -/
def markEmber (p : Part) (m : Mach) (b : Nat) : Mach :=
  if b < 52 then orReg p m Reg.glbFaultStat (2 ^ (4 + b)) else orReg p m Reg.glbEmberUnusableHi (2 ^ (b - 52))

/-- An uncorrectable line of an ember bank: logged, and a second within the window retires it. -/
def emberUe (p : Part) (m : Mach) (bank line : Nat) : Mach :=
  let m := report p m { code := 0x13, page := Reg.glbPage, sev := .transient,
                        detail := [BitVec.ofNat 8 bank, 0, 0, 0] ++ leBytes 4 line }
  let win := rdF p m Reg.kilnUeCtrl 15 0
  let now := m.tick.time
  let k := m.run.kilnSt
  let old := k.emberUe.filter fun e => e.1 == bank && decide (now - e.2 ≤ 1000000 * fsPerNs * win)
  let m := { m with run := { m.run with kilnSt := { k with
    emberUe := (bank, now) :: k.emberUe.filter fun e => e.1 != bank } } }
  if win ≠ 0 ∧ old ≠ [] ∧ !emberUnusable p m bank then
    report p (kilnPageRetired p (markEmber p m bank))
      { code := 0x14, page := Reg.glbPage, sev := .permanent, detail := [BitVec.ofNat 8 bank] }
  else m

/-- What a read of an ember slot finds: a line of one of its granules, of 16 lines each; true where the reading item
fails (R453, R457). -/
def emberRead (p : Part) (m : Mach) (granules : List Nat) (f : StoreRead) : Bool × Mach :=
  match f with
  | .line n ok =>
    if !granules.contains (n / 16) then (false, m)
    else if ok then (false, report p m { code := 0x10, page := Reg.glbPage, sev := .corrected,
                                         detail := [2, 0, 0, 0] ++ leBytes 4 n })
    else (true, emberUe p m (emberBank (n / 16)) n)
  | _ => (false, m)

/-! ### Ember slots (R195, R200) -/

/-- The slot of a token of a layer phase. -/
def slotOfTok (x : Ctx) (k : Key) (token : Nat) : Option EmberSlot :=
  x.embers.find? fun s => s.key == k && s.token == token

/-- A slot replaced. -/
def setEmber (m : Mach) (c : Nat) (s : EmberSlot) : Mach :=
  let x := ctxOf m c
  setCtx m c { x with embers := x.embers.map fun y => if y.key == s.key && y.token == s.token then s else y }

/-- A slot and the staging it still holds are freed (R200). -/
def freeEmber (m : Mach) (c : Nat) (s : EmberSlot) : Mach :=
  let x := ctxOf m c
  freeAll (setCtx m c { x with embers := x.embers.filter fun y => !(y.key == s.key && y.token == s.token) }) c
    (s.ranks.flatMap fun r => r.stage ++ r.stage1)

/-- A column tile of a slot is streamed: its DONE bit is set, and with the last the slot is freed
(R200, R209). -/
def tileDone (m : Mach) (c : Nat) (k : Key) (token colt : Nat) : Mach :=
  match slotOfTok (ctxOf m c) k token with
  | some s =>
    let s := { s with done := if s.done.contains colt then s.done else colt :: s.done,
                      streamed := if s.streamed.contains colt then s.streamed else colt :: s.streamed }
    if s.nt ≤ s.done.length then freeEmber m c s else setEmber m c s
  | none => m

/-! ### Host stream ports (R453, R458) -/

/-- The item of an outbound record in flight on a port that retires fails (R458). -/
def failOut (p : Part) (m : Mach) (u : OutUse) : Mach :=
  match u with
  | .rick c k _ rows =>
    let m := rows.foldl (fun m row =>
      rowGone p c k (failKey m c k ⟨0, laneFeed, true, row.1, row.2, 0, stChannelRetired⟩) row) m
    updPhase m c k fun x => { x with outRicks := x.outRicks - 1 }
  | .comb c k token colt =>
    tileDone (failKey m c k ⟨0, laneMeld, true, nodeId p m, token, colt, stChannelRetired⟩) c k token colt

/-- What a retired port's slot held: the record arriving is taken as one that fails, the outbound record
in progress fails, its bindings are disabled (R458). -/
def retireSlot (p : Part) (q : Nat) (m : Mach) (k : Nat) : Mach :=
  let x := slotAt m q k
  let cut := (x.cur.map fun r => { r with fail := some stChannelRetired }).toList
  let m := wrF p m (Reg.strmBind q k) 7 7 0
  let m := setSlotAt m q k { x with bind := x.bind &&& ~~~(0x80 : Word), nextBind := none, credit := 0, owed := 0, cur := none,
                                    ready := x.ready ++ cut, dropping := false, out := x.out.filter fun r => r.sent == 0 }
  (x.out.filter fun r => r.sent != 0).foldl (fun m r => failOut p m (undone r)) m

/-- A stream port retires (R453, R458). -/
def retireStream (p : Part) (m : Mach) (q : Nat) : Mach :=
  let x := strmOf m q
  if x.retired then m
  else
    let m := setStrm m q { x with retired := true }
    let m := setLastStatus p m (Reg.strmPage q) stChannelRetired
    let m := report p m { code := 0x41, page := Reg.strmPage q, sev := .permanent, detail := [BitVec.ofNat 8 q] }
    let m := (List.range 8).foldl (retireSlot p q) m
    let m := x.unaccepted.foldl (failOut p) (setStrm m q { strmOf m q with unaccepted := [] })
    drainAllOut p m

/-- A parity error of a stream port: logged, and the threshold retires the port (R453). -/
def strmParity (p : Part) (m : Mach) (q slot : Nat) : Mach :=
  let m := setLastStatus p m (Reg.strmPage q) stUncorrectable
  let m := report p m { code := 0x40, page := Reg.strmPage q, sev := .transient,
                        detail := [BitVec.ofNat 8 q, BitVec.ofNat 8 slot] }
  let n := rdF p m (Reg.strmParThresh q) 7 0
  let x := strmOf m q
  let ts := within m.tick.time (1000 * fsPerNs * rdF p m (Reg.strmParThresh q) 23 8) x.parity ++ [m.tick.time]
  let m := setStrm m q { x with parity := ts }
  if n ≠ 0 ∧ n ≤ ts.length then retireStream p m q else m

/-! ### Memory ports (R453, R459, R460) -/

/-- A memory port retires: its transactions are reissued on the ports that remain (R460). -/
def retireMemPort (p : Part) (m : Mach) (i : Nat) : Mach :=
  if (memPortOf m i).retired then m
  else
    let m := setMemPort m i { memPortOf m i with retired := true }
    let m := setLastStatus p m (Reg.mempPage i) stChannelRetired
    let m := report p m { code := 0x51, page := Reg.mempPage i, sev := .permanent, detail := [BitVec.ofNat 8 i] }
    let mine := m.mem.txns.filter fun t => t.port == i
    let m := { m with mem := { m.mem with txns := m.mem.txns.filter fun t => t.port != i } }
    let m := mine.foldl (fun m t => issueTxn p m { t with got := 0 }) m
    if (List.range (memPortCount p.conf)).all fun j => (memPortOf m j).retired then fatal p m 3 i else m

/-- A transaction that failed every try counts toward the retirement of a port (R459). -/
def countMemFault (p : Part) (m : Mach) (i : Nat) : Mach :=
  let n := rdF p m (Reg.mempThresh i) 7 0
  let x := memPortOf m i
  let ts := within m.tick.time (1000 * fsPerNs * rdF p m (Reg.mempThresh i) 47 32) x.fails ++ [m.tick.time]
  let m := setMemPort m i { x with fails := ts }
  if n ≠ 0 ∧ n ≤ ts.length then retireMemPort p m i else m

/-- The CTX_SAVE that a context is being saved by. -/
def savingCmd (m : Mach) (c : Nat) : Option Running :=
  m.cmd.running.find? fun r => r.win == 8 && recOp r.line == 0x60 && bytesOf r.line 16 16 % 8 == c && r.stage != 0

/-- What a transaction that failed every try means for its user (R459, R416). -/
def txnFailed (p : Part) (m : Mach) (t : Txn) : Mach :=
  match t.use with
  | .cmdRead acc | .cmdWrite acc => match findAcc m acc with
    | some r => setRunning m { r with memFail := true }
    | none => m
  | .xfer c i => updStep m c fun s =>
      let xs := mapFirst (outstanding i) (fun x => { x with memFail := true }) s.xfers
      { s with xfers := xs }
  | .fill ring _ => fillDone p m ring true
  | .iring c => iringEnds p m c true
  | .serve id => { m with fab := { m.fab with serveFails := m.fab.serveFails ++ [id] } }
  | .swap _ => { m with run := { m.run with autoSwap := m.run.autoSwap.map fun a => { a with failed := true } } }
  | .spill c _ =>
    if (ctxOf m c).phase = 2 then match savingCmd m c with
      | some r => setRunning m { r with memFail := true }
      | none => { m with run := { m.run with autoSwap := m.run.autoSwap.map fun a => { a with failed := a.failed || a.out == c } } }
    else m
  | .cplBody _ _ _ | .other | .replay _ | .back _ => m

/-- A transaction leaves the outstanding ones. -/
def removeTxn (m : Mach) (id : Nat) : Mach :=
  { m with mem := { m.mem with txns := m.mem.txns.filter fun t => t.id != id } }

/-- A try of a transaction fails: logged, reissued while tries remain, else failed (R459). Kinds: 1
error response, 2 poison, 3 timeout. -/
def memFault (p : Part) (m : Mach) (t : Txn) (kind : Nat) : Mach :=
  let m := setLastStatus p m (Reg.mempPage t.port) stUncorrectable
  let m := report p m { code := 0x50, page := Reg.mempPage t.port, sev := .transient,
                        detail := [BitVec.ofNat 8 t.port, BitVec.ofNat 8 kind, 0, 0] ++ leBytes 6 (t.addr % 2 ^ 42) }
  let m := wr p m (Reg.mempErrLast t.port) (wordOf (kind * 2 ^ 56 + t.addr % 2 ^ 42))
  let m := orphan (removeTxn m t.id) t
  let t := { t with firstPort := some (t.firstPort.getD t.port) }
  let m := if t.tries < rdF p m (Reg.mempThresh t.port) 15 8 then issueTxn p m { t with tries := t.tries + 1, got := 0 }
    else countMemFault p (txnFailed p m t) (t.firstPort.getD t.port)
  issueWaiting p m

/-- A transaction is complete: counted, and what waits on it goes on. -/
def txnDone (p : Part) (m : Mach) (t : Txn) : Mach :=
  let m := bump p (removeTxn m t.id) (Reg.mempTxnCnt t.port) 1
  let m := match t.use with
    | .fill ring place => if txnsOut m (.fill ring place) then m else fillDone p m ring false
    | .cplBody r a s => if txnsOut m (.cplBody r a s) then m else recordDone p m r a s
    | .iring c => if txnsOut m (.iring c) then m else iringEnds p m c false
    | _ => m
  issueWaiting p m

/-- A read beat's bytes that lie in the transaction's range, and where. -/
def beatPart (t : Txn) (data : BitVec 1024) : Nat × List Byte :=
  let base := t.addr / 128 * 128 + 128 * t.got
  let lo := max base t.addr
  let hi := min (base + 128) (t.addr + t.len)
  (lo, ((leBytes 128 data.toNat).drop (lo - base)).take (hi - lo))

/-- The transaction of a tag of a port. -/
def txnOfTag (m : Mach) (port tag : Nat) : Option Txn := m.mem.txns.find? fun t => t.port == port && t.tag == tag

/-- A beat of a response that no transaction waits for any more: dropped, and the last one frees the tag (R545). -/
def staleBeat (m : Mach) (port tag n : Nat) : Mach :=
  let x := memPortOf m port
  setMemPort m port { x with stale := if n ≤ 1 then Assoc.erase x.stale tag else Assoc.set x.stale tag (n - 1) }

/-- MEMORY_RESPONSE (R545, R546, R459): one beat under a tag. A beat that is no success fails the whole transaction, and
the rest of its response is dropped; a tag that is not outstanding counts toward the port's threshold. A port
accepts no transfer before DONE, and carries none outside Lit or once retired (R460, R494, R504). -/
def memoryResponse (port tag : Nat) (resp : MemResp) (p : Part) (m : Mach) : Mach :=
  if memPortCount p.conf ≤ port ∨ (memPortOf m port).retired ∨ m.sec.power ≠ .lit ∨ !portUp m then m
  else match txnOfTag m port tag with
    | some t => match resp with
      | .error => memFault p m { t with got := t.got + 1 } 1
      | .poison => memFault p m { t with got := t.got + 1 } 2
      | .ok data =>
        if t.write then txnDone p m t
        else
          let (a, bs) := beatPart t data
          let m := putHost m a bs
          if t.got + 1 < respBeats t then
            { m with mem := { m.mem with txns := m.mem.txns.map fun x => if x.id = t.id then { x with got := x.got + 1 } else x } }
          else txnDone p m t
    | none => match Assoc.find? (memPortOf m port).stale tag with
      | some n => issueWaiting p (staleBeat m port tag n)
      | none => countMemFault p m port

/-- MEMORY_TIMEOUT (R459): no response within TMO_US. -/
def memoryTimeout (id : Nat) (p : Part) (m : Mach) : Mach :=
  match m.mem.txns.find? fun t => t.id == id with
  | some t =>
    if t.since + 1000 * fsPerNs * rdF p m (Reg.mempThresh t.port) 31 16 ≤ m.tick.time then memFault p m t 3 else m
  | none => m

/-! ### The meanings of the commands -/

/-- MEMORY_RESPONSE (R545). -/
def execMemoryResponse (port tag : Nat) (resp : MemResp) (s : State) : Host.Outcome State Fault Refusal :=
  .next { s with m := memoryResponse port tag resp s.part s.m }

/-- MEMORY_TIMEOUT (R459). -/
def execMemoryTimeout (id : Nat) (s : State) : Host.Outcome State Fault Refusal :=
  .next { s with m := memoryTimeout id s.part s.m }

end Sys2Proof.Machine
end

