-- ==== Sys2Proof/Machine/Programs.lean ====
section
/-! DEFINITION. Loading a step program: the checks of PROG_LOAD (R42 to R46, R79, R114, R128, R183,
R206), and when a loaded program comes into force (R43, R53, R509). -/

namespace Sys2Proof.Machine

/-! ### Bundles (R29 to R36) -/

/-- The ARG bits that a lane opcode uses; none where the lane does not have the opcode (R30, R34). -/
def argMask (lane op : Nat) : Option Nat :=
  if op = 0 then some 0
  else if lane = laneSend then (if op = 1 then some 0 else if op = 2 then some 0x3FFF else none)
  else if lane = laneRecv then (if op = 1 ∨ op = 2 then some 0 else none)
  else if lane = laneSync then
    (match op with
     | 1 => some 0xFFFF
     | 2 => some 0xFFFFFFFFFF
     | 3 => some 0xFFF0000000
     | 4 => some 0xFFFFFF
     | _ => none)
  else if lane = laneXfer then (if op = 1 then some 0x3FFF else none)
  else (if op = 1 then some 0 else none)

/-- The nine lanes by number. -/
def allLanes : List Nat := List.range 9

/-- The lanes that bind to a layer: all but SYNC and XFER. -/
def boundLanes : List Nat := List.range 7

/-- A reserved bit of a bundle or of an ARG is 1. -/
def bundleRsv (b : Line) : Bool :=
  bitsOf b 511 510 != 0 || bitsOf b 8 0 != 0 ||
  allLanes.any fun i => match argMask i (laneOp b i) with
    | some k => (laneArg b i &&& (2 ^ 40 - 1 - k)) != 0
    | none => false

/-- A lane opcode is undefined. -/
def bundleBadOp (b : Line) : Bool := allLanes.any fun i => (argMask i (laneOp b i)).isNone

/-- R36 is broken. -/
def syncMfBad (b : Line) : Bool :=
  match laneOp b laneSync with
  | 1 | 2 | 4 => !laneMf b laneSync
  | 3 => laneMf b laneSync
  | _ => false

/-- The bundle is the first of a run of LV bundles of one LAYER (R45, R59). -/
def startsRun (prev : Option Line) (b : Line) : Bool :=
  bunLv b && (match prev with
    | some q => !(bunLv q && bunLayer q == bunLayer b)
    | none => true)

/-- A lane opens in a bundle (R32). -/
def laneOpens (prev : Option Line) (b : Line) (lane : Nat) : Bool :=
  laneOp b lane != 0 && (match prev with
    | some q => laneOp q lane != laneOp b lane
    | none => true)

/-- The type byte of a template of an image; 0 where there is none. -/
def typeAt (ts : List Line) (i : Nat) : Nat := match ts[i]? with
  | some t => bytesOf t 0 0
  | none => 0

/-- A template reference of a bundle is bad (R45, code 0x06). -/
def badTmplRef (ts : List Line) (prev : Option Line) (b : Line) : Bool :=
  (boundLanes.any fun i => laneOp b i != 0 && (laneOpens prev b i || startsRun prev b) && typeAt ts (bunTmpl b) != 1) ||
  (laneOp b laneSend == 2 && typeAt ts (laneArg b laneSend % 16384) != 1) ||
  (laneOp b laneXfer == 1 && typeAt ts (laneArg b laneXfer % 16384) != 2)

/-- The reason for which a bundle fails, in the order of R45; 0 where it passes. `seen` holds the
LAYER values of earlier LV bundles. -/
def bundleReason (ts : List Line) (n i : Nat) (prev : Option Line) (seen : List Nat) (b : Line) : Nat :=
  if 1 < bunKind b then 0x01
  else if bunDur b = 0 then 0x02
  else if bundleRsv b then 0x03
  else if bundleBadOp b then 0x04
  else if syncMfBad b then 0x05
  else if badTmplRef ts prev b then 0x06
  else if startsRun prev b && seen.contains (bunLayer b) then 0x07
  else if bunKind b = 0 ∧ bunCheap b = true ∧ (laneOp b laneSync ≠ 1 ∨ typeAt ts (bunLset b) ≠ 3) then 0x08
  else if bunKind b = 1 ∧ (i + 1 ≠ n ∨ (allLanes.any fun l => laneOp b l != 0) = true ∨ bunCheap b = false) then 0x09
  else if bunKind b = 0 ∧ i + 1 = n then 0x09
  else 0

/-- The first bundle that fails: reason and index. -/
def bundlesFault (ts : List Line) (n : Nat) : Nat → Option Line → List Nat → List Line → Option (Nat × Nat)
  | _, _, _, [] => none
  | i, prev, seen, b :: r =>
    let e := bundleReason ts n i prev seen b
    if e ≠ 0 then some (e, i)
    else bundlesFault ts n (i + 1) (some b) (if bunLv b then bunLayer b :: seen else seen) r

/-! ### Templates (R38 to R41) -/

/-- A LAYER template keeps the ranges of R39 and the conditions of R79, R114, R128, R183, R206. -/
def layerOk (t : Line) : Bool :=
  let x := readLayer t
  let code := x.format
  let kmax := if x.mode = modeExpert then 16 else 64
  let form := x.layout % 16
  let arr := x.layout / 16 % 4
  let gs := x.experts / max 1 x.groups
  bytesOf t 40 63 == 0 && bitsOf t 63 58 == 0 && bitsOf t 103 101 == 0 &&
  decide (x.mode ≤ 2) && decide (x.gateFn ≤ 4) && decide (x.capMode ≤ 2) &&
  decide (1 ≤ x.groups ∧ x.groups ≤ 64) && decide (1 ≤ x.picked ∧ x.picked ≤ 8 ∧ x.picked ≤ x.groups) &&
  decide (x.mapLayer ≤ 1023) && decide (1 ≤ x.experts ∧ x.experts ≤ 4096) &&
  decide (1 ≤ x.count ∧ x.count ≤ 4096) &&
  (x.mode == modeChoice || decide (1 ≤ x.k ∧ x.k ≤ kmax ∧ x.k ≤ x.picked * gs)) &&
  -- R79
  (x.experts % max 1 x.groups == 0) && (!x.top2 || decide (2 ≤ gs)) &&
  (x.mode != modeChoice || (x.groups == 1 && (x.gateFn == 0 || x.gateFn == 3))) &&
  -- R114
  (x.mode != modeChoice || x.capMode == 2) && (x.mode != modeKv || x.capMode == 0) &&
  -- R128
  decide (code ≤ 10) && (!x.sparse || isMx code) && decide (x.prune ≤ 2) && (x.prune == 0 || x.sparse) &&
  (x.prune != 1 || (isFin32 x.tau && (!bitOf x.tau 31 || x.tau == 0x80000000#32))) &&
  (x.hidden % 32 == 0) && decide (32 ≤ x.hidden ∧ x.hidden ≤ 32768) &&
  (x.prune != 2 || decide (1 ≤ x.bestN ∧ x.bestN ≤ x.hidden / 32)) &&
  decide (maxCodeLen code x.sparse x.hidden ≤ 32768) &&
  -- R183
  decide (x.layout < 64) && decide (form ≤ 4) && decide (arr ≤ 1) &&
  (decide (2 ≤ form) || isMx code) && (form != 1 || arr == 0) &&
  decide (rowBeats form code x.sparse x.hidden ≤ 128) &&
  -- R206
  decide (x.outFormat ≤ 10) && (x.mode != modeKv || decide (x.hidden ≤ 16384))

/-- The ranges of a LIVESET template: offset and length (R41). -/
def liveRanges (t : Line) : List (Nat × Nat) :=
  (List.range (min 7 (bytesOf t 1 1))).map fun i => (bytesOf t (8 + 8 * i) (11 + 8 * i), bytesOf t (12 + 8 * i) (15 + 8 * i))

/-- No two ranges of a list overlap (R41). DESIGN CHOICE: a range of LENGTH 0 that starts inside another overlaps it. -/
def disjointRanges : List (Nat × Nat) → Bool
  | [] => true
  | a :: r => (r.all fun b => decide (a.1 + a.2 ≤ b.1) || decide (b.1 + b.2 ≤ a.1)) && disjointRanges r

/-- A LIVESET template keeps R41 against a partition of `size` bytes. -/
def liveOk (size : Nat) (t : Line) : Bool :=
  let n := bytesOf t 1 1
  decide (n ≤ 7) && bytesOf t 2 7 == 0 &&
  ((List.range 7).all fun i => decide (i < n) || bytesOf t (8 + 8 * i) (15 + 8 * i) == 0) &&
  ((liveRanges t).all fun r => r.1 % 64 == 0 && r.2 % 64 == 0 && decide (r.1 + r.2 ≤ size)) &&
  disjointRanges (liveRanges t)

/-- A template passes TMPL_CONTENT (R45). DESIGN CHOICE: of an XFER template the load judges bytes 1 to 7; bytes 8 to 63
are judged by R260 and its like when the operation runs. -/
def templateOk (size : Nat) (t : Line) : Bool :=
  match bytesOf t 0 0 with
  | 1 => layerOk t
  | 2 => [0x10, 0x11, 0x12, 0x13, 0x30, 0x31, 0x32].contains (bytesOf t 1 1) && bytesOf t 2 7 == 0
  | 3 => liveOk size t
  | _ => false

/-! ### The cord (R46) -/

/-- The cord of bundles: the sum of their durations. -/
def cordOf (bs : List Line) : Nat := (bs.map bunDur).sum

/-- The period in cycles, T = floor(P × F / 1,000), from the values in force. -/
def periodCycles (p : Part) (m : Mach) : Nat := rdF p m Reg.tickPeriod 23 0 * coreMhz p m / 1000

/-- A cord fits the period (R46). -/
def cordFits (p : Part) (m : Mach) (cord : Nat) : Bool := decide (cord + 64 ≤ periodCycles p m)

/-! ### PROG_LOAD -/

/-- Bundles and templates the stores hold (R42). -/
def storeLimits : Conf → Nat × Nat
  | .ihlan12 => (32768, 4096)
  | _ => (131072, 16384)

/-- A program's space. -/
def progSize : Option Program → Nat × Nat
  | some x => (x.bundles.length, x.templates.length)
  | none => (0, 0)

/-- Bundles and templates in use, programs in force and waiting alike (R44). -/
def storeUsed (m : Mach) : Nat × Nat :=
  m.run.ctxs.foldl (fun a c =>
    let x := progSize c.2.program
    let y := progSize (c.2.newProgram.map fun q => q.2)
    (a.1 + x.1 + y.1, a.2 + x.2 + y.2)) (0, 0)

/-- The stores have room for a program (R44). -/
def storeRoom (p : Part) (m : Mach) (nb nt : Nat) : Bool :=
  decide ((storeUsed m).1 + nb ≤ (storeLimits p.conf).1) && decide ((storeUsed m).2 + nt ≤ (storeLimits p.conf).2)

/-- The lines of an image in host memory. -/
def imageLines (m : Mach) (a n : Nat) : List Line := (List.range n).map fun i => hostLine m (a + 64 * i)

/-- The checks of R45 after NO_SPACE: reason and index, 0 where the image passes. -/
def programFault (p : Part) (m : Mach) (size : Nat) (bs ts : List Line) : Nat × Nat :=
  match bundlesFault ts bs.length 0 none [] bs with
  | some e => e
  | none =>
    match (ts.zipIdx.find? fun t => !templateOk size t.1) with
    | some t => (0x0C, t.2)
    | none => if cordFits p m (cordOf bs) then (0, 0) else (0x0A, 0)

/-- The status of a PROG_LOAD reason. -/
def programStatus : Nat → Nat
  | 0 => stDone
  | 0x0A => stCordOver
  | 0x0B => stQuota
  | _ => stFormat

/-- Bytes of a context's partition. -/
def partitionSize (x : Ctx) : Nat := groupBytes * x.groups.length

/-- A context has a parked step. -/
def hasParked (m : Mach) (c : Nat) : Bool := m.run.parked.any fun s => s.ctx == c

/-- A context's step is in flight: it runs or is parked. -/
def stepInFlight (m : Mach) (c : Nat) : Bool := (stepOfCtx m c).isSome

/-- PROG_STAT and PROG_CORD show a context's program. -/
def showProgram (p : Part) (m : Mach) (c : Nat) (q : Option Program) : Mach :=
  match q with
  | some x => wr p (wr p m (Reg.ctxProgStat c)
      (wordOf (x.bundles.length + 2 ^ 31 + x.templates.length * 2 ^ 32))) (Reg.ctxProgCord c) (wordOf (cordOf x.bundles))
  | none => wr p (wr p m (Reg.ctxProgStat c) 0) (Reg.ctxProgCord c) 0

/-- A context's program is replaced, and the registers show it. -/
def installProgram (p : Part) (m : Mach) (c : Nat) (q : Option Program) : Mach :=
  showProgram p (setCtx m c { ctxOf m c with program := q, newProgram := none }) c q

/-- A program waiting for a context's step boundary comes into force (R43, R53). -/
def takeNewProgram (p : Part) (m : Mach) (c : Nat) : Mach :=
  match (ctxOf m c).newProgram with
  | some (_, q) => installProgram p m c (some q)
  | none => m

/-- The outcome of a PROG_LOAD is written and the command completes. -/
def progLoadEnd (p : Part) (m : Mach) (r : Running) (reason idx : Nat) : Mach :=
  complete (wr p m (Reg.ctxProgErr r.win) (wordOf (reason * 2 ^ 56 + idx))) r (programStatus reason)
    (reason * 2 ^ 24 + idx % 2 ^ 24)

/-- PROG_LOAD (R43 to R46): NO_SPACE first; then, with the image read, its checks; a program that
passes waits for its context's step boundary, or is in force at once while the tick is stopped and
the context has no parked step (R509). -/
def progLoad (w seq : Nat) (p : Part) (m : Mach) : Mach :=
  match dueCmd p m w seq 0x41 with
  | some r =>
    let a := bytesOf r.line 16 23 % 2 ^ 42
    let nb := bytesOf r.line 24 27
    let nt := bytesOf r.line 28 31
    if !storeRoom p m nb nt then progLoadEnd p m r 0x0B 0
    else if r.memFail then complete m r stUncorrectable
    else if useMoves p m [.program, .system] || txnsOut m (.cmdRead r.acc) then m
    else
      let bs := imageLines m a nb
      let ts := imageLines m (a + 64 * nb) nt
      let (e, i) := programFault p m (partitionSize (ctxOf m w)) bs ts
      if e ≠ 0 then progLoadEnd p m r e i
      else
        let m := setCtx m w { ctxOf m w with newProgram := some (r.acc, ⟨bs, ts⟩) }
        let m := if tickRuns p m || hasParked m w then m else takeNewProgram p m w
        progLoadEnd p m r 0 0
  | none => m

/-! ### The meanings of the commands -/

/-- PROG_LOAD (R43). -/
def execProgLoad (win seq : Nat) (s : State) : Host.Outcome State Fault Refusal :=
  .next { s with m := progLoad win seq s.part s.m }

end Sys2Proof.Machine
end

