-- ==== Sys2Proof/Machine/Tables.lean ====
section
/-! DEFINITION. Expert maps, bias blocks, share tables and route tables (R97, R111, R112, R118 to R124,
R306, R307): images, their checks, and the tables in force. -/

namespace Sys2Proof.Machine

/-! ### Reason codes (R123) -/

def tbKind : Nat := 1
def tbLayer : Nat := 2
def tbExperts : Nat := 3
def tbReplica : Nat := 4
def tbSlotDup : Nat := 5
def tbRsv : Nat := 6
def tbLayerCnt : Nat := 7
def tbNoSpace : Nat := 8
def tbLength : Nat := 9

/-- The status of a reason. -/
def tableStatus (reason : Nat) : Nat :=
  if reason = 0 then stDone else if reason = tbNoSpace then stQuota else stTable

/-! ### Entries and blocks (R118 to R120) -/

/-- Bytes lo to hi of a byte list, little-endian. -/
def fieldOf (bs : List Byte) (lo hi : Nat) : Nat := leNat ((bs.drop lo).take (hi + 1 - lo))

/-- The eight replica words of a map entry. -/
def mapWords (bs : List Byte) : List Nat := (List.range 8).map fun j => fieldOf bs (4 * j) (4 * j + 3)

/-- The eight replicas of an entry, and the first check of R123 that it fails; `seen` holds the nodes
and slots of the block's earlier entries. DESIGN CHOICE: within one entry REPLICA is judged first, then SLOT_DUP, then
RSV_BITS (log entry 135). -/
def mapEntry (seen : List (Nat × Nat)) (bs : List Byte) : List Replica × Nat :=
  let ws := mapWords bs
  let all := ws.map Replica.ofNat
  let reps := all.filter fun r => r.valid
  let ids := reps.map fun r => (r.node, r.slot)
  let gap := (List.range 7).any fun j => (ws.getD (j + 1) 0).testBit 31 && !(ws.getD j 0).testBit 31
  (all,
    if gap || reps.any (fun r => r.node == 0xFFF) then tbReplica
    else if !decide ids.Nodup || ids.any (fun i => seen.contains i) then tbSlotDup
    else if ws.any (fun w => w &&& 0x7FF00000 ≠ 0) then tbRsv
    else 0)

/-- A bias entry: bias, capacity, CAP_OVR. -/
def biasEntry (bs : List Byte) : F32 × Nat × Bool :=
  (BitVec.ofNat 32 (fieldOf bs 0 3), fieldOf bs 4 7 % 2 ^ 31, (fieldOf bs 7 7).testBit 7)

/-- Map entries read in order: the entries, or a reason and the byte offset of the entry. -/
def mapEntries : Nat → Nat → List (Nat × Nat) → List Byte → Except (Nat × Nat) (List (List Replica))
  | 0, _, _, _ => .ok []
  | n + 1, off, seen, bs =>
    let (reps, e) := mapEntry seen bs
    if e ≠ 0 then .error (e, off)
    else match mapEntries n (off + 32) (seen ++ (reps.filter fun r => r.valid).map fun r => (r.node, r.slot)) (bs.drop 32) with
      | .ok rest => .ok (reps :: rest)
      | .error x => .error x

/-- Bias entries read in order. -/
def biasEntries : Nat → List Byte → List (F32 × Nat × Bool)
  | 0, _ => []
  | n + 1, bs => biasEntry bs :: biasEntries n (bs.drop 8)

/-- The layer blocks of an image, by layer, with the image offset of a failure: `entries` reads the
entries of one block, `esize` bytes each; `first` is the layer that the first block must carry (R112). R123 gives no
order to the checks of one block; here its header's come first, in the order of their codes, and then LENGTH. -/
def blocksOf {α : Type} (esize : Nat) (entries : Nat → Nat → List Byte → Except (Nat × Nat) α) (first : Option Nat) :
    Nat → Nat → List Nat → List Byte → Except (Nat × Nat) (List (Nat × Nat × α))
  | 0, _, _, _ => .ok []
  | f + 1, off, seen, bs =>
    if bs.length < 64 then .ok []
    else
      let layer := fieldOf bs 0 1
      let n := fieldOf bs 2 3
      if 1023 < layer ∨ layer ∈ seen ∨ first.any (fun l => layer != l + seen.length) then .error (tbLayer, off)
      else if n = 0 ∨ 4096 < n then .error (tbExperts, off)
      else if ((bs.drop 4).take 60).any (fun b => b != 0) then .error (tbRsv, off)
      else if bs.length < 64 + esize * n then .error (tbLength, off)
      else match entries n (off + 64) (bs.drop 64) with
        | .error x => .error x
        | .ok es =>
          match blocksOf esize entries first f (off + 64 + esize * n) (layer :: seen) (bs.drop (64 + esize * n)) with
          | .ok rest => .ok ((layer, n, es) :: rest)
          | .error x => .error x

/-- The map blocks of an image. -/
def mapBlocks (bs : List Byte) : Except (Nat × Nat) (Assoc MapBlock) :=
  (blocksOf 32 (fun n off b => mapEntries n off [] b) none (bs.length / 64 + 1) 0 [] bs).map fun l =>
    l.foldl (fun t (layer, n, es) => Assoc.set t layer { experts := n, entries := es }) []

/-- The bias blocks of an image. -/
def biasBlocks (first : Option Nat) (bs : List Byte) : Except (Nat × Nat) (Assoc BiasBlock) :=
  (blocksOf 8 (fun n _ b => .ok (biasEntries n b)) first (bs.length / 64 + 1) 0 [] bs).map fun l =>
    l.foldl (fun t (layer, n, es) => Assoc.set t layer { experts := n, entries := es }) []

/-! ### Room (R123) -/

/-- Bytes of map blocks with their counter tables, and of bias blocks. -/
def mapBytes (t : Assoc MapBlock) : Nat := (t.map fun b => 64 + 40 * b.2.experts).sum
def biasBytes (t : Assoc BiasBlock) : Nat := (t.map fun b => 64 + 8 * b.2.experts).sum

/-- Bytes of a table image that waits. -/
def PendTable.bytes : PendTable → Nat
  | .maps _ _ n => n
  | .bias _ _ n => n
  | .share _ _ n => n
  | .update _ _ _ _ _ _ _ _ n => n

/-- The context's table area has room for n more bytes. -/
def tableRoom (x : Ctx) (n : Nat) : Bool :=
  decide (mapBytes x.tables.maps + biasBytes x.tables.bias + 4096 + (x.pend.map PendTable.bytes).sum + n
    ≤ 65536 * x.tblUnits * x.groups.length)

/-- The map layers in force or waiting, once those of an image join them. -/
def mapLayersWith (x : Ctx) (t : Assoc MapBlock) : Nat :=
  ((x.tables.maps.map (·.1) ++ t.map (·.1) ++ x.pend.flatMap fun q => match q with
    | .maps _ u _ => u.map (·.1)
    | _ => []).dedup).length

/-- The verdict on an image of a kind: a reason with its offset in bytes, or the table that waits. -/
def checkImage (x : Ctx) (acc kind : Nat) (bs : List Byte) : Except (Nat × Nat) PendTable :=
  if kind = 1 then
    match mapBlocks bs with
    | .error e => .error e
    | .ok t => if 1024 < mapLayersWith x t then .error (tbLayerCnt, 0)
      else if tableRoom x (mapBytes t) then .ok (.maps acc t (mapBytes t)) else .error (tbNoSpace, 0)
  else if kind = 2 then
    match biasBlocks none bs with
    | .error e => .error e
    | .ok t => if tableRoom x (biasBytes t) then .ok (.bias acc t (biasBytes t)) else .error (tbNoSpace, 0)
  else if kind = 3 then
    if bs.length ≠ 4096 then .error (tbLength, 0)
    else if tableRoom x 4096 then
      .ok (.share acc (bs.zipIdx.map fun (b, i) => (i, b.toNat)) 4096)
    else .error (tbNoSpace, 0)
  else .error (tbKind, 0)

/-! ### Tables in force (R111, R112, R122) -/

/-- The counter key of a logical expert of a map layer. -/
def cntKey (layer expert : Nat) : Nat := 4096 * layer + expert

/-- Blocks replace those of the same layers. -/
def putBlocks {α : Type} (t u : Assoc α) : Assoc α := u.foldl (fun t b => Assoc.set t b.1 b.2) t

/-- The counters of some layers are zeroed. -/
def zeroCounters (t : Tables) (ls : List Nat) : Tables :=
  let keep := fun (c : Counters) => c.filter fun e => !ls.contains (e.1 / 4096)
  { t with admitted := keep t.admitted, skipped := keep t.skipped }

/-- The counters of the layers of a range that have a map block, as DUMP writes them. -/
def dumpCounters (t : Tables) (first layers : Nat) : List Byte :=
  (List.range layers).flatMap fun i =>
    match Assoc.find? t.maps (first + i) with
    | some b => (List.range b.experts).flatMap fun e =>
        leBytes 4 (Assoc.get 0 t.admitted (cntKey (first + i) e)) ++ leBytes 4 (Assoc.get 0 t.skipped (cntKey (first + i) e))
    | none => []

/-- The tables of a context replaced. -/
def setTables (m : Mach) (c : Nat) (t : Tables) : Mach := setCtx m c { ctxOf m c with tables := t }

/-- A waiting image comes into force (R122); a BIAS_UPDATE acts: DUMP, LOAD, CLEAR (R112). -/
def applyPend (p : Part) (c : Nat) (m : Mach) (q : PendTable) : Mach :=
  let t := (ctxOf m c).tables
  match q with
  | .maps _ u _ => setTables m c { t with maps := putBlocks t.maps u }
  | .bias _ u _ => setTables m c (zeroCounters { t with bias := putBlocks t.bias u } (u.map (·.1)))
  | .share _ u _ => setTables m c { t with share := u }
  | .update acc load dump clear first layers addr u _ =>
    let m := if dump then startWrites p m addr (dumpCounters t first layers) (.cmdWrite acc) else m
    let t := if load then zeroCounters { t with bias := putBlocks t.bias u } (u.map (·.1)) else t
    let t := if clear then zeroCounters t ((List.range layers).map fun i => first + i) else t
    let m := setTables m c t
    match findAcc m acc with
    | some r => setRunning m { r with phase := .waiting }
    | none => m

/-- A waiting entry is a BIAS_UPDATE. -/
def PendTable.isUpdate : PendTable → Bool
  | .update _ _ _ _ _ _ _ _ _ => true
  | _ => false

/-- The waiting images of a context that `pick` selects come into force, in order. -/
def applyTables (p : Part) (m : Mach) (c : Nat) (pick : PendTable → Bool) : Mach :=
  let x := ctxOf m c
  let (now, later) := x.pend.partition pick
  now.foldl (applyPend p c) (setCtx m c { x with pend := later })

/-- A step of the context that goes on keeps the tables it has (R122). -/
def keepTables (m : Mach) (c : Nat) : Mach :=
  if (ctxOf m c).pend.isEmpty then m
  else updStep m c fun s => if s.ended then s else { s with tables := some (stepTables m s) }

/-- What waits for a tick edge takes effect at once while the tick is stopped, but for a context with a
parked step (R509). -/
def atOnce (p : Part) (m : Mach) (c : Nat) : Bool := !tickRuns p m && !hasParked m c

/-! ### TABLE_LOAD and BIAS_UPDATE -/

/-- The image offset of a failure, in 64-byte units. Of KIND, LAYER_CNT and NO_SPACE, which are of no place in the
image, R123 names none: it is a free value. -/
def tableOffset (m : Mach) (reason off : Nat) : Nat × Mach :=
  if reason = tbKind ∨ reason = tbLayerCnt ∨ reason = tbNoSpace then
    let (v, m) := drawFree m
    (v.toNat % 2 ^ 32, m)
  else (off / 64, m)

/-- A table command ends with a reason: TABLE_ERR, and the completion with its DETAIL (R123, R393). -/
def tableEnd (p : Part) (m : Mach) (r : Running) (reason off : Nat) (detail : Bool) : Mach :=
  if reason = 0 then complete (wr p m (Reg.ctxTableErr r.win) 0) r stDone
  else
    let (o, m) := tableOffset m reason off
    complete (wr p m (Reg.ctxTableErr r.win) (wordOf (reason * 2 ^ 56 + o))) r (tableStatus reason)
      (if detail then reason * 2 ^ 24 + o % 2 ^ 24 else 0)

/-- TABLE_LOAD of an expert map, bias or share image (R122, R123). -/
def tableLoad (w seq : Nat) (p : Part) (m : Mach) : Mach :=
  match dueCmd p m w seq 0x40 with
  | some r =>
    let kind := bytesOf r.line 16 16
    if w = 8 ∨ groupCopies m w = true then m
    else if kind = 0 ∨ 3 < kind then tableEnd p m r tbKind 0 true
    else if r.memFail then complete m r stUncorrectable
    else if txnsOut m (.cmdRead r.acc) then m
    else
      let bs := hostBytes m (bytesOf r.line 24 31 % 2 ^ 42) (bytesOf r.line 32 35)
      match checkImage (ctxOf m w) r.acc kind bs with
      | .error (e, off) => tableEnd p m r e off true
      | .ok q =>
        let x := ctxOf m w
        let m := tableEnd p (setCtx m w { x with pend := x.pend ++ [q] }) r 0 0 true
        if atOnce p m w then applyTables p m w (fun q => !q.isUpdate) else m
  | none => m

/-- The bytes of a BIAS_UPDATE image not yet read: where they start and how many, from the headers read
so far; none once the image is whole or a header fails. -/
def biasMissing (m : Mach) (a have_ : Nat) : Nat → Nat → Option (Nat × Nat)
  | 0, _ => none
  | n + 1, off =>
    if have_ < off + 64 then some (have_, off + 64 - have_)
    else
      let e := fieldOf (hostBytes m (a + off) 4) 2 3
      if e = 0 ∨ 4096 < e then none
      else if have_ < off + 64 + 8 * e then some (have_, off + 64 + 8 * e - have_)
      else biasMissing m a have_ n (off + 64 + 8 * e)

/-- The verdict on a BIAS_UPDATE's image. -/
def checkUpdate (x : Ctx) (r : Running) (bs : List Byte) : Except (Nat × Nat) PendTable :=
  let fl := bytesOf r.line 16 16
  let first := bytesOf r.line 18 19
  let layers := bytesOf r.line 20 21
  let mk := fun t n => PendTable.update r.acc (fl.testBit 0) (fl.testBit 1) (fl.testBit 2) first layers
    (bytesOf r.line 32 39 % 2 ^ 42) t n
  if fl.testBit 0 then
    match biasBlocks (some first) bs with
    | .error e => .error e
    | .ok t => if tableRoom x (biasBytes t) then .ok (mk t (biasBytes t)) else .error (tbNoSpace, 0)
  else .ok (mk [] 0)

/-- BIAS_UPDATE (R112): its image is read and checked, it waits for the tick edge where its flags act,
and it completes when its dump has been written. -/
def biasUpdate (w seq : Nat) (p : Part) (m : Mach) : Mach :=
  match dueCmd p m w seq 0x42 with
  | some r =>
    if r.memFail then complete m r stUncorrectable
    else if groupCopies m w || txnsOut m (.cmdRead r.acc) || txnsOut m (.cmdWrite r.acc) then m
    else if r.phase = .waiting then complete m r stDone
    else if r.phase = .atEdge then m
    else
      let a := bytesOf r.line 24 31 % 2 ^ 42
      match if (bytesOf r.line 16 16).testBit 0 then biasMissing m a r.stage (bytesOf r.line 20 21) 0 else none with
      | some (off, n) => startReads p (setRunning m { r with stage := off + n }) (a + off) n (.cmdRead r.acc)
      | none =>
        match checkUpdate (ctxOf m w) r (hostBytes m a r.stage) with
        | .error (e, off) => tableEnd p m r e off false
        | .ok q =>
          let x := ctxOf m w
          let m := setCtx (setRunning m { r with phase := .atEdge }) w { x with pend := x.pend ++ [q] }
          if atOnce p m w then applyTables p m w PendTable.isUpdate else m
  | none => m

/-! ### Route tables (R302, R306, R307) -/

/-- The reason codes of R307. -/
def rtRange : Nat := 1
def rtLink : Nat := 2
def rtOverlap : Nat := 3
def rtRsv : Nat := 4

/-- A route entry of an image, and the check it fails. -/
def routeEntry (p : Part) (bs : List Byte) : Route × Nat :=
  let a := BitVec.ofNat 64 (fieldOf bs 0 7)
  let b := BitVec.ofNat 64 (fieldOf bs 8 15)
  let r : Route := { valid := bitOf a 63, ttl := bitsOf a 62 60, primary := bitsOf a 35 0, alternate := bitsOf b 35 0 }
  let lim := 2 ^ linkCount p.conf
  (r, if lim ≤ r.primary ∨ lim ≤ r.alternate then rtLink
    else if r.primary &&& r.alternate ≠ 0 then rtOverlap
    else if bitsOf a 59 36 ≠ 0 ∨ bitsOf b 63 36 ≠ 0 ∨ fieldOf bs 16 31 ≠ 0 then rtRsv
    else 0)

/-- The entries of an image in order, or the first failure and its destination. -/
def routeEntries (p : Part) : Nat → Nat → List Byte → Except (Nat × Nat) (List (Nat × Route))
  | 0, _, _ => .ok []
  | n + 1, d, bs =>
    let (r, e) := routeEntry p bs
    if e ≠ 0 then .error (e, d)
    else match routeEntries p n (d + 1) (bs.drop 32) with
      | .ok rest => .ok ((d, r) :: rest)
      | .error x => .error x

/-- The verdict on a route image. -/
def checkRoutes (p : Part) (bs : List Byte) : Except (Nat × Nat) (List (Nat × Route)) :=
  let first := fieldOf bs 0 1
  let n := fieldOf bs 2 3
  if n = 0 ∨ 4096 < first + n ∨ bs.length < 64 + 32 * n then .error (rtRange, first % 4096)
  else if ((bs.drop 4).take 60).any (fun b => b != 0) then .error (rtRsv, first % 4096)
  else routeEntries p n first (bs.drop 64)

/-- Entries come into force: their spread pointers stand below link 0 again (R304, R306). -/
def installRoutes (p : Part) (m : Mach) (es : List (Nat × Route)) : Mach :=
  let gone := es.map (·.1)
  withReroute p m fun m =>
    { m with net := { m.net with
      routes := es.foldl (fun t e => Assoc.set t e.1 e.2) m.net.routes,
      spread := m.net.spread.filter fun q => !gone.contains (q.1 / 8),
      spreadT := m.net.spreadT.filter fun q => !gone.contains (q.1 / 8) } }

/-- A route load ends (R307, R393). -/
def routeEnd (p : Part) (m : Mach) (r : Running) (reason dest : Nat) : Mach :=
  complete (wr p m Reg.routeTableErr (wordOf (reason * 2 ^ 56 + dest))) r
    (if reason = 0 then stDone else stTable) (reason * 2 ^ 24 + dest)

/-- TABLE_LOAD of kind ROUTE (R306). -/
def tableLoadRoute (w seq : Nat) (p : Part) (m : Mach) : Mach :=
  match dueCmd p m w seq 0x40 with
  | some r =>
    if w ≠ 8 then m
    else if r.memFail then complete m r stUncorrectable
    else if txnsOut m (.cmdRead r.acc) then m
    else
      match checkRoutes p (hostBytes m (bytesOf r.line 24 31 % 2 ^ 42) (bytesOf r.line 32 35)) with
      | .error (e, d) => routeEnd p m r e d
      | .ok es => routeEnd p (installRoutes p m es) r 0 0
  | none => m

/-! ### Lookups (R97, R119, R120, R124) -/

/-- The map block and bias block of a map layer. -/
def mapOf (t : Tables) (layer : Nat) : Option MapBlock := Assoc.find? t.maps layer
def biasOf (t : Tables) (layer : Nat) : Option BiasBlock := Assoc.find? t.bias layer

/-- The tables fail a layer (R124). -/
def tablesLack (t : Tables) (l : LayerT) : Bool :=
  (match mapOf t l.mapLayer with
   | some b => b.experts != l.experts
   | none => true) ||
  (match biasOf t l.mapLayer with
   | some b => b.experts != l.experts
   | none => false)

/-- The valid replicas of a logical expert; none names the null expert (R119). -/
def replicasOf (t : Tables) (l : LayerT) (e : Nat) : List Replica :=
  match mapOf t l.mapLayer with
  | some b => (b.entries.getD e []).filter fun r => r.valid
  | none => []

/-- The biases of a layer's experts (R120). -/
def biasesOf (t : Tables) (l : LayerT) : List F32 :=
  match biasOf t l.mapLayer with
  | some b => b.entries.map (·.1)
  | none => List.replicate l.experts 0

/-- The capacity of a logical expert (R97). -/
def capOf (t : Tables) (l : LayerT) (e : Nat) : Nat :=
  match biasOf t l.mapLayer with
  | some b => match b.entries[e]? with
    | some (_, cap, true) => cap
    | _ => l.capacity
  | none => l.capacity

/-- The share of a source index (R121). -/
def shareOf (t : Tables) (i : Nat) : Nat := Assoc.get 1 t.share i

/-! ### The meanings of the commands -/

/-- TABLE_LOAD (R122). -/
def execTableLoad (win seq : Nat) (s : State) : Host.Outcome State Fault Refusal :=
  .next { s with m := tableLoad win seq s.part s.m }

/-- TABLE_LOAD_ROUTE (R306). -/
def execTableLoadRoute (win seq : Nat) (s : State) : Host.Outcome State Fault Refusal :=
  .next { s with m := tableLoadRoute win seq s.part s.m }

/-- BIAS_UPDATE (R112). -/
def execBiasUpdate (win seq : Nat) (s : State) : Host.Outcome State Fault Refusal :=
  .next { s with m := biasUpdate win seq s.part s.m }

end Sys2Proof.Machine
end

