-- ==== Sys2Proof/Machine/Score.lean ====
section
/-! DEFINITION. Score records, selection and capacity admission at the home node, and the admission
exchange (R62 to R66, R81 to R117, R194 to R198). -/

namespace Sys2Proof.Machine

/-! ### Billet-form headers (R144, R106, R168) -/

/-- The 64 bytes of a header in the form of R144 for a step's layer phase. -/
def billetHeader (p : Part) (m : Mach) (s : StepRun) (dest layer token kind : Nat) (mask : Nat)
    (fmt cls codeLen kept hidden : Nat) : List Byte :=
  leBytes 32 mask ++ leBytes 6 s.step ++ leBytes 1 (ctxJob p m s.ctx) ++ leBytes 1 (s.att % 16)
    ++ leBytes 2 (nodeId p m) ++ leBytes 2 dest ++ leBytes 2 layer ++ leBytes 2 token ++ leBytes 1 kind
    ++ leBytes 1 fmt ++ leBytes 1 cls ++ [0] ++ leBytes 2 codeLen ++ leBytes 2 kept ++ leBytes 2 hidden
    ++ List.replicate 6 0

/-- Fields of a header in that form. -/
def bhStep (h : Line) : Nat := bytesOf h 32 37
def bhJob (h : Line) : Nat := bytesOf h 38 38
def bhAtt (h : Line) : Nat := bytesOf h 39 39 % 16
def bhHome (h : Line) : Nat := bytesOf h 40 41 % 4096
def bhDest (h : Line) : Nat := bytesOf h 42 43 % 4096
def bhLayer (h : Line) : Nat := bytesOf h 44 45 % 1024
def bhToken (h : Line) : Nat := bytesOf h 46 47
def bhKind (h : Line) : Nat := bytesOf h 48 48
def bhMask (h : Line) : Nat := bytesOf h 0 31
def bhClass (h : Line) : Nat := bytesOf h 50 50 % 8
def bhCodeLen (h : Line) : Nat := bytesOf h 52 53

/-- A comparison of a step and attempt with those of a running step (R145). -/
inductive StepCmp where
  | lower | equal | higher
  deriving DecidableEq, Repr

/-- STEP and ATTEMPT compared with a step's, in that order (R145). -/
def cmpStep (s : StepRun) (step att : Nat) : StepCmp :=
  if step < s.step ∨ (step = s.step ∧ att < s.att) then .lower
  else if step = s.step ∧ att = s.att then .equal
  else .higher

/-- What becomes of a packet of VC1 on arrival (R145, R106). -/
inductive Arrival where
  /-- its JOB names no resident context -/
  | unknown
  /-- its context runs no step, or a lower one, or has not bound the layer phase: it waits -/
  | waits
  | stale (ctx : Nat)
  | fits (ctx : Nat) (s : StepRun)
  deriving DecidableEq, Repr

/-- The verdict of R145 on a header. -/
def arrivalOf (p : Part) (m : Mach) (h : Line) : Arrival :=
  match ctxOfJob p m (bhJob h) with
  | some c =>
    if !(ctxOf m c).resident then .unknown
    else match stepOfCtx m c with
      | some s => match cmpStep s (bhStep h) (bhAtt h) with
        | .lower => .stale c
        | .equal => .fits c s
        | .higher => .waits
      | none => .waits
  | none => .unknown

/-- A packet whose JOB names no resident context is logged (R145). -/
def reportUnknownJob (p : Part) (m : Mach) (h : Line) : Mach :=
  report p m { code := 0x63, page := Reg.routePage, sev := .info,
               detail := leBytes 2 (bhHome h) ++ leBytes 1 (bhJob h) ++ leBytes 2 (bhLayer h) }

/-! ### Ember slots (R194, R19) -/

/-- Entries of a slot's rank table (R194). -/
def rankEntries (t : LayerT) : Nat := if t.mode = modeKv then t.k else 16

/-- Granules of a slot: those before the accumulator, and those of it (R194). -/
def slotGranules (t : LayerT) : Nat := ceilDiv (128 + 32 * rankEntries t) 1024 + ceilDiv (4 * t.hidden) 1024

/-- Granules that contexts hold. -/
def heldGranules (x : Ctx) : List Nat := x.embers.flatMap fun s => s.granules

/-- Free granules of the ember store, outside unusable banks, lowest first (R457). -/
def freeGranules (p : Part) (m : Mach) : List Nat :=
  let used := (List.range 8).flatMap fun c => heldGranules (ctxOf m c)
  (List.range 8192).filter fun g => !used.contains g && !emberUnusable p m (emberBank g)

/-- The granules a new slot of a context takes, none where the quota or the store lacks them. -/
def newGranules (p : Part) (m : Mach) (c n : Nat) : Option (List Nat) :=
  let free := (freeGranules p m).take n
  if (heldGranules (ctxOf m c)).length + n ≤ rdF p m (Reg.ctxEmberQuota c) 13 0 ∧ free.length = n then some free else none

/-- A slot is allocated for a token that is decided (R19). -/
def addSlot (m : Mach) (s : StepRun) (layer token : Nat) (t : LayerT) (nan : Bool) (gs : List Nat) (job : Nat) : Mach :=
  let x := ctxOf m s.ctx
  setCtx m s.ctx { x with embers := x.embers ++ [{
    granules := gs, key := keyOf s layer, job := job, token := token, mode := t.mode, nt := t.nt,
    hidden := t.hidden, outFormat := t.outFormat, nan := nan }] }

/-! ### Final choices (R108 to R117) -/

/-- The statuses of R196. -/
def rkLive : Nat := 0
def rkSkipped : Nat := 1
def rkNull : Nat := 2
def rkEmpty : Nat := 3

/-- A choice as a rank: null where it names the null expert (R82, R83, R119). -/
def rankOf (t : Tables) (l : LayerT) (held : Bool) (c : Choice) : Rank :=
  let null := c.expert == nullExpert || (replicasOf t l c.expert).isEmpty
  { expert := c.expert, rkey := c.rkey, weight := c.weight, status := if null then rkNull else rkLive, held := held && !null }

/-- The replicas of the LIVE ranks are chosen (R115). -/
def withReplicas (p : Part) (m : Mach) (s : StepRun) (t : Tables) (l : LayerT) (layer token : Nat) (rs : List Rank) : List Rank :=
  rs.zipIdx.map fun (r, i) =>
    if r.status = rkLive then
      match pickReplica (replicasOf t l r.expert) s.cell s.seed l.salt (wordOf s.step) layer
          (nodeId p m) token i with
      | some w => { r with node := w.node, slot := w.slot }
      | none => r
    else r

/-- The final ranks of an expert-choice token: the 16 admitted experts that rank highest, the others
skipped; with none admitted, one empty rank (R113, R196). -/
def choiceRanks (rs : List Rank) : List Rank :=
  let kept := sortBy (fun (a b : Rank) => decide (b.rkey < a.rkey) || (a.rkey == b.rkey && decide (a.expert < b.expert)))
    (rs.filter fun r => r.status == rkLive)
  if kept.isEmpty then [{ expert := nullExpert, rkey := 0, weight := 0, status := rkEmpty }]
  else kept.zipIdx.map fun (r, i) => if i < 16 then r else { r with status := rkSkipped }

/-- The weights after skips (R109). -/
def renormRanks (l : LayerT) (rs : List Rank) : List Rank :=
  if l.renorm then
    (rs.zip (renorm (rs.map fun r => r.weight) (rs.map fun r => r.status == rkSkipped))).map fun (r, w) => { r with weight := w }
  else rs

/-- The weights of a token's ranks are replaced by R109. -/
def renormDone (l : LayerT) (rs : List Rank) : Bool :=
  l.renorm && (rs.any fun r => r.status == rkSkipped) && rs.any fun r => r.status != rkSkipped

/-- A rank as the slot's table holds it (R196). -/
def slotRank (r : Rank) : SlotRank :=
  { expert := r.expert, status := r.status, node := r.node, slot := r.slot, weight := r.weight, rkey := r.rkey }

/-- The lowest LIVE rank at or after r, else the number of ranks (R202). -/
def nextLive (rs : List SlotRank) (r : Nat) : Nat :=
  match (List.range rs.length).find? fun i => decide (r ≤ i) && (rs.map fun x => x.status).getD i 1 == 0 with
  | some i => i
  | none => rs.length

/-- The rank table and WREADY of a slot are written (R198). DESIGN CHOICE: FLAGS.SKIPS says that a choice was SKIPPED when
the token became final, and a token of more than 16 admitted experts keeps its first 16 (log entry 138). -/
def slotReady (m : Mach) (c : Nat) (k : Key) (l : LayerT) (tok : Tok) : Mach :=
  match slotOfTok (ctxOf m c) k tok.token with
  | some s =>
    let rs := (tok.ranks.map fun r => slotRank (if tok.failed && r.status == rkLive then { r with status := rkSkipped } else r)).take (max 16 (rankEntries l))
    let skipped := tok.ranks.any fun r => r.status == rkSkipped
    setEmber m c { s with
      wready := true, ranks := rs, skips := skipped, renormed := renormDone l tok.ranks, readyAt := m.tick.cycle,
      next := (List.range s.nt).map fun i => (i, nextLive rs 0) }
  | none => m

/-- The choices of a token that count: each non-null one, as admitted or skipped (R111). -/
def countedOf (l : LayerT) (tok : Tok) : List (Nat × Nat × Bool) :=
  (tok.ranks.filter fun r => r.status == rkLive || r.status == rkSkipped).map fun r =>
    (l.mapLayer, r.expert, r.status == rkLive)

/-- A token of a layer phase replaced. -/
def setTok (m : Mach) (c : Nat) (k : Key) (t : Tok) : Mach :=
  updPhase m c k fun x => { x with toks := x.toks.map fun y => if y.token = t.token ∧ y.decided then t else y }

/-- The item of a score record, as hearths hold it (R93). -/
def scoreItem (layer home token : Nat) : ItemRef := .step layer laneScore home token 0

/-- A token leaves its selection unit: its replica choice has been made, or its item has failed (R93, R102). -/
def leaveUnit (m : Mach) (c : Nat) (i : ItemRef) : Mach :=
  { m with run := { m.run with placed := m.run.placed.map fun x =>
      if x.ctx = c ∧ x.item = i then { x with held := false } else x } }

/-- All choices of a token are final: expert-choice ranks, weights, replicas, the slot's table, and
what the step counts (R108 to R117, R198). -/
def finalizeTok (p : Part) (m : Mach) (s : StepRun) (layer : Nat) (l : LayerT) (tok : Tok) : Mach :=
  let t := stepTables m s
  let rs := if l.mode = modeChoice then choiceRanks tok.ranks else tok.ranks
  let rs := withReplicas p m s t l layer tok.token (renormRanks l rs)
  let tok := { tok with ranks := rs, final := true }
  let k := keyOf s layer
  let m := slotReady (setTok m s.ctx k tok) s.ctx k l tok
  let m := leaveUnit m s.ctx (scoreItem layer (nodeId p m) tok.token)
  updStep m s.ctx fun s => { s with counted := s.counted ++ countedOf l tok,
                                    skips := s.skips || rs.any fun r => r.status == rkSkipped }

/-- Every token of a layer phase whose choices are all final is finalised. -/
def finalizeAll (p : Part) (m : Mach) (c layer : Nat) (l : LayerT) : Mach :=
  match stepOfCtx m c with
  | some s => ((phaseOf s layer).toks.filter fun t => t.decided && !t.final && t.ranks.all fun r => !r.held).foldl
      (fun m t => finalizeTok p m s layer l t) m
  | none => m

/-! ### Admission records (R104 to R107) -/

/-- The kinds and phases of R106. -/
def adOffer : Nat := 1
def adAdmit : Nat := 2
def adSkip : Nat := 3
def adClose : Nat := 4
def adOffers : Nat := 1
def adVerdicts : Nat := 2

/-- The layer uses the admission exchange. -/
def usesAdmit (l : LayerT) : Bool := l.mode == modeChoice || l.capMode == 2

/-- The admitter of an expert (R104). -/
def admitterOf (t : Tables) (l : LayerT) (e : Nat) : Nat :=
  let rs := replicasOf t l e
  ((rs.find? fun r => l.nodes.contains r.node).orElse fun _ => rs.head?).elim 0xFFF fun r => r.node

/-- An admission record's 16 bytes (R106). -/
def admitBytes (layer : Nat) (a : Admit) : List Byte :=
  leBytes 8 a.pkey ++ leBytes 2 a.expert ++ leBytes 2 layer ++ leBytes 1 a.kind ++ leBytes 1 a.phase ++ [0, 0]

/-- An admission record read from a flit of a source. -/
def readAdmit (src : Nat) (bs : List Byte) : Admit :=
  { node := src, pkey := fieldOf bs 0 7, expert := fieldOf bs 8 9 % 4096, kind := fieldOf bs 12 12, phase := fieldOf bs 13 13 }

/-- Both CLOSE records toward a node have been sent for a layer phase. -/
def admitClosed (x : LayerPhase) (node : Nat) : Bool :=
  x.closeOffersSent && x.verdictsSent && !x.admitOut.any fun a => a.node == node

/-- Admission credit held toward a node for a layer phase. -/
def admitCreditOf (x : Ctx) (k : Key) (node : Nat) : Nat :=
  ((x.admitCredits.filter fun c => c.dest == node && c.key == k).map fun c => c.count).sum

/-- Admission credit toward a node set. -/
def setAdmitCredit (m : Mach) (c : Nat) (k : Key) (node n : Nat) : Mach :=
  let x := ctxOf m c
  let rest := x.admitCredits.filter fun v => !(v.dest == node && v.key == k)
  setCtx m c { x with admitCredits := if n = 0 then rest else rest ++ [{ dest := node, key := k, cls := 0, count := n }] }

/-- Up to 11 records to a node leave in one admission flit (R106). -/
def sendAdmitFlit (p : Part) (m : Mach) (s : StepRun) (layer node : Nat) : Mach :=
  let k := keyOf s layer
  match stepOfCtx m s.ctx with
  | some s' =>
    let x := phaseOf s' layer
    let mine := (x.admitOut.filter fun a => a.node == node).take 11
    let rest := (x.admitOut.filter fun a => a.node == node).drop 11
    let m := updPhase m s.ctx k fun x => { x with admitOut := (x.admitOut.filter fun a => a.node != node) ++ rest }
    let body := billetHeader p m s node layer 0 4 0 0 0 mine.length 0 0 ++ mine.flatMap (admitBytes layer)
    queuePacket p m 1 node false 0 s.ctx (.admitFlit s.ctx k node) body
  | none => m

/-- Admission records to a node go while there is credit; `n` bounds how many flits. -/
def pumpAdmitTo (p : Part) (s : StepRun) (layer node : Nat) : Nat → Mach → Mach
  | 0, m => m
  | n + 1, m =>
    match stepOfCtx m s.ctx with
    | some s' =>
      let k := keyOf s layer
      let c := admitCreditOf (ctxOf m s.ctx) k node
      if node ≠ nodeId p m ∧ 0 < c ∧ (phaseOf s' layer).admitOut.any (fun a => a.node == node) then
        let m := sendAdmitFlit p (setAdmitCredit m s.ctx k node (c - 1)) s layer node
        pumpAdmitTo p s layer node n m
      else if admitClosed (phaseOf s' layer) node then setAdmitCredit m s.ctx k node 0 else m
    | none => m

/-- Every waiting admission record of a layer phase that credit allows goes. -/
def pumpAdmit (p : Part) (m : Mach) (c layer : Nat) : Mach :=
  match stepOfCtx m c with
  | some s =>
    let out := (phaseOf s layer).admitOut
    (sortNat (out.map fun a => a.node).dedup).foldl (fun m n => pumpAdmitTo p s layer n (out.length + 1) m) m
  | none => m

/-- Records are queued, and go as credit allows. -/
def queueAdmits (p : Part) (m : Mach) (c : Nat) (k : Key) (as : List Admit) : Mach :=
  pumpAdmit p (updPhase m c k fun x => { x with admitOut := x.admitOut ++ as }) c k.layer

/-- A credit record (R158). -/
def creditRecord (p : Part) (m : Mach) (c : Nat) (k : Key) (cls kind count flags : Nat) : BitVec 128 :=
  mkRecord (leBytes 6 k.step ++ leBytes 1 (k.att % 16) ++ leBytes 1 (ctxJob p m c) ++ leBytes 2 k.layer ++ leBytes 1 cls)
    kind (leBytes 2 count ++ leBytes 1 flags)

/-- Buffers that this node reserves for a source's admission flits, one at a time while the ADMIT quota
allows, up to ADMIT_CRED; how many were reserved. -/
def reserveAdmit (p : Part) (c : Nat) (k : Key) (node : Nat) : Nat → Mach → Nat × Mach
  | 0, m => (0, m)
  | n + 1, m =>
    match allocBuf p m c 0 .admission with
    | some (b, m) =>
      let m := updPhase m c k fun x => { x with admitResv := x.admitResv ++ [(node, b)] }
      let (j, m) := reserveAdmit p c k node n m
      (j + 1, m)
    | none => (0, m)

/-- A layer phase holds both CLOSE records of a source (R105, R107). -/
def closesHeld (x : LayerPhase) (node : Nat) : Bool :=
  let held := fun ph (got : Counters) => x.closes.any fun a => a.node == node && a.phase == ph && a.pkey == Assoc.get 0 got node
  held adOffers x.gotOffers && held adVerdicts x.gotVerdicts

/-- AGRANTs to the other nodes of a layer's set whose CLOSE records are not both held, in ascending node id, as
buffers allow (R107). -/
def grantAdmits (p : Part) (m : Mach) (c layer : Nat) (l : LayerT) : Mach :=
  match stepOfCtx m c with
  | some s =>
    let k := keyOf s layer
    (l.nodes.filter fun n => n != nodeId p m && !closesHeld (phaseOf s layer) n).foldl (fun m n =>
      match stepOfCtx m c with
      | some s' =>
        let have_ := Assoc.get 0 (phaseOf s' layer).admitGranted n
        let (j, m) := reserveAdmit p c k n (rdF p m (Reg.ctxAdmitCtrl c) 31 24 - have_) m
        if j = 0 then m
        else
          let m := updPhase m c k fun x => { x with admitGranted := Assoc.set x.admitGranted n (have_ + j) }
          sendRecord p m n (creditRecord p m c k 0 0x14 j 0)
      | none => m) m
  | none => m

/-- The SCORE lane binds to a layer phase of the exchange (R107). -/
def bindAdmit (p : Part) (m : Mach) (c layer : Nat) (l : LayerT) : Mach :=
  match stepOfCtx m c with
  | some s =>
    if usesAdmit l && !(phaseOf s layer).admitBound then
      grantAdmits p (updPhase m c (keyOf s layer) fun x => { x with admitBound := true }) c layer l
    else m
  | none => m

/-- The grants that a quota or a class without buffers held back are made as buffers free (R107). -/
def pumpGrants (p : Part) (m : Mach) : Mach :=
  match liveStep m with
  | some s =>
    if !classReady m s.ctx 0 then m
    else (s.phases.filter fun x => x.2.admitBound).foldl (fun m x =>
      match boundTmpl s laneScore x.1 with
      | some l => grantAdmits p m s.ctx x.1 l
      | none => m) m
  | none => m

/-- A source whose two CLOSE records are held has its reservations cancelled (R107). -/
def cancelAdmit (m : Mach) (c layer node : Nat) : Mach :=
  match stepOfCtx m c with
  | some s =>
    let x := phaseOf s layer
    if closesHeld x node then
      let mine := x.admitResv.filter fun r => r.1 == node
      let m := updPhase m c (keyOf s layer) fun x => { x with admitResv := x.admitResv.filter fun r => r.1 != node }
      mine.foldl (fun m r => freeBuf m c 0 r.2) m
    else m
  | none => m

/-- CLOSE records of a phase are held from every node of the set, with all they count. -/
def allClosed (x : LayerPhase) (l : LayerT) (ph : Nat) (got : Counters) : Bool :=
  l.nodes.all fun n => x.closes.any fun a => a.node == n && a.phase == ph && a.pkey == Assoc.get 0 got n

/-- A verdict reaches the home node: the choice is decided (R105). -/
def takeVerdict (x : LayerPhase) (self : Nat) (a : Admit) : LayerPhase :=
  let token := 0xFFFF - a.pkey % 65536
  if 0xFFF - a.pkey / 65536 % 4096 ≠ self then x
  else { x with toks := x.toks.map fun t =>
    if t.token = token ∧ t.decided then { t with ranks := t.ranks.map fun r =>
      if r.held && r.expert == a.expert then { r with held := false, status := if a.kind = adAdmit then rkLive else rkSkipped } else r }
    else t }

/-- A record enters the admission store of a layer phase (R105). -/
def storeAdmit (self : Nat) (x : LayerPhase) (a : Admit) : LayerPhase :=
  if a.kind = adOffer then { x with offers := x.offers ++ [a], gotOffers := Assoc.set x.gotOffers a.node (Assoc.get 0 x.gotOffers a.node + 1) }
  else if a.kind = adAdmit ∨ a.kind = adSkip then
    takeVerdict { x with gotVerdicts := Assoc.set x.gotVerdicts a.node (Assoc.get 0 x.gotVerdicts a.node + 1) } self a
  else if a.kind = adClose then { x with closes := x.closes ++ [{ a with pkey := a.pkey % 2 ^ 32 }] }
  else x

/-- Records have been stored: tokens whose verdicts are complete are finalised, and the layer's admission
finishes with the last (R105). -/
def settleAdmit (p : Part) (m : Mach) (c layer : Nat) (l : LayerT) : Mach :=
  let m := finalizeAll p m c layer l
  match stepOfCtx m c with
  | some s => updPhase m c (keyOf s layer) fun x => { x with admitDone := x.admitDone || allClosed x l adVerdicts x.gotVerdicts }
  | none => m

/-- The records of an admission flit's payload. -/
def flitAdmits (src : Nat) (bs : List Byte) : List Admit :=
  (List.range (fieldOf bs 52 53)).map fun i => readAdmit src ((bs.drop (64 + 16 * i)).take 16)

/-- Records of a source enter a layer phase's store, and what follows from them. -/
def enterAdmits (p : Part) (m : Mach) (c layer : Nat) (l : LayerT) (s : StepRun) (as : List Admit) : Mach :=
  settleAdmit p (updPhase m c (keyOf s layer) fun x => as.foldl (storeAdmit (nodeId p m)) x) c layer l

/-- The oldest admission flit received that can be handled. -/
def findAdmit (p : Part) (m : Mach) : Option RxPkt :=
  m.net.rx.find? fun x => x.vc == 1 && rxWhole x && fieldOf (rxBytes x) 48 48 == 4 &&
    match arrivalOf p m (lineOf (rxBytes x)) with
    | .waits => false
    | .fits _ s => (phaseOf s (bhLayer (lineOf (rxBytes x)))).admitBound
    | _ => true

/-- A loopback admission flit is taken: up to 11 of the records queued to this node (R107). -/
def loopAdmits (p : Part) (m : Mach) : Mach :=
  match liveStep m with
  | some s =>
    match List.find? (fun (q : Nat × LayerPhase) =>
      q.2.admitBound && q.2.admitOut.any fun a => a.node == nodeId p m) s.phases with
    | some (layer, x) =>
      match boundTmpl s laneScore layer with
      | some l =>
        let mine := (x.admitOut.filter fun a => a.node == nodeId p m)
        let m := updPhase m s.ctx (keyOf s layer) fun x =>
          { x with admitOut := (x.admitOut.filter fun a => a.node != nodeId p m) ++ mine.drop 11 }
        enterAdmits p m s.ctx layer l s (mine.take 11)
      | none => m
    | none => m
  | none => m

/-- ADMIT_FLIT_RECEIVE (R106, R107): a flit from a link, or one on the loopback path. -/
def admitFlitReceive (loop : Bool) (p : Part) (m : Mach) : Mach :=
  if loop then loopAdmits p m
  else match findAdmit p m with
  | some x =>
    let bs := rxBytes x
    let h := lineOf bs
    let m := dropRx m x
    match arrivalOf p m h with
    | .unknown => reportUnknownJob p m h
    | .stale c => bump p m (Reg.ctxStaleDrop c) 1
    | .waits => m
    | .fits c s =>
      let layer := bhLayer h
      match boundTmpl s laneScore layer with
      | some l =>
        let m := enterAdmits p m c layer l s (flitAdmits x.src bs)
        let m := sendRecord p m x.src (creditRecord p m c (keyOf s layer) 0 0x14 1 0)
        cancelAdmit m c layer x.src
      | none => m
  | none => m

/-- The key of a credit record. -/
def recKey (r : BitVec 128) : Key := ⟨bytesOf r 0 5, bytesOf r 6 6 % 16, bytesOf r 8 9 % 1024⟩

/-- A credit record's context and key, where its job names a resident context and it is not below the
step that runs there (R161). -/
def creditTarget (p : Part) (m : Mach) (r : BitVec 128) : Option Nat :=
  match ctxOfJob p m (bytesOf r 7 7) with
  | some c =>
    if !(ctxOf m c).resident then none
    else match stepOfCtx m c with
      | some s => if cmpStep s (recKey r).step (recKey r).att = .lower then none else some c
      | none => some c
  | none => none

/-- AGRANT_RECEIVE (R107). -/
def agrantReceive (p : Part) (m : Mach) : Mach :=
  match takeRecord m 0x14 with
  | some (r, m) =>
    match creditTarget p m r.bytes with
    | some c =>
      let k := recKey r.bytes
      let closed := match stepOfCtx m c with
        | some s => keyOfStep s k && admitClosed (phaseOf s k.layer) r.src
        | none => false
      if closed then m
      else pumpAdmit p (setAdmitCredit m c k r.src (admitCreditOf (ctxOf m c) k r.src + bytesOf r.bytes 12 13)) c k.layer
    | none => m
  | none => m

/-- The verdicts of an admitter: for each expert its C_e highest offers admitted, the others skipped; expert by expert
in the order in which the offers first name them. -/
def verdictsOf (t : Tables) (l : LayerT) (offers : List Admit) : List Admit :=
  let es := (offers.map fun a => a.expert).dedup
  es.flatMap fun e =>
    let mine := sortBy (fun (a b : Admit) => decide (b.pkey < a.pkey)) (offers.filter fun a => a.expert == e)
    mine.zipIdx.map fun (a, i) => { a with kind := if i < capOf t l e then adAdmit else adSkip }

/-- ADMIT_VERDICTS (R105): once every node's offers are held, the verdicts go, those of one node in
descending key order, and a CLOSE to every node of the set. DESIGN CHOICE: of equal keys, which are of one token's
offers to several experts, the expert that the offers name first goes first. -/
def admitVerdicts (layer : Nat) (p : Part) (m : Mach) : Mach :=
  match liveStep m with
  | some s =>
    let x := phaseOf s layer
    match boundTmpl s laneScore layer with
    | some l =>
      if engineUp m && !isFatal p m && usesAdmit l && x.admitBound && !x.verdictsSent && allClosed x l adOffers x.gotOffers then
        let vs := sortBy (fun (a b : Admit) => decide (b.pkey < a.pkey)) (verdictsOf (stepTables m s) l x.offers)
        let closes := l.nodes.map fun n =>
          ({ node := n, pkey := (vs.filter fun a => a.node == n).length, expert := 0, kind := adClose, phase := adVerdicts } : Admit)
        let m := updPhase m s.ctx (keyOf s layer) fun x => { x with verdictsSent := true }
        queueAdmits p m s.ctx (keyOf s layer) (vs ++ closes)
      else m
    | none => m
  | none => m

/-! ### Score records (R62 to R66, R81, R97 to R103) -/

/-- The head record of an inbound slot, where its channel kind and lane let it be taken (R33). -/
def takeable (p : Part) (m : Mach) (q k kind : Nat) : Option (StepRun × InRec × LayerT) :=
  match (slotAt m q k).ready, liveStep m with
  | r :: _, some s =>
    if engineUp m && !isFatal p m && r.kind == kind && laneTakes m r.ctx kind r.header then
      match boundTmpl s (kindLane kind) (headLayer kind r.header) with
      | some l => some (s, r, l)
      | none => none
    else none
  | _, _ => none

/-- The scores and weights of a record (R62). -/
def scoreRow (r : InRec) (l : LayerT) : List F32 × List F32 :=
  let f := scFmt r.header
  let w := if f = 0 then 4 else 2
  let bs := beatBytes r.beats
  let n := l.experts
  let el := fun i => widenScore f (fieldOf bs (w * i) (w * i + w - 1))
  ((List.range n).map el, if scWts r.header then (List.range n).map fun i => el (n + i) else [])

/-- The parameters of selection in a template. -/
def selParams (l : LayerT) : SelParams :=
  { experts := l.experts, groups := l.groups, groupsPicked := l.picked, groupTop2 := l.top2, k := l.k,
    gateFn := l.gateFn, routeMode := l.mode }

/-- LOCAL_SHARE's quota of this node for an expert (R99). -/
def quotaOf (p : Part) (m : Mach) (s : StepRun) (l : LayerT) (e : Nat) : Nat :=
  let t := stepTables m s
  localQuota (capOf t l e) (shareOf t) l.count s.step e (nodeId p m - l.base)

/-- LOCAL_SHARE decides a choice at once where no later token can change its outcome (R102). -/
def shareNow (p : Part) (m : Mach) (s : StepRun) (l : LayerT) (x : LayerPhase) (r : Rank) : Rank :=
  if r.status ≠ rkLive then r
  else
    let q := quotaOf p m s l r.expert
    let b := bitsOf s.admitCtrl 16 0
    let done := x.toks.filter fun t => t.decided
    let n := done.length + 1
    let a := ((done.flatMap fun t => t.ranks).filter fun y => y.expert == r.expert && y.status != rkNull).length + 1
    if b ≠ 0 ∧ a + b ≤ q + n then { r with held := false }
    else if q = 0 then { r with held := false, status := rkSkipped }
    else { r with held := true }

/-- The hearth that holds a score record's item since its first beat, or that takes it now; none while no
selection unit can accept it (R10, R93). -/
def seatScore (p : Part) (m : Mach) (c layer token experts : Nat) : Option Mach :=
  let i := scoreItem layer (nodeId p m) token
  if m.run.placed.any fun x => x.ctx == c && x.item == i then some m
  else if (placement p m .selection).isSome then some (placeItem p m .selection c i (8 * ceilDiv experts 1024) true)
  else none

/-- A score record's item fails: its token is not decided (R66, R101, R103, R124). -/
def scoreFails (m : Mach) (s : StepRun) (layer home token st : Nat) : Mach :=
  let m := leaveUnit m s.ctx (scoreItem layer home token)
  updPhase (failItem m s.ctx ⟨layer, laneScore, true, home, token, 0, st⟩) s.ctx (keyOf s layer) fun x =>
    { x with lastTok := some token, toks := x.toks ++ [{ token := token, decided := false }] }

/-- The table checks of a score record (R101, R103, R124): the status of the first that fails. DESIGN CHOICE: toward
BATCH_MAX count the tokens that have been decided, and none whose record failed. -/
def scoreTables (p : Part) (m : Mach) (s : StepRun) (l : LayerT) (x : LayerPhase) : Option Nat :=
  let b := bitsOf s.admitCtrl 16 0
  if tablesLack (stepTables m s) l then some stTable
  else if l.capMode ≠ 0 ∧ !l.nodes.contains (nodeId p m) then some stTable
  else if l.capMode = 1 ∧ b ≠ 0 ∧ b ≤ (x.toks.filter fun t => t.decided).length then some stQuota
  else none

/-- The offers a decided token makes (R105, R113). -/
def offersFor (p : Part) (m : Mach) (s : StepRun) (l : LayerT) (token : Nat) (rs : List Rank) : List Admit :=
  (rs.filter fun r => r.held).map fun r =>
    { node := admitterOf (stepTables m s) l r.expert, pkey := priorityKey r.rkey (nodeId p m) token,
      expert := r.expert, kind := adOffer }

/-- A checked score record's token is decided: selection, its ember slot, and the first stage of
admission (R81 to R86, R97 to R105, R19). -/
def decideRecord (p : Part) (m : Mach) (s : StepRun) (r : InRec) (l : LayerT) (gs : List Nat) : Mach :=
  let layer := headLayer chScore r.header
  let token := scToken r.header
  let k := keyOf s layer
  let t := stepTables m s
  let (xs, ws) := scoreRow r l
  let nan := nanScore xs ws (scWts r.header)
  let cs := if l.mode = modeChoice then offersOf (selParams l) xs (biasesOf t l) else decideToken (selParams l) xs ws (biasesOf t l)
  let rs := cs.map (rankOf t l (usesAdmit l))
  let rs := if l.mode = modeChoice then rs.filter fun r => r.status != rkNull else rs
  let rs := if l.capMode = 1 then rs.map (shareNow p m s l (phaseOf s layer)) else rs
  let m := if nan then updStep (bump p m (Reg.ctxSelNanTok s.ctx) 1) s.ctx fun s => { s with nan := true } else m
  let m := if cs.all fun c => c == nullChoice then bump p m (Reg.ctxSelNullTok s.ctx) 1 else m
  let m := addSlot m s layer token l nan gs (ctxJob p m s.ctx)
  let offers := if usesAdmit l then offersFor p m s l token rs else []
  let m := updPhase m s.ctx k fun x => { x with
    lastTok := some token, toks := x.toks ++ [{ token := token, decided := true, nan := nan, ranks := rs }],
    sentOffers := offers.foldl (fun c a => Assoc.set c a.node (Assoc.get 0 c a.node + 1)) x.sentOffers }
  finalizeAll p (queueAdmits p m s.ctx k offers) s.ctx layer l

/-- SCORE_RECORD (R62 to R66, R81). A record that its layer phase's batch has ended waits for the next
(R64), and one whose token finds no ember slot, selection unit or replay room waits (R10, R19, R448). -/
def scoreRecord (q k : Nat) (p : Part) (m : Mach) : Mach :=
  match takeable p m q k chScore with
  | some (s, r, l) =>
    let layer := headLayer chScore r.header
    let x := phaseOf s layer
    let token := scToken r.header
    if scEob r.header || x.eob then m
    else match r.fail with
    | some st => takeRec p (scoreFails m s layer (nodeId p m) token st) q k
    | none =>
      let e := if r.code ≠ 0 then r.code else scoreReason l x.lastTok r.header
      if e ≠ 0 then
        let m := wr p m (Reg.ctxSelErr s.ctx) (wordOf (e * 2 ^ 56 + layer * 2 ^ 32 + token))
        takeRec p (scoreFails m s layer (nodeId p m) token stFormat) q k
      else if !inputRoom p m s.ctx (512 * r.beats.length) then m
      else match scoreTables p m s l x with
      | some st => takeRec p (recordInput p (scoreFails m s layer (nodeId p m) token st) s.ctx layer r) q k
      | none => match newGranules p m s.ctx (slotGranules l), seatScore p m s.ctx layer token l.experts with
        | some gs, some m => takeRec p (recordInput p (decideRecord p m s r l gs) s.ctx layer r) q k
        | _, _ => m
  | none => m

/-- LOCAL_SHARE at the end of the batch: a held choice is admitted when its key is among the quota's
highest of its expert in the batch (R100). -/
def shareEnd (p : Part) (m : Mach) (s : StepRun) (l : LayerT) (x : LayerPhase) : LayerPhase :=
  let keys := fun e => (x.toks.filter fun t => t.decided).flatMap fun t =>
    (t.ranks.filter fun r => r.expert == e && r.status != rkNull).map fun r => priorityKey r.rkey (nodeId p m) t.token
  { x with toks := x.toks.map fun t =>
    if t.decided then { t with ranks := t.ranks.map fun r =>
      if r.held then
        let above := ((keys r.expert).filter fun k => decide (priorityKey r.rkey (nodeId p m) t.token < k)).length
        { r with held := false, status := if above < quotaOf p m s l r.expert then rkLive else rkSkipped }
      else r }
    else t }

/-- The batch of a layer phase ends (R64, R100, R105). -/
def endBatch (p : Part) (m : Mach) (s : StepRun) (layer : Nat) (l : LayerT) : Mach :=
  let k := keyOf s layer
  let m := updPhase m s.ctx k fun x => { x with eob := true }
  let m := if l.capMode = 1 then updPhase m s.ctx k (shareEnd p m s l) else m
  let m := finalizeAll p m s.ctx layer l
  if usesAdmit l then
    let sent := match stepOfCtx m s.ctx with
      | some s => (phaseOf s layer).sentOffers
      | none => []
    let closes := l.nodes.map fun n =>
      ({ node := n, pkey := Assoc.get 0 sent n, expert := 0, kind := adClose, phase := adOffers } : Admit)
    queueAdmits p (updPhase m s.ctx k fun x => { x with closeOffersSent := true }) s.ctx k closes
  else m

/-- EOB_MARKER (R64): the batch ends even where the marker fails a check or its framing. -/
def eobMarker (q k : Nat) (p : Part) (m : Mach) : Mach :=
  match takeable p m q k chScore with
  | some (s, r, l) =>
    let layer := headLayer chScore r.header
    if !scEob r.header || (phaseOf s layer).eob || !inputRoom p m s.ctx 512 then m
    else
      let e := if r.code ≠ 0 then r.code else scoreReason l none r.header
      let fails := fun st m => failItem m s.ctx ⟨layer, laneScore, false, nodeId p m, scToken r.header, 0, st⟩
      let m := match r.fail with
        | some st => fails st m
        | none =>
          if e ≠ 0 then fails stFormat (wr p m (Reg.ctxSelErr s.ctx) (wordOf (e * 2 ^ 56 + layer * 2 ^ 32 + scToken r.header)))
          else recordInput p m s.ctx layer r
      takeRec p (endBatch p m s layer l) q k
  | none => m

/-! ### The meanings of the commands -/

/-- EOB_MARKER (R64). -/
def execEobMarker (port slot : Nat) (s : State) : Host.Outcome State Fault Refusal :=
  .next { s with m := eobMarker port slot s.part s.m }

/-- ADMIT_FLIT_RECEIVE (R107). -/
def execAdmitFlitReceive (loop : Bool) (s : State) : Host.Outcome State Fault Refusal :=
  .next { s with m := admitFlitReceive loop s.part s.m }

/-- ADMIT_VERDICTS (R105). -/
def execAdmitVerdicts (layer : Nat) (s : State) : Host.Outcome State Fault Refusal :=
  .next { s with m := admitVerdicts layer s.part s.m }

/-- AGRANT_RECEIVE (R107). -/
def execAgrantReceive (s : State) : Host.Outcome State Fault Refusal :=
  .next { s with m := agrantReceive s.part s.m }

end Sys2Proof.Machine
end

