-- ==== Sys2Proof/Machine/Send.lean ====
section
/-! DEFINITION. Billet credit, kindling, the SEND lane and close markers (R157 to R170, R391). -/

namespace Sys2Proof.Machine

/-! ### Credit held at the sender (R157, R161) -/

/-- The credit of the smallest class that a billet of class cls may spend toward a destination (R157). -/
def bestCredit (x : Ctx) (k : Key) (dest cls : Nat) : Option Credit :=
  (List.range 8).findSome? fun c =>
    if c < cls then none
    else x.credits.find? fun v => v.dest == dest && v.key == k && v.cls == c && decide (0 < v.count)

/-- Credit of a class toward a destination set to n. -/
def setCredit (m : Mach) (c : Nat) (k : Key) (dest cls n : Nat) : Mach :=
  let x := ctxOf m c
  let rest := x.credits.filter fun v => !(v.dest == dest && v.key == k && v.cls == cls)
  setCtx m c { x with credits := if n = 0 then rest else rest ++ [{ dest := dest, key := k, cls := cls, count := n }] }

/-- Credit of a class held toward a destination. -/
def creditHeld (x : Ctx) (k : Key) (dest cls : Nat) : Nat :=
  ((x.credits.filter fun v => v.dest == dest && v.key == k && v.cls == cls).map fun v => v.count).sum

/-- What is held toward a destination for a layer phase is discarded and counted (R161). -/
def lapseCredit (p : Part) (m : Mach) (c : Nat) (k : Key) (dest : Nat) : Mach :=
  let x := ctxOf m c
  let (gone, rest) := x.credits.partition fun v => v.dest == dest && v.key == k
  bump p (setCtx m c { x with credits := rest }) (Reg.ctxKindleLapse c) (gone.map fun v => v.count).sum

/-! ### The SEND queues (R165 to R169) -/

/-- A layer phase's batch has ended and every decided token is final. -/
def batchFinal (x : LayerPhase) : Bool := x.eob && x.toks.all fun t => !t.decided || t.final

/-- SCORE is finished for a layer phase: its batch is final, and where the layer uses the admission exchange, its
admission is finished too (R34, R105). -/
def scoreFinished (x : LayerPhase) (l : LayerT) : Bool := batchFinal x && (!usesAdmit l || x.admitDone)

/-- PACK is finished for a layer phase (R34). -/
def packFinished (x : LayerPhase) : Bool := batchFinal x && x.toks.all fun t => !t.decided || t.packed

/-- Flits of a billet (R144). -/
def billetFlits (b : Billet) : Nat := ceilDiv (64 + b.code.length) 240

/-- The billet at the head of a destination's queue. -/
def headBillet (x : LayerPhase) (dest : Nat) : Option Billet := x.sendQ.find? fun b => b.dest == dest

/-- The head billet of a queue leaves the queue. -/
def unqueue (x : LayerPhase) (b : Billet) : LayerPhase := { x with sendQ := x.sendQ.erase b }

/-- A head billet that spends a credit starts: over the links, or on the loopback path (R17, R166). -/
def startBillet (p : Part) (m : Mach) (s : StepRun) (layer : Nat) (b : Billet) (v : Credit) : Mach :=
  let c := s.ctx
  let k := keyOf s layer
  let m := setCredit m c k b.dest v.cls (v.count - 1)
  let m := updPhase m c k fun x => { unqueue x b with sentCount := Assoc.set x.sentCount b.dest (Assoc.get 0 x.sentCount b.dest + 1) }
  if b.dest = nodeId p m then { m with run := { m.run with loopBillets := m.run.loopBillets ++ [(c, b)] } }
  else queuePacket p m 1 b.dest false 0 c (.billet c k b.token b.dest) (lineBytes b.header ++ b.code)

/-- A billet dropped at the head of its queue for want of a route (R169). -/
def dropBillet (p : Part) (m : Mach) (s : StepRun) (layer : Nat) (b : Billet) : Mach :=
  let k := keyOf s layer
  let m := countUnreach p (updPhase m s.ctx k fun x => unqueue x b) s.ctx k b.token b.dest
  let m := failItem m s.ctx ⟨layer, laneSend, true, nodeId p m, b.token, 0, stUnreachable⟩
  (List.range (billetFlits b)).foldl (fun m _ => billetGone m s.ctx k b.token) m

/-- The billets of one queue go while they hold credit; `n` bounds how many (R157, R165). -/
def pumpQueue (p : Part) (c layer dest : Nat) : Nat → Mach → Mach
  | 0, m => m
  | n + 1, m =>
    match liveStep m with
    | some s =>
      if s.ctx ≠ c then m
      else match headBillet (phaseOf s layer) dest with
        | some b =>
          if dest ≠ nodeId p m ∧ !laneOpenAt s laneSend layer then m
          else if dest ≠ nodeId p m ∧ noRoute p m dest then pumpQueue p c layer dest n (dropBillet p m s layer b)
          else match bestCredit (ctxOf m c) (keyOf s layer) dest b.cls with
            | some v => pumpQueue p c layer dest n (startBillet p m s layer b v)
            | none => m
        | none => m
    | none => m

/-- Every queue of a context's running step goes as far as it can. -/
def pumpSend (p : Part) (m : Mach) (c : Nat) : Mach :=
  match liveStep m with
  | some s =>
    if s.ctx ≠ c ∨ !engineUp m ∨ isFatal p m then m
    else s.phases.foldl (fun m (layer, x) =>
      (sortNat (x.sendQ.map fun b => b.dest).eraseDups).foldl (fun m d => pumpQueue p c layer d (x.sendQ.length + 1) m) m) m
  | none => m

/-! ### Reservations and grants at the receiver (R157 to R161) -/

/-- A source's layer phase has closed here: its marker has come and every billet it counts has been
handled (R174). -/
def srcClosed (x : LayerPhase) (src : Nat) : Bool :=
  x.marks.any fun v => v.1 == src && decide (v.2 ≤ Assoc.get 0 x.handled src)

/-- The receiver grants nothing further for a source and layer phase (R161). -/
def grantsEnded (m : Mach) (c src : Nat) (k : Key) : Bool :=
  match stepOfCtx m c with
  | some s => keyOfStep s k && srcClosed (phaseOf s k.layer) src
  | none => false

/-- Credit arrives from a destination: kindled credit is counted, an asked one ends the ASK, and what
comes after the close marker lapses (R160, R161). -/
def takeGrant (p : Part) (m : Mach) (c dest : Nat) (k : Key) (cls n : Nat) (asked : Bool) : Mach :=
  let m := if asked then
      let x := ctxOf m c
      setCtx m c { x with asked := x.asked.filter fun v => !(v.1 == dest && v.2 == k) }
    else bump p m (Reg.ctxKindleGrant c) n
  let closed := match stepOfCtx m c with
    | some s => keyOfStep s k && (phaseOf s k.layer).closeSent.contains dest
    | none => false
  if closed then bump p m (Reg.ctxKindleLapse c) n
  else pumpSend p (setCredit m c k dest cls (creditHeld (ctxOf m c) k dest cls + n)) c

/-- A grant goes to a source, over VC0 or to this node itself (R158 to R160). -/
def grantTo (p : Part) (m : Mach) (c src : Nat) (k : Key) (cls n : Nat) (asked : Bool) : Mach :=
  if src = nodeId p m then takeGrant p m c src k cls n asked
  else sendRecord p m src (creditRecord p m c k cls 0x12 n (if asked then 1 else 0))

/-- One receive buffer is reserved for a source, none where the quota or the class lacks it. -/
def reserve (p : Part) (m : Mach) (c src : Nat) (k : Key) (cls : Nat) (kindled : Bool) : Option Mach :=
  match allocBuf p m c cls .recv with
  | some (b, m) =>
    let x := ctxOf m c
    some (setCtx m c { x with resv := x.resv ++ [{ src := src, key := k, cls := cls, buf := b, kindled := kindled }] })
  | none => none

/-- Queued ASKs are answered in arrival order while buffers last, one of a class in a cycle; `n` bounds how many (R160,
R230). -/
def serveAsks (p : Part) (c : Nat) : Nat → Mach → Mach
  | 0, m => m
  | n + 1, m =>
    let x := ctxOf m c
    match x.asks with
    | a :: rest =>
      if grantsEnded m c a.src a.key then serveAsks p c n (setCtx m c { x with asks := rest })
      else if !classReady m c a.cls then m
      else match reserve p m c a.src a.key a.cls false with
        | some m =>
          serveAsks p c n (grantTo p (setCtx m c { ctxOf m c with asks := rest }) c a.src a.key a.cls 1 true)
        | none => m
    | [] => m

/-- The queued ASKs of a context. -/
def pumpAsks (p : Part) (m : Mach) (c : Nat) : Mach := serveAsks p c (ctxOf m c).asks.length m

/-- Buffers kindled so far for a source and layer phase (R159). -/
def kindledOf (x : Ctx) (src : Nat) (k : Key) : Nat :=
  ((x.kindled.filter fun v => v.1 == src && v.2.1 == k).map fun v => v.2.2).sum

/-- Up to n buffers reserved; how many were. -/
def reserveMany (p : Part) (c src : Nat) (k : Key) (cls : Nat) : Nat → Mach → Nat × Mach
  | 0, m => (0, m)
  | n + 1, m => match reserve p m c src k cls true with
    | some m => let (j, m) := reserveMany p c src k cls n m
                (j + 1, m)
    | none => (0, m)

/-- A KINDLE is answered at once (R159). -/
def answerKindle (p : Part) (m : Mach) (c src : Nat) (k : Key) (cls n : Nat) : Mach :=
  let x := ctxOf m c
  let lim := rdF p m (Reg.ctxDispCtrl c) 7 0 - kindledOf x src k
  if !x.asks.isEmpty || grantsEnded m c src k then m
  else
    let (g, m) := reserveMany p c src k cls (min n lim) m
    if g = 0 then m
    else
      let x := ctxOf m c
      grantTo p (setCtx m c { x with kindled := x.kindled ++ [(src, k, g)] }) c src k cls g false

/-- An ASK joins the queue (R160). -/
def queueAsk (p : Part) (m : Mach) (c src : Nat) (k : Key) (cls : Nat) : Mach :=
  if grantsEnded m c src k then m
  else
    let x := ctxOf m c
    pumpAsks p (setCtx m c { x with asks := x.asks ++ [{ src := src, key := k, cls := cls }] }) c

/-- The buffers reserved for a source and layer phase and not drawn are freed (R161). -/
def cancelResv (p : Part) (m : Mach) (c src : Nat) (k : Key) : Mach :=
  let x := ctxOf m c
  let (gone, rest) := x.resv.partition fun v => v.src == src && v.key == k
  pumpAsks p (gone.foldl (fun m v => freeBuf m c v.cls v.buf) (setCtx m c { x with resv := rest })) c

/-- KINDLE_RECEIVE (R159). -/
def kindleReceive (p : Part) (m : Mach) : Mach :=
  match takeRecord m 0x11 with
  | some (r, m) => match creditTarget p m r.bytes with
    | some c => answerKindle p m c r.src (recKey r.bytes) (bytesOf r.bytes 10 10 % 8) (bytesOf r.bytes 12 13)
    | none => m
  | none => m

/-- ASK_RECEIVE (R160): a record that has come joins the queue, and the queues are answered as far as
buffers allow. -/
def askReceive (p : Part) (m : Mach) : Mach :=
  let m := match takeRecord m 0x13 with
    | some (r, m) => match creditTarget p m r.bytes with
      | some c => queueAsk p m c r.src (recKey r.bytes) (bytesOf r.bytes 10 10 % 8)
      | none => m
    | none => m
  (residents m).foldl (pumpAsks p) m

/-- GRANT_RECEIVE (R157, R161). -/
def grantReceive (p : Part) (m : Mach) : Mach :=
  match takeRecord m 0x12 with
  | some (r, m) => match creditTarget p m r.bytes with
    | some c => takeGrant p m c r.src (recKey r.bytes) (bytesOf r.bytes 10 10 % 8) (bytesOf r.bytes 12 13) (bitOf r.bytes 112)
    | none => m
  | none => m

/-- The layer phase of the running step whose queue toward a node has a head billet that may go: that of
the SEND lane, and on the loopback path any (R17, R160). -/
def askPhase (p : Part) (m : Mach) (s : StepRun) (dest : Nat) : Option (Nat × Billet) :=
  s.phases.findSome? fun (layer, x) =>
    if dest = nodeId p m ∨ laneOpenAt s laneSend layer then (headBillet x dest).map fun b => (layer, b) else none

/-- ASK (R160): the head billet of a destination's queue holds no usable credit, and no ASK is out. -/
def ask (dest : Nat) (p : Part) (m : Mach) : Mach :=
  match liveStep m with
  | some s => match askPhase p m s dest with
    | some (layer, b) =>
      let c := s.ctx
      let k := keyOf s layer
      let x := ctxOf m c
      if !engineUp m || isFatal p m || (bestCredit x k dest b.cls).isSome || x.asked.contains (dest, k) then m
      else
        let m := bump p (setCtx m c { x with asked := x.asked ++ [(dest, k)] }) (Reg.ctxAskCnt c) 1
        if dest = nodeId p m then queueAsk p m c dest k b.cls
        else sendRecord p m dest (creditRecord p m c k b.cls 0x13 1 0)
    | none => m
  | none => m

/-! ### Close markers (R167, R168) -/

/-- A close marker's header (R168). -/
def closeHeader (p : Part) (m : Mach) (s : StepRun) (dest layer count : Nat) : List Byte :=
  billetHeader p m s dest layer 0 2 0 0 0 (count % 65536) (count / 65536) 0

/-- CLOSE_MARKER_SEND (R161, R167 to R169). -/
def closeMarkerSend (dest : Nat) (p : Part) (m : Mach) : Mach :=
  match liveStep m with
  | some s =>
    let layer := (laneOf s laneSend).layer
    let x := phaseOf s layer
    match boundTmpl s laneSend layer with
    | some l =>
      if engineUp m && !isFatal p m && laneOpenAt s laneSend layer && l.nodes.contains dest && !x.closeSent.contains dest
          && !x.unreach.contains dest && packFinished x && (headBillet x dest).isNone then
        let k := keyOf s layer
        let m := lapseCredit p (updPhase m s.ctx k fun x => { x with closeSent := x.closeSent ++ [dest] }) s.ctx k dest
        let m := queuePacket p m 1 dest false 0 s.ctx (.close s.ctx k dest)
          (closeHeader p m s dest layer (Assoc.get 0 x.sentCount dest))
        if dest = nodeId p m then updPhase m s.ctx k fun x => { x with closeLeft := x.closeLeft ++ [dest] } else m
      else m
    | none => m
  | none => m

/-- SEND is finished for a layer phase (R34, R169); with DISPATCH_KINDLE its hint requests have left too. -/
def sendFinished (p : Part) (m : Mach) (s : StepRun) (layer : Nat) (l : LayerT) (kindle : Bool) : Bool :=
  let x := phaseOf s layer
  packFinished x && x.sendQ.all (fun b => b.dest == nodeId p m) && x.flying == 0
    && l.nodes.all (fun d => x.closeLeft.contains d || x.unreach.contains d)
    && (!kindle || ((s.hintWait.all fun w => w.2 != layer) && s.kindles.all fun q => q.bound != layer))

/-! ### Kindling (R163, R164, R391) -/

/-- The fields of an entry of a hint record. -/
def hintNode (e : Nat) : Nat := e % 4096
def hintClass (e : Nat) : Nat := e / 4096 % 8
def hintBufs (e : Nat) : Nat := e / 65536 % 65536

/-- An entry that is counted in HINT_IGNORED (R164). -/
def hintIgnored (nodes : List Nat) (e : Nat) : Bool := e.testBit 15 || !nodes.contains (hintNode e)

/-- One entry's request goes: over VC0, or a reservation made here (R164). -/
def kindleEntry (p : Part) (c : Nat) (k : Key) (acc : Option Nat) (bound : Nat) (m : Mach) (e : Nat) : Mach :=
  let m := bump p m (Reg.ctxKindleReq c) (hintBufs e)
  if hintNode e = nodeId p m then answerKindle p m c (hintNode e) k (hintClass e) (hintBufs e)
  else
    let q : KindleOut := { dest := hintNode e, key := k, cls := hintClass e, count := hintBufs e, acc := acc, bound := bound }
    let m := match acc, m.run.step with
      | none, some s => setStep m { s with kindles := s.kindles ++ [q] }
      | _, _ => m
    sendRec p m { dst := hintNode e, bytes := creditRecord p m c k (hintClass e) 0x11 (hintBufs e) 0, kindle := some q }

/-- The entries of a hint list that send a request, with KINDLE_EN (R164). -/
def hintSends (p : Part) (m : Mach) (c : Nat) (nodes es : List Nat) : List Nat :=
  if rdB p m (Reg.ctxDispCtrl c) 8 then es.filter fun e => !hintIgnored nodes e && hintBufs e != 0 else []

/-- A hint list is carried out: the entries that it may not hold are counted, the others send their requests
(R164). -/
def kindleList (p : Part) (m : Mach) (c : Nat) (k : Key) (nodes es : List Nat) (acc : Option Nat) (bound : Nat := 0) : Mach :=
  (hintSends p m c nodes es).foldl (kindleEntry p c k acc bound)
    (bump p m (Reg.ctxHintIgnored c) (es.filter (hintIgnored nodes)).length)

/-- The node set of a LAYER template of the step's program. -/
def tmplNodes (pr : Program) (i : Nat) : List Nat := match layerTmpl pr i with
  | some l => l.nodes
  | none => []

/-- The 4-byte entries of a list. -/
def hintEntries (n : Nat) (bs : List Byte) : List Nat := (List.range n).map fun i => fieldOf bs (4 * i) (4 * i + 3)

/-- An opening of DISPATCH_KINDLE takes its hint record (R163, R164). A record that failed its framing or
parity fails its item and asks for nothing (R156). -/
def useHint (p : Part) (m : Mach) (s : StepRun) (r : InRec) (arg bound : Nat) : Mach :=
  let n := bitsOf r.header 47 32
  let layer := bitsOf r.header 25 16
  match r.fail with
  | some st => failItem m s.ctx ⟨bound, laneSend, false, 0, 0, 0, st⟩
  | none =>
  if hintBad r.header then bump p m (Reg.ctxHintIgnored s.ctx) (min n 4096)
  else
    let k : Key := if bound < layer then keyOf s layer else ⟨s.step + 1, 0, layer⟩
    kindleList p m s.ctx k (tmplNodes s.prog arg) (hintEntries n (beatBytes r.beats)) none bound

/-- The hint record at the head of an inbound slot is taken where an opening waits for it (R164). -/
def takeHint (p : Part) (m : Mach) (q k : Nat) : Mach :=
  match (slotAt m q k).ready, liveStep m with
  | r :: _, some s => match s.hintWait with
    | (arg, bound) :: rest =>
      if r.kind = chHint ∧ r.ctx = s.ctx ∧ engineUp m ∧ !isFatal p m then
        useHint p (takeRec p (setStep m { s with hintWait := rest }) q k) s r arg bound
      else m
    | [] => m
  | _, _ => m

/-- Hint records are taken wherever an opening waits. -/
def takeHints (p : Part) (m : Mach) : Mach :=
  (List.range (streamCount p.conf)).foldl (fun m q => [0, 1, 2, 3].foldl (fun m k => takeHint p m q k) m) m

/-- HINT (R391): with the last of its records gone the command completes. -/
def hint (w seq : Nat) (p : Part) (m : Mach) : Mach :=
  match dueCmd p m w seq 0x48 with
  | some r =>
    if r.phase ≠ .started ∨ w = 8 then m
    else match (ctxOf m w).program.bind fun pr => layerTmpl pr (bytesOf r.line 26 27 % 16384) with
    | none => complete m r stFormat
    | some l =>
      if txnsOut m (.cmdRead r.acc) then m
      else if r.memFail then complete m r stUncorrectable
      else
        let n := bytesOf r.line 40 41
        let es := hintEntries n (hostBytes m (bytesOf r.line 32 39 % 2 ^ 42) (4 * n))
        let k : Key := ⟨bytesOf r.line 16 21, bytesOf r.line 22 22 % 16, bytesOf r.line 24 25 % 1024⟩
        let far := ((hintSends p m w l.nodes es).filter fun e => hintNode e != nodeId p m).length
        let m := setRunning m { r with phase := .waiting, n := far }
        let m := kindleList p m w k l.nodes es (some r.acc)
        match findAcc m r.acc with
        | some r => if far = 0 then complete m r stDone else m
        | none => m
  | none => m

/-! ### The meanings of the commands -/

/-- HINT (R391). -/
def execHint (win seq : Nat) (s : State) : Host.Outcome State Fault Refusal :=
  .next { s with m := hint win seq s.part s.m }

/-- CLOSE_MARKER_SEND (R167). -/
def execCloseMarkerSend (dest : Nat) (s : State) : Host.Outcome State Fault Refusal :=
  .next { s with m := closeMarkerSend dest s.part s.m }

/-- ASK (R160). -/
def execAsk (dest : Nat) (s : State) : Host.Outcome State Fault Refusal :=
  .next { s with m := ask dest s.part s.m }

/-- KINDLE_RECEIVE (R159). -/
def execKindleReceive (s : State) : Host.Outcome State Fault Refusal :=
  .next { s with m := kindleReceive s.part s.m }

/-- ASK_RECEIVE (R160). -/
def execAskReceive (s : State) : Host.Outcome State Fault Refusal :=
  .next { s with m := askReceive s.part s.m }

/-- GRANT_RECEIVE (R157). -/
def execGrantReceive (s : State) : Host.Outcome State Fault Refusal :=
  .next { s with m := grantReceive s.part s.m }

end Sys2Proof.Machine
end

