-- ==== Sys2Proof/Machine/Pack.lean ====
section
/-! DEFINITION. Token records, the PACK lane, return staging and the building of billets (R117, R130 to
R149, R197, R559). -/

namespace Sys2Proof.Machine

/-! ### A token whose PACK item fails (R133, R196) -/

/-- Every LIVE rank of a slot becomes skipped: nothing of the token is combined. -/
def skipLive (e : EmberSlot) : EmberSlot :=
  { e with ranks := e.ranks.map fun r => if r.status = rkLive then { r with status := rkSkipped } else r,
           next := e.next.map fun t => (t.1, e.ranks.length) }

/-- A token's PACK item fails: it sends no billet, and every later lane treats its ranks as skipped. -/
def packFails (p : Part) (m : Mach) (s : StepRun) (layer : Nat) (tok : Tok) (st : Nat) : Mach :=
  let k := keyOf s layer
  let m := failItem m s.ctx ⟨layer, lanePack, true, nodeId p m, tok.token, 0, st⟩
  let m := setTok (freeAll m s.ctx tok.stage) s.ctx k
    { tok with failed := true, packed := true, landed := none, stage := [] }
  match slotOfTok (ctxOf m s.ctx) k tok.token with
  | some e => if e.wready then setEmber m s.ctx { skipLive e with readyAt := m.tick.cycle } else m
  | none => m

/-! ### Token records (R130 to R134, R559) -/

/-- An element area is written into its stage buffers, 32 KiB to a buffer. -/
def putStage (m : Mach) (c : Nat) (bufs : List (Nat × Nat)) (area : List Byte) : Mach :=
  bufs.zipIdx.foldl (fun m (b, i) => putBuf m c b.1 b.2 0 ((area.drop (32768 * i)).take 32768)) m

/-- The first check of R133 that a token record fails, its element area included. -/
def tokenCheck (l : LayerT) (tok : Tok) (r : InRec) (area : List Byte) : Nat :=
  let e := if r.code ≠ 0 then r.code else tokenReason l (some tok.token) r.header
  if e ≠ 0 then e
  else if isMx l.format && tkFmt r.header == l.format && areaPadBad l.hidden 64 area then 5
  else 0

/-- TOKEN_RECORD (R130 to R134). Token records pair with the score records of the batch in order; one
whose stage buffers cannot be had waits (R232). -/
def tokenRecord (q k : Nat) (p : Part) (m : Mach) : Mach :=
  match takeable p m q k chToken with
  | some (s, r, l) =>
    let layer := headLayer chToken r.header
    let key := keyOf s layer
    match (if groupCopies m s.ctx then none else (phaseOf s layer).toks[(phaseOf s layer).paired]?) with
    | none => m
    | some tok =>
      let paired := fun m => takeRec p (updPhase m s.ctx key fun x => { x with paired := x.paired + 1 }) q k
      let discard := fun m => paired (freeAll m s.ctx r.stage)
      if !tok.decided then discard m
      else match r.fail with
      | some st => discard (packFails p m s layer tok st)
      | none =>
        let area := (beatBytes r.beats).take (areaLen (tkFmt r.header) l.hidden 64)
        let e := tokenCheck l tok r area
        if e ≠ 0 then
          let m := wr p m (Reg.ctxCodeErr s.ctx) (wordOf (e * 2 ^ 56 + layer * 2 ^ 32 + scToken r.header))
          discard (packFails p m s layer tok stFormat)
        else if !inputRoom p m s.ctx (512 * r.beats.length) then m
        else match landStage p m r area.length with
          | none => m
          | some (bufs, m) =>
            let m := putStage m s.ctx bufs area
            let m := setTok m s.ctx key { tok with landed := some (r.header, area), stage := bufs }
            paired (recordInput p m s.ctx layer r)
  | none => m

/-! ### Return staging (R197) -/

/-- The bytes of a staging unit. -/
def stageUnit (l : LayerT) : Nat := if l.mode = modeKv then 2048 else 1024

/-- The classes of a rank's STAGE0 and STAGE1 buffers. -/
def rankClasses (l : LayerT) : List Nat :=
  let n := l.nt * stageUnit l
  classFor (min n 32768) :: (if 32768 < n then [classFor (n - 32768)] else [])

/-- Return staging of each of n LIVE ranks, or none. -/
def stageRanks (p : Part) (c : Nat) (l : LayerT) : Nat → Mach → Option (List (List (Nat × Nat)) × Mach)
  | 0, m => some ([], m)
  | n + 1, m =>
    match takeBufs p c .rstage (rankClasses l) m with
    | some (b, m) => match stageRanks p c l n m with
      | some (bs, m) => some (b :: bs, m)
      | none => none
    | none => none

/-- The staging of the LIVE ranks of a slot, in rank order. -/
def giveStage : List SlotRank → List (List (Nat × Nat)) → List SlotRank
  | r :: rs, bs =>
    if r.status = rkLive then { r with stage := (bs.headD []).take 1, stage1 := (bs.headD []).drop 1 } :: giveStage rs bs.tail else r :: giveStage rs bs
  | [], _ => []

/-! ### Billets (R117, R142, R144) -/

/-- The LIVE ranks of a token. -/
def liveRanks (tok : Tok) : List Rank := tok.ranks.filter fun r => r.status == rkLive

/-- The nodes of a token's LIVE ranks, in the order of the lowest rank each carries (R117). -/
def billetNodes (tok : Tok) : List Nat := ((liveRanks tok).map fun r => r.node).eraseDups

/-- The local expert mask of a token's billet to a node (R117, R144). -/
def maskFor (tok : Tok) (node : Nat) : Nat :=
  (liveRanks tok).foldl (fun a r => if r.node = node then a ||| 2 ^ r.slot else a) 0

/-- The FORMAT byte of a template. -/
def formatByte (l : LayerT) : Nat := l.format + if l.sparse then 16 else 0

/-- A token's billets, in order. -/
def billetsOf (p : Part) (m : Mach) (s : StepRun) (layer : Nat) (l : LayerT) (tok : Tok) (e : Encoded)
    (buf : Nat × Nat) : List Billet :=
  (billetNodes tok).map fun n =>
    { header := lineOf (billetHeader p m s n layer tok.token 1 (maskFor tok n) (formatByte l) buf.1 e.bytes.length
        (if isMx l.format then e.kept else 0) l.hidden),
      token := tok.token, dest := n, cls := buf.1, code := e.bytes, buf := some buf }

/-- What encoding counts (R136, R149). -/
def countCode (p : Part) (m : Mach) (c : Nat) (e : Encoded) (token : Bool) : Mach :=
  let m := bump p (bump p m (Reg.ctxCodeSatCnt c) e.sat) (Reg.ctxCodeNanBlk c) e.nanBlk
  if token then bump p (bump p m (Reg.ctxCodeBlkScan c) e.scanned) (Reg.ctxCodeBlkKept c) e.kept else m

/-- The code of a token record under a template (R135 to R140). -/
def tokenCode (l : LayerT) (header : Word) (area : List Byte) : Encoded :=
  encodeVec (tkFmt header) l.format l.sparse l.hidden 64 l.prune l.tau l.bestN area

/-- A token is encoded and its billets queued, where its staging and its home buffer can be had. DESIGN CHOICE: the home
buffer of a token whose one billet is its loopback has reference count 1, which its arrival drops (R142). -/
def encodeToken (p : Part) (m : Mach) (s : StepRun) (layer : Nat) (l : LayerT) (tok : Tok) (header : Word)
    (area : List Byte) : Option Mach :=
  let c := s.ctx
  let k := keyOf s layer
  let e := tokenCode l header area
  if !(classFor e.bytes.length :: rankClasses l).all (classReady m c) then none
  else match stageRanks p c l (liveRanks tok).length m with
  | none => none
  | some (stages, m) =>
    match allocBuf p m c (classFor e.bytes.length) .send with
    | none => none
    | some (n, m) =>
      let buf := (classFor e.bytes.length, n)
      let bs := billetsOf p m s layer l tok e buf
      let far := bs.filter fun b => b.dest != nodeId p m
      let m := setRefs (putBuf m c buf.1 buf.2 0 e.bytes) c buf.1 buf.2 (max 1 far.length)
      let m := match slotOfTok (ctxOf m c) k tok.token with
        | some slot => setEmber m c { slot with ranks := giveStage slot.ranks stages }
        | none => m
      let flits := (far.map billetFlits).sum
      let loop := if bs.length = far.length then 0 else 1
      let m := freeAll (countCode p m c e true) c tok.stage
      let m := setTok m c k { tok with packed := true, landed := none, stage := [], home := some buf, flits := flits + loop }
      some (updPhase m c k fun x => { x with sendQ := x.sendQ ++ bs, flying := x.flying + flits })

/-- The cycles for which a token's code keeps a coder: the longer of its input and the code (R147). -/
def packCycles (l : LayerT) (header : Word) (area : List Byte) : Nat :=
  coderCycles (max area.length (tokenCode l header area).bytes.length)

/-- A token's PACK item (R142): a token with no LIVE rank builds no code. It waits while no sparse coder is free
(R10). -/
def packItem (p : Part) (m : Mach) (s : StepRun) (layer : Nat) (l : LayerT) (f : ReadFinding) (tok : Tok) : Option Mach :=
  match tok.landed with
  | none => none
  | some (header, area) =>
    if tok.failed then some (packFails p m s layer tok stUncorrectable)
    else if liveRanks tok = [] then
      some (setTok (freeAll m s.ctx tok.stage) s.ctx (keyOf s layer) { tok with packed := true, dropped := true, landed := none, stage := [] })
    else
      let b := tok.stage.headD (0, 0)
      if groupCopies m s.ctx || (placement p m .coder).isNone then none
      else
      let m := placeItem p m .coder s.ctx (.step layer lanePack (nodeId p m) tok.token 0) (packCycles l header area)
      let (bad, m') := kilnRead p m (bufAddr (ctxOf m s.ctx) b.1 b.2) f (some 0)
      if bad then some (packFails p m' s layer tok stUncorrectable)
      else encodeToken p m' s layer l tok header area

/-- PACK_ENCODE (R142, R147, R165, R197): the first token that has landed, is final and has its buffers. -/
def packEncode (f : ReadFinding) (p : Part) (m : Mach) : Mach :=
  match liveStep m with
  | some s =>
    let layer := (laneOf s lanePack).layer
    match boundTmpl s lanePack layer with
    | some l =>
      if engineUp m && !isFatal p m && laneOpenAt s lanePack layer then
        match ((phaseOf s layer).toks.filter fun t => t.decided && t.final && !t.packed).findSome? (packItem p m s layer l f) with
        | some m => drainAllIn p (pumpSend p m s.ctx)
        | none => m
      else m
    | none => m
  | none => m

/-! ### The meanings of the commands -/

/-- TOKEN_RECORD (R133). -/
def execTokenRecord (port slot : Nat) (s : State) : Host.Outcome State Fault Refusal :=
  .next { s with m := tokenRecord port slot s.part s.m }

end Sys2Proof.Machine
end

