-- ==== Sys2Proof/Machine/Arrive.lean ====
section
/-! DEFINITION. Arrival of billets and close markers, and delivery of ricks to the host (R145, R146, R171
to R182). -/

namespace Sys2Proof.Machine

/-! ### Checks (R146, R173) -/

/-- A reserved bit of a billet-form header is set (R144). -/
def headerRsv (h : Line) : Bool :=
  bitsOf h 319 316 != 0 || bitsOf h 335 332 != 0 || bitsOf h 351 348 != 0 || bitsOf h 367 362 != 0
    || bitsOf h 399 397 != 0 || bitsOf h 407 403 != 0 || bytesOf h 51 51 != 0 || bytesOf h 58 63 != 0

/-- The first check of R146, of those of the header, that a billet fails; CODE, which completes with the
last flit, comes after them. -/
def billetReason (self : Nat) (l : LayerT) (h : Line) : Nat :=
  let n := bhCodeLen h
  if !([1, 2, 4].contains (bhKind h)) then 1
  else if bhDest h ≠ self then 2
  else if bitsOf h 396 392 ≠ formatByte l ∨ bytesOf h 56 57 ≠ l.hidden then 3
  else if n = 0 ∨ 32768 < n ∨ n % 16 ≠ 0 ∨ bhClass h ≠ classOf n then 4
  else if bhMask h = 0 then 5
  else if headerRsv h then 7
  else 0

/-- The CODE check of R146: KEPT and the code's shape. -/
def codeBad (l : LayerT) (h : Line) (code : List Byte) : Bool :=
  let kept := bytesOf h 54 55
  decide (code.length < bhCodeLen h) ||
    if isMx l.format then match readMxCode l.format l.sparse l.hidden code with
      | some bs => kept != (if l.sparse then (bs.filter Option.isSome).length else l.hidden / 32)
      | none => true
    else kept != 0 || (decodeCode l.format false l.hidden code).isNone

/-- The local slots that valid replicas of a layer's map assign to a node (R173, R176). -/
def slotsHere (t : Tables) (l : LayerT) (self : Nat) : List Nat :=
  match mapOf t l.mapLayer with
  | some b => sortNat ((b.entries.flatMap fun rs =>
      (rs.filter fun r => r.valid && r.node == self).map fun r => r.slot).eraseDups)
  | none => []

/-- The slots a mask names. -/
def maskSlots (mask : Nat) : List Nat := (List.range 256).filter fun j => mask.testBit j

/-! ### Placement (R171 to R175) -/

/-- RECV is finished for a layer phase (R34, R174). -/
def recvFinished (x : LayerPhase) (l : LayerT) : Bool := l.nodes.all fun n => (Assoc.find? x.closedAt n).isSome

/-- A rick of a layer phase. -/
def rickOf (x : LayerPhase) (slot : Nat) : Rick := (x.ricks.find? fun r => r.slot == slot).getD { slot := slot }

/-- A rick replaced. -/
def setRick (x : LayerPhase) (r : Rick) : LayerPhase :=
  { x with ricks := (x.ricks.filter fun y => y.slot != r.slot) ++ [r] }

/-- A row comes before another in ARRANGE_ID or ARRANGE_ARR order (R176); billets of one home placed in one cycle
stand as they were placed. -/
def rowBefore (byId : Bool) (a b : RecvBillet) : Bool :=
  if byId then decide (a.home < b.home) || (a.home == b.home && decide (a.token < b.token))
  else decide (a.cycle < b.cycle) || (a.cycle == b.cycle && (decide (a.home < b.home) ||
    (a.home == b.home && decide (a.arrival < b.arrival))))

/-- The rows of a rick not yet given to a record, in rick order (R176). -/
def rowsLeft (x : LayerPhase) (slot : Nat) : List RecvBillet :=
  sortBy (rowBefore (x.recvOp == 1)) (x.billets.filter fun b => (bhMask b.header).testBit slot && !b.given.contains slot)

/-- The sideband word of a beat with END. -/
def withEnd (b : Word × BitVec 4096) : Word × BitVec 4096 := (b.1 ||| (0x8000_0000_0000_0000 : Word), b.2)

/-- A record of the rick of a slot that has not begun. -/
def unbegun (c : Nat) (k : Key) (slot : Nat) (r : OutRec) : Bool :=
  r.sent == 0 && match r.use with
    | .rick d q j _ => d == c && q == k && j == slot
    | .comb _ _ _ _ => false

/-- Every outbound record changed. -/
def mapOut (m : Mach) (f : OutRec → OutRec) : Mach :=
  { m with run := { m.run with
    ports := m.run.ports.map fun (q, x) =>
      (q, { x with slots := x.slots.map fun (i, y) => (i, { y with out := y.out.map f }) }),
    outWait := m.run.outWait.map f } }

/-- Every outbound record. -/
def allOut (m : Mach) : List OutRec :=
  (m.run.ports.flatMap fun q => q.2.slots.flatMap fun s => s.2.out) ++ m.run.outWait

/-- RECV has finished for a layer phase: a record that has not begun and holds its rick's last rows carries END
(R177). -/
def endRicks (m : Mach) (c : Nat) (k : Key) (x : LayerPhase) : Mach :=
  (x.ricks.filter fun r => !r.ended && (rowsLeft x r.slot).isEmpty && (allOut m).any (unbegun c k r.slot)).foldl
    (fun m r => updPhase (mapOut m fun o => if unbegun c k r.slot o then { o with beats := o.beats.map withEnd } else o) c k
      fun x => setRick x { r with ended := true }) m

/-- What the close of a source brings for its layer phase. -/
def sourceClosed (m : Mach) (c : Nat) (k : Key) : Mach :=
  match stepOfCtx m c with
  | some s =>
    let x := phaseOf s k.layer
    if (boundTmpl s laneRecv k.layer).any (recvFinished x) then endRicks m c k x else m
  | none => m

/-- A source that has closed is noted with the cycle, and its unused reservations are cancelled (R161, R174). -/
def settleSource (p : Part) (m : Mach) (c : Nat) (k : Key) (src : Nat) : Mach :=
  match stepOfCtx m c with
  | some s =>
    let x := phaseOf s k.layer
    if srcClosed x src && (Assoc.find? x.closedAt src).isNone then
      sourceClosed (cancelResv p (updPhase m c k fun x => { x with
        closedAt := Assoc.set x.closedAt src m.tick.cycle }) c src k) c k
    else m
  | none => m

/-- A billet of a source has been handled, placed or dropped by a check (R174). -/
def billetHandled (p : Part) (m : Mach) (c : Nat) (k : Key) (src : Nat) : Mach :=
  settleSource p (updPhase m c k fun x => { x with
    handled := Assoc.set x.handled src (Assoc.get 0 x.handled src + 1) }) c k src

/-- BILLET_ERR of a context takes a reason and a header's fields (R146). -/
def billetErr (p : Part) (m : Mach) (c reason : Nat) (h : Line) : Mach :=
  wr p m (Reg.ctxBilletErr c)
    (wordOf (reason * 2 ^ 56 + bhHome h * 2 ^ 32 + bhLayer h * 2 ^ 16 + bhToken h))

/-- The reservation a billet draws: the smallest class that fits it (R157). -/
def drawResv (x : Ctx) (src : Nat) (k : Key) (cls : Nat) : Option Resv :=
  (List.range 8).findSome? fun c =>
    if c < cls then none else x.resv.find? fun v => v.src == src && v.key == k && v.cls == c

/-- A billet enters its reserved buffer and the ricks of its slots (R171); `tag` is its packet's where its code has
not landed whole. -/
def enterBillet (m : Mach) (c : Nat) (k : Key) (v : Resv) (h : Line) (code : List Byte) (tag : Option Nat) : Mach :=
  let x := ctxOf m c
  let m := setCtx m c { x with resv := x.resv.erase v }
  let m := putBuf (setRefs m c v.cls v.buf (popCount (bhMask h) 256)) c v.cls v.buf 0 code
  updPhase m c k fun x => { x with
    billets := x.billets ++ [{ header := h, home := bhHome h, token := bhToken h, cls := v.cls, buf := v.buf,
                               arrival := x.arrivals, code := code, cycle := m.tick.cycle, src := v.src, ptag := tag.getD 0,
                               whole := tag.isNone, kindled := v.kindled }],
    arrivals := x.arrivals + 1 }

/-- A billet fails a check: its item fails with ERR_FORMAT, and BILLET_ERR takes the reason (R146). -/
def billetFails (p : Part) (m : Mach) (c layer reason : Nat) (h : Line) : Mach :=
  failItem (billetErr p m c reason h) c ⟨layer, laneRecv, true, bhHome h, bhToken h, 0, stFormat⟩

/-- A RECV item: a billet of the bound layer phase is checked and placed, or dropped (R146, R171 to R174). Of one
whose last flit has not come, `tag` is the packet's, and CODE is judged when it comes. `lost` says that a kiln line
that the item reads, of the map or of the loopback copy, does not decode (R222). -/
def recvItem (p : Part) (m : Mach) (s : StepRun) (l : LayerT) (src : Nat) (h : Line) (code : List Byte)
    (tag : Option Nat) (lost : Bool) : Mach :=
  let c := s.ctx
  let layer := (laneOf s laneRecv).layer
  let k := keyOf s layer
  let fails := fun st m => failItem m c ⟨layer, laneRecv, true, bhHome h, bhToken h, 0, st⟩
  let drop := fun reason m => billetHandled p (billetFails p m c layer reason h) c k src
  let e := billetReason (nodeId p m) l h
  if e ≠ 0 then drop e m
  else match drawResv (ctxOf m c) src k (bhClass h) with
    | none => drop 8 m
    | some v =>
      let here := slotsHere (stepTables m s) l (nodeId p m)
      if lost then billetHandled p (fails stUncorrectable m) c k src
      else if (maskSlots (bhMask h)).any fun j => !here.contains j then billetHandled p (fails stTable m) c k src
      else if tag.isNone && codeBad l h code then drop 6 m
      else billetHandled p (enterBillet m c k v h code tag) c k src

/-- What the RECV lane makes of a billet or marker with this header: dropped, handled, or kept waiting
(R33, R145). -/
inductive RecvCase where
  | unknown
  | stale (ctx : Nat)
  | waits
  | item (s : StepRun) (l : LayerT)

/-- The case of a header. -/
def recvCase (p : Part) (m : Mach) (h : Line) : RecvCase :=
  match arrivalOf p m h with
  | .unknown => .unknown
  | .stale c => .stale c
  | .waits => .waits
  | .fits c _ => match liveStep m with
    | some s =>
      if s.ctx = c ∧ laneOpenAt s laneRecv (bhLayer h) = true ∧ engineUp m = true ∧ isFatal p m = false then
        match boundTmpl s laneRecv (bhLayer h) with
        | some l => .item s l
        | none => .waits
      else .waits
    | none => .waits

/-- It can be dealt with now. -/
def RecvCase.due : RecvCase → Bool
  | .waits => false
  | _ => true

/-- It is an item of the RECV lane. -/
def RecvCase.isItem : RecvCase → Bool
  | .item _ _ => true
  | _ => false

/-- A billet whose case is known. -/
def takeBillet (p : Part) (m : Mach) (src : Nat) (h : Line) (code : List Byte) (tag : Option Nat) (lost : Bool) : Mach :=
  match recvCase p m h with
  | .unknown => reportUnknownJob p m h
  | .stale c => bump p m (Reg.ctxStaleDrop c) 1
  | .waits => m
  | .item s l => recvItem p m s l src h code tag lost

/-- The RECV item of a header in this cycle takes a packer/arranger of a hearth, where one is free (R10, R171); a
billet that is no item takes none. -/
def onPacker (p : Part) (m : Mach) (h : Line) (work : Mach → Mach) : Mach :=
  match recvCase p m h with
  | .item s _ => onHearth p m .packer s.ctx (.step (bhLayer h) laneRecv (bhHome h) (bhToken h) 0) 1 work
  | _ => work m

/-- A received packet of VC1 whose first flit has come is a billet, or has a reserved KIND. -/
def isBilletPkt (x : RxPkt) : Bool := x.vc == 1 && rxStarted x && !([2, 4].contains (bhKind (rxHeader x)))

/-- The code of a billet packet as far as it has come without a gap. -/
def rxCode (x : RxPkt) : List Byte :=
  let n := ((List.range x.parts.length).takeWhile fun i => (Assoc.find? x.parts i).isSome).length
  (((rxBytes x).take (240 * n)).drop 64).take (bhCodeLen (rxHeader x))

/-! ### Codes that land after their billet was placed (R146, R171, R173) -/

/-- A record waits for this row's code. -/
def awaitsRow (c : Nat) (k : Key) (row : Nat × Nat) (r : OutRec) : Bool :=
  r.awaits.contains row && (match r.use with
    | .rick d q _ _ => d == c && q == k
    | .comb _ _ _ _ => false)

/-- The loopback copy is complete: the token's home buffer has one user less (R142). -/
def loopCopied (m : Mach) (c : Nat) (b : Billet) : Mach :=
  let k : Key := ⟨bhStep b.header, bhAtt b.header, bhLayer b.header⟩
  billetGone (updPhase m c k fun x => { x with flying := x.flying + 1 }) c k b.token

/-- A close marker is checked and recorded (R174). -/
def takeMarker (p : Part) (m : Mach) (src : Nat) (h : Line) : Mach :=
  match recvCase p m h with
  | .unknown => reportUnknownJob p m h
  | .stale c => bump p m (Reg.ctxStaleDrop c) 1
  | .waits => m
  | .item s _ =>
    let c := s.ctx
    let layer := (laneOf s laneRecv).layer
    let e := if bhDest h ≠ nodeId p m then 2 else if headerRsv h then 7 else 0
    if e ≠ 0 then failItem (billetErr p m c e h) c ⟨layer, laneRecv, false, 0, 0, 0, stFormat⟩
    else
      let k := keyOf s layer
      settleSource p (updPhase m c k fun x => { x with marks := x.marks ++ [(src, bytesOf h 52 55)] }) c k src

/-- CLOSE_MARKER_RECEIVE (R174): the oldest marker that can be handled. -/
def closeMarkerReceive (loop : Bool) (p : Part) (m : Mach) : Mach :=
  match m.net.rx.find? fun x => x.vc == 1 && rxWhole x && bhKind (lineOf (rxBytes x)) == 2
      && (x.src == nodeId p m) == loop && (recvCase p m (lineOf (rxBytes x))).due with
  | some x => takeMarker p (dropRx m x) x.src (lineOf (rxBytes x))
  | none => m

/-! ### Ricks (R176 to R182) -/

/-- The cycle in which RECV finished. -/
def recvTime (x : LayerPhase) (l : LayerT) : Nat := l.nodes.foldl (fun a n => max a (Assoc.get 0 x.closedAt n)) 0

/-- The cycle in which a row became deliverable; none while it is not (R176). -/
def rowTime (x : LayerPhase) (l : LayerT) (b : RecvBillet) : Option Nat :=
  if x.recvOp = 1 then
    let ns := l.nodes.filter fun n => decide (n ≤ b.home)
    if ns.all fun n => (Assoc.find? x.closedAt n).isSome then
      some (ns.foldl (fun a n => max a (Assoc.get 0 x.closedAt n)) b.cycle)
    else none
  else some b.cycle

/-- A layout's FORM and ARR (R181). -/
def layForm (l : LayerT) : Nat := l.layout % 16
def layTiles (l : LayerT) : Bool := l.layout / 16 % 4 == 1

/-- The next record of a rick: its rows, whether it is the last, and when it became deliverable
(R176, R177, R182). -/
def nextRows (x : LayerPhase) (l : LayerT) (slot : Nat) : Option (List RecvBillet × Bool × Nat) :=
  let rest := rowsLeft x slot
  let grp := rest.take (if layTiles l then 16 else 1)
  let ts := grp.map (rowTime x l)
  let last := recvFinished x l && grp.length == rest.length
  if grp.isEmpty || ts.any Option.isNone then none
  else
    let t := ts.foldl (fun a o => max a (o.getD 0)) 0
    if layTiles l ∧ grp.length < 16 then (if last then some (grp, true, max t (recvTime x l)) else none)
    else some (grp, last, t)

/-- What a rick has to send became deliverable at this time, its terminating record included (R177). -/
def rickTurn (x : LayerPhase) (l : LayerT) (slot : Nat) : Option Nat :=
  if (rickOf x slot).ended then none
  else match nextRows x l slot with
    | some (_, _, t) => some t
    | none => if recvFinished x l && (rowsLeft x slot).isEmpty then some (recvTime x l) else none

/-- A rick's record may start: it has one due, its pair carries no other, and no rick of the same pair
comes before it (R154, R178). -/
def rickMay (p : Part) (m : Mach) (s : StepRun) (l : LayerT) (layer slot : Nat) : Bool :=
  let x := phaseOf s layer
  let here := slotsHere (stepTables m s) l (nodeId p m)
  let ps := pairs p m s.ctx chRick
  match rickTurn x l slot, ps[slot % ps.length]? with
  | some t, some (q, k) =>
    here.contains slot && (slotAt m q k).out.isEmpty && m.run.outWait.all (fun r => r.use.kind != chRick || r.use.ctx != s.ctx)
      && here.all fun j =>
        if j % ps.length = slot % ps.length ∧ j ≠ slot then match rickTurn x l j with
          | some u => decide (t < u) || (t == u && decide (slot < j))
          | none => true
        else true
  | _, _ => false

/-- The FEED lane's layer phase with its template, where an item of it may start. -/
def feedAt (p : Part) (m : Mach) : Option (StepRun × LayerT × Nat) :=
  match liveStep m with
  | some s =>
    let layer := (laneOf s laneFeed).layer
    if engineUp m && !isFatal p m && laneOpenAt s laneFeed layer then (boundTmpl s laneFeed layer).map fun l => (s, l, layer)
    else none
  | none => none

/-- The sideband word of a row's beats (R180). -/
def rowHead (fin mark : Bool) (home token layer slot row : Nat) : Word :=
  wordOf ((if fin then 2 ^ 63 else 0) + (if mark then 2 ^ 62 else 0) + home * 2 ^ 50 + token * 2 ^ 34
    + layer * 2 ^ 24 + slot * 2 ^ 16 + row % 65536)

/-- Beat i of an image. -/
def beatAt (img : List Byte) (i : Nat) : BitVec 4096 := BitVec.ofNat 4096 (leNat ((img.drop (512 * i)).take 512))

/-- The beats of a billet's row: of an MX_SPARSE row those that its code takes (R181, R182). -/
def rowLen (l : LayerT) (b : RecvBillet) : Nat :=
  if layForm l = 1 then ceilDiv (64 + bhCodeLen b.header) 512 else rowBeats (layForm l) l.format l.sparse l.hidden

/-- The blocks and bytes of a billet's code that have landed in whole segments (R140). -/
def blocksLanded (l : LayerT) (b : RecvBillet) : Nat × Nat :=
  landedSegments l.format l.sparse (l.hidden / 512 + 2) (l.hidden / 32) b.code

/-- The code that a row is made from: as far as it has landed, and zeros after. -/
def codeOf (l : LayerT) (b : RecvBillet) : List Byte :=
  if b.whole then b.code
  else
    let bs := if layForm l ≠ 1 ∧ isMx l.format then b.code.take (blocksLanded l b).2 else b.code
    bs ++ List.replicate (bhCodeLen b.header - bs.length) 0

/-- The row image of a placed billet (R181); zeros where its code has failed (R173). -/
def imageOf (l : LayerT) (b : RecvBillet) : List Byte :=
  if b.bad then List.replicate (512 * rowLen l b) 0
  else rowImage (layForm l) l.format l.sparse l.hidden (lineBytes b.header) (codeOf l b)

/-- The beats at the start of a row that the code landed so far makes (R176). -/
def beatsLanded (l : LayerT) (b : RecvBillet) : Nat :=
  let elems := if isMx l.format then 32 * (blocksLanded l b).1 else 8 * b.code.length / elemBits l.format
  if b.whole then rowLen l b
  else match layForm l with
    | 0 => if l.hidden ≤ elems then rowLen l b else elems / 32 / 512
    | 1 => (64 + b.code.length) / 512
    | f => if l.hidden ≤ elems then rowLen l b else elems * (if f = 4 then 4 else 2) / 512

/-- The beats of a record of rows that starts at row position n (R180, R182). -/
def rickBeats (l : LayerT) (layer slot n : Nat) (fin : Bool) (rows : List RecvBillet) : List (Word × BitVec 4096) :=
  let imgs := rows.map (imageOf l)
  let heads := rows.zipIdx.map fun (b, i) => rowHead fin false b.home b.token layer slot (n + i)
  if layTiles l then
    let pads := (List.range (16 - rows.length)).map fun i => rowHead fin true 0 0 layer slot (n + rows.length + i)
    let heads := heads ++ pads
    (List.range (((imgs.headD []).length) / 512)).flatMap fun c =>
      heads.zipIdx.map fun (h, r) => (h, beatAt (imgs.getD r []) c)
  else
    (List.range ((imgs.headD []).length / 512)).map fun i => (heads.headD 0, beatAt (imgs.headD []) i)

/-- Rows are given to a record of their rick. -/
def giveRows (x : LayerPhase) (slot : Nat) (rows : List RecvBillet) : LayerPhase :=
  { x with billets := x.billets.map fun b =>
      if rows.any fun r => r.home == b.home && r.token == b.token then { b with given := slot :: b.given } else b }

/-- The beats at the start of a record of rows that may go (R176, R182). -/
def recLanded (l : LayerT) (rows : List RecvBillet) (n : Nat) : Nat :=
  if layTiles l then
    ((List.range n).takeWhile fun i => match rows[i % 16]? with
      | some b => decide (i / 16 < beatsLanded l b)
      | none => true).length
  else (rows.head?.map (beatsLanded l)).getD n

/-- The data of a record of rows that waits for codes, as far as they have landed; the sideband and the beats that
have gone stay (R173, R180). -/
def fillRec (l : LayerT) (rows : List RecvBillet) (r : OutRec) : OutRec :=
  let data := (rickBeats l 0 0 0 false rows).map fun b => b.2
  { r with beats := r.beats.take r.sent ++ ((r.beats.zip data).map fun q => (q.1.1, q.2)).drop r.sent,
           landed := recLanded l rows r.beats.length,
           awaits := r.awaits.filter fun w => rows.any fun b => b.home == w.1 && b.token == w.2 && !b.whole }

/-- The placed billets of a record's rows. -/
def recRows (x : LayerPhase) (r : OutRec) : List RecvBillet :=
  match r.use with
  | .rick _ _ _ rows => rows.filterMap fun w => x.billets.find? fun b => b.home == w.1 && b.token == w.2
  | .comb _ _ _ _ => []

/-- A placed billet changed. -/
def setBillet (m : Mach) (c : Nat) (k : Key) (home token : Nat) (f : RecvBillet → RecvBillet) : Mach :=
  updPhase m c k fun x => { x with billets := x.billets.map fun b => if b.home = home ∧ b.token = token then f b else b }

/-- The records that wait for a row take its image. -/
def fillRow (p : Part) (m : Mach) (s : StepRun) (l : LayerT) (layer : Nat) (row : Nat × Nat) : Mach :=
  let k := keyOf s layer
  let x := match stepOfCtx m s.ctx with
    | some s => phaseOf s layer
    | none => {}
  drainAllOut p (mapOut m fun r => if awaitsRow s.ctx k row r then fillRec l (recRows x r) r else r)

/-- A billet whose code fails CODE after its last flit (R146, R173): where no row of it has begun it is dropped and
its buffer returns to the reservation, which is cancelled where its source has closed (R161); else the rows that have begun complete with zero bytes and its other rows
are withheld. -/
def codeFails (p : Part) (m : Mach) (s : StepRun) (l : LayerT) (layer : Nat) (src : Nat) (b : RecvBillet) : Mach :=
  let c := s.ctx
  let k := keyOf s layer
  let m := billetFails p m c layer 6 b.header
  if b.given.isEmpty then
    let m := updPhase m c k fun x => { x with billets := x.billets.filter fun y => !(y.home == b.home && y.token == b.token) }
    let m := setRefs m c b.cls b.buf 1
    let m := setCtx m c { ctxOf m c with
      resv := (ctxOf m c).resv ++ [{ src := src, key := k, cls := b.cls, buf := b.buf, kindled := b.kindled }] }
    if (Assoc.find? (phaseOf s layer).closedAt src).isSome then cancelResv p m c src k else m
  else
    let m := setBillet m c k b.home b.token fun b => { b with whole := true, bad := true }
    let m := fillRow p m s l layer (b.home, b.token)
    ((maskSlots (bhMask b.header)).filter fun j => !b.given.contains j).foldl (fun m j =>
      rowGone p c k (updPhase m c k fun x => giveRows x j [b]) (b.home, b.token)) m

/-- The last flit of a billet that was placed before has come (R171): CODE is judged, its code stands in its buffer,
and the records that wait for it go on. -/
def codeLands (p : Part) (m : Mach) (x : RxPkt) : Mach :=
  let h := rxHeader x
  let layer := bhLayer h
  match arrivalOf p m h with
  | .fits c s => match (phaseOf s layer).billets.find? fun b => !b.whole && b.src == x.src && b.ptag == x.ptag,
      boundTmpl s laneRecv layer with
    | some b, some l =>
      if codeBad l h (rxCode x) then codeFails p m s l layer x.src b
      else
        let m := setBillet (putBuf m c b.cls b.buf 0 (rxCode x)) c (keyOf s layer) b.home b.token fun b =>
          { b with whole := true, code := rxCode x }
        fillRow p m s l layer (b.home, b.token)
    | _, _ => m
  | _ => m

/-- More of the code of a billet that was placed before has come: the records that wait for it go on (R176). -/
def codeGrows (p : Part) (m : Mach) (x : RxPkt) : Mach :=
  match arrivalOf p m (rxHeader x) with
  | .fits c s =>
    let layer := bhLayer (rxHeader x)
    match (phaseOf s layer).billets.find? fun b => !b.whole && b.src == x.src && b.ptag == x.ptag,
      boundTmpl s laneRecv layer with
    | some b, some l =>
      if (rxCode x).length ≤ b.code.length then m
      else fillRow p (setBillet m c (keyOf s layer) b.home b.token fun b => { b with code := rxCode x }) s l layer (b.home, b.token)
    | _, _ => m
  | _ => m

/-- The codes that are landing, as far as they have come. -/
def codesGrow (p : Part) (m : Mach) : Mach :=
  (m.net.rx.filter fun x => isBilletPkt x && x.taken && !rxWhole x).foldl (codeGrows p) m

/-- A billet packet that can be dealt with: one whose case is known, or one dealt with whose last flit has come. -/
def billetDue (p : Part) (m : Mach) (x : RxPkt) : Bool :=
  isBilletPkt x && if x.taken then rxWhole x else (recvCase p m (rxHeader x)).due

/-- BILLET_RECEIVE (R145, R171 to R175): the oldest billet received that can be handled, from a link or on
the loopback path (R17). From a link it is handled once its first flit has come, and again with its last. -/
def billetReceive (loop : Bool) (p : Part) (m : Mach) (lost : Bool := false) : Mach :=
  if loop then
    match m.run.loopBillets.find? fun b => (recvCase p m b.2.header).due with
    | some (c, b) => onPacker p m b.header fun m =>
      let m := { m with run := { m.run with loopBillets := m.run.loopBillets.erase (c, b) } }
      loopCopied (takeBillet p m (nodeId p m) b.header b.code none lost) c b
    | none => m
  else
    match m.net.rx.find? (billetDue p m) with
    | some x =>
      if x.taken then codeLands p (dropRx m x) x
      else onPacker p m (rxHeader x) fun m =>
        if rxWhole x then takeBillet p (dropRx m x) x.src (rxHeader x) (rxCode x) none lost
        else takeBillet p (markRx m x) x.src (rxHeader x) (rxCode x) (some x.ptag) lost
    | none => m

/-- The cycles for which a record of rows keeps a coder: the longer of its codes and its beats (R148). -/
def feedCycles (l : LayerT) (rows : List RecvBillet) : Nat :=
  coderCycles (max (rows.map fun b => bhCodeLen b.header).sum (rows.map fun b => 512 * rowLen l b).sum)

/-- RICK_ROW_DELIVER (R176 to R182): the next record of a rick starts. A row whose code does not read back
fails its item and is withheld (R222). -/
def rickRowDeliver (slot : Nat) (f : ReadFinding) (p : Part) (m : Mach) : Mach :=
  match feedAt p m with
  | some (s, l, layer) =>
    let k := keyOf s layer
    let x := phaseOf s layer
    match nextRows x l slot with
    | some (rows, last, _) =>
      if !rickMay p m s l layer slot then m
      else
        let b := rows.headD { header := 0, home := 0, token := 0, cls := 0, buf := 0, arrival := 0, code := [] }
        if copyBusy m (bufAddr (ctxOf m s.ctx) b.cls b.buf) then m
        else onHearth p m .coder s.ctx (.step layer laneFeed b.home b.token 0) (feedCycles l rows) fun m =>
        let (bad, m) := kilnRead p m (bufAddr (ctxOf m s.ctx) b.cls b.buf) f (some 0)
        if bad then
          let m := failItem m s.ctx ⟨layer, laneFeed, true, b.home, b.token, 0, stUncorrectable⟩
          rowGone p s.ctx k (updPhase m s.ctx k fun x => giveRows x slot [b]) (b.home, b.token)
        else
          let r := rickOf x slot
          let m := updPhase m s.ctx k fun x =>
            { setRick (giveRows x slot rows) { r with rows := r.rows + rows.length, ended := last } with outRicks := x.outRicks + 1 }
          let m := placeOut p m { beats := rickBeats l layer slot r.rows last rows,
                                  use := .rick s.ctx k slot (rows.map fun b => (b.home, b.token)),
                                  awaits := (rows.filter fun b => !b.whole).map fun b => (b.home, b.token),
                                  landed := recLanded l rows (if layTiles l then 16 * ((rows.map (rowLen l)).headD 0) else 0),
                                  tiled := layTiles l }
          pumpAsks p m s.ctx
    | none => m
  | none => m

/-- RICK_END (R177): the terminating record of a rick whose last record did not carry END. -/
def rickEnd (slot : Nat) (p : Part) (m : Mach) : Mach :=
  match feedAt p m with
  | some (s, l, layer) =>
    let k := keyOf s layer
    let x := phaseOf s layer
    if (rowsLeft x slot).isEmpty && recvFinished x l && rickMay p m s l layer slot then
      let r := rickOf x slot
      let m := updPhase m s.ctx k fun x => { setRick x { r with ended := true } with outRicks := x.outRicks + 1 }
      placeOut p m { beats := [(rowHead true true 0 0 layer slot r.rows, 0)], use := .rick s.ctx k slot [] }
    else m
  | none => m

/-- FEED is finished for a layer phase (R34). -/
def feedFinished (p : Part) (m : Mach) (s : StepRun) (layer : Nat) (l : LayerT) : Bool :=
  let x := phaseOf s layer
  recvFinished x l && x.outRicks == 0
    && (slotsHere (stepTables m s) l (nodeId p m)).all fun j => (rickOf x j).ended

/-! ### The meanings of the commands -/

/-- CLOSE_MARKER_RECEIVE (R174). -/
def execCloseMarkerReceive (loop : Bool) (s : State) : Host.Outcome State Fault Refusal :=
  .next { s with m := closeMarkerReceive loop s.part s.m }

/-- RICK_END (R177). -/
def execRickEnd (slot : Nat) (s : State) : Host.Outcome State Fault Refusal :=
  .next { s with m := rickEnd slot s.part s.m }

end Sys2Proof.Machine
end

