-- ==== Sys2Proof/Machine/Recovery.lean ====
section
/-! DEFINITION. Hearth faults and their retirement (R454 to R456), the scrubber and the spare's copy
(R221 to R223), PAGE_CTRL (R528), host loss (R463) and the ash log's own commands (R467 to R471). -/

namespace Sys2Proof.Machine

/-! ### Hearths (R453 to R456) -/

/-- A hearth's self-test ends before its time: it returns to placement, BIST_RUN completes (R456). -/
def stopHearthBist (p : Part) (m : Mach) (h st : Nat) : Mach :=
  let x := hearthOf m h
  if x.bist then endBist p (setHearth m h { x with bist := false }) x.bistAcc st true false else m

/-- The spare that can take a place: present, usable, another hearth than h, standing for none (R455). -/
def freeSpare (p : Part) (m : Mach) (h : Nat) : Option Nat :=
  match spareHearth p.conf with
  | some s => if s ≠ h ∧ (usableHearths p m).contains s ∧ (hearthOf m s).standsFor = none then some s else none
  | none => none

/-- A hearth retires with a cause of HEARTH_RETIRE (R453, R455, R456); its placed items move to other hearths. -/
def retireHearth (p : Part) (m : Mach) (h cause : Nat) : Mach :=
  if (hearthOf m h).retired then m
  else
    let others := (usableHearths p m).filter fun i => i != h
    let m := if others.all (fun i => (hearthOf m i).bist) then
        others.foldl (fun m i => stopHearthBist p m i stKilled) m else m
    let m := stopHearthBist p m h stChannelRetired
    let spare := freeSpare p m h
    let m := setHearth m h { hearthOf m h with retired := true }
    let m := match spare with
      | some s => setHearth m s { hearthOf m s with standsFor := some (placeOf m h) }
      | none => m
    let m := moveItems m h
    let m := setLastStatus p m (Reg.hrthPage h) stChannelRetired
    let m := report p m {
      code := 0x21, page := Reg.hrthPage h, sev := .permanent,
      detail := [BitVec.ofNat 8 h, BitVec.ofNat 8 cause, BitVec.ofNat 8 (spare.getD 0xFF)] }
    if others.isEmpty then fatal p m 2 h else m

/-- The code of a sub-unit in HEARTH_FAULT. -/
def unitCode : SubUnit → Nat
  | .selection => 0 | .coder => 1 | .combine => 2 | .packer => 3 | .itemState => 4

/-- The item whose state a hearth lost fails with ERR_UNCORRECTABLE (R454): a PACK item's token has no
billets, a MELD item's tile is not streamed. -/
def failHeld (m : Mach) (i : ItemRef) : Mach :=
  match i with
  | .none => m
  | .step layer lane home token tile => match liveStep m with
    | some s =>
      let m := failItem m s.ctx ⟨layer, lane, true, home, token, tile, stUncorrectable⟩
      if lane = lanePack then
        updPhase m s.ctx (keyOf s layer) fun x => { x with toks := x.toks.map fun t =>
          if t.token = token ∧ t.packed = false then { t with failed := true } else t }
      else if lane = laneMeld then tileDone m s.ctx (keyOf s layer) token tile
      else m
    | none => m
  | .cmd w seq => match findRunning m w seq with
    | some r => setRunning m { r with memFail := true }
    | none => m

/-- A hearth works on an item in a sub-unit, or holds the item's state. -/
def worksOn (m : Mach) (h : Nat) (unit : SubUnit) (item : ItemRef) : Bool :=
  m.run.placed.any fun x => x.hearth == some h && x.item == item && (unit == .itemState || x.unit == unit)

/-- HEARTH_FAULT (R454, R453): `tries` failed tries of one operation of an item that R10 has placed on the hearth;
fewer than three, and a repeat passes. -/
def hearthFault (h : Nat) (unit : SubUnit) (tries : Nat) (item : ItemRef) (p : Part) (m : Mach) : Mach :=
  if !(usableHearths p m).contains h || tries == 0 || !worksOn m h unit item then m
  else
    let state := decide (unit = .itemState)
    let shown := if state then tries else min 3 (tries + 1)
    let m := report p m {
      code := 0x20, page := Reg.hrthPage h, sev := .transient,
      detail := [BitVec.ofNat 8 h, BitVec.ofNat 8 (unitCode unit), BitVec.ofNat 8 shown] }
    let m := setLastStatus p m (Reg.hrthPage h) stUncorrectable
    let m := if state then failHeld m item else m
    if !state && decide (3 ≤ tries) then retireHearth p m h 2
    else
      let n := rdF p m (Reg.hrthThresh h) 7 0
      let x := hearthOf m h
      let ts := within m.tick.time (1000000000 * fsPerNs * rdF p m (Reg.hrthThresh h) 23 8) x.faults ++ [m.tick.time]
      let m := setHearth m h { x with faults := ts }
      if n ≠ 0 ∧ n ≤ ts.length then retireHearth p m h 1 else m

/-! ### The scrubber and the spare (R221 to R223) -/

/-- Lines of the configuration: those of its logical groups, and the spare's own have no number. -/
def kilnLines (p : Part) : Nat := 32768 * (groupCount p.conf - 1)

/-- SCRUB_READ of a line that exists (R221, R222): while SCRUB.EN is 1. -/
def scrubRead (line : Nat) (f : ReadFinding) (p : Part) (m : Mach) : Mach :=
  if engineUp m && rdB p m Reg.kilnScrub 16 && !copyBusy m (64 * line) then (kilnRead p m (64 * line) f none).2 else m

/-- A line that the copy of a group into the spare reads (R221 to R223): corrected on the way, or written so that it
decodes as uncorrectable; its old group has retired already. -/
def copyFinds (p : Part) (g : Nat) (m : Mach) (f : StoreRead) : Mach :=
  match f with
  | .line n ok =>
    if n / 32768 ≠ g then m else if ok then kilnCorrected p m n else lineNoted p m n (8 * g + n % 8) none
  | _ => m

/-- KILN_SPARE_COPY_END (R223): the copy has taken its 4,096 cycles; what its reads have found. -/
def kilnSpareCopyEnd (found : List StoreRead) (p : Part) (m : Mach) : Mach :=
  let k := m.run.kilnSt
  if k.copying.any fun c => decide (c + 4096 ≤ m.tick.cycle) then
    found.foldl (copyFinds p (k.served.getD 32)) { m with run := { m.run with kilnSt := { k with copying := none } } }
  else m

/-! ### PAGE_CTRL (R528) -/

/-- Registers of a page that SOFT_RESET clears: events, error capture, ERR_SUM, and its counters since
reset. -/
def softClear (p : Part) (m : Mach) (page : Nat) : Mach :=
  let (k, _) := pageKind p.conf page
  let m := wr p m (Reg.evtStat page) 0
  let m := (List.range 4).foldl (fun m i => wr p m (Reg.errCap0 page + 8 * i) 0) m
  let m := clrReg p m (Reg.pageStat page) 8
  ((pageRows k).filter fun r => r.cnt).foldl (fun m r =>
    (List.range r.n).foldl (fun m i => wr p m (pg page (r.off + r.step * i)) 0) m) m

/-- A page's channel has QUIESCE set or cleared. -/
def setQuiesce (p : Part) (m : Mach) (page : Nat) (q : Bool) : Mach :=
  let (k, i) := pageKind p.conf page
  match k with
  | .hrth => setHearth m i { hearthOf m i with quiesce := q }
  | .strm =>
    let was := (strmOf m i).quiesce
    let m := setStrm m i { strmOf m i with quiesce := q }
    if was && !q then
      let m := ([0, 1, 2, 3] : List Nat).foldl (fun m s => drainIn p m i s) (payOwed m i)
      drainOut p m i
    else m
  | .memp =>
    let m := setMemPort m i { memPortOf m i with quiesce := q }
    if q then m else issueWaiting p m
  | .link => if (linkOf m i).quiesce = q then m
    else withReroute p m fun m => setLink m i { linkOf m i with quiesce := q }
  | _ => m

/-- A QUIESCE that would leave no usable hearth, or memory port, that is not quiescing. -/
def quiesceLast (p : Part) (m : Mach) (page : Nat) : Bool :=
  let (k, i) := pageKind p.conf page
  match k with
  | .hrth => !((usableHearths p m).any fun h => h != i && !(hearthOf m h).quiesce)
  | .memp => !((usablePorts p m).any fun j => j != i)
  | _ => false

/-- A page's channel is retired by request (R453). -/
def retireRequest (p : Part) (m : Mach) (page : Nat) : Mach :=
  let (k, i) := pageKind p.conf page
  match k with
  | .hrth => if (hearthOf m i).unusable then m else retireHearth p m i 3
  | .strm => retireStream p m i
  | .memp => retireMemPort p m i
  | .link => retireLink p m i 4
  | _ => m

/-- A write of PAGE_CTRL: SOFT_RESET, QUIESCE, RETIRE_REQ and ENABLE in that order (R528, R273, R301). -/
def pageCtrlWrite (src : Src) (page : Nat) (v : Word) (p : Part) (m : Mach) : Mach :=
  gated p m src (Reg.pageCtrl page) fun m =>
    let (k, i) := pageKind p.conf page
    let was := rdF p m (Reg.pageCtrl page) 1 0
    let q := bitOf v 1
    if (q || bitOf v 2) && !retirable k then ignored p m src (Reg.pageCtrl page)
    else if q && !(was.testBit 1) && quiesceLast p m page then ignored p m src (Reg.pageCtrl page)
    else if k = .link ∧ bitOf v 0 ∧ nodeId p m = 0xFFF then ignored p m src (Reg.pageCtrl page)
    else
      let m := wr p m (Reg.pageCtrl page) (v &&& 3)
      let m := if bitOf v 3 then softClear p m page else m
      let m := if retirable k then setQuiesce p m page q else m
      let m := if bitOf v 2 then retireRequest p m page else m
      if k = .link then linkEnabled p m i (was.testBit 0) (bitOf v 0) else m

/-- LINK_ENABLE (R273, R298). -/
def linkEnable (src : Src) (l : Nat) (v : Word) (p : Part) (m : Mach) : Mach :=
  if l < linkCount p.conf then pageCtrlWrite src (Reg.linkPage l) v p m else m

/-- RETIRE_REQ (R528, R453). -/
def retireReq (src : Src) (page : Nat) (v : Word) (p : Part) (m : Mach) : Mach := pageCtrlWrite src page v p m

/-- QUIESCE (R528). -/
def quiesce (src : Src) (page : Nat) (v : Word) (p : Part) (m : Mach) : Mach := pageCtrlWrite src page v p m

/-- SOFT_RESET (R528). -/
def softReset (src : Src) (page : Nat) (v : Word) (p : Part) (m : Mach) : Mach := pageCtrlWrite src page v p m

/-! ### Host loss (R463) -/

/-- A CTX_SAVE, CTX_RESTORE or auto-swap runs. -/
def swapRuns (m : Mach) : Bool :=
  m.run.autoSwap.isSome || m.cmd.running.any fun r => r.win == 8 && (recOp r.line == 0x60 || recOp r.line == 0x61)

/-- The kills of a lost host: every resident context, and the parked step of every other (R463). -/
def killAll (p : Part) (m : Mach) : Mach :=
  ((List.range 8).filter fun c => ctxDefined p m c).foldl (killAny p) m

/-- The kills due to a lost host are made once no swap runs. -/
def settleLost (p : Part) (m : Mach) : Mach :=
  if m.sec.lost && !swapRuns m then killAll p { m with sec := { m.sec with lost := false } } else m

/-- A period of the host watchdog has passed since the last kick, or since it was started. -/
def wdogDue (p : Part) (m : Mach) : Bool :=
  rdB p m Reg.glbHostWdog 16 &&
  decide (m.sec.kicked + 1000000 * fsPerNs * rdF p m Reg.glbHostWdog 15 0 ≤ m.tick.time)

/-- HOST_LOST (R463): a period has passed without a kick; the next period starts. -/
def hostLost (p : Part) (m : Mach) : Mach :=
  if !engineUp m || !wdogDue p m then m
  else
    let m := { m with sec := { m.sec with kicked := m.tick.time } }
    let m := orReg p m Reg.glbFaultStat 4
    let m := report p m { code := 0xF0, page := Reg.glbPage, sev := .transient }
    if p.relay || isFatal p m then m
    else settleLost p { m with sec := { m.sec with lost := true } }

/-- HOST_KICK (R463): 1 starts a new period. -/
def hostKick (src : Src) (v : Word) (p : Part) (m : Mach) : Mach :=
  gated p m src Reg.glbHostKick fun m =>
    if bitOf v 0 then { m with sec := { m.sec with kicked := m.tick.time } } else m

/-! ### The ash log (R467 to R471) -/

/-- ASH_LOG_WRITE (R469): the log takes the oldest entry of its input buffer. -/
def ashLogWrite (p : Part) (m : Mach) : Mach :=
  match m.log.buf with
  | (_, e) :: rest => takeEntry p { m with log := { m.log with buf := rest } } e
  | [] => m

/-- LOG_CLEAR: a write of LOG.CTRL (R467, R470): CLEAR sets TAIL to HEAD and LOST to 0. -/
def logClear (src : Src) (v : Word) (p : Part) (m : Mach) : Mach :=
  gated p m src Reg.logCtrl fun m =>
    if isFatal p m && !bitOf v 0 then ignored p m src Reg.logCtrl
    else
      let m := wr p m Reg.logCtrl (v &&& 7)
      if bitOf v 3 then wr p (wr p m Reg.logTail (wordOf (rdF p m Reg.logHead 31 0))) Reg.logLost 0 else m

/-- The header of a snapshot taken with HEAD at h (R471). -/
def snapshotHeader (p : Part) (m : Mach) (h : Nat) : List Byte :=
  leBytes 4 h ++ leBytes 4 (min h 2048) ++ leBytes 4 (rdF p m Reg.logLost 31 0)
    ++ leBytes 1 (rdF p m Reg.logCtrl 0 0) ++ leBytes 3 0 ++ leBytes 8 (timeNs m) ++ List.replicate 40 0

/-- LOG_SNAPSHOT (R471): its data is written, and it completes when the memory ports have written it. -/
def logSnapshot (w seq : Nat) (p : Part) (m : Mach) : Mach :=
  match dueCmd p m w seq 0x78 with
  | some r =>
    if r.stage = 0 then
      startWrites p (setRunning m { r with stage := 1 }) (bytesOf r.line 16 23 % 2 ^ 42)
        (snapshotHeader p m r.n ++ r.entries.flatMap fun e => leBytes 32 e.toNat) (.cmdWrite r.acc)
    else if r.memFail then complete m r stUncorrectable
    else if txnsOut m (.cmdWrite r.acc) then m
    else complete m r stDone
  | none => m

/-- SCRUB_READ (R221). A line the configuration does not have is no address (R216, R218). -/
def execScrubRead (line : Nat) (read : ReadFinding) (s : State) : Host.Outcome State Fault Refusal :=
  if line < kilnLines s.part then .next { s with m := scrubRead line read s.part s.m }
  else .fault .kilnNoSuchLine

/-! ### The meanings of the commands -/

/-- HEARTH_FAULT (R454). -/
def execHearthFault (hearth : Nat) (unit : SubUnit) (tries : Nat) (item : ItemRef) (s : State) : Host.Outcome State Fault Refusal :=
  .next { s with m := hearthFault hearth unit tries item s.part s.m }

/-- KILN_SPARE_COPY_END (R223): the copy has taken its 4,096 cycles. -/
def execKilnSpareCopyEnd (s : State) (found : List StoreRead := []) : Host.Outcome State Fault Refusal :=
  .next { s with m := kilnSpareCopyEnd found s.part s.m }

/-- LINK_ENABLE (R273). -/
def execLinkEnable (src : Src) (link : Nat) (value : Word) (s : State) : Host.Outcome State Fault Refusal :=
  .next { s with m := responded s.m src none (linkEnable src link value s.part s.m) }

/-- RETIRE_REQ (R528). -/
def execRetireReq (src : Src) (page : Nat) (value : Word) (s : State) : Host.Outcome State Fault Refusal :=
  .next { s with m := responded s.m src none (retireReq src page value s.part s.m) }

/-- QUIESCE (R528). -/
def execQuiesce (src : Src) (page : Nat) (value : Word) (s : State) : Host.Outcome State Fault Refusal :=
  .next { s with m := responded s.m src none (quiesce src page value s.part s.m) }

/-- SOFT_RESET (R528). -/
def execSoftReset (src : Src) (page : Nat) (value : Word) (s : State) : Host.Outcome State Fault Refusal :=
  .next { s with m := responded s.m src none (softReset src page value s.part s.m) }

/-- HOST_LOST (R463). -/
def execHostLost (s : State) : Host.Outcome State Fault Refusal :=
  .next { s with m := hostLost s.part s.m }

/-- HOST_KICK (R463). -/
def execHostKick (src : Src) (value : Word) (s : State) : Host.Outcome State Fault Refusal :=
  .next { s with m := responded s.m src none (hostKick src value s.part s.m) }

/-- ASH_LOG_WRITE (R469). -/
def execAshLogWrite (s : State) : Host.Outcome State Fault Refusal :=
  .next { s with m := ashLogWrite s.part s.m }

/-- LOG_CLEAR (R467). -/
def execLogClear (src : Src) (value : Word) (s : State) : Host.Outcome State Fault Refusal :=
  .next { s with m := responded s.m src none (logClear src value s.part s.m) }

/-- LOG_SNAPSHOT (R471). -/
def execLogSnapshot (win seq : Nat) (s : State) : Host.Outcome State Fault Refusal :=
  .next { s with m := logSnapshot win seq s.part s.m }

end Sys2Proof.Machine
end

