-- ==== Sys2Proof/Machine/Combine.lean ====
section
/-! DEFINITION. Expert output records, return tiles, the combine in rank order and by log-sum-exp, and
combined output (R185 to R211). -/

namespace Sys2Proof.Machine

/-! ### TAKE (R186 to R192, R211) -/

/-- RET_ERR takes a failed check: reason, side (true on arrival), node, layer, token (R211). -/
def retErr (p : Part) (m : Mach) (c reason : Nat) (arrival : Bool) (node layer token : Nat) : Mach :=
  wr p m (Reg.ctxRetErr c) (wordOf (reason * 2 ^ 56 + (if arrival then 2 ^ 55 else 0) + node * 2 ^ 32 + layer * 2 ^ 16 + token))

/-- The row an expert output record names. -/
def rowNamed (x : LayerPhase) (w : Word) : Option RowOut :=
  x.rows.find? fun r => r.home == exHome w && r.token == exToken w && r.slot == exSlot w

/-- The first check of R211 that an expert output record fails. -/
def takeReason (x : LayerPhase) (l : LayerT) (w : Word) : Nat :=
  if !(decide (exFmt w ≤ 2) || isMx (exFmt w)) then 1
  else match rowNamed x w with
    | none => 2
    | some r =>
      if l.nt ≤ exColt w then 3
      else if r.taken.contains (exColt w) then 4
      else if bitsOf w 63 62 ≠ 0 ∨ bitsOf w 5 0 ≠ 0 then 5
      else 0

/-- A return tile's 32-byte header (R191). -/
def tileHeader (p : Part) (m : Mach) (s : StepRun) (home layer token slot colt rfmt len n : Nat) : List Byte :=
  leBytes 6 s.step ++ leBytes 1 (s.att % 16) ++ leBytes 1 (ctxJob p m s.ctx) ++ leBytes 2 home ++ leBytes 2 (nodeId p m)
    ++ leBytes 2 layer ++ leBytes 2 token ++ leBytes 1 slot ++ leBytes 1 colt ++ leBytes 1 3 ++ leBytes 1 rfmt
    ++ leBytes 2 len ++ leBytes 2 n ++ List.replicate 8 0

/-- A tile's element area encoded in the return format in force (R190). -/
def returnCode (p : Part) (m : Mach) (c ofmt n : Nat) (area : List Byte) : Encoded :=
  let r := rdF p m (Reg.ctxRetCtrl c) 4 0
  encodeVec ofmt (r % 16) (decide (16 ≤ r)) n 64 (rdF p m (Reg.ctxRetCtrl c) 9 8)
    (BitVec.ofNat 32 (rdF p m (Reg.ctxRetCtrl c) 63 32)) 0 area

/-- A column tile of a row has been taken. -/
def markTaken (x : LayerPhase) (w : Word) : LayerPhase :=
  { x with rows := x.rows.map fun r =>
      if r.home = exHome w ∧ r.token = exToken w ∧ r.slot = exSlot w then { r with taken := exColt w :: r.taken } else r }

/-- An encoded tile goes home: over VC2, or on the loopback path (R189, R192). Its buffer holds the code;
the statistics of a SPARSE_KV tile go with the header. DESIGN CHOICE: it counts as sent when it is queued (log entry
139). -/
def sendTile (p : Part) (m : Mach) (s : StepRun) (layer buf : Nat) (w : Word) (header stats code : List Byte) : Mach :=
  let body := stats ++ code
  let k := keyOf s layer
  let home := exHome w
  let m := bump p (putBuf m s.ctx 2 buf 0 code) (Reg.ctxRetTilesOut s.ctx) 1
  if home = nodeId p m then
    let t : Tile := { header := BitVec.ofNat 256 (leNat header), home := home, layer := layer, token := exToken w,
                      body := body, buf := some buf }
    { m with run := { m.run with loopTiles := m.run.loopTiles ++ [(s.ctx, t)] } }
  else
    let m := updPhase m s.ctx k fun x => { x with
      tilesFlying := Assoc.set x.tilesFlying buf (ceilDiv (32 + body.length) 240) }
    queuePacket p m 2 home false 0 s.ctx (.tile s.ctx k home (exToken w) (exColt w) buf) (header ++ body)

/-- A record that failed is a tile that will not come: the one it names, where it names a row and a tile not yet
taken; else one that no record may name any more. One that repeats a tile stands for none (R37). -/
def tileLost (x : LayerPhase) (l : LayerT) (w : Word) : LayerPhase :=
  match rowNamed x w with
  | some r =>
    if l.nt ≤ exColt w then { x with takeLost := x.takeLost + 1 }
    else if r.taken.contains (exColt w) then x
    else markTaken x w
  | none => { x with takeLost := x.takeLost + 1 }

/-- EXPERT_OUTPUT_RECORD (R189): checked, encoded and queued, where a class-2 buffer and a sparse coder can be
had. -/
def expertOutputRecord (q k : Nat) (p : Part) (m : Mach) : Mach :=
  match takeable p m q k chExpout with
  | some (s, r, l) =>
    let w := r.header
    let layer := headLayer chExpout w
    let x := phaseOf s layer
    let c := s.ctx
    let fails := fun st m => updPhase (failItem m c ⟨layer, laneTake, true, exHome w, exToken w, exColt w, st⟩) c
      (keyOf s layer) fun x => tileLost x l w
    match r.fail with
    | some st => takeRec p (fails st m) q k
    | none =>
      let e := if r.code ≠ 0 then r.code else takeReason x l w
      if e ≠ 0 then takeRec p (fails stFormat (retErr p m c e false (exHome w) layer (exToken w))) q k
      else if groupCopies m c || !inputRoom p m c (512 * r.beats.length) || (placement p m .coder).isNone then m
      else match allocAll p c .take [2] m with
        | none => m
        | some (bufs, m) =>
          let buf := (bufs.headD (2, 0)).2
          let m := placeItem p m .coder c (.step layer laneTake (exHome w) (exToken w) (exColt w))
            (coderCycles (512 * r.beats.length))
          let bs := beatBytes r.beats
          let n := tileElems l.hidden (exColt w)
          let kv := l.mode == modeKv
          let enc := returnCode p m c (exFmt w) n (if kv then bs.drop 512 else bs)
          let header := tileHeader p m s (exHome w) layer (exToken w) (exSlot w) (exColt w)
            (rdF p m (Reg.ctxRetCtrl c) 4 0) enc.bytes.length n
          let m := countCode p m c enc false
          let m := updPhase m c (keyOf s layer) fun x => markTaken x w
          let m := recordInput p m c layer r
          takeRec p (sendTile p m s layer buf w header (if kv then bs.take 32 else []) enc.bytes) q k
  | none => m

/-- TAKE is finished for a layer phase: every tile of its rows has been taken and has left, but for those that
failed (R34, R37). -/
def takeFinished (p : Part) (m : Mach) (s : StepRun) (layer : Nat) (l : LayerT) : Bool :=
  let x := phaseOf s layer
  feedFinished p m s layer l && decide ((x.rows.map fun r => l.nt - r.taken.length).sum ≤ x.takeLost)
    && x.tilesFlying.isEmpty

/-! ### Arrival of return tiles (R199, R211) -/

/-- The fields of a return tile's header (R191). -/
structure TileFields where
  step : Nat
  att : Nat
  job : Nat
  home : Nat
  src : Nat
  layer : Nat
  token : Nat
  slot : Nat
  colt : Nat
  kind : Nat
  rfmt : Nat
  len : Nat
  elems : Nat
  rsv : Bool
  deriving DecidableEq, Repr

/-- A header read. -/
def readTile (h : BitVec 256) : TileFields :=
  { step := bytesOf h 0 5, att := bitsOf h 51 48, job := bytesOf h 7 7, home := bitsOf h 75 64, src := bitsOf h 91 80,
    layer := bitsOf h 105 96, token := bytesOf h 14 15, slot := bytesOf h 16 16, colt := bitsOf h 141 136,
    kind := bytesOf h 18 18, rfmt := bitsOf h 156 152, len := bytesOf h 20 21, elems := bytesOf h 22 23,
    rsv := bitsOf h 55 52 != 0 || bitsOf h 79 76 != 0 || bitsOf h 95 92 != 0 || bitsOf h 111 106 != 0
      || bitsOf h 143 142 != 0 || bitsOf h 159 157 != 0 || bytesOf h 24 31 != 0 }

/-- The LIVE rank a tile is for, by its place in the table. -/
def rankFor (e : EmberSlot) (t : TileFields) : Option Nat :=
  (List.range e.ranks.length).find? fun i => match e.ranks[i]? with
    | some r => r.status == rkLive && r.node == t.src && r.slot == t.slot
    | none => false

/-- The return formats of R190. -/
def returnFormats : List Nat := [1, 2, 5, 6, 7, 8, 9, 10, 0x15, 0x16, 0x17, 0x18, 0x19, 0x1A]

/-- The length of a well-formed tile code of n elements; none where it breaks R140. -/
def tileCodeLen (rfmt n : Nat) (code : List Byte) : Option Nat :=
  if isMx (rfmt % 16) then
    (readMxCode (rfmt % 16) (decide (16 ≤ rfmt)) n code).map fun bs =>
      codeLen (rfmt % 16) (decide (16 ≤ rfmt)) n [(bs.filter Option.isSome).length]
  else (decodeCode (rfmt % 16) false n code).map fun _ => codeLen (rfmt % 16) false n []

/-- The CODE check of R211. -/
def tileCodeBad (e : EmberSlot) (r : SlotRank) (t : TileFields) (code : List Byte) : Bool :=
  let n := tileElems e.hidden t.colt
  !returnFormats.contains t.rfmt || (r.rfmt != 0 && r.rfmt != t.rfmt) || t.elems != n || decide (code.length < t.len)
    || tileCodeLen t.rfmt n code != some t.len

/-- The first check of R211 that an arriving tile fails. -/
def tileReason (e : EmberSlot) (t : TileFields) (code : List Byte) : Nat :=
  let r := (rankFor e t).bind fun i => e.ranks[i]?
  if e.nt ≤ t.colt then 3
  else if r.any fun r => r.present.contains t.colt then 4
  else if t.rsv ∨ t.kind ≠ 3 then 5
  else match r with
    | none => 6
    | some r => if tileCodeBad e r t code then 7 else 0

/-- The staging unit of a slot. -/
def slotUnit (e : EmberSlot) : Nat := if e.mode = modeKv then 2048 else 1024

/-- A tile's bytes are written into its staging unit (R197, R199). -/
def putTile (m : Mach) (c : Nat) (e : EmberSlot) (r : SlotRank) (colt : Nat) (body : List Byte) : Mach :=
  let a := colt * slotUnit e
  match (if a < 32768 then r.stage else r.stage1) with
  | b :: _ => putBuf m c b.1 b.2 (a % 32768) body
  | [] => m

/-- A tile is staged: its bytes, its PRESENT bit, and with the rank's first tile its format. -/
def stageTile (p : Part) (m : Mach) (c : Nat) (e : EmberSlot) (i : Nat) (t : TileFields) (body : List Byte) : Mach :=
  match e.ranks[i]? with
  | some r =>
    let r' := { r with rfmt := t.rfmt, present := t.colt :: r.present, tiles := Assoc.set r.tiles t.colt body }
    bump p (putTile (setEmber m c { e with ranks := e.ranks.set i r' }) c e r t.colt body) (Reg.ctxRetTilesIn c) 1
  | none => m

/-- A return tile is matched to its slot and rank, checked and staged, or dropped (R199, R211). With a tile that
fails, its column tile is not streamed, unless the rank's tile is there already (R37). -/
def takeTile (p : Part) (m : Mach) (f : StoreRead) (h : BitVec 256) (rest : List Byte) : Mach :=
  let t := readTile h
  match ctxOfJob p m t.job with
  | none => m
  | some c =>
    if !(ctxOf m c).resident then bump p m (Reg.ctxRetDrop c) 1
    else
      let k : Key := ⟨t.step, t.att, t.layer⟩
      match (if t.home = nodeId p m then slotOfTok (ctxOf m c) k t.token else none) with
      | none => bump p m (Reg.ctxRetDrop c) 1
      | some e =>
        let st := if e.mode = modeKv then 32 else 0
        let fails := fun (lost : Bool) st m =>
          let m := failKey m c k ⟨0, laneMeld, true, nodeId p m, t.token, t.colt, st⟩
          if lost && decide (t.colt < e.nt) then tileDone m c k t.token t.colt else m
        let (bad, m) := emberRead p m e.granules f
        if bad then fails true stUncorrectable m
        else
          let code := (rest.drop st).take t.len
          let r := tileReason e t code
          if r ≠ 0 then fails (r != 4) stFormat (retErr p m c r true t.src t.layer t.token)
          else match rankFor e t with
            | some i => stageTile p m c e i t (rest.take st ++ code)
            | none => m

/-- RETURN_TILE_RECEIVE (R199): the oldest tile received, from a link or on the loopback path (R192). -/
def returnTileReceive (loop : Bool) (f : StoreRead) (p : Part) (m : Mach) : Mach :=
  if !engineUp m || isFatal p m then m
  else if loop then
    match m.run.loopTiles with
    | (c, t) :: rest =>
      if groupCopies m c then m
      else
      let m := { m with run := { m.run with loopTiles := rest } }
      let m := match t.buf with
        | some b => freeBuf m c 2 b
        | none => m
      drainAllIn p (takeTile p m f t.header t.body)
    | [] => m
  else
    match m.net.rx.find? fun x => x.vc == 2 && rxWhole x with
    | some x =>
      let bs := rxBytes x
      if (ctxOfJob p m (readTile (BitVec.ofNat 256 (leNat (bs.take 32)))).job).any (groupCopies m) then m
      else takeTile p (dropRx m x) f (BitVec.ofNat 256 (leNat (bs.take 32))) (bs.drop 32)
    | none => m

/-! ### A slot's bytes (R195, R196) -/

/-- A list of numbers below 64, repeats counted once, as a mask. -/
def setMask (l : List Nat) : Nat := ((List.range 64).map fun i => if l.contains i then 2 ^ i else 0).sum

/-- The kiln line of a staging buffer, 0 where there is none. -/
def stageLine (x : Ctx) (l : List (Nat × Nat)) : Nat := (l.head?.map fun b => bufAddr x b.1 b.2 / 64).getD 0

/-- An entry of a slot's rank table (R196). -/
def rankBytes (x : Ctx) (r : SlotRank) : List Byte :=
  leBytes 2 (r.expert % 4096 + 2 ^ 12 * r.status) ++ leBytes 2 r.node ++ leBytes 1 r.slot ++ leBytes 1 r.rfmt ++ [0, 0]
    ++ leBytes 4 r.weight.toNat ++ leBytes 4 r.rkey ++ leBytes 4 (stageLine x r.stage) ++ leBytes 4 (stageLine x r.stage1)
    ++ leBytes 8 (setMask r.present)

/-- A slot's fields before its rank table (R195). -/
def slotHead (e : EmberSlot) : List Byte :=
  let flag := fun (b : Bool) (i : Nat) => if b then 2 ^ i else 0
  leBytes 6 e.key.step ++ leBytes 1 (e.key.att % 16) ++ leBytes 1 e.job ++ leBytes 2 e.key.layer ++ leBytes 2 e.token
    ++ leBytes 1 e.mode ++ leBytes 1 e.ranks.length ++ leBytes 1 (e.ranks.filter fun r => r.status == rkLive).length
    ++ leBytes 1 e.nt ++ leBytes 1 e.outFormat ++ leBytes 1 (flag e.wready 0 + flag e.nan 1 + flag e.renormed 2 + flag e.skips 3)
    ++ List.replicate 6 0 ++ leBytes 8 (setMask e.done)
    ++ ((List.range 64).flatMap fun t => leBytes 1 (Assoc.get 0 e.next t)) ++ List.replicate 32 0

/-- The bytes of a slot: its fields and rank table, then, at the granules of R194, its accumulator. -/
def slotBytes (x : Ctx) (e : EmberSlot) : List Byte :=
  let front := slotHead e ++ e.ranks.flatMap (rankBytes x)
  let a := 1024 * (e.granules.length - ceilDiv (4 * e.hidden) 1024)
  (front ++ List.replicate (a - front.length) 0) ++ (List.range e.nt).flatMap fun t =>
    (Assoc.get (List.replicate (tileElems e.hidden t) 0) e.acc t).flatMap fun (v : F32) => leBytes 4 v.toNat

/-- n bytes of a list from a place, as a number. -/
def fieldAt (bs : List Byte) (lo n : Nat) : Nat := leNat ((bs.drop lo).take n)

/-- A rank table entry as its 32 bytes say; the staging buffers stay those it holds. -/
def rankFrom (r : SlotRank) (bs : List Byte) : SlotRank :=
  { r with expert := fieldAt bs 0 2 % 4096, status := fieldAt bs 0 2 / 4096 % 4, node := fieldAt bs 2 2 % 4096,
           slot := fieldAt bs 4 1, rfmt := fieldAt bs 5 1, weight := BitVec.ofNat 32 (fieldAt bs 8 4),
           rkey := fieldAt bs 12 4, present := (List.range 64).filter fun t => (fieldAt bs 24 8).testBit t }

/-- A slot as its bytes say (R195, R196); its granules, its staging and what it has sent stay. -/
def slotFrom (e : EmberSlot) (bs : List Byte) : EmberSlot :=
  let flags := fieldAt bs 17 1
  let a := 1024 * (e.granules.length - ceilDiv (4 * e.hidden) 1024)
  { e with
    key := ⟨fieldAt bs 0 6, fieldAt bs 6 1 % 16, fieldAt bs 8 2⟩, job := fieldAt bs 7 1, token := fieldAt bs 10 2,
    mode := fieldAt bs 12 1, nt := fieldAt bs 15 1, outFormat := fieldAt bs 16 1, wready := flags.testBit 0,
    nan := flags.testBit 1, renormed := flags.testBit 2, skips := flags.testBit 3,
    done := (List.range 64).filter fun t => (fieldAt bs 24 8).testBit t,
    next := (List.range 64).filterMap fun t => if fieldAt bs (32 + t) 1 = 0 then none else some (t, fieldAt bs (32 + t) 1),
    ranks := (List.range (fieldAt bs 13 1)).map fun i =>
      rankFrom (e.ranks.getD i { expert := 0, status := 0, node := 0, slot := 0, weight := 0, rkey := 0 }) (bs.drop (128 + 32 * i)),
    acc := (List.range (ceilDiv e.hidden 512)).map fun t => (t, (List.range (min 512 (e.hidden - 512 * t))).map fun j =>
      BitVec.ofNat 32 (fieldAt bs (a + 4 * (512 * t + j)) 4)) }

/-! ### The combine (R200 to R205) -/

/-- Every rank of a slot is folded into a tile: NEXT is K (R202). -/
def tileComplete (e : EmberSlot) (t : Nat) : Bool := decide (e.ranks.length ≤ Assoc.get 0 e.next t)

/-- The values of a staged tile (R138). -/
def tileVals (r : SlotRank) (n : Nat) (code : List Byte) : List Val :=
  (decodeCode (r.rfmt % 16) (decide (16 ≤ r.rfmt)) n code).getD []

/-- A tile's accumulator. -/
def accOf (e : EmberSlot) (t n : Nat) : List F32 := Assoc.get (List.replicate n 0) e.acc t

/-- A rank's staged bytes of a tile are released (R200). -/
def dropTile (e : EmberSlot) (i t : Nat) : EmberSlot :=
  match e.ranks[i]? with
  | some r => { e with ranks := e.ranks.set i { r with tiles := Assoc.erase r.tiles t } }
  | none => e

/-- Present ranks are folded into a tile in rank order; `n` bounds how many (R202). -/
def foldTile (t elems : Nat) : Nat → EmberSlot → EmberSlot
  | 0, e => e
  | n + 1, e =>
    let i := Assoc.get 0 e.next t
    match e.ranks[i]? with
    | none => e
    | some r => match Assoc.find? r.tiles t with
      | none => e
      | some code =>
        let e := { e with acc := Assoc.set e.acc t (foldRank r.weight (tileVals r elems code) (accOf e t elems)),
                          next := Assoc.set e.next t (nextLive e.ranks (i + 1)) }
        foldTile t elems n (dropTile e i t)

/-- The tiles whose units lie in a rank's STAGE0 (true) or STAGE1 buffer. -/
def tilesOfStage (e : EmberSlot) (first : Bool) : List Nat :=
  (List.range e.nt).filter fun t => decide (t * slotUnit e < 32768) == first

/-- The staging buffers of a rank all of whose units are released are freed (R200). -/
def releaseRank (c : Nat) (k : Key) (token : Nat) (m : Mach) (i : Nat) : Mach :=
  match slotOfTok (ctxOf m c) k token with
  | some e => match e.ranks[i]? with
    | some r =>
      let gone := fun first => (tilesOfStage e first).all fun t => decide (i < Assoc.get 0 e.next t)
      let free0 := if gone true then r.stage else []
      let free1 := if gone false then r.stage1 else []
      let r' := { r with stage := if gone true then [] else r.stage, stage1 := if gone false then [] else r.stage1 }
      freeAll (setEmber m c { e with ranks := e.ranks.set i r' }) c (free0 ++ free1)
    | none => m
  | none => m

/-- A slot's folded state is stored, and what its ranks no longer need is freed. -/
def storeFold (m : Mach) (c : Nat) (k : Key) (e : EmberSlot) : Mach :=
  (List.range e.ranks.length).foldl (releaseRank c k e.token) (setEmber m c e)

/-! ### Combined output (R207 to R209) -/

/-- The header word of a combined tile (R186, R207). -/
def combHead (home token layer colt fmt : Nat) : Word :=
  wordOf (home * 2 ^ 50 + token * 2 ^ 34 + layer * 2 ^ 24 + colt * 2 ^ 10 + fmt * 2 ^ 6)

/-- A tile complete since a cycle is rounded once and streamed on its pair (R207, R208, R209). -/
def streamTile (p : Part) (m : Mach) (s : StepRun) (layer : Nat) (e : EmberSlot) (t : Nat) (vals : List F32)
    (since : Nat := m.tick.cycle) : Mach :=
  let k := keyOf s layer
  let fmt := e.outFormat % 16
  let enc := combinedArea fmt vals
  let w := combHead (nodeId p m) e.token layer t fmt
  let beats := (List.range (max 1 (ceilDiv enc.bytes.length 512))).map fun i => (w, beatAt (padTo 512 enc.bytes) i)
  let m := countCode p m s.ctx enc false
  let m := match slotOfTok (ctxOf m s.ctx) k e.token with
    | some e => setEmber m s.ctx { e with streamed := t :: e.streamed }
    | none => m
  placeOut p m { beats := beats, use := .comb s.ctx k e.token t } since

/-- The cycle in which a tile is complete: the one that completed it, or this one (R202, R209). -/
def completeAt (m : Mach) (e : EmberSlot) (t : Nat) : Nat := if tileComplete e t then e.readyAt else m.tick.cycle

/-- A tile's place in the order of streaming: the cycle in which it is complete, TOKEN, COLT (R209). -/
def streamKey (m : Mach) (e : EmberSlot) (t : Nat) : List Nat := [completeAt m e t, e.token, t]

/-- A complete tile of a layer phase waits to be streamed ahead of a given one (R209). -/
def tileAhead (m : Mach) (s : StepRun) (layer : Nat) (e : EmberSlot) (colt : Nat) : Bool :=
  (ctxOf m s.ctx).embers.any fun x => x.key == keyOf s layer && x.wready && (List.range x.nt).any fun t =>
    tileComplete x t && !x.streamed.contains t && !x.done.contains t && decide (streamKey m x t < streamKey m e colt)

/-- The MELD lane's layer phase and a tile of it that may be worked on: not yet streamed, its weights in the slot, and
no complete tile ahead of it (R33, R198, R209). -/
def meldAt (p : Part) (m : Mach) (token colt : Nat) : Option (StepRun × Nat × EmberSlot) :=
  match liveStep m with
  | some s =>
    let layer := (laneOf s laneMeld).layer
    if engineUp m && !isFatal p m && laneOpenAt s laneMeld layer then
      match slotOfTok (ctxOf m s.ctx) (keyOf s layer) token with
      | some e =>
        if e.wready && decide (colt < e.nt) && !e.streamed.contains colt && !tileAhead m s layer e colt then
          some (s, layer, e)
        else none
      | none => none
    else none
  | none => none

/-- A MELD item fails for a line that does not read back: its tile is not streamed (R222, R457). -/
def meldFails (p : Part) (m : Mach) (s : StepRun) (layer token colt : Nat) : Mach :=
  tileDone (failItem m s.ctx ⟨layer, laneMeld, true, nodeId p m, token, colt, stUncorrectable⟩) s.ctx (keyOf s layer) token colt

/-- The kiln address a rank's tile is staged at. -/
def tileAddr (m : Mach) (c : Nat) (e : EmberSlot) (r : SlotRank) (colt : Nat) : Nat :=
  let a := colt * slotUnit e
  match (if a < 32768 then r.stage else r.stage1) with
  | b :: _ => bufAddr (ctxOf m c) b.1 b.2 + a % 32768
  | [] => 0

/-- The ranks that a fold of a tile takes now: those present, in order from the next one (R202). -/
def foldCount (e : EmberSlot) (t : Nat) : Nat :=
  (((e.ranks.drop (Assoc.get 0 e.next t)).filter fun r => r.status == rkLive).takeWhile fun r =>
    (Assoc.find? r.tiles t).isSome).length

/-- MELD_FOLD (R202): every present rank whose turn has come is folded, and a tile with none left is
streamed. -/
def meldFold (token colt : Nat) (stage : ReadFinding) (ember : StoreRead) (p : Part) (m : Mach) : Mach :=
  match meldAt p m token colt with
  | some (s, layer, e) =>
    let n := tileElems e.hidden colt
    let item := ItemRef.step layer laneMeld (nodeId p m) token colt
    if e.mode = modeKv then m
    else if tileComplete e colt then
      onHearth p m .combine s.ctx item 1 fun m => streamTile p m s layer e colt (accOf e colt n) e.readyAt
    else match e.ranks[Assoc.get 0 e.next colt]? with
      | none => m
      | some r =>
        if (Assoc.find? r.tiles colt).isNone || copyBusy m (tileAddr m s.ctx e r colt) then m
        else onHearth p m .combine s.ctx item (foldCount e colt * foldCycles n) fun m =>
          let (bad, m) := kilnRead p m (tileAddr m s.ctx e r colt) stage (some 0)
          let (bad2, m) := emberRead p m e.granules ember
          if bad || bad2 then meldFails p m s layer token colt
          else
            let e := foldTile colt n e.ranks.length e
            let m := storeFold m s.ctx (keyOf s layer) e
            if tileComplete e colt then streamTile p m s layer e colt (accOf e colt n) else m
  | none => m

/-- The statistics in front of a staged tile of a SPARSE_KV layer (R187). -/
def tileStats (body : List Byte) : List KvStat :=
  (List.range 4).map fun q => ⟨BitVec.ofNat 32 (fieldOf body (8 * q) (8 * q + 3)), BitVec.ofNat 32 (fieldOf body (8 * q + 4) (8 * q + 7))⟩

/-- A LIVE rank's part of a merge: its statistics and values; none while its tile is not present. -/
def mergePart (t n : Nat) (r : SlotRank) : Option (List KvStat × List Val) :=
  (Assoc.find? r.tiles t).map fun body => (tileStats body, tileVals r n (body.drop 32))

/-- KV_MERGE (R204, R205). -/
def kvMergeTile (token colt : Nat) (stage : ReadFinding) (ember : StoreRead) (p : Part) (m : Mach) : Mach :=
  match meldAt p m token colt with
  | some (s, layer, e) =>
    let n := tileElems e.hidden colt
    let live := e.ranks.filter fun r => r.status == rkLive
    let parts := live.filterMap (mergePart colt n)
    let at_ := (live.head?.map fun r => tileAddr m s.ctx e r colt).getD 0
    if e.mode ≠ modeKv ∨ parts.length ≠ live.length ∨ live.any (fun r => copyBusy m (tileAddr m s.ctx e r colt)) = true then m
    else onHearth p m .combine s.ctx (.step layer laneMeld (nodeId p m) token colt) (8 + live.length * foldCycles n) fun m =>
      let (bad, m) := if live.isEmpty then (false, m) else kilnRead p m at_ stage (some 0)
      let (bad2, m) := emberRead p m e.granules ember
      if bad || bad2 then meldFails p m s layer token colt
      else
        let quarters := List.range (ceilDiv n 128)
        let count := (quarters.map fun q => kvBad (parts.map fun v => v.1.getD q ⟨0, 0⟩)).sum
        let m := bump p m (Reg.ctxKvStatBad s.ctx) count
        let e := (List.range e.ranks.length).foldl (fun e i => dropTile e i colt)
          { e with next := Assoc.set e.next colt e.ranks.length }
        streamTile p (storeFold m s.ctx (keyOf s layer) e) s layer e colt (kvMerge parts n)
          (if live.isEmpty then e.readyAt else m.tick.cycle)
  | none => m

/-- COMB_OUT_ACCEPTED (R200, R209): the host has accepted the oldest combined tile a port has sent. -/
def combOutAccepted (q : Nat) (p : Part) (m : Mach) : Mach :=
  let x := strmOf m q
  match x.unaccepted with
  | u :: rest =>
    let m := setStrm m q { x with unaccepted := rest }
    match u with
    | .comb c k token colt =>
      tileDone (bump p m (Reg.ctxCombTiles c) 1) c k token colt
    | .rick _ _ _ _ => m
  | [] => m

/-- MELD is finished for a layer phase: its batch is decided, and every tile of every token has been
accepted (R34, R209). -/
def meldFinished (m : Mach) (s : StepRun) (layer : Nat) : Bool :=
  batchFinal (phaseOf s layer) && (ctxOf m s.ctx).embers.all fun e => e.key != keyOf s layer

/-! ### The meanings of the commands -/

/-- RETURN_TILE_RECEIVE (R199). -/
def execReturnTileReceive (loop : Bool) (read : StoreRead) (s : State) : Host.Outcome State Fault Refusal :=
  .next { s with m := returnTileReceive loop read s.part s.m }

/-- COMB_OUT_ACCEPTED (R209). -/
def execCombOutAccepted (port : Nat) (s : State) : Host.Outcome State Fault Refusal :=
  .next { s with m := combOutAccepted port s.part s.m }

end Sys2Proof.Machine
end

