-- ==== Sys2Proof/Machine/Stream.lean ====
section
/-! DEFINITION. Beats from the host and credit it returns (R150 to R156, R544). -/

namespace Sys2Proof.Machine

/-- A framing failure of a slot is recorded (R156). -/
def framing (p : Part) (m : Mach) (q k reason : Nat) : Mach :=
  setEvt p (wr p m (Reg.strmChErr q) (wordOf (reason * 2 ^ 56 + k))) (Reg.strmPage q) 0

/-- The record arriving on a slot is complete: it joins the records to be taken, and a binding that waited
for it comes into force (R153). -/
def endRecord (m : Mach) (q k : Nat) : Mach :=
  let x := slotAt m q k
  let m := setSlotAt m q k { x with cur := none, ready := x.ready ++ x.cur.toList }
  match x.nextBind with
  | some w => if x.dropping then m else bindNow m q k w
  | none => m

/-- The item of a score record is placed on a hearth when its first beat arrives, where its lane takes it; the
selection unit takes the next token after 8 cycles for each 1,024 experts begun (R93, R7). -/
def placeScore (p : Part) (m : Mach) (c : Nat) (w : Word) : Mach :=
  if scEob w || !laneTakes m c chScore w then m
  else placeItem p m .selection c (.step (headLayer chScore w) laneScore (nodeId p m) (scToken w) 0)
    (8 * ceilDiv (scCount w) 1024) true

/-- The record arriving takes a beat; `keep` is whether the beat was accepted and holds a place of the
slot's buffer. -/
def addBeat (p : Part) (m : Mach) (q k : Nat) (r : InRec) (data : BitVec 4096) (keep : Bool) : Mach :=
  let r := { r with beats := r.beats ++ [data], held := r.held + if keep then 1 else 0 }
  let x := slotAt m q k
  let m := setSlotAt m q k { x with cur := some r, credit := x.credit - if keep then 1 else 0 }
  let m := if keep then bump p m (Reg.strmBeatsIn q) 1 else m
  if r.need ≤ r.beats.length then endRecord m q k else m

/-- A first beat starts a record. One whose header fails a check runs to the next first beat: its beats
are dropped and their credit returned (R150). -/
def startRecord (p : Part) (m : Mach) (q k : Nat) (side : Word) (data : BitVec 4096) (fail : Option Nat) : Mach :=
  let x := slotAt m q k
  let c := bindCtx x.bind
  let kind := bindKind x.bind
  let code := headCode p m q k c kind side
  let r : InRec := { header := side, beats := [], need := recNeed m c kind side, ctx := c, kind := kind,
                     since := m.tick.cycle, fail := fail, code := code }
  let keep := decide (0 < x.credit)
  let m := setSlotAt m q k { x with dropping := false }
  if code ≠ 0 then
    let m := if keep then bump p m (Reg.strmBeatsIn q) 1 else m
    let m := setSlotAt m q k { slotAt m q k with cur := some r, dropping := true, credit := x.credit - if keep then 1 else 0 }
    let m := endRecord m q k
    if keep ∧ bindEn (slotAt m q k).bind then giveCredit m q k 1 else m
  else addBeat p (if kind = chScore then placeScore p m c side else m) q k r data keep

/-- The record arriving on a slot fails with a status. -/
def failCur (m : Mach) (q k st : Nat) : Mach :=
  let x := slotAt m q k
  setSlotAt m q k { x with cur := x.cur.map fun r => { r with fail := some (r.fail.getD st) } }

/-- A dropped beat's credit goes back to the host (R150, R151). -/
def dropBeat (m : Mach) (q k : Nat) : Mach :=
  let x := slotAt m q k
  if x.credit = 0 then m else giveCredit (setSlotAt m q k { x with credit := x.credit - 1 }) q k 1

/-- A beat on an enabled slot, framed (R150, R156); `bad` is the failure that parity gives it. -/
def frameBeat (p : Part) (m : Mach) (q k : Nat) (first : Bool) (side : Word) (data : BitVec 4096) (bad : Option Nat) : Mach :=
  let x := slotAt m q k
  match first, x.cur with
  | false, none =>
    dropBeat (if x.dropping then m else framing p m q k 2) q k
  | false, some r =>
    let r := { r with fail := r.fail.orElse fun _ => bad }
    if x.credit = 0 then addBeat p (framing p m q k 4) q k { r with fail := some (r.fail.getD stFormat) } data false
    else addBeat p m q k r data true
  | true, some _ =>
    let m := endRecord (failCur (framing p m q k 3) q k stFormat) q k
    if bindEn (slotAt m q k).bind then startRecord p m q k side data bad else m
  | true, none =>
    if x.credit = 0 then startRecord p (framing p m q k 4) q k side data (some (bad.getD stFormat))
    else startRecord p m q k side data bad

/-- A record that a failed header began ends at the next first beat; a binding that waited for its last beat comes
into force (R150, R153). -/
def endDropped (m : Mach) (q k : Nat) : Mach :=
  let x := slotAt m q k
  match x.dropping, x.nextBind with
  | true, some w => bindNow (setSlotAt m q k { x with dropping := false }) q k w
  | _, _ => m

/-- INBOUND_BEAT (R150 to R156, R453, R544). A beat that is dropped gives back the credit it used. -/
def inboundBeat (q k : Nat) (first : Bool) (side : Word) (data : BitVec 4096) (par : BitVec 65)
    (p : Part) (m : Mach) : Mach :=
  let parityOk := par == beatParity side data
  if p.relay ∨ streamCount p.conf ≤ q ∨ 4 ≤ k ∨ (strmOf m q).retired ∨ !engineUp m then m
  else
  let m := if first then endDropped m q k else m
  if !bindEn (slotAt m q k).bind then
    let m := framing p m q k 1
    if parityOk then m else strmParity p m q k
  else
    let m := frameBeat p m q k first side data (if parityOk then none else some stUncorrectable)
    let m := if parityOk then m else strmParity p m q k
    takeHints p (drainIn p m q k)

/-- HOST_CREDIT_RETURN (R151): the host has room for one more beat, and beats that waited go. -/
def hostCreditReturn (q k : Nat) (p : Part) (m : Mach) : Mach :=
  if p.relay ∨ streamCount p.conf ≤ q ∨ k < 4 ∨ 8 ≤ k ∨ (strmOf m q).retired ∨ !engineUp m then m
  else
    let x := slotAt m q k
    let m := drainOut p (setSlotAt m q k { x with credit := x.credit + 1 }) q
    (residents m).foldl (pumpAsks p) m

/-! ### The meanings of the commands -/

/-- INBOUND_BEAT (R156). -/
def execInboundBeat (port slot : Nat) (first : Bool) (side : Word) (data : BitVec 4096) (par : BitVec 65) (s : State) :
    Host.Outcome State Fault Refusal :=
  .next { s with m := inboundBeat port slot first side data par s.part s.m }

/-- HOST_CREDIT_RETURN (R151). -/
def execHostCreditReturn (port slot : Nat) (s : State) : Host.Outcome State Fault Refusal :=
  .next { s with m := hostCreditReturn port slot s.part s.m }

end Sys2Proof.Machine
end

