-- ==== Sys2Proof/Machine/Steps.lean ====
section
/-! DEFINITION. The sequencer: starting a step, its bundles, must-finish stretch, slip requests, commit,
and the abort of a step (R25 to R60, R89, R94, R111, R155, R390, R423, R439, R441, R448 to R450). -/

namespace Sys2Proof.Machine

/-! ### The program a step runs (R58 to R60, R155) -/

/-- The run of bundles that a LAYER_RUN executes: its first and last index (R59). -/
def layerRange (pr : Program) (layer : Nat) : Option (Nat × Nat) :=
  let is := (pr.bundles.zipIdx.filter fun b => bunLv b.1 && bunLayer b.1 == layer).map fun b => b.2
  match is.head?, is.getLast? with
  | some i, some j => some (i, j)
  | _, _ => none

/-- The bundles of a step, the implicit END included. -/
def stepBundles (s : StepRun) : List Line :=
  (List.range (s.last + 1 - s.first + if s.layerRun.isSome then 1 else 0)).map fun i => bundleAt s (s.first + i)

/-- The channel kind that a lane uses (R155). -/
def laneKind (lane op : Nat) : Option Nat :=
  if lane = laneScore then some chScore else if lane = lanePack then some chToken
  else if lane = laneSend ∧ op = 2 then some chHint
  else if lane = laneFeed then some chRick else if lane = laneTake then some chExpout
  else if lane = laneMeld then some chComb else none

/-- The channel kinds that bundles use (R155). -/
def kindsUsed (bs : List Line) : List Nat :=
  bs.flatMap fun b => boundLanes.filterMap fun i =>
    if laneOp b i = 0 then none else laneKind i (laneOp b i)

/-- The bindings of a context suit a program (R155). -/
def bindingsOk (p : Part) (m : Mach) (c : Nat) (bs : List Line) : Bool :=
  ((kindsUsed bs).all fun k => !(pairs p m c k).isEmpty) &&
  [chScore, chToken, chHint].all fun k => decide ((pairs p m c k).length ≤ 1)

/-! ### Replay rings in CHECK mode (R450) -/

/-- Bytes of a context's replay ring as the engine has read them. -/
def replayBytes (p : Part) (m : Mach) (c pos n : Nat) : List Byte :=
  let size := replaySize p m c
  let base := (rd p m (Reg.ctxReplayBase c)).toNat
  (List.range n).map fun i => byteAt m.mem.host (base + (pos + i) % size)

/-- Supplied bytes from a position on. -/
def replayLeft (p : Part) (m : Mach) (c pos : Nat) : Nat :=
  (rd p m (Reg.ctxReplayTail c) - BitVec.ofNat 64 pos).toNat

/-- The next supplied entry from a position on that a test picks, and how far the entries are consumed: past it,
and past the others before it; `n` bounds how many are looked at. -/
def nextEntry (p : Part) (m : Mach) (c : Nat) (pick : List Byte → Bool) : Nat → Nat → Option (List Byte) × Nat
  | 0, pos => (none, pos)
  | n + 1, pos =>
    let left := replayLeft p m c pos
    let h := replayBytes p m c pos 64
    let len := 64 + fieldOf h 12 15
    if replaySize p m c < left ∨ left < 64 ∨ left < len then (none, pos)
    else if pick h then (some h, pos + len)
    else nextEntry p m c pick n (pos + len)

/-- Entries a ring can hold. -/
def ringEntries (p : Part) (m : Mach) (c : Nat) : Nat := replaySize p m c / 64 + 1

/-- The first mismatch since EN was set is noted in REPLAY_DIV and as an event (R450). -/
def diverge (p : Part) (m : Mach) (c chan layer step : Nat) : Mach :=
  if rdB p m (Reg.ctxReplayDiv c) 62 then m
  else setEvt p (wr p m (Reg.ctxReplayDiv c) (wordOf (2 ^ 62 + at_ 58 chan + at_ 48 layer + step % 2 ^ 48))) Reg.tickPage 4

/-- The next entry of a kind of a step is consumed where it is supplied, and HEAD moves past what is consumed
(R450). -/
def takeReplay (p : Part) (m : Mach) (c kind step : Nat) : Option (List Byte) × Mach :=
  match nextEntry p m c (fun h => fieldOf h 0 0 == kind && fieldOf h 4 9 == step) (ringEntries p m c)
      (rd p m (Reg.ctxReplayHead c)).toNat with
  | (h, next) => (h, wr p m (Reg.ctxReplayHead c) (wordOf next))

/-- The entries supplied have been read. -/
def replayRead (m : Mach) (c : Nat) : Bool := !txnsOut m (.replay c)

/-- SEED is compared with the next STEP_BEGIN of the step, where it is supplied (R450). -/
def checkSeed (p : Part) (m : Mach) (s : StepRun) : StepRun × Mach :=
  let c := s.ctx
  if replayMode p m c ≠ 3 ∨ s.seedChecked ∨ !replayRead m c then (s, m)
  else match takeReplay p m c 1 s.step with
    | (some h, m) =>
      ({ s with seedChecked := true }, if fieldOf h 32 39 = s.seed.toNat then m else diverge p m c 0 0 s.step)
    | (none, m) => (s, m)

/-- The layer phases of a step: those that a lane other than SYNC and XFER has been bound to (DEDUCED). -/
def stepLayers (s : StepRun) : List Nat :=
  sortNat ((s.lanes.filter fun l => decide (l.1 < laneSync)).flatMap fun l => l.2.bound.map fun b => b.2).eraseDups

/-- The channels of R449 in order. -/
def digestChans : List Nat := [chScore, chToken, chExpout, chRick, chComb]

/-- The digests of a step in the order of R449: channel, layer, sum, count. -/
def stepDigests (s : StepRun) : List (Nat × Nat × Nat × Nat) :=
  (stepLayers s).flatMap fun l => digestChans.map fun ch =>
    match s.digests.find? fun d => d.1 == ch && d.2.1 == l with
    | some d => d
    | none => (ch, l, 0, 0)

/-- One digest of a step compared with the entry supplied for it (R450). -/
def compareDigest (p : Part) (m : Mach) (s : StepRun) (d : Nat × Nat × Nat × Nat) (h : List Byte) : Mach :=
  if fieldOf h 1 1 = d.1 ∧ fieldOf h 2 3 = d.2.1 ∧ fieldOf h 24 27 = d.2.2.1 ∧ fieldOf h 28 31 = d.2.2.2 then m
  else diverge p m s.ctx d.1 d.2.1 s.step

/-- The digests of a step not yet compared meet the entries as these are supplied, each consumed where it is
met: whether all have been, the step and the machine (R450). -/
def matchDigests (p : Part) : List (Nat × Nat × Nat × Nat) → StepRun → Mach → Bool × StepRun × Mach
  | [], s, m => (true, s, m)
  | d :: rest, s, m =>
    match takeReplay p m s.ctx 3 s.step with
    | (some h, m) => matchDigests p rest { s with compared := s.compared + 1 } (compareDigest p m s d h)
    | (none, m) => (false, s, m)

/-- The digests of a committing step are recorded, or checked; the step waits while an entry is not supplied
(R448 to R450). -/
def settleDigests (p : Part) (m : Mach) (s : StepRun) : Bool × StepRun × Mach :=
  let c := s.ctx
  match replayMode p m c with
  | 1 | 2 => (true, s, (stepDigests s).foldl (fun m d =>
      recordEntry p m c (replayHeader 3 d.1 d.2.1 s.step s.att 0 0 d.2.2.1 d.2.2.2 0)) m)
  | 3 =>
    let (s, m) := checkSeed p m s
    if !s.seedChecked ∨ !replayRead m c then (false, s, m)
    else matchDigests p ((stepDigests s).drop s.compared) s m
  | _ => (true, s, m)

/-! ### The end of a step (R37, R52, R110, R111) -/

/-- One counter raised, saturating (R111). -/
def countOne (t : Counters) (k : Nat) : Counters := Assoc.set t k (min 0xFFFFFFFF (Assoc.get 0 t k + 1))

/-- A committed step's counts enter the counter table and SKIP_CNT (R111). -/
def commitCounts (p : Part) (m : Mach) (s : StepRun) : Mach :=
  let t := s.counted.foldl (fun t (l, e, ok) =>
    if ok then { t with admitted := countOne t.admitted (cntKey l e) }
    else { t with skipped := countOne t.skipped (cntKey l e) }) (ctxOf m s.ctx).tables
  bump p (setTables m s.ctx t) (Reg.ctxSkipCnt s.ctx) (s.counted.filter fun d => !d.2.2).length

/-- What a step held is freed. -/
def freeStep (m : Mach) (s : StepRun) : Mach :=
  let m := dropStages (unplace m fun i => i.ctx == s.ctx && i.held) s.ctx
  let x := ctxOf m s.ctx
  setCtx m s.ctx { keepBufs m.tick.cycle x (buffersKept m s.ctx s) with
    embers := [], resv := x.resv.filter (fun v => !keyOfStep s v.key),
    credits := x.credits.filter (fun v => !keyOfStep s v.key),
    asks := x.asks.filter (fun v => !keyOfStep s v.key),
    asked := x.asked.filter (fun v => !keyOfStep s v.2),
    kindled := x.kindled.filter (fun v => !keyOfStep s v.2.1),
    admitCredits := x.admitCredits.filter (fun v => !keyOfStep s v.key) }

/-- A step ends with its commit, or with the failure that R37 chooses; its command completes. -/
def finishStep (p : Part) (m : Mach) (s : StepRun) : Mach :=
  let m := if s.fails.isEmpty then commitCounts p m s else m
  let m := wr p (wr p m (Reg.ctxStretchCyc s.ctx) (wordOf s.stretch)) (Reg.ctxFetchStallCyc s.ctx) (wordOf s.stall)
  let m := removeStep (freeStep m s) s
  match stepCmd m s with
  | some r => completeStep m r (stepStatus s) (((worstFailure s.fails).map fun f => f.layer).getD 0) s.step s.att s.nan
  | none => m

/-- The running step commits where its digests let it; otherwise it waits at its commit (R450, R52). -/
def tryCommit (p : Part) (m : Mach) (s : StepRun) : Mach :=
  if !s.fails.isEmpty then finishStep p m s
  else match settleDigests p m s with
    | (true, s, m) => finishStep p m s
    | (false, s, m) => setStep m { s with atEdge := true }

/-! ### Bundles (R32 to R36, R47, R54) -/

/-- A lane's state changed. -/
def setLane (s : StepRun) (lane : Nat) (x : LaneSt) : StepRun := { s with lanes := Assoc.set s.lanes lane x }

/-- A lane that opens binds to the bundle's template and layer phase; for a layer phase it has been bound to
before, the new template takes the old one's place (R32). -/
def bindLane (s : StepRun) (b : Line) (lane : Nat) : StepRun :=
  let x := laneOf s lane
  let k := (bunTmpl b, bunLayer b)
  setLane s lane { op := laneOp b lane, tmpl := k.1, layer := k.2,
                   bound := (x.bound.filter fun b => b.2 != k.2) ++ [k] }

/-- A SYNC opcode names an event counter outside the context's range (R386). -/
def syncRangeBad (p : Part) (m : Mach) (c : Nat) (b : Line) : Bool :=
  let op := laneOp b laneSync
  (op == 2 || op == 3) && !evtInRange p m c (laneArg b laneSync / 2 ^ 28 % 4096)

/-- The SYNC or XFER lane takes a bundle's field: it closes, keeps its binding, or opens and binds (R32). -/
def bindField (s : StepRun) (prev : Option Line) (b : Line) (lane : Nat) : StepRun :=
  if laneOp b lane = 0 then setLane s lane { laneOf s lane with op := 0 }
  else if laneOpens prev b lane || (laneOf s lane).bound.isEmpty then bindLane s b lane
  else s

/-- The SYNC field of a bundle takes effect: a BARRIER is arrived at; an event counter outside the
context's range fails the item, which belongs to the layer phase the lane is bound to (R32, R34, R347, R386). -/
def enterSync (p : Part) (m : Mach) (s : StepRun) (prev : Option Line) (b : Line) : Mach :=
  let s := bindField s prev b laneSync
  if laneOp b laneSync = 1 then
    let h := laneArg b laneSync % 65536
    let m := setStep m { s with barrier := some h }
    match groupOf m h with
    | some g => if g.ctx = s.ctx then arriveBarrier p m h s.att else m
    | none => m
  else if syncRangeBad p m s.ctx b then
    setStep m (failStep s ⟨(laneOf s laneSync).layer, laneSync, false, 0, 0, 0, stFormat⟩)
  else setStep m s

/-- An XFER lane operation starts: where the lane opens, or where its ARG names another template than the
bundle before; it belongs to the layer phase the lane is bound to (R32, R34, R40). -/
def enterXfer (p : Part) (m : Mach) (prev : Option Line) (b : Line) : Mach :=
  match m.run.step with
  | some s =>
    let t := laneArg b laneXfer % 16384
    let same := match prev with
      | some q => laneOp q laneXfer == 1 && laneArg q laneXfer == laneArg b laneXfer
      | none => false
    let s := bindField s prev b laneXfer
    if laneOp b laneXfer != 1 || same then setStep m s
    else setStep m { s with xfers := s.xfers ++
      [{ tmpl := t, layer := (laneOf s laneXfer).layer, line := s.prog.templates.getD t 0, wins := xfWins p m s.ctx }] }
  | none => m

/-- A lane other than SYNC and XFER takes a bundle's field: it closes, stays as it is, or opens, with
what its opening does: SCORE grants admission space, DISPATCH_KINDLE asks for a hint record, RECV notes
its order of arrangement (R32, R107, R164, R176). -/
def enterLane (p : Part) (prev : Option Line) (b : Line) (m : Mach) (lane : Nat) : Mach :=
  match m.run.step with
  | some s =>
    if laneOp b lane = 0 then setStep m (setLane s lane { laneOf s lane with op := 0 })
    else if !laneOpens prev b lane then m
    else
      let s := bindLane s b lane
      let s := if lane = laneSend ∧ laneOp b lane = 2 then
          { s with hintWait := s.hintWait ++ [(laneArg b lane % 16384, bunLayer b)] }
        else s
      let s := if lane = laneRecv then
          setPhase s (bunLayer b) { phaseOf s (bunLayer b) with recvOp := laneOp b lane }
        else s
      let m := setStep m s
      match layerTmpl s.prog (bunTmpl b) with
      | some l => if lane = laneScore then bindAdmit p m s.ctx (bunLayer b) l else m
      | none => m
  | none => m

/-- What waits for an open lane goes on. -/
def pumpStep (p : Part) (m : Mach) : Mach :=
  let m := takeHints p (drainAllIn p m)
  match m.run.step with
  | some s => pumpSend p m s.ctx
  | none => m

/-- A bundle starts (R27, R32). -/
def enterBundle (p : Part) (m : Mach) (i : Nat) : Mach :=
  match m.run.step with
  | some s =>
    let s := { s with index := i }
    let b := curBundle s
    let prev := if i = s.first then none else some (bundleAt s (i - 1))
    let m := boundLanes.foldl (enterLane p prev b) (setStep m s)
    let m := match m.run.step with
      | some s => enterSync p m s prev b
      | none => m
    pumpStep p (enterXfer p m prev b)
  | none => m

/-- A lane of R34 that binds to layer phases is finished for one of them; `kindle` where SEND is to have sent the
hint requests of the phase too. -/
def laneFinished (p : Part) (m : Mach) (s : StepRun) (lane layer : Nat) (kindle : Bool) : Bool :=
  let x := phaseOf s layer
  match boundTmpl s lane layer with
  | some l =>
    if lane = laneScore then scoreFinished x l
    else if lane = lanePack then packFinished x
    else if lane = laneSend then sendFinished p m s layer l kindle
    else if lane = laneRecv then recvFinished x l
    else if lane = laneFeed then feedFinished p m s layer l
    else if lane = laneTake then takeFinished p m s layer l
    else meldFinished m s layer
  | none => true

/-- The wait of a SYNC field is met (R34, R36); one that failed waits for nothing. -/
def syncMet (p : Part) (m : Mach) (s : StepRun) (b : Line) : Bool :=
  let arg := laneArg b laneSync
  match laneOp b laneSync with
  | 1 => s.barrier.isNone
  | 2 => syncRangeBad p m s.ctx b || decide (arg % 2 ^ 28 ≤ evtOf m (arg / 2 ^ 28 % 4096))
  | 4 => decide (arg % 2 ^ 24 ≤ m.tick.cycle - s.beganCycle)
  | _ => true

/-- A must-finish bit of a bundle holds nothing back (R47); on an idle lane it waits for nothing. -/
def mfMet (p : Part) (m : Mach) (s : StepRun) (b : Line) (lane : Nat) : Bool :=
  !laneMf b lane || laneOp b lane == 0 ||
  (if lane = laneSync then syncMet p m s b
   else if lane = laneXfer then
     s.xfers.all fun x => x.tmpl != laneArg b laneXfer % 16384 || x.outcome.isSome
   else laneFinished p m s lane (laneOf s lane).layer (laneOp b lane == 2))

/-- Every lane has finished in the sense of R54. -/
def allFinished (p : Part) (m : Mach) (s : StepRun) (b : Line) : Bool :=
  (boundLanes.all fun i => (laneOf s i).bound.all fun k => laneFinished p m s i k.2 true) &&
  (s.xfers.all fun x => x.outcome.isSome) && s.barrier.isNone && syncMet p m s b

/-- The bundle a step is in can complete (R47, R54). -/
def bundleDone (p : Part) (m : Mach) (s : StepRun) : Bool :=
  let b := curBundle s
  !s.stalled && decide (s.bundleCycle + bunDur b ≤ m.tick.cycle) &&
  (if bunKind b = 1 ∨ bunCheap b = true then allFinished p m s b else allLanes.all fun i => mfMet p m s b i)

/-- A save of a context that waits for its step to park (R55). -/
def saveWaits (m : Mach) (c : Nat) : Bool := decide ((ctxOf m c).phase = 1)

/-- The running step parks: its context holds no reservation or credit (R54, R55). -/
def parkStep (p : Part) (m : Mach) (s : StepRun) : Mach :=
  let x := ctxOf m s.ctx
  let m := x.resv.foldl (fun m v => freeBuf m s.ctx v.cls v.buf) m
  let m := bump p m (Reg.ctxKindleLapse s.ctx) (x.credits.map fun v => v.count).sum
  let m := setCtx m s.ctx { ctxOf m s.ctx with resv := [], credits := [], asks := [], asked := [], kindled := [],
                                               admitCredits := [] }
  { m with run := { m.run with step := none, parked := m.run.parked ++ [s] } }

/-- A step whose END has completed while the tick is stopped commits at once; any other waits for its
tick edge (R52, R60). A failure with ERR_INTERNAL ends its context instead (R425). -/
def endStep (p : Part) (m : Mach) (s : StepRun) : Mach :=
  let s := { s with ended := true }
  if s.fails.any (fun f => f.status == stInternal) then settleInternal p (setStep m s) s.ctx
  else if s.untimed then tryCommit p (setStep m s) s else setStep m s

/-- Bundles that the sequencer holds when a step begins or resumes at bundle i: the first 32 (R49). -/
def prefetched (i : Nat) : Nat := i + 32

/-- Bundle i of a step is in the sequencer; the implicit END of a LAYER_RUN is no bundle of the program (R59). -/
def bundleThere (s : StepRun) (i : Nat) : Bool := decide (i < s.fetched) || decide (s.last < i)

/-- The next bundle starts, or the sequencer stalls for it (R49). -/
def nextBundle (p : Part) (m : Mach) (s : StepRun) : Mach :=
  if bundleThere s (s.index + 1) then enterBundle p (setStep m { s with stalled := false }) (s.index + 1)
  else setStep m { s with stalled := true }

/-- One cycle of the sequencer: a bundle is fetched, and a stall is counted or ends (R49). -/
def fetchBundle (p : Part) (m : Mach) : Mach :=
  match m.run.step with
  | some s =>
    let s := if s.ended || decide (s.last < s.fetched) || useMoves p m [.program] then s else { s with fetched := s.fetched + 1 }
    if !s.stalled then setStep m s
    else if bundleThere s (s.index + 1) then nextBundle p m { s with bundleCycle := m.tick.cycle }
    else setStep m { s with stall := s.stall + 1 }
  | none => m

/-- The bundle of a step completes: its stretch, its EVENT_SIGNAL, CHEAP_POS; then END, a parked step, or
the next bundle (R27, R34, R48, R54, R55). -/
def finishBundle (p : Part) (m : Mach) (s : StepRun) : Mach :=
  let b := curBundle s
  let s := { s with stretch := s.stretch + (m.tick.cycle - (s.bundleCycle + bunDur b)), bundleCycle := m.tick.cycle }
  let m := setStep m s
  let m := if laneOp b laneSync = 3 ∧ syncRangeBad p m s.ctx b = false then
      release (addEvt m (laneArg b laneSync / 2 ^ 28 % 4096) 1)
    else m
  let cheap := bunCheap b
  let m := if cheap then wr p m (Reg.ctxCheapPos s.ctx) (wordOf (at_ 18 (bunLset b) + s.index)) else m
  if bunKind b = 1 then endStep p m s
  else if cheap && saveWaits m s.ctx && !hasParked m s.ctx then parkStep p m s
  else nextBundle p m s

/-! ### Starting a step (R25, R27, R46, R59, R89, R155, R390, R423) -/

/-- Reservations, credit and requests of steps before one are gone (R161). -/
def lapseOld (p : Part) (m : Mach) (s : StepRun) : Mach :=
  let x := ctxOf m s.ctx
  let old := fun (k : Key) => cmpStep s k.step k.att == .lower
  let m := (x.resv.filter fun v => old v.key).foldl (fun m v => freeBuf m s.ctx v.cls v.buf) m
  let m := bump p m (Reg.ctxKindleLapse s.ctx) ((x.credits.filter fun v => old v.key).map fun v => v.count).sum
  setCtx m s.ctx { ctxOf m s.ctx with
    resv := x.resv.filter (fun v => !old v.key), credits := x.credits.filter (fun v => !old v.key),
    asks := x.asks.filter (fun v => !old v.key), asked := x.asked.filter (fun v => !old v.2),
    kindled := x.kindled.filter (fun v => !old v.2.1), admitCredits := x.admitCredits.filter (fun v => !old v.key) }

/-- The step that a command would run from a program, none where a LAYER_RUN names a layer phase that no
bundle carries. -/
def stepOf (p : Part) (m : Mach) (r : Running) (pr : Program) (step : Nat) (untimed : Bool) : Option StepRun :=
  let base : StepRun := { ctx := r.win, acc := r.acc, step := step, att := bytesOf r.line 22 22 % 16, prog := pr,
                          seed := rd p m (Reg.ctxSeed r.win), untimed := untimed,
                          cell := rdF p m Reg.exmapCell 3 0, admitCtrl := rd p m (Reg.ctxAdmitCtrl r.win),
                          beganCycle := m.tick.cycle + if untimed then 1 else 0,
                          fromCycle := m.tick.cycle + 1, bundleCycle := m.tick.cycle + 1 }
  if recOp r.line = 0x02 then
    let layer := bytesOf r.line 24 25 % 1024
    match layerRange pr layer with
    | some (i, j) => some { base with layerRun := some layer, first := i, index := i, last := j, fetched := prefetched i }
    | none => none
  else some { base with last := pr.bundles.length - 1, fetched := prefetched 0 }

/-- A recorded STEP_ABORT for a step (R423). -/
def abortNoted (p : Part) (m : Mach) (c step att : Nat) : Bool :=
  (ctxOf m c).aborts.any fun a => a.step == step && a.att == att && a.job == ctxJob p m c

/-- A step or the status with which its command completes instead. DESIGN CHOICE: a LAYER_RUN's program is, for the
bindings of R155, the run of bundles that it executes. -/
def checkStart (p : Part) (m : Mach) (r : Running) (step : Nat) (untimed : Bool) : Except Nat StepRun :=
  if abortNoted p m r.win step (bytesOf r.line 22 22 % 16) then .error stAbortedRemote
  else match (ctxOf m r.win).program with
    | none => .error stFormat
    | some pr => match stepOf p m r pr step untimed with
      | none => .error stFormat
      | some s =>
        if !bindingsOk p m r.win (stepBundles s) then .error stFormat
        else if !untimed && !cordFits p m (cordOf (stepBundles s)) then .error stCordOver
        else .ok s

/-- A step begins with its first bundle (R27, R448, R450). -/
def beginStep (p : Part) (m : Mach) (r : Running) (s : StepRun) : Mach :=
  let m := setRunning (lapseOld p m s) { r with phase := .stepping }
  let m := setCtx m s.ctx { ctxOf m s.ctx with ran := (ctxOf m s.ctx).ran ++ [(s.step, s.att)] }
  let (s, m) := checkSeed p m s
  let m := setStep m s
  let mode := replayMode p m s.ctx
  let m := if mode = 1 ∨ mode = 2 then
      recordEntry p m s.ctx (replayHeader 1 0 0 s.step s.att 0 0 0 0 s.seed)
    else m
  enterBundle p m s.first

/-- A command handed to the sequencer starts its step, or completes. -/
def startStep (p : Part) (m : Mach) (r : Running) (step : Nat) (untimed : Bool) : Mach :=
  match checkStart p m r step untimed with
  | .ok s => beginStep p m r s
  | .error st =>
    let att := bytesOf r.line 22 22 % 16
    let x := ctxOf m r.win
    let m := if st = stAbortedRemote then
        setCtx m r.win { x with aborts := x.aborts.filter fun a => !(a.step == step && a.att == att) }
      else m
    completeStep m r st 0 step att false

/-- The commands handed to the sequencer, oldest first, of contexts with no parked step; a LAYER_RUN that a save waits
for starts although its context's step has parked (R413). -/
def handedCmds (m : Mach) : List Running :=
  m.cmd.running.filter fun r => match r.phase with
    | .handed _ => !hasParked m r.win || (recOp r.line == 0x02 && saveWaits m r.win)
    | _ => false

/-- While the tick is stopped a LAYER_RUN starts as soon as no step runs (R60); `n` bounds how many
commands are tried. DESIGN CHOICE: with no edge to count from, it is eligible in the cycle of its hand-off. -/
def tryStopped (p : Part) : Nat → Mach → Mach
  | 0, m => m
  | n + 1, m =>
    if tickRuns p m || m.run.step.isSome then m
    else match (handedCmds m).find? fun r => recOp r.line == 0x02 with
      | some r => tryStopped p n (startStep p m r (bytesOf r.line 16 21) true)
      | none => m

/-- A parked step of a resident context resumes at the bundle after its cheap point (R56). DESIGN CHOICE: one that
resumes while the tick is stopped runs untimed, as a LAYER_RUN does (R60), and commits when END completes; T-64 and the
slips of R50 are counted anew from the edge at which it resumes (log entry 133). -/
def resumeStep (p : Part) (m : Mach) (s : StepRun) : Mach :=
  let s := { s with fromCycle := m.tick.cycle + 1, bundleCycle := m.tick.cycle + 1, slips := 0, untimed := !tickRuns p m,
                         fetched := max s.fetched (prefetched (s.index + 1)), stalled := false }
  let m := { m with run := { m.run with step := some s, parked := m.run.parked.filter fun x => x.ctx != s.ctx } }
  enterBundle p m (s.index + 1)

/-- The parked step that may resume: that of a resident context with no swap under way, the oldest. -/
def resumable (m : Mach) : Option StepRun :=
  (m.run.parked.filter fun s => let x := ctxOf m s.ctx
    x.resident && x.phase == 0 && !x.parkedVoid).foldl (fun best s => match best with
      | none => some s
      | some b => if s.acc < b.acc then some s else some b) none

/-- While the tick is stopped: what waits for a step boundary takes effect for every context with no step
in flight, a parked step resumes, and a LAYER_RUN starts (R56, R60, R509). -/
def settleStopped (p : Part) (m : Mach) : Mach :=
  if tickRuns p m || !engineUp m || isFatal p m then m
  else
    let m := (List.range 8).foldl (fun m c => if stepInFlight m c then m
      else takeNewProgram p (applyTables p m c fun _ => true) c) m
    let m := match m.run.step, resumable m with
      | none, some s => resumeStep p m s
      | _, _ => m
    tryStopped p (handedCmds m).length m

/-- A started STEP_RUN or LAYER_RUN is handed to the sequencer in its cycle (R25). -/
def handOff (p : Part) (m : Mach) (r : Running) : Mach :=
  if r.phase = .started then settleStopped p (setRunning m { r with phase := .handed m.tick.cycle }) else m

/-- STEP_RUN (R25, R390). -/
def stepRun (w seq : Nat) (p : Part) (m : Mach) : Mach :=
  match dueCmd p m w seq 0x01 with
  | some r => handOff p m r
  | none => m

/-- LAYER_RUN (R58 to R60): from a context that is not privileged it completes with ERR_FORMAT. -/
def layerRun (w seq : Nat) (p : Part) (m : Mach) : Mach :=
  match dueCmd p m w seq 0x02 with
  | some r => if rdB p m (Reg.ctxCtl w) 30 || r.phase ≠ .started then handOff p m r else complete m r stFormat
  | none => m

/-- BUNDLE_COMPLETE (R47, R54). -/
def bundleComplete (p : Part) (m : Mach) : Mach :=
  match liveStep m with
  | some s =>
    if engineUp m && !isFatal p m && !s.ended && bundleDone p m s then
      let m := finishBundle p m s
      if m.run.step.isNone then settleStopped p m else m
    else m
  | none => m

/-! ### Slip and stretch limit (R50, R51, R439, R441) -/

/-- Femtoseconds of n core cycles at the clock frequency in force. -/
def cyclesFs (p : Part) (m : Mach) (n : Nat) : Int := n * 1000000000 / (max 1 (coreMhz p m) : Nat)

/-- The slip quantum in femtoseconds. -/
def quantumFs (p : Part) (m : Mach) : Int := fsPerNs * rdF p m Reg.tickSlip 15 0

/-- The edge at which this node's step ends: its own where it has slipped, else the announced one. -/
def nodeEdge (m : Mach) : Option Int := m.tick.ownEdge.orElse fun _ => m.tick.edge

/-- The running step has reached 64 cycles before its tick edge with END incomplete (R50). -/
def slipDue (p : Part) (m : Mach) (s : StepRun) : Bool :=
  !s.untimed && !s.ended && tickRuns p m && !(bunKind (curBundle s) == 1 && bundleDone p m s) &&
  (if s.slips = 0 then decide (s.fromCycle + periodCycles p m ≤ m.tick.cycle + 64)
   else match nodeEdge m with
     | some e => decide (e - cyclesFs p m 64 ≤ m.tick.time)
     | none => false)

/-- A SLIP_REQ record (R439). -/
def slipRecord (step quanta job : Nat) : BitVec 128 :=
  mkRecord (leBytes 6 step ++ leBytes 1 quanta ++ leBytes 1 job) 0x61 []

/-- SLIP_REQUEST (R50, R439, R441). -/
def slipRequest (p : Part) (m : Mach) : Mach :=
  match liveStep m with
  | some s =>
    if !engineUp m || isFatal p m || !slipDue p m s then m
    else
      let n := s.slips + 1
      if rdF p m Reg.tickSlip 23 16 < n then
        settleStopped p (setEvt p (abandonStep p m s.ctx 2 stTimeout) Reg.tickPage 5)
      else
        let m := setStep m { s with slips := n }
        let m := { m with tick := { m.tick with ownEdge := m.tick.edge.map fun e => e + n * quantumFs p m } }
        let m := bump p (bump p m Reg.tickSlipCnt 1) (Reg.ctxSlipReqCnt s.ctx) 1
        setEvt p (sendRecord p m (rdF p m Reg.tickMasterId 11 0) (slipRecord (stepNow p m) n (ctxJob p m s.ctx))) Reg.tickPage 2
  | none => m

/-- STRETCH_LIMIT_EXPIRY (R51). -/
def stretchLimitExpiry (p : Part) (m : Mach) : Mach :=
  match liveStep m with
  | some s =>
    let due := s.bundleCycle + bunDur (curBundle s)
    if engineUp m && !isFatal p m && !s.ended && !s.stalled && !bundleDone p m s
        && decide (due + rdF p m (Reg.ctxStretchLimit s.ctx) 31 0 < m.tick.cycle) then
      settleStopped p (abandonStep p m s.ctx 1 stTimeout)
    else m
  | none => m

/-! ### STEP_ABORT (R423) -/

/-- Reservations for a sender and a step are cancelled, and the credit held toward it for the step is
discarded (R423). -/
def dropFor (m : Mach) (c src step att : Nat) : Mach :=
  let x := ctxOf m c
  let of := fun (k : Key) => k.step == step && k.att == att
  let m := (x.resv.filter fun v => v.src == src && of v.key).foldl (fun m v => freeBuf m c v.cls v.buf) m
  setCtx m c { ctxOf m c with
    resv := x.resv.filter (fun v => !(v.src == src && of v.key)),
    asks := x.asks.filter (fun v => !(v.src == src && of v.key)),
    credits := x.credits.filter (fun v => !(v.dest == src && of v.key)),
    admitCredits := x.admitCredits.filter (fun v => !(v.dest == src && of v.key)) }

/-- The step and attempt have not started here. -/
def notStarted (m : Mach) (c step att : Nat) : Bool := !(ctxOf m c).ran.contains (step, att)

/-- STEP_ABORT (R423). -/
def stepAbort (p : Part) (m : Mach) : Mach :=
  match takeRecord m 0x41 with
  | some (r, m) =>
    let step := bytesOf r.bytes 0 5
    let att := bytesOf r.bytes 6 6 % 16
    match ctxOfJob p m (bytesOf r.bytes 7 7) with
    | some c =>
      let m := dropFor m c r.src step att
      let runs := match stepOfCtx m c with
        | some s => s.step == step && s.att == att
        | none => false
      if runs then settleStopped p (abandonStep p m c 3 stAbortedRemote)
      else
        let x := ctxOf m c
        let n : AbortNote := ⟨bytesOf r.bytes 7 7, step, att⟩
        let m := if notStarted m c step att && !x.aborts.contains n then
            setCtx m c { x with aborts := x.aborts ++ [n] }
          else m
        pumpAsks p m c
    | none => m
  | none => m

/-! ### REPLAY_TAIL (R448, R450) -/

/-- A step that waits at its commit tries again (R450). -/
def retryCommit (p : Part) (m : Mach) : Mach :=
  match m.run.step with
  | some s => if s.atEdge then
      let m := tryCommit p m s
      if m.run.step.isNone then settleStopped p m else m
    else m
  | none => m

/-- REPLAY_TAIL_WRITE (R448, R450). -/
def replayTailWrite (src : Src) (c : Nat) (v : Word) (p : Part) (m : Mach) : Mach :=
  if 8 ≤ c then m
  else gated p m src (Reg.ctxReplayTail c) fun m =>
    let old := rd p m (Reg.ctxReplayTail c)
    let m := wr p m (Reg.ctxReplayTail c) v
    if replayMode p m c = 3 then
      let size := replaySize p m c
      let n := min size (v - old).toNat
      let off := old.toNat % size
      let base := (rd p m (Reg.ctxReplayBase c)).toNat
      let m := startReads p m (base + off) (min n (size - off)) (.replay c)
      retryCommit p (startReads p m base (n - (size - off)) (.replay c))
    else drainAllIn p (pumpReplay p c (ctxOf m c).replayWait.length m)

/-! ### The meanings of the commands -/

/-- STEP_RUN (R390). -/
def execStepRun (win seq : Nat) (s : State) : Host.Outcome State Fault Refusal :=
  .next { s with m := stepRun win seq s.part s.m }

/-- LAYER_RUN (R59). -/
def execLayerRun (win seq : Nat) (s : State) : Host.Outcome State Fault Refusal :=
  .next { s with m := layerRun win seq s.part s.m }

/-- SLIP_REQUEST (R50). -/
def execSlipRequest (s : State) : Host.Outcome State Fault Refusal :=
  .next { s with m := slipRequest s.part s.m }

/-- STRETCH_LIMIT_EXPIRY (R51). -/
def execStretchLimitExpiry (s : State) : Host.Outcome State Fault Refusal :=
  .next { s with m := stretchLimitExpiry s.part s.m }

/-- STEP_ABORT (R423). -/
def execStepAbort (s : State) : Host.Outcome State Fault Refusal :=
  .next { s with m := stepAbort s.part s.m }

/-- REPLAY_TAIL_WRITE (R450). -/
def execReplayTailWrite (src : Src) (ctx : Nat) (value : Word) (s : State) : Host.Outcome State Fault Refusal :=
  .next { s with m := responded s.m src none (replayTailWrite src ctx value s.part s.m) }

end Sys2Proof.Machine
end

