-- ==== Sys2Proof/Machine/RegRead.lean ====
section
/-! DEFINITION. What a register reads (R522 to R541): page headers, registers that mirror other
state, the three table windows, and who may read what. -/

namespace Sys2Proof.Machine

/-! ### Waiting and runnable contexts (R427) -/

/-- A resident context waits. -/
def ctxWaits (p : Part) (m : Mach) (c : Nat) : Bool :=
  (ctxOf m c).resident && (runningOf m c).all (fun r => recOp r.line == 0x51 || recOp r.line == 0x52) &&
  m.run.step.all (fun s => s.ctx != c) &&
  match headEntry m (ctxOf m c).slot with
  | some e => (checkRecord p m c e.line).isNone && !startDue m c e.line
  | none => true

/-- The oldest command of a context that is not resident, as far as R427 tests it. -/
def oldestReady (m : Mach) (c : Nat) : Bool :=
  match (waitingEntries m c).find? fun e => e.kind == .command with
  | some e =>
    !recFlag e.line 1 || decide (bytesOf e.line 8 11 % 2 ^ 28 ≤ evtOf m (bytesOf e.line 6 7 % 4096)) ||
    (recOp e.line == 0x52 && decide (semCount e.line ≤ semOf m c (semIdx e.line)))
  | none => false

/-- A defined context that is not resident is runnable. -/
def ctxRunnable (p : Part) (m : Mach) (c : Nat) : Bool :=
  ctxDefined p m c && !(ctxOf m c).resident && !(ctxOf m c).faulted && (hasParked m c || oldestReady m c)

/-- A mask of the contexts that a test picks. -/
def ctxMask (f : Nat → Bool) : Nat := ((List.range 8).map fun c => if f c then 2 ^ c else 0).sum

/-- SCHED.STAT. -/
def schedStat (p : Part) (m : Mach) : Nat :=
  ctxMask (fun c => (ctxOf m c).resident) + 2 ^ 8 * ctxMask (ctxRunnable p m) + 2 ^ 16 * ctxMask (ctxWaits p m)

/-! ### Life cycle and debug (R473 to R490) -/

/-- The life-cycle state that fuse bits hold (R473): the highest blown bit's. -/
def lcOf (bits : Nat) : Nat :=
  if bits.testBit 4 then 5 else if bits.testBit 3 then 4 else if bits.testBit 2 then 3
  else if bits.testBit 1 then 2 else if bits.testBit 0 then 1 else 0

/-- The identity key is usable (R478). -/
def keyUsable (p : Part) (m : Mach) : Bool :=
  (m.sec.lcState == 2 || m.sec.lcState == 3) && keyFused p && !keyKilled p &&
  decide (m.sec.debug ≤ 1) && !m.sec.keyCleared

/-- The highest debug level of a life-cycle state (R488). -/
def debugMax (lc : Nat) : Nat :=
  match lc with
  | 0 | 1 | 4 => 3
  | 2 => 2
  | 3 => 1
  | _ => 0

/-- A bit of a number. -/
def b2n (b : Bool) : Nat := if b then 1 else 0

/-- LCS.STAT. -/
def lcsStat (p : Part) (m : Mach) : Nat :=
  m.sec.lcState + 2 ^ 8 * lcOf (lcFuse p) + 2 ^ 11 * b2n (keyUsable p m) + 2 ^ 12 * b2n (keyFused p)
    + 2 ^ 13 * b2n (keyKilled p) + 2 ^ 14 * b2n m.sec.burning.isSome + 2 ^ 15 * b2n m.sec.fuseErr

/-- DBG.STAT; REFUSED stands in the register. -/
def dbgStat (p : Part) (m : Mach) : Nat :=
  m.sec.debug + 2 ^ 4 * debugMax m.sec.lcState + 2 ^ 8 * b2n (rdB p m Reg.dbgStat 8) + 2 ^ 9 * b2n m.sec.zeroFail
    + 2 ^ 32 * min 255 m.sec.raises

/-- Power state codes (R491). -/
def powerCode : Power → Nat
  | .lit => 0 | .banked => 1 | .cold => 2 | .off => 3

/-- PWR.STAT; REFUSE stands in the register. -/
def pwrStat (p : Part) (m : Mach) : Nat :=
  powerCode m.sec.power + 2 ^ 4 * b2n (m.sec.pcReq != m.sec.pcAck || m.sec.thenCold || m.sec.zeroing == some .cold)
    + 2 ^ 8 * rdF p m Reg.pwrStat 15 8

/-! ### Page headers (R526 to R530) -/

/-- The first page of a kind, and the instances present (R522). -/
def firstPage (c : Conf) : PageKind → Nat × Nat
  | .glb => (0, 1) | .lcs => (1, 1) | .sec => (2, 1) | .dbg => (3, 1) | .calf => (4, 1) | .calu => (5, 1)
  | .tick => (6, 1) | .pwr => (7, 1) | .cmd => (8, 1) | .cpl => (9, 1) | .sched => (10, 1) | .log => (11, 1)
  | .bist => (12, 1) | .kiln => (13, 1) | .fab => (14, 1) | .coll => (15, 1) | .ctx => (0x10, 8)
  | .pq => (0x18, ((List.range 5).filter (queuePresent c)).length)
  | .route => (0x1D, 1) | .exmap => (0x1E, 1) | .relay => (0x1F, 1) | .hrth => (0x20, hearthCount c)
  | .strm => (0x30, streamCount c) | .memp => (0x38, memPortCount c) | .link => (0x40, linkCount c)
  | .perf => (0xE0, 1) | .routeWin | .mapWin | .regionWin | .absent => (0, 0)

/-- The configuration code (R526). -/
def confCode : Conf → Nat
  | .ihlan12 => 1 | .ihlan24 => 2 | .ihlan36 => 3

/-- PAGE_ID (R526). -/
def pageIdOf (p : Part) (page : Nat) : Nat :=
  let (k, i) := pageKind p.conf page
  let first := (firstPage p.conf k).1
  2 ^ 48 * (0x100 + first) + 2 ^ 40 * (page - first) + 2 ^ 32 + 2 ^ 24 * p.stepping + 2 ^ 20 * confCode p.conf
    + 2 ^ 19 * b2n p.relay + 2 ^ 18 * b2n (pageInactive p.relay k i)

/-- PAGE_CAP (R527). -/
def pageCapOf (p : Part) (k : PageKind) : Nat :=
  2 ^ 24 * popCount (eventMask k) 32 + (2 ^ 17 + 2 ^ 16) * b2n (retirable k) + (firstPage p.conf k).2

/-- A stream port has a record on its way. -/
def strmBusy (m : Mach) (i : Nat) : Bool :=
  !(strmOf m i).unaccepted.isEmpty ||
  (strmOf m i).slots.any fun s => s.2.cur.isSome || !s.2.ready.isEmpty || s.2.out.any fun r => r.sent != 0

/-- A command with one of these opcodes runs. -/
def opRuns (m : Mach) (lo hi : Nat) : Bool := m.cmd.running.any fun r => decide (lo ≤ recOp r.line) && decide (recOp r.line ≤ hi)

/-- BUSY of a page (R529). -/
def pageBusy (m : Mach) (k : PageKind) (i : Nat) : Bool :=
  match k with
  | .ctx => !(runningOf m i).isEmpty
  | .cmd => !(runningOf m 8).isEmpty
  | .pq => m.cmd.running.any fun r => r.pq == i
  | .hrth => m.run.placed.any fun x => x.hearth == some i
  | .strm => strmBusy m i
  | .memp => decide (portLoad m i ≠ 0)
  | .link => !(linkOf m i).held.isEmpty
  | .lcs => m.sec.burning.isSome
  | .sec => m.sec.attest.isSome
  | .dbg => m.sec.memRead || m.sec.memWrite
  | .sched => opRuns m 0x60 0x62 || m.run.autoSwap.isSome
  | .log => opRuns m 0x78 0x78
  | .bist => opRuns m 0x70 0x70
  | .kiln => m.run.kilnSt.copying.isSome || m.run.kilnSt.bist.isSome
  | .fab => opRuns m 0x20 0x25
  | .coll => m.coll.groups.any fun g => g.2.op.isSome || g.2.forming.isSome
  | .calu => opRuns m 0x71 0x71
  | _ => false

/-- The channel of a page quiesces, and it is retired. -/
def pageQuiesce (p : Part) (m : Mach) (k : PageKind) (i : Nat) : Bool × Bool :=
  match k with
  | .kiln => (false, rdB p m (Reg.pageStat Reg.kilnPage) 2)
  | .hrth => ((hearthOf m i).quiesce, (hearthOf m i).retired)
  | .strm => ((strmOf m i).quiesce, (strmOf m i).retired)
  | .memp => ((memPortOf m i).quiesce, (memPortOf m i).retired)
  | .link => ((linkOf m i).quiesce, (linkOf m i).retired)
  | _ => (false, false)

/-- PAGE_STAT: LAST_STATUS and ERR_SUM stand in the register (R529). -/
def pageStatOf (p : Part) (m : Mach) (page : Nat) : Nat :=
  let (k, i) := pageKind p.conf page
  let busy := pageBusy m k i
  let (q, r) := pageQuiesce p m k i
  b2n busy + 2 * b2n (q && !busy) + 4 * b2n r + ((rd p m (Reg.pageStat page)).toNat &&& 0xFF08)

/-- LOCK (R530). -/
def lockReg (m : Mach) : Nat := m.sec.lcState + 2 ^ 4 * m.sec.debug

/-- A register of the common header. -/
def readPageHeader (p : Part) (m : Mach) (page off : Nat) : Word :=
  let (k, _) := pageKind p.conf page
  if off = 0 then wordOf (pageIdOf p page)
  else if off = 8 then wordOf (pageCapOf p k)
  else if off = 0x18 then wordOf (pageStatOf p m page)
  else if off = 0x70 then wordOf (lockReg m)
  else rd p m (pg page off)

/-! ### Registers that mirror other state -/

/-- CMD_STAT of a window (R400). -/
def cmdStat (p : Part) (m : Mach) (w : Nat) : Nat :=
  (runningOf m w).length + 2 ^ 8 * min 64 (holdOf m w).length + 2 ^ 16 * b2n (windowFull p m w)
    + ((rd p m (winStat w)).toNat &&& 0x60000)

/-- CTXn.SEQ_POS (R60). DESIGN CHOICE: a step whose END has completed shows running, and stretched once the DUR of END has
passed again (log entry 134). -/
def seqPos (m : Mach) (c : Nat) : Nat :=
  match stepOfCtx m c with
  | some s =>
    let state := if hasParked m c then 3
      else if s.stalled || decide (s.bundleCycle + bunDur (curBundle s) ≤ m.tick.cycle) then 2 else 1
    2 ^ 28 * state + 2 ^ 18 * bunLayer (curBundle s) + s.index
  | none => 0

/-- A save image's section of n bytes, padded to 4 KiB (R414). -/
def padPage (n : Nat) : Nat := (n + 4095) / 4096 * 4096

/-- CTXn.SAVE_SIZE: a FULL image at the partition that KILN.PARTn names and the program held (R430). -/
def saveSize (p : Part) (m : Mach) (c : Nat) : Nat :=
  let (nb, nt) := progSize (ctxOf m c).program
  4096 + padPage (64 * nb) + padPage (64 * nt) + groupBytes * popCount (rdF p m (Reg.kilnPart c) 31 0) 32

/-- CTXn.STATE (R430). -/
def ctxState (p : Part) (m : Mach) (c : Nat) : Nat :=
  let x := ctxOf m c
  (if x.resident then x.slot else 0) + 2 ^ 8 * b2n x.resident + 2 ^ 9 * b2n (ctxWaits p m c)
    + 2 ^ 10 * b2n (ctxRunnable p m c) + 2 ^ 11 * b2n x.faulted + 2 ^ 12 * b2n (hasParked m c)
    + 2 ^ 13 * b2n x.image + 2 ^ 14 * x.phase

/-- CTXn.FAB_OUT (R375): WRITE packets not acknowledged; and requests sent and not answered, with the OWN_ACQUIREs that
wait at their homes (R372). -/
def fabOut (m : Mach) (c : Nat) : Nat :=
  let writes := (m.cmd.writes.filter fun k => k.ctx == c && k.failed.isNone).length
  let sent := (m.net.outst.filter fun o => match o.use with
    | .verb acc d idx pkt => d == c && !(m.cmd.writes.any fun k => k.acc == acc && k.idx == idx && k.pkt == pkt)
    | .cmd _ d | .rel d => d == c
    | _ => false).length
  let queued := (m.cmd.running.filter fun r => r.win == c && r.stage != 0 && recOp r.line == 0x24 &&
    !(m.net.outst.any fun o => o.use == .cmd r.acc c) && heldBack m (fun u => u == .cmd r.acc c) == 0).length
  min 65535 writes + 2 ^ 16 * min 65535 (sent + queued)

/-- CTXn.EMBER_STAT (R212). -/
def emberStat (m : Mach) (c : Nat) : Nat :=
  let es := (ctxOf m c).embers
  es.length + 2 ^ 32 * (es.map fun e => e.granules.length).sum

/-- A register of a context page that mirrors other state. -/
def ctxMirror (p : Part) (m : Mach) (c off : Nat) : Option Nat :=
  match off with
  | 0x148 => some (cmdStat p m c)
  | 0x168 => some (semOf m c (rdF p m (Reg.ctxSemSel c) 9 0))
  | 0x218 => some (seqPos m c)
  | 0x288 => some (2 * b2n (ctxOf m c).seedPending)
  | 0x2D0 => some ((ctxOf m c).tables.maps.length + 2 ^ 16 * (ctxOf m c).tables.bias.length)
  | 0x3D0 => some (emberStat m c)
  | 0x440 | 0x448 | 0x450 | 0x458 | 0x460 | 0x468 | 0x470 =>
    let k := (off - 0x440) / 8
    some (2 ^ 32 * Sparse.get (fun _ => 0) (ctxOf m c).used k + rdF p m (Reg.ctxQuota c k) 17 0)
  | 0x540 => some (fabOut m c)
  | 0x588 => some (ctxState p m c)
  | 0x598 => some (saveSize p m c)
  | _ => none

/-- KILN.CONF (R242). -/
def kilnConf (p : Part) : Nat :=
  let n := groupCount p.conf
  let (a, b) := groupStarts p.conf
  let (parts, progs, sys) := if p.relay then (0, 0, 1) else (a, b - a, n - 1 - b)
  2 ^ 32 * n + 2 ^ 24 * parts + 2 ^ 16 * progs + 2 ^ 8 * sys + 1

/-- KILN.SPARE (R242). -/
def kilnSpare (m : Mach) : Nat :=
  let k := m.run.kilnSt
  (k.bist.getD (k.served.getD 0)) + 2 ^ 5 * b2n k.served.isSome + 2 ^ 6 * b2n k.bist.isSome

/-- HRTHn.STAT (R472). -/
def hearthStat (m : Mach) (h : Nat) : Nat :=
  let x := hearthOf m h
  b2n x.retired + 2 * b2n x.unusable + 4 * b2n x.bist + 8 * b2n x.standsFor.isSome + 2 ^ 8 * x.standsFor.getD 0

/-- The state codes of a link (R273). -/
def linkCode : LinkPhase → Nat
  | .disabled => 0 | .down => 1 | .align => 2 | .config => 3 | .ready => 4 | .active => 5 | .retrain => 6
  | .retired => 7

/-- LINKn.STAT and LINKn.PARTNER (R300). -/
def linkStat (m : Mach) (l : Nat) : Nat :=
  let x := linkOf m l
  linkCode x.phase + 2 ^ 4 * b2n x.laneSwap + 2 ^ 5 * x.skew + 2 ^ 10 * x.held.length
def linkPartner (m : Mach) (l : Nat) : Nat :=
  match (linkOf m l).partner with
  | some (node, link, relay) => node + 2 ^ 12 * link + 2 ^ 18 * b2n relay + 2 ^ 19
  | none => 0

/-- BIST.STAT (R521). -/
def bistStat (p : Part) (m : Mach) : Nat :=
  let h := (List.range (hearthCount p.conf)).find? fun i => (hearthOf m i).bist
  h.getD 0 + 2 ^ 7 * b2n h.isSome + 2 ^ 8 * m.run.kilnSt.bist.getD 0 + 2 ^ 13 * b2n m.run.kilnSt.bist.isSome

/-- PQn.DEPTH and PQn.STAT (R242); the middle is the ring of the queue's owner. -/
def pqDepth (m : Mach) (q : Nat) : Nat :=
  let mid := match winOfQueue m q with
    | some w => (ringOf m w).blocks.length
    | none => 0
  (pqOf m q).tail.length + 2 ^ 16 * (pqOf m q).head.length + 2 ^ 32 * mid
def pqStat (p : Part) (m : Mach) (q : Nat) : Nat :=
  let flush := m.cmd.running.any fun r => recOp r.line == 0x68 && bytesOf r.line 16 16 == q
  match winOfQueue m q with
  | some w => b2n (!(ringOf m w).blocks.isEmpty) + 2 * b2n (queueFull p m q w) + 4 * b2n flush
  | none => 4 * b2n flush

/-- The entry that LOG.IDX names (R467). -/
def logShown (p : Part) (m : Mach) : LogEntry := Assoc.get (0 : LogEntry) m.log.slots (rdF p m Reg.logIdx 31 0 % 2048)

/-- A block register of a kind of page that mirrors other state, by instance and offset. -/
def mirror (p : Part) (m : Mach) (k : PageKind) (i off : Nat) : Option Nat :=
  match k, off with
  | .glb, 0x100 => some (b2n p.relay + 2 * b2n p.tref)
  | .lcs, 0x100 => some (lcsStat p m)
  | .sec, 0x100 => some (2 * b2n m.sec.attest.isSome)
  | .dbg, 0x108 => some (dbgStat p m)
  | .dbg, 0x118 => some (4 * b2n (m.sec.memRead || m.sec.memWrite))
  | .tick, 0x110 => some (timeNs m)
  | .pwr, 0x108 => some (pwrStat p m)
  | .cmd, 0x148 => some (cmdStat p m 8)
  | .cmd, 0x188 => some (evtOf m (rdF p m Reg.cmdEvtIdx 11 0))
  | .ctx, _ => ctxMirror p m i off
  | .sched, 0x108 => some (schedStat p m)
  | .bist, 0x110 => some (bistStat p m)
  | .kiln, 0x100 => some (kilnConf p)
  | .kiln, 0x108 => some (kilnSpare m)
  | .fab, 0x118 => some ((m.fab.locks.filter fun x => x.2.locked).length + 2 ^ 16 * rdF p m Reg.fabLockStat 27 16)
  | .fab, 0x128 => some m.fab.cache.length
  | .fab, 0x138 => some (m.fab.subsHome.length + 2 ^ 16 * m.fab.subsOwn.length)
  | .coll, 0x100 => some m.coll.groups.length
  | .pq, 0x100 => some (match winOfQueue m i with
    | some w => w + 2 ^ 8
    | none => 0)
  | .pq, 0x108 => some (pqDepth m i)
  | .pq, 0x110 => some (pqStat p m i)
  | .route, 0x118 => some (if p.relay then 0 else slotsUsed p m)
  | .relay, 0x100 => some ((m.coll.redResv.map fun r => r.w).sum
      + 2 ^ 32 * (m.coll.redSlots.filter fun s => s.2.busy).length)
  | .hrth, 0x100 => some (hearthStat m i)
  | .link, 0x108 => some (linkStat m i)
  | .link, 0x110 => some (linkPartner m i)
  | _, _ => none

/-- A calibration register: CALF from the fuses, CALU with EFF (R521). -/
def calReg (p : Part) (m : Mach) (calu : Bool) (off : Nat) : Option Word :=
  let item := if 0x100 ≤ off ∧ off < 0x220 then some ((off - 0x100) / 8)
    else if 0x220 ≤ off ∧ off < 0x240 then some (36 + (off - 0x220) / 8)
    else if off = 0x240 then some itemRate
    else if 0x248 ≤ off ∧ off < 0x268 then some (41 + (off - 0x248) / 8) else none
  match item with
  | some i => some (if calu then caluReg p m i (rd p m (pg Reg.caluPage off)).toNat
      else wordOf (factoryWord p i))
  | none => if !calu && off == 0x268 then some (wordOf (fuseStat p)) else none

/-- A block register of a page. -/
def readBlock (p : Part) (m : Mach) (page off : Nat) : Word :=
  let (k, i) := pageKind p.conf page
  let stored := rd p m (pg page off)
  match k with
  | .calf => (calReg p m false off).getD stored
  | .calu => (calReg p m true off).getD stored
  | .lcs => if off = 0x100 then wordOf (lcsStat p m) else 0
  | .log => if 0x128 ≤ off ∧ off < 0x148 then
      wordOf (bitsOf (logShown p m) (64 * ((off - 0x128) / 8) + 63) (64 * ((off - 0x128) / 8)))
    else stored
  | .dbg => if 0x110 ≤ off ∧ m.sec.debug < 2 then 0
    else match mirror p m k i off with
      | some v => wordOf v
      | none => stored
  | _ => match mirror p m k i off with
    | some v => wordOf v
    | none => stored

/-! ### Windows (R319, R350, R539) -/

/-- A register of the route table window. -/
def readRoute (p : Part) (m : Mach) (off : Nat) : Word :=
  let d := off / 32
  let e := routeOf m d
  match off % 32 / 8 with
  | 0 => wordOf (2 ^ 63 * b2n e.valid + 2 ^ 60 * e.ttl + e.primary)
  | 1 => wordOf e.alternate
  | 2 => match usableSet p m d with
    | .links alt ls => wordOf (2 ^ 62 * (if alt then 2 else 1) + (ls.map fun l => 2 ^ l).sum)
    | .wait => wordOf (2 ^ 62 * 3)
    | .none => 0
  | _ => 0

/-- A register of the expert map window (R539). -/
def readMap (p : Part) (m : Mach) (off : Nat) : Word :=
  let c := rdF p m Reg.exmapWinSel 18 16
  let x := ctxOf m c
  match if x.resident then Assoc.find? x.tables.maps (rdF p m Reg.exmapWinSel 9 0) else none with
  | some b =>
    let e := off / 32
    let j := off % 32 / 8
    let reps := if e < b.experts then b.entries.getD e [] else []
    let at_ := fun i => match reps[i]? with
      | some r => r.toNat
      | none => 0
    wordOf (at_ (2 * j) + 2 ^ 32 * at_ (2 * j + 1))
  | none => 0

/-- A register of the region table window: KEY reads only for the host (R350, R538). -/
def readRegion (p : Part) (m : Mach) (src : Src) (addr : Nat) : Word :=
  let (r, k) := regionAt p m addr
  let x := regionOf m r
  match k with
  | 0 => x.shownCtrl
  | 1 => x.base
  | 2 => x.len
  | _ => if src = .host then x.key else 0

/-! ### Reading (R494, R504, R523 to R525, R531, R538) -/

/-- What a register reads by its page, before the limits of the port. -/
def regValue (p : Part) (m : Mach) (src : Src) (addr : Nat) : Word :=
  let page := addrPage addr
  let off := addrOff addr
  let (k, i) := pageKind p.conf page
  if addr % 8 ≠ 0 ∨ 2 ^ 20 ≤ addr then 0
  else if hasHeader k && decide (off < 0x100) then
    if (regRow k off).isSome then readPageHeader p m page off else 0
  else if pageInactive p.relay k i then 0
  else match k with
    | .routeWin => readRoute p m (addr - pg 0x80 0)
    | .mapWin => readMap p m (addr - pg 0xA0 0)
    | .regionWin => readRegion p m src addr
    | _ => match regRow k off with
      | some r => readBlock p m page off &&& ~~~(wordOf r.wo)
      | none => 0

/-- Registers that read in Banked, in Cold, and before a reset sequence has ended. -/
def alwaysReads (p : Part) (m : Mach) (addr : Nat) : Bool :=
  let (k, _) := pageKind p.conf (addrPage addr)
  (hasHeader k && addrOff addr == 0) || addr == Reg.lcsStat ||
  (if m.sec.booted then decide (k = .pwr) else addr == Reg.glbBootStat)

/-- A read of a register (R531): held in reset nothing reads; the IEEE 1500 wrapper reads DBG.STAT and
LCS.STAT only below OBSERVE (R538). -/
def readReg (p : Part) (m : Mach) (src : Src) (addr : Nat) : Word :=
  if m.sec.held ∨ m.sec.power = .off then 0
  else if src = .ieee1500 ∧ m.sec.debug < 1 ∧ addr ≠ Reg.dbgStat ∧ addr ≠ Reg.lcsStat then 0
  else if (m.sec.booted && decide (m.sec.power = .lit)) || alwaysReads p m addr then regValue p m src addr
  else 0

end Sys2Proof.Machine
end

