-- ==== Sys2Proof/Machine/Edge.lean ====
section
/-! DEFINITION. The tick (R25, R26, R408 to R410, R431 to R441, R537, R541): tick edges and what happens at
them, tick records, slip at the master, and performance snapshots. -/

namespace Sys2Proof.Machine

/-! ### Performance snapshots (R541) -/

/-- A SRC register names what a snapshot may sample: V is set, and the address lies in no window, reserved
page, PERF page or DBG memory window, and names no WO register. -/
def perfNames (p : Part) (src : Word) : Option Nat :=
  let a := bitsOf src 19 0
  let (k, _) := pageKind p.conf (addrPage a)
  let wo := match regRow k (addrOff a) with
    | some r => r.wo != 0
    | none => true
  if bitOf src 63 && hasHeader k && k != .perf && !(k == .dbg && decide (0x110 ≤ addrOff a)) && !wo then some a
  else none

/-- A snapshot: VALk, PERF_TIME and PERF_STEP. -/
def perfSnapshot (p : Part) (m : Mach) : Mach :=
  if !engineUp m then m
  else
    let vals := (List.range 64).map fun k => (Reg.perfVal k, match perfNames p (rd p m (Reg.perfSrc k)) with
      | some a => readReg p m .host a
      | none => 0)
    wrAll p m (vals ++ [(Reg.perfPerfTime, wordOf (timeNs m)), (Reg.perfPerfStep, wordOf (stepNow p m))])

/-- PERF_SNAP: a write of PERF_CTRL; SNAP takes a snapshot while EN is 1. -/
def perfSnap (src : Src) (v : Word) (p : Part) (m : Mach) : Mach :=
  gated p m src Reg.perfPerfCtrl fun m =>
    let m := wr p m Reg.perfPerfCtrl (v &&& 5)
    if bitOf v 0 && bitOf v 1 then perfSnapshot p m else m

/-! ### Shadows (R94, R95, R153, R514, R537) -/

/-- The RWS mask of a register, 0 where it has none. -/
def rwsMask (p : Part) (addr : Nat) : Nat :=
  match regRow (pageKind p.conf (addrPage addr)).1 (addrOff addr) with
  | some r => r.rws
  | none => 0

/-- A value reaches the RWS fields of a register: a binding as R153 says, any other at once. -/
def applyRws (p : Part) (m : Mach) (addr : Nat) (v : Word) : Mach :=
  let (k, i) := pageKind p.conf (addrPage addr)
  let mask := wordOf (rwsMask p addr)
  let new := (rd p m addr &&& ~~~mask) ||| (v &&& mask)
  if k = .strm then
    if (strmOf m i).retired then wr p m addr (new &&& ~~~(0x80 : Word))
    else applyBind p (wr p m addr new) i ((addrOff addr - 0x100) / 8) new
  else wr p m addr new

/-- While the tick is stopped a write to the page of a context with a parked step stays in its shadow
(R509). -/
def shadowHeld (p : Part) (m : Mach) (addr : Nat) : Bool :=
  match pageKind p.conf (addrPage addr) with
  | (.ctx, c) => hasParked m c
  | _ => false

/-- A drawn seed comes into force, at an edge at least one cycle after it was produced, or at once while the tick
is stopped; it wins over a write of SEED (R95, R509). -/
def applyDrawn (p : Part) (m : Mach) (c : Nat) : Mach :=
  match (ctxOf m c).drawn with
  | some (w, t) =>
    if tickRuns p m && decide (m.tick.cycle ≤ t) then m
    else setCtx (wr p m (Reg.ctxSeed c) w) c { ctxOf m c with drawn := none, seedPending := false }
  | none => m

/-- What a shadow gives at this moment: its value, but at an edge in the very cycle of the write the value that the
write replaced (R536, R537). -/
def Shadow.now (edge : Bool) (cycle : Nat) (x : Shadow) : Option Word :=
  if edge && decide (cycle ≤ x.cycle) then x.prior else some x.value

/-- What is left of a shadow after that. -/
def Shadow.later (edge : Bool) (cycle : Nat) (x : Shadow) : Option Shadow :=
  if edge && decide (cycle ≤ x.cycle) then some { x with prior := none } else none

/-- The shadows that a test picks take effect together, at a tick edge or as the tick stops (R537). -/
def applyShadows (p : Part) (m : Mach) (edge : Bool) (pick : Nat → Bool) : Mach :=
  let (mine, others) := m.shadow.partition fun q => pick q.1
  let kept := mine.filterMap fun q => (q.2.later edge m.tick.cycle).map fun x => (q.1, x)
  let m := mine.foldl (fun m q => match q.2.now edge m.tick.cycle with
    | some v => applyRws p m q.1 v
    | none => m) { m with shadow := kept.foldl (fun t q => Assoc.set t q.1 q.2) others }
  (List.range 8).foldl (fun m c => if pick (Reg.ctxSeed c) then applyDrawn p m c else m) m

/-! ### Charges and slow-down (R408 to R410) -/

/-- SLOWDOWN.RATIO of a tick (R410). -/
def slowdown (run intf : Nat) : Nat :=
  if run = 0 then 0x100 else min 0xFFFF (256 * run / max 1 (run - intf))

/-- A context's share. -/
def ctxShare (p : Part) (m : Mach) (c : Nat) : Nat := rdF p m (Reg.ctxCtl c) 23 16

/-- Clamped to the range of CREDIT (R408). -/
def creditClamp (x : Int) : Int := max (-(2 ^ 47 - 1)) (min (2 ^ 47 - 1) x)

/-- The credit that a context gains at a tick edge: `u` is the sum of the charges, `s` of the shares of the
contexts that are resident or runnable (R408). -/
def creditGain (share used u s : Nat) (counts : Bool) : Int :=
  if counts then ((u * share / s : Nat) : Int) - used else -(used : Int)

/-- One context's counters and credit at a tick edge. -/
def chargeOne (p : Part) (m : Mach) (u s : Nat) (counts : Nat → Bool) (x : Nat × Charges) : Mach :=
  let (c, x) := x
  let m := bump p m (Reg.ctxHearthCyc c) x.used
  let m := wr p m (Reg.ctxSlowdown c) (wordOf (slowdown x.run x.intf))
  if ctxDefined p m c then
    wr p m (Reg.ctxCredit c) (BitVec.ofInt 64 (creditClamp
      (creditOf p m c + creditGain (ctxShare p m c) x.used u s (counts c))))
  else m

/-- What a context has been charged with in the tick so far. -/
def chargesOf (m : Mach) (c : Nat) : Charges := Assoc.get {} m.run.charges c

/-- The charges of the tick that ends are added, credits move, and the next tick's start at none (R408, R410). -/
def chargeTick (p : Part) (m : Mach) : Mach :=
  if p.relay then m
  else
    let xs := (List.range 8).map fun c => (c, chargesOf m c)
    let counts := fun c => ctxDefined p m c && ((ctxOf m c).resident || ctxRunnable p m c)
    let defined := xs.filter fun x => ctxDefined p m x.1
    let u := (defined.map fun x => x.2.used).sum
    let s := ((defined.filter fun x => counts x.1).map fun x => ctxShare p m x.1).sum
    let credits := xs.map fun x => counts x.1
    xs.foldl (fun m x => chargeOne p m u s (fun c => credits.getD c false) x)
      { m with run := { m.run with charges := [] } }

/-! ### Tick records (R433, R434) -/

/-- The master bit. -/
def isMaster (p : Part) (m : Mach) : Bool := rdB p m Reg.tickCtrl 2

/-- Tick edges are being taken. -/
def edgesTaken (p : Part) (m : Mach) : Bool := rdB p m Reg.tickStat 0

/-- A tick record (R433); RESID is completed when it leaves. -/
def tickBytes (origin resid step hops edge : Nat) : BitVec 128 :=
  mkRecord (leBytes 4 origin ++ leBytes 4 resid ++ leBytes 2 step ++ leBytes 1 hops) 0x60 (leBytes 4 edge)

/-- A record goes out on every link of DOWNLINKS. -/
def toDownlinks (p : Part) (m : Mach) (bytes : BitVec 128) (since : Int) : Mach :=
  (maskLinks p (rdF p m Reg.tickDownlinks 35 0)).foldl (fun m l =>
    sendRec p m { dst := match (linkOf m l).partner with
                    | some (n, _, _) => n
                    | none => 0xFFF,
                  bytes := bytes, link := some l, since := some since }) m

/-- The low 32 bits of a time in 10 ps units. -/
def low32 (t : Int) : Nat := (t % 2 ^ 32).toNat

/-- The master announces its edge (R433). -/
def announce (p : Part) (m : Mach) : Mach :=
  match m.tick.edge with
  | some e => toDownlinks p m (tickBytes (low32 (time10 m)) 0 (m.tick.edgeStep % 65536) 0 (low32 (e / 10000))) (time10 m)
  | none => m

/-- The value nearest to x whose residue modulo 2^n is r. -/
def nearest (n : Nat) (x : Int) (r : Nat) : Int := x + signed n (((r : Int) - x) % 2 ^ n).toNat

/-- SYNC_US in femtoseconds. -/
def syncFs (p : Part) (m : Mach) : Int := 1000 * fsPerNs * rdF p m Reg.tickCtrl 47 32

/-- PERIOD in force in femtoseconds. -/
def periodFs (p : Part) (m : Mach) : Int := fsPerNs * rdF p m Reg.tickPeriod 23 0

/-- TICK_SYNC (R433): the master's record every SYNC_US. -/
def tickSync (p : Part) (m : Mach) : Mach :=
  if engineUp m && tickRuns p m && isMaster p m && decide (m.tick.lastSync + syncFs p m ≤ m.tick.time) then
    announce p { m with tick := { m.tick with lastSync := m.tick.lastSync + syncFs p m } }
  else m

/-- The link that tick records are taken from (R434). -/
def uplink (p : Part) (m : Mach) : Nat :=
  let u := rdF p m Reg.tickCtrl 15 10
  if (linkOf m u).phase ≠ .active ∧ rdB p m Reg.tickCtrl 17 then rdF p m Reg.tickCtrl 23 18 else u

/-- Alignment is lost (R437). -/
def loseAlignment (p : Part) (m : Mach) (cause : Nat) (e : Int) : Mach :=
  if rdB p m Reg.tickStat 1 then
    let m := setEvt p (clrReg p m Reg.tickStat 2) Reg.tickPage 1
    report p { m with tick := { m.tick with good := 0 } }
      { code := 0x80, page := Reg.tickPage, sev := .transient,
        detail := [BitVec.ofNat 8 cause, 0, 0, 0] ++ leBytes 4 (toPattern 32 e) }
  else m

/-- The node's time is stepped or disciplined by an offset e, `iv` after the record before (R435). -/
def discipline (p : Part) (m : Mach) (e iv : Int) : Mach :=
  if !edgesTaken p m then
    { m with tick := { m.tick with time := m.tick.time + 10000 * e, freq := 0, slew := 0 } }
  else
    let iv := max 1 iv
    { m with tick := { m.tick with
      freq := clampInt (-200000) 200000 (m.tick.freq + e * 1000000000 / (4 * iv)),
      slew := clampInt (-500000) 500000 (e * 1000000000 / iv) } }

/-- Alignment after an offset (R436, R437). -/
def judgeOffset (p : Part) (m : Mach) (e : Int) : Mach :=
  let m := wrF p m Reg.tickStat 63 32 (toPattern 32 e)
  let m := if 10000 < e.natAbs then loseAlignment p m 1 e else m
  let good := if e.natAbs ≤ 150 then min 4 (m.tick.good + 1) else 0
  let m := { m with tick := { m.tick with good := good } }
  if good = 4 ∧ rdB p m Reg.tickStat 1 = false then setEvt p (orReg p m Reg.tickStat 2) Reg.tickPage 0 else m

/-- The edge that a record announces is noted (R437 to R439): before the first edge any, once aligned;
after it one that is still to come; and while the node's own edge is moved, the one after it. -/
def noteEdge (p : Part) (m : Mach) (step edge : Nat) : Mach :=
  if !tickRuns p m then m
  else
    let e := 10000 * nearest 32 (time10 m) edge
    let s := (nearest 16 (stepNow p m) step).toNat
    let taken := edgesTaken p m
    if !taken && !rdB p m Reg.tickStat 1 then m
    else if taken && decide (s ≤ stepNow p m) then m
    else if m.tick.ownEdge.isSome && decide (stepNow p m + 2 ≤ s) then
      { m with tick := { m.tick with nextEdge := some (e, s) } }
    else { m with tick := { m.tick with edge := some e, edgeStep := s } }

/-- TICK_RECORD (R434 to R438): a record of another link, and any at the master, is ignored. Its arrival is kept in
the node's time as it is after a step of that time. -/
def tickRecord (p : Part) (m : Mach) : Mach :=
  match takeRecord m 0x60 with
  | some (r, m) =>
    if isMaster p m || r.link != uplink p m then m
    else
      let resid := bytesOf r.bytes 4 7 + (linkDelay p m r.link).toNat
      let m := toDownlinks p m (tickBytes (bytesOf r.bytes 0 3) (resid % 2 ^ 32) (bytesOf r.bytes 8 9)
        ((bytesOf r.bytes 10 10 + 1) % 256) (bytesOf r.bytes 12 15)) r.at10
      let master := nearest 32 (time10 m) (bytesOf r.bytes 0 3) + resid
      let e := master - r.at10
      let iv := match m.tick.lastRec with
        | some t => r.at10 - t
        | none => 1
      let m := { m with tick := { m.tick with lastRec := some (if edgesTaken p m then r.at10 else r.at10 + e) } }
      let m := judgeOffset p (discipline p m e iv) e
      noteEdge p m (bytesOf r.bytes 8 9) (bytesOf r.bytes 12 15)
  | none => m

/-- TICK_LOST (R437): no record for 4 × SYNC_US. -/
def tickLost (p : Part) (m : Mach) : Mach :=
  match m.tick.lastRec with
  | some t =>
    if engineUp m && !isMaster p m && decide (10000 * t + 4 * syncFs p m ≤ m.tick.time) then
      loseAlignment p m 2 (signed 32 (rdF p m Reg.tickStat 63 32))
    else m
  | none => m

/-- REF_PPS (R432, R554). -/
def refPps (p : Part) (m : Mach) : Mach :=
  if engineUp m && isMaster p m && rdB p m Reg.tickCtrl 3 then wr p m Reg.tickPpsTime (wordOf (timeNs m)) else m

/-! ### Slip at the master (R440) -/

/-- The largest grant of a step. -/
def grantOf (m : Mach) (s : Nat) : Nat := Assoc.get 0 m.tick.grants s

/-- Quanta by which the node moves an edge of its own: SLIP_CNT and SLIP (R451). -/
def countSlip (p : Part) (m : Mach) (n : Nat) : Mach :=
  if n = 0 then m else setEvt p (bump p m Reg.tickSlipCnt n) Reg.tickPage 2

/-- SLIP_REQ (R440): at the master, for the step in force or one to come it is kept; for the step before,
the edge announced moves by what the grant has gained. -/
def slipReq (p : Part) (m : Mach) : Mach :=
  match takeRecord m 0x61 with
  | some (r, m) =>
    let s := bytesOf r.bytes 0 5
    let q := min (rdF p m Reg.tickSlip 23 16) (bytesOf r.bytes 6 6)
    let old := grantOf m s
    let now := stepNow p m
    if !engineUp m || !tickRuns p m || !isMaster p m || decide (q ≤ old) || decide (s + 1 < now) then m
    else
      let m := { m with tick := { m.tick with grants := Assoc.set m.tick.grants s q } }
      if s + 1 = now ∧ edgesTaken p m then
        let m := countSlip p m (q - old)
        announce p { m with tick := { m.tick with edge := m.tick.edge.map fun e => e + (q - old : Nat) * quantumFs p m } }
      else m
  | none => m

/-! ### The tick edge (R25, R26, R52, R438) -/

/-- A handed command is tried at an edge that begins a step (R25, R390). -/
def tryHandedOne (p : Part) (m : Mach) (r : Running) : Mach :=
  let step := bytesOf r.line 16 21
  let now := stepNow p m
  match r.phase with
  | .handed c =>
    if m.tick.cycle < c + 64 then m
    else if recOp r.line = 0x02 then startStep p m r step false
    else if step = 0xFFFFFFFFFFFF ∨ step = now then startStep p m r now false
    else if step < now then completeStep m r stTimeout 0 step (bytesOf r.line 22 22 % 16) false
    else m
  | _ => m

/-- The commands handed over are tried, oldest first, until one starts. -/
def tryHanded (p : Part) : List Running → Mach → Mach
  | [], m => m
  | r :: rest, m => if m.run.step.isSome then m else tryHanded p rest (tryHandedOne p m r)

/-- The step that begins: a parked step resumes, else the oldest eligible command starts (R25, R56). -/
def beginTick (p : Part) (m : Mach) : Mach :=
  if m.run.step.isSome then m
  else match resumable m with
    | some s => resumeStep p m s
    | none => tryHanded p (handedCmds m) m

/-- The running step ends at this edge. -/
def endsNow (m : Mach) (c : Nat) : Bool := m.run.step.any fun s => s.ctx == c && s.ended

/-- The ending step commits, and tables and programs come into force (R52, R53, R112, R122); a step that goes on, a
parked one, keeps the tables and the program it has. DESIGN CHOICE, where the rules give no order at one edge: every
BIAS_UPDATE acts before the commit and every TABLE_LOAD after it, each kind in command order, so that the counters that
a TABLE_LOAD of kind BIAS zeroes hold the commit's counts too. -/
def settleEdge (p : Part) (m : Mach) : Mach :=
  let m := (List.range 8).foldl (fun m c => applyTables p (keepTables m c) c PendTable.isUpdate) m
  let m := match m.run.step with
    | some s => if s.ended then tryCommit p m s else m
    | none => m
  (List.range 8).foldl (fun m c =>
    let m := applyTables p m c fun _ => true
    if stepInFlight m c then m else takeNewProgram p m c) m


/-- The edge is taken at `e`: the step number, EDGES, and the edge that ends the new step: the master's one
PERIOD and the grant of the step that ended after its last, another node's one PERIOD on until a record
announces it (R437, R438, R440). -/
def advanceEdge (p : Part) (m : Mach) (e : Int) : Mach :=
  let own := m.tick.ownEdge.isSome
  let step := if own then stepNow p m + 1 else m.tick.edgeStep
  let m := orReg p (wr p m Reg.tickStep (wordOf (step % 2 ^ 48))) Reg.tickStat 1
  let m := if isMaster p m then countSlip p m (grantOf m (step - 1)) else m
  let next := if isMaster p m then
      (m.tick.edge.getD e + periodFs p m + (grantOf m (step - 1) : Nat) * quantumFs p m, step + 1)
    else match m.tick.nextEdge with
      | some x => x
      | none => (e + periodFs p m, step + 1)
  { m with tick := { m.tick with edge := some next.1, edgeStep := next.2, ownEdge := none, nextEdge := none,
                                 grants := m.tick.grants.filter fun g => decide (step ≤ g.1 + 1) } }

/-- The edge that is due, if a step that runs lets it come: a step whose END is incomplete moves it first
(R50). -/
def edgeDue (p : Part) (m : Mach) : Option Int :=
  if !engineUp m || isFatal p m || !tickRuns p m then none
  else match nodeEdge m with
    | some e =>
      let held := m.run.step.any fun s => !s.untimed && !s.ended
      if e ≤ m.tick.time ∧ held = false then some e else none
    | none => none

/-- TICK_EDGE (R25, R26). -/
def tickEdge (p : Part) (m : Mach) : Mach :=
  match edgeDue p m with
  | some e =>
    let m := if rdB p m Reg.perfPerfCtrl 0 && rdB p m Reg.perfPerfCtrl 2 then perfSnapshot p m else m
    let m := chargeTick p (applyShadows p (settleEdge p m) true fun _ => true)
    let m := advanceEdge p m e
    let m := if isMaster p m then announce p m else m
    beginTick p m
  | none => m

/-! ### TICK.CTRL (R438, R451, R509, R537) -/

/-- A write of TICK.CTRL that R451 ignores. -/
def tickCtrlRefused (p : Part) (m : Mach) (v : Word) : Bool :=
  (tickRuns p m && ((rd p m Reg.tickCtrl ^^^ v) &&& 0xFEFC04 != 0)) ||
  (bitOf v 3 && !p.tref) || decide (bitsOf v 47 32 < 8)

/-- The tick stops: no edges, EDGES cleared, and every pending shadow takes effect (R537, R509). -/
def stopTick (p : Part) (m : Mach) : Mach :=
  let m := clrReg p m Reg.tickStat 1
  let m := { m with tick := { m.tick with edge := none, ownEdge := none, nextEdge := none, grants := [] } }
  settleStopped p (applyShadows p m false fun _ => true)

/-- The tick starts: the master announces its first edge at 2 × PERIOD, with its STEP (R438). -/
def startTick (p : Part) (m : Mach) : Mach :=
  let first := if isMaster p m then some (m.tick.time + 2 * periodFs p m) else none
  { m with tick := { m.tick with edge := first, edgeStep := stepNow p m, ownEdge := none, nextEdge := none,
                                 grants := [], lastSync := m.tick.time } }

/-- TICK_RUN: a write of TICK.CTRL. -/
def tickRun (src : Src) (v : Word) (p : Part) (m : Mach) : Mach :=
  gated p m src Reg.tickCtrl fun m =>
    if tickCtrlRefused p m v then ignored p m src Reg.tickCtrl
    else
      let was := tickRuns p m
      let m := wr p m Reg.tickCtrl (v &&& 0xFFFF00FEFC0D)
      if was && !bitOf v 0 then stopTick p m
      else if !was && bitOf v 0 then startTick p m
      else m

/-! ### The meanings of the commands -/

/-- PERF_SNAP (R541). -/
def execPerfSnap (src : Src) (value : Word) (s : State) : Host.Outcome State Fault Refusal :=
  .next { s with m := responded s.m src none (perfSnap src value s.part s.m) }

/-- TICK_SYNC (R433). -/
def execTickSync (s : State) : Host.Outcome State Fault Refusal :=
  .next { s with m := tickSync s.part s.m }

/-- TICK_RECORD (R435). -/
def execTickRecord (s : State) : Host.Outcome State Fault Refusal :=
  .next { s with m := tickRecord s.part s.m }

/-- TICK_LOST (R437). -/
def execTickLost (s : State) : Host.Outcome State Fault Refusal :=
  .next { s with m := tickLost s.part s.m }

/-- REF_PPS (R432). -/
def execRefPps (s : State) : Host.Outcome State Fault Refusal :=
  .next { s with m := refPps s.part s.m }

/-- SLIP_REQ (R440). -/
def execSlipReq (s : State) : Host.Outcome State Fault Refusal :=
  .next { s with m := slipReq s.part s.m }

/-- TICK_EDGE (R25). -/
def execTickEdge (s : State) : Host.Outcome State Fault Refusal :=
  .next { s with m := tickEdge s.part s.m }

/-- TICK_RUN (R438). -/
def execTickRun (src : Src) (value : Word) (s : State) : Host.Outcome State Fault Refusal :=
  .next { s with m := responded s.m src none (tickRun src value s.part s.m) }

end Sys2Proof.Machine
end

