-- ==== Sys2Proof/Machine/Seed.lean ====
section
/-! DEFINITION. The CTR_DRBG's seed material and draws (R95, R352, R553). -/

namespace Sys2Proof.Machine

/-- The CTR_DRBG takes entropy words: it is to be instantiated, or reseeded after 4,096 draws (R553). -/
def drbgNeeds (m : Mach) : Bool := !drbgCan m

/-- A drawn seed is produced: it takes effect at the next tick edge, or at once while the tick is stopped and
the context has no parked step (R95, R509). -/
def produceSeed (p : Part) (m : Mach) (c : Nat) (v : Word) : Mach :=
  let m := setCtx m c { ctxOf m c with drawn := some (v, m.tick.cycle) }
  if tickRuns p m || hasParked m c then m else applyDrawn p m c

/-- A draw that waited is served, or waits on. -/
def serveDraw (p : Part) (m : Mach) : DrawFor → Mach
  | .seed c =>
    if drbgCan m then let (v, m) := drbgTake m; produceSeed p m c v
    else { m with sec := { m.sec with drbgWaits := m.sec.drbgWaits ++ [.seed c] } }
  | .key r => keygenRegion p m r

/-- Every draw that waited is served in order, as far as the seed material lasts. -/
def serveDraws (p : Part) (m : Mach) : Mach :=
  m.sec.drbgWaits.foldl (serveDraw p) { m with sec := { m.sec with drbgWaits := [] } }

/-- SEED_DRAW (R95): a write of CTXn.SEED_CTRL; a draw while one is pending is ignored (R536). -/
def seedDraw (src : Src) (c : Nat) (v : Word) (p : Part) (m : Mach) : Mach :=
  if 8 ≤ c then m
  else gated p m src (Reg.ctxSeedCtrl c) fun m =>
    if !bitOf v 0 then m
    else if (ctxOf m c).seedPending then ignored p m src (Reg.ctxSeedCtrl c)
    else serveDraw p (setCtx m c { ctxOf m c with seedPending := true }) (.seed c)

/-- ENTROPY_WORD (R553): 12 words of 32 bits instantiate or reseed the CTR_DRBG. -/
def entropyWord (w : BitVec 32) (p : Part) (m : Mach) : Mach :=
  if engineUp m && drbgNeeds m then
    let ws := m.sec.entropy ++ [w]
    if ws.length < 12 then { m with sec := { m.sec with entropy := ws, entropyAt := m.tick.time } }
    else serveDraws p { m with sec := { m.sec with entropy := [], drbgReady := true, draws := 0 } }
  else m

/-- ENTROPY_STALL (R553): a wait of 1 ms for entropy. -/
def entropyStall (p : Part) (m : Mach) : Mach :=
  if engineUp m && drbgNeeds m && decide (m.sec.entropyAt + 1000000 * fsPerNs ≤ m.tick.time) then setEvt p m Reg.secPage 3 else m

/-! ### The meanings of the commands -/

/-- SEED_DRAW (R95). -/
def execSeedDraw (src : Src) (ctx : Nat) (value : Word) (s : State) : Host.Outcome State Fault Refusal :=
  .next { s with m := responded s.m src none (seedDraw src ctx value s.part s.m) }

/-- ENTROPY_WORD (R553). -/
def execEntropyWord (word : BitVec 32) (s : State) : Host.Outcome State Fault Refusal :=
  .next { s with m := entropyWord word s.part s.m }

/-- ENTROPY_STALL (R553). -/
def execEntropyStall (s : State) : Host.Outcome State Fault Refusal :=
  .next { s with m := entropyStall s.part s.m }

end Sys2Proof.Machine
end

