-- ==== Sys2Proof/Machine/Swap.lean ====
section
/-! DEFINITION. Contexts: their definition (R401, R402, R426), saves and restores with their images
(R411 to R418, R227, R228, R241), CTX_KILL (R420, R421), swap advice and auto-swap (R427 to R430). -/

namespace Sys2Proof.Machine

/-! ### The table area in a save image (R226) -/

/-- Bytes of a context's table area. -/
def tableArea (x : Ctx) : Nat := 65536 * x.tblUnits * x.groups.length

/-- The kiln byte address of byte o of the table area: its lines fall in the groups in turn. -/
def tableAddr (x : Ctx) (o : Nat) : Nat :=
  let n := max 1 x.groups.length
  groupBytes * x.groups.getD (o / 64 % n) 0 + 64 * (o / 64 / n) + o % 64

/-- A block of the model's layout: tag, layer, experts in 64 bytes, then its entries. -/
def tableBlock (tag layer experts : Nat) (bs : List Byte) : List Byte :=
  leBytes 2 tag ++ leBytes 2 layer ++ leBytes 2 experts ++ List.replicate 58 0 ++ bs

/-- The entries and the counters of a map block. -/
def mapImage (t : Tables) (layer : Nat) (b : MapBlock) : List Byte :=
  (b.entries.flatMap fun es => (List.range 8).flatMap fun j => leBytes 4 (match es[j]? with
    | some r => r.toNat
    | none => 0)) ++
  (List.range b.experts).flatMap fun e =>
    leBytes 4 (Assoc.get 0 t.admitted (cntKey layer e)) ++ leBytes 4 (Assoc.get 0 t.skipped (cntKey layer e))

/-- The entries of a bias block. -/
def biasImage (b : BiasBlock) : List Byte :=
  b.entries.flatMap fun (v, cap, ovr) => leBytes 4 v.toNat ++ leBytes 4 (cap + 2 ^ 31 * b2n ovr)

/-- A context's tables as bytes: the share table, then its blocks (DESIGN CHOICE, notes/assumptions). -/
def tablesImage (t : Tables) : List Byte :=
  ((List.range 4096).flatMap fun i => leBytes 1 (shareOf t i)) ++
  (t.maps.flatMap fun (l, b) => tableBlock 1 l b.experts (mapImage t l b)) ++
  (t.bias.flatMap fun (l, b) => tableBlock 2 l b.experts (biasImage b))

/-- A map block read back. -/
def mapFrom (t : Tables) (layer n : Nat) (bs : List Byte) : Tables :=
  let es := (List.range n).map fun e => (mapWords (bs.drop (32 * e))).map Replica.ofNat
  let cnt := fun e o => fieldOf bs (32 * n + 8 * e + o) (32 * n + 8 * e + o + 3)
  (List.range n).foldl (fun t e =>
      { t with admitted := Assoc.set t.admitted (cntKey layer e) (cnt e 0),
               skipped := Assoc.set t.skipped (cntKey layer e) (cnt e 4) })
    { t with maps := Assoc.set t.maps layer { experts := n, entries := es } }

/-- A bias block read back. -/
def biasFrom (t : Tables) (layer n : Nat) (bs : List Byte) : Tables :=
  { t with bias := Assoc.set t.bias layer { experts := n, entries := biasEntries n bs } }

/-- Blocks read back until none follows. -/
def blocksFrom : Nat → Tables → List Byte → Tables
  | 0, t, _ => t
  | f + 1, t, bs =>
    let layer := fieldOf bs 2 3
    let n := fieldOf bs 4 5
    match fieldOf bs 0 1 with
    | 1 => blocksFrom f (mapFrom t layer n (bs.drop 64)) (bs.drop (64 + 40 * n))
    | 2 => blocksFrom f (biasFrom t layer n (bs.drop 64)) (bs.drop (64 + 8 * n))
    | _ => t

/-- The tables that a table area holds. -/
def tablesFrom (bs : List Byte) : Tables :=
  if bs.length < 4096 then {}
  else blocksFrom (bs.length / 64) { share := (bs.take 4096).zipIdx.map fun (b, i) => (i, b.toNat) } (bs.drop 4096)

/-- The tables of a context stand in its table area. -/
def stashTables (m : Mach) (c : Nat) : Mach :=
  let x := ctxOf m c
  (((tablesImage x.tables ++ List.replicate (tableArea x) 0).take (tableArea x)).zipIdx).foldl
    (fun m (b, i) => pokeKiln m (tableAddr x i) [b]) m

/-! ### Save images (R414, R415) -/

/-- Bytes of a partition from an offset. -/
def partBytes (m : Mach) (c off n : Nat) : List Byte :=
  (List.range n).map fun i => byteAt m.mem.kiln (partAddr (ctxOf m c) (off + i))

/-- A byte list padded to a 4 KiB boundary. -/
def padList (bs : List Byte) : List Byte := bs ++ List.replicate (padPage bs.length - bs.length) 0

/-- The parked step whose position a save holds. -/
def parkedOf (m : Mach) (c : Nat) : Option StepRun :=
  if (ctxOf m c).parkedVoid then none else m.run.parked.find? fun s => s.ctx == c

/-- The header of a save image, with a CRC. -/
def saveHeader (p : Part) (m : Mach) (c len crc : Nat) : List Byte :=
  let x := ctxOf m c
  let (nb, nt) := progSize x.program
  let s := parkedOf m c
  let pick := fun (f : StepRun → Nat) => (s.map f).getD 0
  leBytes 4 0x4E4C4849 ++ leBytes 1 1 ++ leBytes 1 c ++ leBytes 1 (ctxJob p m c) ++ leBytes 1 (1 + b2n s.isSome)
    ++ leBytes 6 (pick fun s => s.step) ++ leBytes 1 (pick fun s => s.att) ++ leBytes 1 0
    ++ leBytes 4 (pick fun s => s.index) ++ leBytes 2 (pick fun s => bunLset (bundleAt s s.index))
    ++ leBytes 1 x.groups.length ++ leBytes 1 x.tblUnits
    ++ ((List.range 8).flatMap fun k => leBytes 2 (x.carve.getD k 0))
    ++ leBytes 4 nb ++ leBytes 4 nt ++ leBytes 8 len ++ leBytes 4 crc ++ List.replicate 4036 0

/-- The ranges of a live set template of a program. -/
def liveSetOf (pr : Program) (lset : Nat) : List (Nat × Nat) := liveRanges (pr.templates.getD lset 0)

/-- The data section of a context's image: the live set of its cheap point, or the whole partition. -/
def saveData (m : Mach) (c : Nat) : List Byte :=
  match parkedOf m c with
  | some s => (liveSetOf s.prog (bunLset (bundleAt s s.index))).flatMap fun r => partBytes m c r.1 r.2
  | none => partBytes m c 0 (partitionSize (ctxOf m c))

/-- The save image of a context whose tables stand in its table area. -/
def saveImage (p : Part) (m : Mach) (c : Nat) : List Byte :=
  let pr := ((ctxOf m c).program).getD {}
  let body := padList (pr.bundles.flatMap lineBytes) ++ padList (pr.templates.flatMap lineBytes) ++ saveData m c
  let len := 4096 + body.length
  saveHeader p m c len (crc32c (saveHeader p m c len 0 ++ body)) ++ body

/-! ### The drain of a save (R412, R413) -/

/-- A waiting BIAS_UPDATE of a command is forgotten. -/
def dropUpdate (m : Mach) (r : Running) : Mach :=
  let x := ctxOf m r.win
  setCtx m r.win { x with pend := x.pend.filter fun q => match q with
    | .update acc _ _ _ _ _ _ _ _ => acc != r.acc
    | _ => true }

/-- A formation or a collective operation of a command has begun: COLL_DEFER judges it (R345). -/
def collBegun (m : Mach) (r : Running) : Bool :=
  m.coll.groups.any fun (_, g) =>
    (match g.op with
     | some op => op.owner == .cmd r.acc
     | none => false) ||
    (match g.forming with
     | some f => f.acc == r.acc
     | none => false)

/-- A collective of a command is the next in its group, and its checks run: COLL_DEFER judges it too (R345). -/
def collChecked (m : Mach) (r : Running) : Bool :=
  let o := opOfCmd m r
  isColl (recOp r.line) && (heldGroup m o).isSome && collTurn m o

/-- A running command of a context at the start of its save. -/
def drainOne (p : Part) (m : Mach) (r : Running) : Mach :=
  match recOp r.line with
  | 0x01 => if r.phase = .stepping then m else preemptCmd m r
  | 0x10 | 0x11 | 0x12 | 0x13 | 0x14 | 0x15 => if collBegun m r || collChecked m r then m else preemptCmd m r
  | 0x24 =>
    complete (if r.stage = 1 then
      sendFlow p m (bytesOf r.line 16 17 % 4096) 4 (cmdPacket p m r.win r.line kOwnRel) r.win (.rel r.win) else m) r stKilled
  | 0x30 | 0x31 | 0x32 => if pastCommit r then m else preemptCmd m r
  | 0x40 | 0x41 | 0x51 | 0x52 => preemptCmd m r
  | 0x42 => if r.phase = .waiting then m else preemptCmd (dropUpdate m r) r
  | 0x48 => preemptCmd (dropKindles m fun a => a == some r.acc) r
  | _ => m

/-- A save of a resident context begins. -/
def startSave (p : Part) (m : Mach) (c : Nat) : Mach :=
  deferNone p ((runningOf m c).foldl (drainOne p) (setCtx m c { ctxOf m c with phase := 1, saveAt := m.tick.time })) c

/-- The drain is over: the context's step has parked or ended, no item of it is placed, and no other command of it
runs (R412). -/
def drained (m : Mach) (c : Nat) : Bool :=
  m.run.step.all (fun s => s.ctx != c) && (m.run.placed.all fun x => x.ctx != c || !stillPlaced m x) &&
  !txnsOutOf m (fun u => u == .back c) &&
  (runningOf m c).all fun r => r.phase == .stepping && m.run.parked.any fun s => s.acc == r.acc

/-! ### The queue leaves, and returns (R241) -/

/-- Entries in blocks of 16. -/
def blocksOf16 (es : List Entry) : List (List Entry) := chunksOf blockSize (es.length + 1) es

/-- The ring has room for a queue's head and tail, and no block of it is being filled. -/
def queueFits (p : Part) (m : Mach) (q c : Nat) : Bool :=
  let x := pqOf m q
  let n := (blocksOf16 x.head).length + (blocksOf16 x.tail).length
  (n == 0 || decide ((ringOf m c).blocks.length + n ≤ ringCap p m c)) &&
  (ringOf m c).blocks.all fun b => !b.filling

/-- A block of entries is written to the front of a ring. -/
def spillFront (p : Part) (m : Mach) (c : Nat) (es : List Entry) : Mach :=
  let ring := ringOf m c
  match ring.blocks with
  | [] => spillBlock p m c es
  | b :: _ =>
    let cap := max 1 (ringCap p m c)
    let place := (b.place + cap - 1) % cap
    let full := es ++ List.replicate (blockSize - es.length) padEntry
    let m := setRing m c { ring with blocks := ⟨place, full, false⟩ :: ring.blocks }
    startWrites p (countBlock p m c Reg.pqSpillBlk) (ringAddr p m c place) (full.flatMap fun e => lineBytes e.line) (.spill c place)

/-- Head entries go to the front of the ring and tail entries to its back. -/
def queueLeaves (p : Part) (m : Mach) (q c : Nat) : Mach :=
  let x := pqOf m q
  let m := setPq m q {}
  let m := if (ringOf m c).blocks.isEmpty then (blocksOf16 x.head).foldl (fun m es => spillBlock p m c es) m
    else (blocksOf16 x.head).reverse.foldl (fun m es => spillFront p m c es) m
  (blocksOf16 x.tail).foldl (fun m es => spillBlock p m c es) m

/-! ### The phases after the drain (R412, R228) -/

/-- The groups of a context are zeroed. -/
def zeroGroups (m : Mach) (gs : List Nat) : Mach :=
  let k := m.run.kilnSt
  { m with
    mem := { m.mem with kiln := gs.foldl (fun mem g => clearBytes mem (groupBytes * g) groupBytes) m.mem.kiln },
    run := { m.run with kilnSt := { k with badLines := k.badLines.filter fun l => !gs.contains (l / 32768) } } }

/-- The partition, the program space and the resident slot of a context are freed. -/
def releaseCtx (p : Part) (m : Mach) (c : Nat) : Mach :=
  let x := ctxOf m c
  let m := zeroGroups m x.groups
  let m := setCtx m c { x with
    resident := false, slot := 0, phase := 0, groups := [], carve := [], tblUnits := 0, used := [], bufs := [],
    embers := [], resv := [], asks := [], credits := [], asked := [], kindled := [], admitCredits := [],
    tables := {}, program := none }
  showProgram p m c none

/-- What waits for a step boundary is in force before a FULL image is written (DESIGN CHOICE). -/
def settleFull (p : Part) (m : Mach) (c : Nat) : Mach :=
  if hasParked m c then m else takeNewProgram p (applyTables p m c fun _ => true) c

/-- The queue phase of a save: head and tail entries are written to the ring (R412, R241). -/
def queueOut (p : Part) (m : Mach) (c : Nat) : Mach :=
  let m := queueLeaves p m (ctxOf m c).slot c
  setCtx m c { ctxOf m c with phase := 2 }

/-- The blocks of a context's queue are still being written. -/
def spillsOut (m : Mach) (c : Nat) : Bool := txnsOutOf m fun u => match u with
  | .spill r _ => r == c
  | _ => false

/-- The partition ranges that the data section of a save image holds. -/
def savedRanges (m : Mach) (c : Nat) : List (Nat × Nat) :=
  match parkedOf m c with
  | some s => liveSetOf s.prog (bunLset (bundleAt s s.index))
  | none => [(0, partitionSize (ctxOf m c))]

/-- The first line that the reads of a save find undecodable (R222). -/
def saveBad (m : Mach) (c : Nat) : Option Nat :=
  (savedRanges m c).findSome? fun r => (partParts (ctxOf m c) r.1 r.2).findSome? fun q => badLineIn m q.1 q.2.2

/-- The image phase of a save: the image is written at `area` unless that is 0; true where a read of it fails. -/
def imageOut (p : Part) (m : Mach) (c area : Nat) (use : TxnUse) : Bool × Mach :=
  let m := settleFull p m c
  let m := setCtx m c { ctxOf m c with phase := 3 }
  if area = 0 then (false, m)
  else match saveBad m c with
    | some l => (true, kilnNote p m l (some 0))
    | none =>
      let m := stashTables m c
      (false, startWrites p m area (saveImage p m c) use)

/-- The release phase of a save begins. -/
def releaseOut (m : Mach) (c : Nat) : Mach := setCtx m c { ctxOf m c with phase := 4 }

/-- The save area's address. -/
def saveAreaOf (p : Part) (m : Mach) (c : Nat) : Nat := 4096 * rdF p m (Reg.ctxSaveArea c) 41 12

/-- The last phase of a save (R412, R430). -/
def saveEnds (p : Part) (m : Mach) (c area : Nat) : Mach :=
  let m := releaseCtx p m c
  if area ≠ 0 ∧ area = saveAreaOf p m c then setCtx m c { ctxOf m c with image := true } else m

/-- A save whose image could not be written: the context stays resident and its queue fills again, with what
its staging block took meanwhile at the tail (R416). -/
def saveFails (p : Part) (m : Mach) (c : Nat) : Mach :=
  let x := ctxOf m c
  let m := setPq (setCtx m c { x with phase := 0, staging := [] }) x.slot { head := [], tail := x.staging }
  queueFill x.slot p (settleQueue m x.slot c)

/-- The context and the area of CTX_SAVE and CTX_RESTORE. -/
def swapCtx (l : Line) : Nat := bytesOf l 16 16 % 8
def swapArea (l : Line) : Nat := bytesOf l 24 31 % 2 ^ 42

/-- A kill that a lost host waits with, after a swap command has ended (R463). -/
def swapDone (p : Part) (m : Mach) (r : Running) (st : Nat) : Mach :=
  settleStopped p (settleLost p (complete m r st))

/-- CTX_SAVE_DRAIN_END (R412): the drain is over and the queue is written out. -/
def ctxSaveDrainEnd (c : Nat) (p : Part) (m : Mach) : Mach :=
  let x := ctxOf m c
  if !engineUp m || isFatal p m || x.phase ≠ 1 || !drained m c || !queueFits p m x.slot c then m
  else match savingCmd m c, m.run.autoSwap with
    | some r, _ => if r.stage = 1 then queueOut p (setRunning m { r with stage := 2 }) c else m
    | none, some a =>
      if a.out = c ∧ a.stage = 0 then
        queueOut p { m with run := { m.run with autoSwap := some { a with stage := 1 } } } c
      else m
    | none, none => m

/-- A phase of a save after its drain: 2 the queue's blocks, 3 the image, 4 the release; the rest waits for what it
writes, and a write or read that failed ends the save (R412, R416). -/
def saveStage (p : Part) (m : Mach) (c area : Nat) (use : TxnUse) (failed : Bool) : Option Bool × Mach :=
  match (ctxOf m c).phase with
  | 2 =>
    if spillsOut m c then (none, m)
    else if failed then (some true, saveFails p m c)
    else match imageOut p m c area use with
      | (true, m) => (some true, saveFails p m c)
      | (false, m) => (none, m)
  | 3 => if failed then (some true, saveFails p m c) else (none, releaseOut m c)
  | 4 => (some false, saveEnds p m c area)
  | _ => (none, m)

/-- CTX_SAVE (R412, R416): it begins, and then goes on a phase at a time. -/
def ctxSave (w seq : Nat) (f : StoreRead) (p : Part) (m : Mach) : Mach :=
  match dueCmd p m w seq 0x60 with
  | some r =>
    let m := readFinds p m f
    let c := swapCtx r.line
    if r.stage = 0 then
      if !ctxDefined p m c || !(ctxOf m c).resident then swapDone p m r stFormat
      else if (ctxOf m c).phase ≠ 0 then m
      else startSave p (setRunning m { r with stage := 1 }) c
    else if r.stage = 1 ∨ groupCopies m c = true ∨ txnsOut m (.cmdWrite r.acc) = true then m
    else match saveStage p m c (swapArea r.line) (.cmdWrite r.acc) r.memFail with
      | (some true, m) => swapDone p m r stUncorrectable
      | (some false, m) => swapDone p m r stDone
      | (none, m) => m
  | none => m

/-! ### Restoring (R227, R417, R418) -/

/-- The bits of a mask, ascending. -/
def maskList (v n : Nat) : List Nat := (List.range n).filter fun i => v.testBit i

/-- The groups, table units and carve that a context's registers name. -/
def partGroups (p : Part) (m : Mach) (c : Nat) : List Nat := maskList (rdF p m (Reg.kilnPart c) 31 0) 32
def partUnits (p : Part) (m : Mach) (c : Nat) : Nat := rdF p m (Reg.kilnPart c) 37 32
def partCarve (p : Part) (m : Mach) (c : Nat) : List Nat :=
  (List.range 8).map fun k =>
    if k < 4 then rdF p m (Reg.kilnCarveLo c) (16 * k + 15) (16 * k)
    else rdF p m (Reg.kilnCarveHi c) (16 * k - 49) (16 * k - 64)

/-- A context holds a slot and groups: it is resident, or is being restored. -/
def holdsSlot (x : Ctx) : Bool := x.resident || !x.groups.isEmpty

/-- The lowest resident slot that is free (R405). -/
def freeSlot (p : Part) (m : Mach) : Option Nat :=
  (List.range 4).find? fun s => queuePresent p.conf s &&
    (List.range 8).all fun c => !(holdsSlot (ctxOf m c)) || (ctxOf m c).slot != s

/-- Residency fails under R227. -/
def partitionBad (p : Part) (m : Mach) (c : Nat) : Bool :=
  let gs := partGroups p m c
  let bs := partCarve p m c
  gs.isEmpty || gs.any (fun g => groupUse p g != .partition) ||
  (List.range 8).any (fun d => holdsSlot (ctxOf m d) && gs.any fun g => (ctxOf m d).groups.contains g) ||
  decide (groupBytes < 65536 * partUnits p m c + (bs.zipIdx.map fun (b, k) => b * (256 <<< k)).sum) ||
  decide (65536 < gs.length * bs.sum)

/-- The reasons of R417 and their statuses. -/
def restoreStatus : Nat → Nat
  | 0 => stDone
  | 1 | 2 | 3 | 6 => stFormat
  | 4 | 5 | 7 => stQuota
  | 8 => stUncorrectable
  | _ => stCheck

/-- A header that fails HEADER (R415). -/
def headerBad (c : Nat) (bs : List Byte) : Bool :=
  let kind := fieldOf bs 7 7
  fieldOf bs 0 3 != 0x4E4C4849 || fieldOf bs 4 4 != 1 || fieldOf bs 5 5 != c || kind == 0 || decide (2 < kind) ||
  (kind == 1 && fieldOf bs 8 14 != 0) || fieldOf bs 15 15 != 0 || (kind == 1 && fieldOf bs 16 21 != 0) ||
  ((bs.drop 60).take 4036).any fun b => b != 0

/-- The first check of R417 that the header or the part fails; 0 where they pass. -/
def restoreCheck (p : Part) (m : Mach) (c : Nat) (image : Option (List Byte)) : Nat :=
  if !ctxDefined p m c || (ctxOf m c).resident then 1
  else
    let nb := (image.map fun bs => fieldOf bs 40 43).getD 0
    let nt := (image.map fun bs => fieldOf bs 44 47).getD 0
    if image.any (headerBad c) then 2
    else if image.any (fun bs => fieldOf bs 6 6 != ctxJob p m c) then 3
    else if (freeSlot p m).isNone then 4
    else if partitionBad p m c then 5
    else if image.any (fun bs => fieldOf bs 22 22 != (partGroups p m c).length || fieldOf bs 23 23 != partUnits p m c ||
        ((List.range 8).any fun k => fieldOf bs (24 + 2 * k) (25 + 2 * k) != (partCarve p m c).getD k 0)) then 6
    else if !storeRoom p m nb nt then 7
    else 0

/-- A restore that passes takes its slot, its groups, zeroed, and its program's space. -/
def takeParts (p : Part) (m : Mach) (c nb nt : Nat) : Mach :=
  let gs := partGroups p m c
  let m := zeroGroups m gs
  let space : Program := { bundles := List.replicate nb 0, templates := List.replicate nt 0 }
  setCtx m c { ctxOf m c with
    phase := 5, slot := (freeSlot p m).getD 0, groups := gs, tblUnits := partUnits p m c, carve := partCarve p m c,
    program := if nb = 0 then none else some space }

/-- The context is resident: its queue fills from its ring, and its staging block enters the tail. -/
def becomeResident (p : Part) (m : Mach) (c : Nat) : Mach :=
  let x := ctxOf m c
  let m := setCtx m c { x with resident := true, residentSince := m.tick.time, phase := 0, image := false, staging := [] }
  let q := x.slot
  let m := setPq m q { head := [], tail := x.staging }
  queueFill q p (settleQueue m q c)

/-- A restore with AREA 0: a zeroed partition, share ones, no program (R405); a parked position is lost. -/
def restoreEmpty (p : Part) (m : Mach) (c : Nat) : Mach :=
  let m := setCtx m c { ctxOf m c with tables := {}, parkedVoid := hasParked m c }
  becomeResident p (installProgram p m c none) c

/-- A data section's bytes at an image offset go to partition offset `dst`, in whole lines where they fill them. -/
def fillPart (m : Mach) (c area : Nat) (m0 : Mach) (off dst n : Nat) : Mach :=
  (partParts (ctxOf m c) dst n).foldl (fun m q => putKiln m q.1 (hostBytes m0 (area + off + q.2.1) q.2.2)) m

/-- The live set ranges are filled one after another from an image offset. -/
def fillRanges (m0 : Mach) (c area : Nat) : Nat → List (Nat × Nat) → Mach → Mach
  | _, [], m => m
  | off, r :: rest, m => fillRanges m0 c area (off + r.2) rest (fillPart m c area m0 off r.1 r.2)

/-- The step that a PARKED image parks: the one that the engine keeps, at the image's position. DESIGN CHOICE: where it
keeps none the step goes on with a SEED, a CELL and an ADMIT_CTRL of 0 (log entry 136). -/
def parkedFrom (m : Mach) (c : Nat) (pr : Program) (bs : List Byte) : StepRun :=
  let old : StepRun := (m.run.parked.find? fun s => s.ctx == c).getD
    { ctx := c, acc := m.cmd.nextAcc, step := 0, att := 0, prog := pr, last := pr.bundles.length - 1 }
  { old with prog := pr, step := fieldOf bs 8 13, att := fieldOf bs 14 14 % 16, index := fieldOf bs 16 19 % 2 ^ 18 }

/-- A PARKED image puts the sequencer in the parked state, unless a kill has voided the position; any other
image leaves none to resume (R418, R421). -/
def parkFrom (m : Mach) (c : Nat) (pr : Program) (bs : List Byte) : Mach :=
  let x := ctxOf m c
  if fieldOf bs 7 7 ≠ 2 then setCtx m c { x with parkedVoid := hasParked m c }
  else if x.parkedVoid then setCtx m c { x with parkedVoid := false }
  else
    let s := parkedFrom m c pr bs
    { m with
      cmd := { m.cmd with nextAcc := m.cmd.nextAcc + b2n (!hasParked m c) },
      run := { m.run with parked := (m.run.parked.filter fun s => s.ctx != c) ++ [s] } }

/-- A restore that has passed its checks, with the whole image read (R418). -/
def restoreImage (p : Part) (m : Mach) (c area : Nat) : Mach :=
  let bs := hostBytes m area 64
  let nb := fieldOf bs 40 43
  let nt := fieldOf bs 44 47
  let tmplAt := 4096 + padPage (64 * nb)
  let dataAt := tmplAt + padPage (64 * nt)
  let pr : Program := { bundles := imageLines m (area + 4096) nb, templates := imageLines m (area + tmplAt) nt }
  let later := (ctxOf m c).newProgram
  let m := installProgram p m c (if nb = 0 then none else some pr)
  let m := setCtx m c { ctxOf m c with newProgram := later }
  let size := partitionSize (ctxOf m c)
  let m := if fieldOf bs 7 7 = 1 then fillPart m c area m dataAt 0 size
    else fillRanges m c area dataAt (liveSetOf pr (fieldOf bs 20 21 % 16384)) m
  let x := ctxOf m c
  let area' := (List.range (tableArea x)).map fun i => byteAt m.mem.kiln (tableAddr x i)
  becomeResident p (parkFrom (setCtx m c { x with tables := tablesFrom area' }) c pr bs) c

/-- A restore fails: the reason, everything it has taken is given back, and the image no longer counts (R417, R430). -/
def restoreFails (p : Part) (m : Mach) (c reason : Nat) : Mach :=
  let x := ctxOf m c
  let m := if x.phase = 5 then
      let m := zeroGroups m x.groups
      setCtx m c { ctxOf m c with phase := 0, slot := 0, groups := [], tblUnits := 0, carve := [], program := none }
    else m
  wr p (setCtx m c { ctxOf m c with image := false }) (Reg.ctxSwapErr c) (wordOf (reason * 2 ^ 56))

/-- The CRC of an image read agrees with its CRC field. -/
def imageCrcOk (m : Mach) (area len : Nat) : Bool :=
  let bs := hostBytes m area len
  crc32c (bs.take 56 ++ List.replicate 4 0 ++ bs.drop 60) == fieldOf bs 56 59

/-- The header of an image has been read: its checks, and the rest of the image is asked for; the reason it
fails for, 0 where it passes. -/
def restoreHeader (p : Part) (m : Mach) (c area : Nat) (failed : Bool) (use : TxnUse) : Nat × Mach :=
  let bs := hostBytes m area 4096
  let st := restoreCheck p m c none
  let e := if st = 1 then 1 else if failed then 8 else restoreCheck p m c (some bs)
  if e ≠ 0 then (e, restoreFails p m c e)
  else
    let m := takeParts p m c (fieldOf bs 40 43) (fieldOf bs 44 47)
    (0, startReads p m (area + 4096) (fieldOf bs 48 55 - 4096) use)

/-- The whole image has been read: the last checks, and the restore; its reason. -/
def restoreBody (p : Part) (m : Mach) (c area : Nat) (failed : Bool) : Nat × Mach :=
  if failed then (8, restoreFails p m c 8)
  else if !imageCrcOk m area (fieldOf (hostBytes m area 64) 48 55) then (9, restoreFails p m c 9)
  else (0, restoreImage p m c area)

/-- A group that a restore of the context takes is being copied into the spare (R223). -/
def partCopies (p : Part) (m : Mach) (c : Nat) : Bool := (partGroups p m c).any (groupMoves m)

/-- CTX_RESTORE (R417, R418). -/
def ctxRestore (w seq : Nat) (p : Part) (m : Mach) : Mach :=
  match dueCmd p m w seq 0x61 with
  | some r =>
    let c := swapCtx r.line
    let area := swapArea r.line
    if r.stage = 0 ∧ (ctxOf m c).phase = 5 then swapDone p (restoreFails' p m c) r stFormat
    else if partCopies p m c then m
    else if area = 0 then
      let e := restoreCheck p m c none
      let m := if e = 0 then restoreEmpty p (takeParts p m c 0 0) c else restoreFails p m c e
      swapDone p m r (restoreStatus e)
    else if txnsOut m (.cmdRead r.acc) then m
    else if r.stage = 0 then
      let (e, m) := restoreHeader p m c area r.memFail (.cmdRead r.acc)
      if e = 0 then setRunning m { r with stage := 1 } else swapDone p m r (restoreStatus e)
    else
      let (e, m) := restoreBody p m c area r.memFail
      swapDone p m r (restoreStatus e)
  | none => m
where
  /-- a restore of the context runs already: STATE, and what that one has taken stays -/
  restoreFails' (p : Part) (m : Mach) (c : Nat) : Mach := wr p m (Reg.ctxSwapErr c) (wordOf (2 ^ 56))

/-! ### CTX_KILL (R420, R421) -/

/-- The number of the last record that a ring will hold once its hold is written. -/
def holdEnd (p : Part) (m : Mach) (c : Nat) : Nat :=
  (rdF p m (Reg.cplRingHead c) 31 0 + (holdOf m c).length) % 2 ^ 32

/-- A ring's HEAD has reached a number. -/
def headReached (p : Part) (m : Mach) (c n : Nat) : Bool :=
  decide ((rdF p m (Reg.cplRingHead c) 31 0 + 2 ^ 32 - n) % 2 ^ 32 < 2 ^ 31)

/-- An ACCUMULATE write-back of the context that has begun goes on (R262). -/
def writeBackRuns (m : Mach) (c : Nat) : Bool :=
  (runningOf m c).any pastCommit || txnsOutOf m fun u => match u with
    | .xfer d _ | .back d => d == c
    | _ => false

/-- A kill whose effect is made waits for write-backs that have begun, then for the records of the commands it
ended. -/
def killSettles (p : Part) (m : Mach) (r : Running) (c : Nat) : Mach :=
  if writeBackRuns m c then m else setRunning m { r with stage := 2, n := holdEnd p m c }

/-- CTX_KILL (R420, R421, R429): it waits for an auto-swap, and for a save past its drain or a restore of the
context; DONE once every killed command has its record. -/
def ctxKill (w seq : Nat) (p : Part) (m : Mach) : Mach :=
  match dueCmd p m w seq 0x62 with
  | some r =>
    let c := swapCtx r.line
    if r.stage = 0 then
      let ph := (ctxOf m c).phase
      if !ctxDefined p m c then complete m r stFormat
      else if m.run.autoSwap.isSome || decide (2 ≤ ph ∧ ph ≤ 5) then m
      else
        let m := killAny p m c
        let m := if (ctxOf m c).phase = 0 then setCtx m c { ctxOf m c with phase := 6 } else m
        settleStopped p (killSettles p (setRunning m { r with stage := 1 }) { r with stage := 1 } c)
    else if r.stage = 1 then killSettles p m r c
    else if headReached p m c r.n then
      let m := if (ctxOf m c).phase = 6 then setCtx m c { ctxOf m c with phase := 0 } else m
      settleStopped p (complete m r stDone)
    else m
  | none => m

/-! ### Swap advice and auto-swap (R428 to R430) -/

/-- The condition of R428. -/
def adviceHolds (p : Part) (m : Mach) : Bool :=
  !(residents m).isEmpty && (freeSlot p m).isNone && (residents m).all (ctxWaits p m) &&
  (List.range 8).any (ctxRunnable p m)

/-- The time since which the condition has held is kept, and its end ends the episode. -/
def trackAdvice (p : Part) (m : Mach) : Mach :=
  if adviceHolds p m then
    { m with run := { m.run with adviceSince := some (m.run.adviceSince.getD m.tick.time) } }
  else { m with run := { m.run with adviceSince := none, adviceGiven := false } }

/-- The context of a list with the most credit, or the least where `least`: ties to the earlier of the
list. -/
def byCredit (p : Part) (m : Mach) (least : Bool) : List Nat → Option Nat
  | [] => none
  | c :: rest => match byCredit p m least rest with
    | some d =>
      let better := if least then creditOf p m d < creditOf p m c else creditOf p m c < creditOf p m d
      if better then some d else some c
    | none => some c

/-- AUTO of a context. -/
def ctxAuto (p : Part) (m : Mach) (c : Nat) : Bool := rdB p m (Reg.ctxCtl c) 29

/-- The incoming context of R429. -/
def swapIn (p : Part) (m : Mach) : Option Nat :=
  byCredit p m false ((List.range 8).filter fun c => ctxRunnable p m c && ctxAuto p m c && (ctxOf m c).image)

/-- The outgoing context of R429 for an incoming one. -/
def swapOut (p : Part) (m : Mach) (inn : Nat) : Option Nat :=
  let least := 1000 * fsPerNs * rdF p m Reg.schedCtrl 39 24
  byCredit p m true (((residents m).filter fun c =>
    ctxWaits p m c && ctxAuto p m c && rdB p m (Reg.ctxSaveArea c) 63 &&
    decide ((ctxOf m c).residentSince + least ≤ m.tick.time) &&
    (partGroups p m inn).all fun g => (residents m).all fun d => d == c || !(ctxOf m d).groups.contains g).reverse)

/-- A swap or kill command of the CMD window runs. -/
def swapCmdRuns (m : Mach) : Bool :=
  m.cmd.running.any fun r => r.win == 8 && decide (0x60 ≤ recOp r.line ∧ recOp r.line ≤ 0x62)

/-- An auto-swap ends with a status (R429). -/
def endAutoSwap (p : Part) (m : Mach) (a : AutoSwap) (st : Nat) : Mach :=
  let m := { m with run := { m.run with autoSwap := none } }
  let m := bump p m Reg.schedSwapCnt 1
  let m := wr p m Reg.schedSwapLast (wordOf (st * 2 ^ 56 + a.inn * 16 + a.out))
  settleStopped p (settleLost p (setEvt p m Reg.schedPage (if st = 0 then 1 else 2)))

/-- An auto-swap's stage and failure are noted. -/
def setAutoSwap (m : Mach) (a : AutoSwap) : Mach := { m with run := { m.run with autoSwap := some a } }

/-- An auto-swap goes on as far as its transfers let it (R429). -/
def advanceSwap (p : Part) (m : Mach) : Mach :=
  match m.run.autoSwap with
  | some a =>
    if a.stage = 0 ∨ groupCopies m a.out = true ∨ partCopies p m a.inn = true ∨ txnsOut m (.swap a.out) = true ∨
        txnsOut m (.swap a.inn) = true then m
    else if a.stage = 1 then
      match saveStage p m a.out (saveAreaOf p m a.out) (.swap a.out) a.failed with
      | (some true, m) => endAutoSwap p m a stUncorrectable
      | (some false, m) => startReads p (setAutoSwap m { a with stage := 2 }) (saveAreaOf p m a.inn) 4096 (.swap a.inn)
      | (none, m) => m
    else if a.stage = 2 then
      let (e, m) := restoreHeader p m a.inn (saveAreaOf p m a.inn) a.failed (.swap a.inn)
      if e = 0 then setAutoSwap m { a with stage := 3 } else endAutoSwap p m a (restoreStatus e)
    else
      let (e, m) := restoreBody p m a.inn (saveAreaOf p m a.inn) a.failed
      endAutoSwap p m a (restoreStatus e)
  | none => m

/-- An auto-swap starts where a pair qualifies (R429). -/
def startAutoSwap (p : Part) (m : Mach) : Mach :=
  if !rdB p m Reg.schedCtrl 0 || swapCmdRuns m || m.run.autoSwap.isSome then m
  else match swapIn p m with
    | some i => match swapOut p m i with
      | some o => startSave p (setAutoSwap m { out := o, inn := i }) o
      | none => m
    | none => m

/-- The condition of R428 has held for HOLD_US. -/
def adviceDue (p : Part) (m : Mach) : Bool := m.run.adviceSince.any fun t =>
  decide (t + 1000 * fsPerNs * rdF p m Reg.schedCtrl 23 8 ≤ m.tick.time)

/-- Once an episode's SWAP_ADVICE has been given, its condition starts an auto-swap in any cycle in which it holds
(R429). -/
def seekSwap (p : Part) (m : Mach) : Mach :=
  let m := trackAdvice p m
  if m.run.adviceGiven && adviceDue p m then startAutoSwap p m else m

/-- SWAP_ADVICE (R428): the condition has held for HOLD_US, once in an episode. -/
def swapAdvice (p : Part) (m : Mach) : Mach :=
  let m := trackAdvice p m
  if engineUp m && !isFatal p m && !m.run.adviceGiven && adviceDue p m then
    startAutoSwap p (setEvt p { m with run := { m.run with adviceGiven := true } } Reg.schedPage 0)
  else m

/-- A write that sets DEF on an undefined context is allowed (R401). -/
def mayDefine (p : Part) (m : Mach) (c : Nat) (v : Word) : Bool :=
  bitsOf v 7 0 != 0xFF && bitsOf v 23 16 != 0 &&
  (List.range 8).all fun d => d == c || !ctxDefined p m d || ctxJob p m d != bitsOf v 7 0

/-- The context holds an accepted command whose completion record is not written (R402); a gap report belongs to no
command (R398). -/
def holdsCommand (m : Mach) (c : Nat) : Bool := !windowIdle m c || (holdOf m c).any fun x => !x.gap

/-- A write of CTL that is ignored whole. -/
def ctlRefused (p : Part) (m : Mach) (c : Nat) (v : Word) : Bool :=
  let was := ctxDefined p m c
  bitsOf v 23 16 == 0 ||
  (if was then
    bitsOf v 7 0 != ctxJob p m c || (!bitOf v 31 && ((ctxOf m c).resident || holdsCommand m c))
   else bitOf v 31 && !mayDefine p m c v)

/-- FAULT_CLR ends FAULTED, unless the partition includes an unusable group (R426). -/
def clearFault (p : Part) (m : Mach) (c : Nat) : Mach :=
  let x := ctxOf m c
  let gs := if x.resident then x.groups else partGroups p m c
  if gs.any (groupUnusable p m) then m else setCtx m c { x with faulted := false }

/-- A context that has just been defined: its semaphores, credit and step records start afresh (R401). -/
def defineCtx (p : Part) (m : Mach) (c : Nat) : Mach :=
  wr p (setCtx m c { ctxOf m c with sems := [], ran := [], aborts := [] }) (Reg.ctxCredit c) 0

/-- A write of CTXn.CTL. -/
def ctlWrite (src : Src) (c : Nat) (v : Word) (p : Part) (m : Mach) : Mach :=
  if 8 ≤ c then m
  else gated p m src (Reg.ctxCtl c) fun m =>
    if ctlRefused p m c v then ignored p m src (Reg.ctxCtl c)
    else
      let was := ctxDefined p m c
      let m := wr p m (Reg.ctxCtl c) (v &&& 0xE0FF00FF)
      let m := if !was && bitOf v 31 then defineCtx p m c else m
      if bitOf v 28 then clearFault p m c else m

/-- FAULT_CLR (R426): a write of CTXn.CTL with FAULT_CLR. -/
def faultClr (src : Src) (c : Nat) (v : Word) (p : Part) (m : Mach) : Mach := ctlWrite src c v p m

/-! ### The meanings of the commands -/

/-- CTX_SAVE (R412). -/
def execCtxSave (win seq : Nat) (s : State) (read : StoreRead := .clean) : Host.Outcome State Fault Refusal :=
  .next { s with m := ctxSave win seq read s.part s.m }

/-- CTX_SAVE_DRAIN_END (R412). -/
def execCtxSaveDrainEnd (ctx : Nat) (s : State) : Host.Outcome State Fault Refusal :=
  .next { s with m := ctxSaveDrainEnd ctx s.part s.m }

/-- CTX_RESTORE (R417). -/
def execCtxRestore (win seq : Nat) (s : State) : Host.Outcome State Fault Refusal :=
  .next { s with m := ctxRestore win seq s.part s.m }

/-- CTX_KILL (R420). -/
def execCtxKill (win seq : Nat) (s : State) : Host.Outcome State Fault Refusal :=
  .next { s with m := ctxKill win seq s.part s.m }

/-- SWAP_ADVICE (R428). -/
def execSwapAdvice (s : State) : Host.Outcome State Fault Refusal :=
  .next { s with m := swapAdvice s.part s.m }

/-- CTL_WRITE (R401). -/
def execCtlWrite (src : Src) (ctx : Nat) (value : Word) (s : State) : Host.Outcome State Fault Refusal :=
  .next { s with m := responded s.m src none (ctlWrite src ctx value s.part s.m) }

/-- FAULT_CLR (R426). -/
def execFaultClr (src : Src) (ctx : Nat) (value : Word) (s : State) : Host.Outcome State Fault Refusal :=
  .next { s with m := responded s.m src none (faultClr src ctx value s.part s.m) }

end Sys2Proof.Machine
end

