-- ==== Sys2Proof/Machine/Security.lean ====
section
/-! DEFINITION. Zeroisation (R480, R481), the events that discard commands (R399), debug levels (R487 to
R490, R540), attested reports (R501, R502), life cycle (R473 to R479) and power states (R491 to R498). -/

namespace Sys2Proof.Machine

/-! ### Discarding and zeroising (R399, R480, R481) -/

/-- A window's sequence number and ring start afresh: NEXT, HEAD and TAIL 0, EN clear (R399). -/
def discardWindow (p : Part) (m : Mach) (w : Nat) : Mach :=
  let m := wrAll p m [(winSeq w, 0), (Reg.cplRingHead w, 0), (Reg.cplRingTail w, 0)]
  clrReg p m (Reg.cplRingCtrl w) 0x100

/-- A stream slot loses the records in it; credit and binding stay. -/
def emptySlot (x : StrmSlot) : StrmSlot :=
  { x with cur := none, ready := [], out := [], dropping := x.dropping || x.cur.isSome }

/-- Every stream slot is emptied. -/
def emptyStreams (m : Mach) : Mach :=
  { m with run := { m.run with
    ports := m.run.ports.map (fun q => (q.1, { q.2 with slots := q.2.slots.map (fun s => (s.1, emptySlot s.2)), unaccepted := [] })),
    outWait := [], loopBillets := [], loopTiles := [] } }

/-- What a context's commands and items held is gone. -/
def emptyCtx (x : Ctx) : Ctx :=
  { x with phase := 0, parkedVoid := false, staging := [], newProgram := none, pend := [], used := [], bufs := [],
           embers := [], resv := [], asks := [], credits := [], asked := [], kindled := [], aborts := [], ran := [],
           admitCredits := [] }

/-- Collectives and formations of this node's contexts are gone with their commands. -/
def emptyGroups (m : Mach) : Mach :=
  { m with coll := { m.coll with groups :=
    (m.coll.groups.filter fun g => g.2.forming.isNone).map fun g => (g.1, { g.2 with op := none }) } }

/-- Self-tests and measurements stop (R521). -/
def stopTests (m : Mach) : Mach :=
  { m with
    run := { m.run with hearths := m.run.hearths.map fun h => (h.1, { h.2 with bist := false }),
                        kilnSt := { m.run.kilnSt with bist := none } },
    net := { m.net with links := m.net.links.map fun l => (l.1, { l.2 with meas := none }) } }

/-- A link's queues and input buffers are empty: all credit is free again. -/
def emptyLink (x : Link) : Link :=
  { x with own := [], waiting := [], transit := [], slotsHeld := 0, salvage := [], freed := x.recv }

/-- Nothing that items or packets left at this node goes on: flits that wait, packets received, held back or out (their
FSNs stay unacknowledged, R290), requests being served. -/
def emptyNet (m : Mach) : Mach :=
  { m with
    net := { m.net with links := m.net.links.map (fun l => (l.1, emptyLink l.2)), ownWait := [], transitWait := [],
                        rx := [], outst := [],
                        flows := m.net.flows.map fun q => (q.1, { q.2 with waiting := [], lost := q.2.lost ++
                          ((m.net.outst.filter fun o => spreadKey o.dest o.vc == q.1).map fun o => o.fsn) }) },
    fab := { m.fab with pubs := [], serveFails := [], iring := [] } }

/-- Every queued and running command of every window is discarded without completion, and every item and
step stops (R399, R489). -/
def discardAll (p : Part) (m : Mach) : Mach :=
  let m := (List.range 9).foldl (discardWindow p) m
  let m := dropTxns (emptyNet (emptyGroups (stopTests (emptyStreams m)))) fun _ => false
  { m with
    cmd := { m.cmd with queues := [], rings := [], running := [], holds := [], batches := [], writes := [] },
    run := { m.run with step := none, parked := [], placed := [], autoSwap := none, adviceSince := none, adviceGiven := false,
                        ctxs := m.run.ctxs.map fun c => (c.1, emptyCtx c.2) } }

/-- A context's partition, program and engine-held data read as zeros. -/
def zeroCtx (x : Ctx) : Ctx :=
  { emptyCtx x with program := none, tables := tablesFrom (List.replicate (tableArea x) 0), replayWait := [] }

/-- Every store is zeroised (R480): kiln, ember store, programs, region keys, reply cache, reduction windows, CTR_DRBG
state; what lay in the transit pool is gone with the links' queues. -/
def zeroise (p : Part) (m : Mach) : Mach :=
  let m := { m with
    mem := { m.mem with kiln := [], ember := [] },
    run := { m.run with kilnSt := { m.run.kilnSt with badLines := [], badEmber := [] },
                        ctxs := m.run.ctxs.map fun c => (c.1, zeroCtx c.2) },
    fab := { m.fab with cache := [], regions := m.fab.regions.map fun r => (r.1, { r.2 with key := 0 }) },
    coll := { m.coll with redSlots := [] },
    sec := { m.sec with drbgReady := false, entropy := [], draws := 0, entropyAt := m.tick.time } }
  (List.range 8).foldl (fun m c => showProgram p m c none) m

/-! ### Debug levels (R487 to R490) -/

/-- A raise to INVASIVE or SCAN begins: key register, commands, stores (R489). -/
def startRaise (p : Part) (m : Mach) (level : Nat) : Mach :=
  let m := { m with sec := { m.sec with keyCleared := true } }
  let m := zeroise p (discardAll p m)
  { m with sec := { m.sec with zeroing := some (.raise level) } }

/-- A change of the power state has been taken and is under way (R493, R495). -/
def powerMoves (m : Mach) : Bool :=
  m.sec.pcReq != m.sec.pcAck || m.sec.thenCold || m.sec.zeroing == some .cold

/-- A request is refused (R488). A raise that meets a change of the power state taken before it is refused, as one in
Banked is: requests act in the order written, and the level it asks for has no cell there (R499). -/
def debugRefused (m : Mach) (level : Nat) : Bool :=
  decide (debugMax m.sec.lcState < level) ||
  ((decide (m.sec.power ≠ .lit) || powerMoves m) && decide (m.sec.debug < level)) ||
  (decide (2 ≤ m.sec.debug) && decide (level < m.sec.debug))

/-- The level changes. -/
def setLevel (p : Part) (m : Mach) (level : Nat) : Mach :=
  let changed := m.sec.debug != level
  let m := { m with sec := { m.sec with debug := level } }
  if changed then setEvt p m Reg.dbgPage 0 else m

/-- A debug level request (R488, R489). -/
def requestLevel (p : Part) (m : Mach) (level : Nat) : Mach :=
  if debugRefused m level then setEvt p (orReg p m Reg.dbgStat 0x100) Reg.dbgPage 1
  else
    let m := clrReg p m Reg.dbgStat 0x100
    if 2 ≤ level ∧ m.sec.debug < level then startRaise p m level else setLevel p m level

/-- A write of DBG.CTRL: REQ is stored, and from the host it is a request (R488). -/
def dbgCtrlWrite (src : Src) (v : Word) (p : Part) (m : Mach) : Mach :=
  gated p m src Reg.dbgCtrl fun m =>
    let m := wr p m Reg.dbgCtrl (v &&& 3)
    if src = .host then requestLevel p m (bitsOf v 1 0) else m

/-- DBG_REQ (R488): a write of DBG.CTRL by the host, or the IEEE 1500 instruction; a management request never
raises the level (R485). -/
def dbgReq (src : Src) (level : Nat) (p : Part) (m : Mach) : Mach :=
  match src with
  | .host => dbgCtrlWrite .host (wordOf (level % 4)) p m
  | .ieee1500 => if portUp m && decide (m.sec.power ≠ .cold) then requestLevel p m (level % 4) else m
  | .mgmt => m

/-- EVT_FORCE of a page (R490, R530). -/
def evtForce (src : Src) (page : Nat) (v : Word) (p : Part) (m : Mach) : Mach :=
  gated p m src (Reg.evtForce page) fun m =>
    if m.sec.debug < 2 then ignored p m src (Reg.evtForce page)
    else orReg p m (Reg.evtStat page) (v.toNat &&& eventMask (pageKind p.conf page).1)

/-! ### The DBG memory window (R540) -/

/-- MEM_DATA as a line's bytes. -/
def dbgData (p : Part) (m : Mach) : List Byte :=
  (List.range 8).flatMap fun k => leBytes 8 (rd p m (Reg.dbgMemData k)).toNat

/-- n free bytes. -/
def freeBytes (m : Mach) : Nat → List Byte × Mach
  | 0 => ([], m)
  | n + 1 =>
    let (v, m) := drawFree m
    let (bs, m) := freeBytes m n
    (BitVec.ofNat 8 v.toNat :: bs, m)

/-- The bytes of an ember line that lies in a granule of a slot (R194 to R196). -/
def emberHeld (m : Mach) (line : Nat) : Option (List Byte) :=
  m.run.ctxs.findSome? fun c => (c.2.embers.find? fun e => e.granules.contains (line / 16)).map fun e =>
    let bs := ((slotBytes c.2 e).drop (1024 * e.granules.idxOf (line / 16) + 64 * (line % 16))).take 64
    bs ++ List.replicate (64 - bs.length) 0

/-- A context's slots after a line of the ember store has been written: the one that holds it takes its bytes. -/
def patchSlots (x : Ctx) (line : Nat) (bs : List Byte) : Ctx :=
  { x with embers := x.embers.map fun e =>
      if e.granules.contains (line / 16) then
        let all := slotBytes x e
        let at_ := 1024 * e.granules.idxOf (line / 16) + 64 * (line % 16)
        slotFrom e ((all ++ List.replicate (at_ - all.length) 0).take at_ ++ bs ++ all.drop (at_ + 64))
      else e }

/-- A line of the ember store is written. -/
def putEmberLine (m : Mach) (line : Nat) (bs : List Byte) : Mach :=
  { m with mem := { m.mem with ember := writeBytes m.mem.ember (64 * line) bs },
           run := { m.run with ctxs := m.run.ctxs.map fun c => (c.1, patchSlots c.2 line bs) } }

/-- Lines of the ember store, 8 MiB (R3). -/
def emberLines : Nat := 131072

/-- The line that MEM_ADDR names, and whether it is uncorrectable; none where the store has no such line. -/
def dbgLine (p : Part) (m : Mach) : Option (List Byte × Bool) × Mach :=
  let line := rdF p m Reg.dbgMemAddr 19 0
  match rdF p m Reg.dbgMemAddr 63 60 with
  | 1 => (if line < kilnLines p then some (readBytes m.mem.kiln (64 * line) 64, m.run.kilnSt.badLines.contains line) else none, m)
  | 2 => if emberLines ≤ line then (none, m)
    else (some ((emberHeld m line).getD (readBytes m.mem.ember (64 * line) 64), m.run.kilnSt.badEmber.contains line), m)
  | 3 => let (bs, m) := freeBytes m 64; (some (bs, false), m)
  | _ => (none, m)

/-- The check bytes of a line, first the lowest: those of the two-symbol code over its 64 bytes (R215, R278), and of
a line that does not decode a free value. -/
def lineCheck (m : Mach) (bs : List Byte) (ue : Bool) : Nat × Mach :=
  if ue then let (v, m) := drawFree m; (v.toNat % 2 ^ 32, m) else (leNat (rsCheck bs), m)

/-- MEM_CTRL.READ: MEM_DATA and MEM_CHK (R540). -/
def dbgRead (p : Part) (m : Mach) : Mach :=
  match dbgLine p m with
  | (some (bs, ue), m) =>
    let (v, m) := lineCheck m bs ue
    let m := (List.range 8).foldl (fun m k =>
      wr p m (Reg.dbgMemData k) (wordOf (leNat ((bs.drop (8 * k)).take 8)))) m
    wr p m Reg.dbgMemChk (wordOf (v + 2 ^ 32 * b2n ue))
  | (none, m) => m

/-- MEM_CTRL.WRITE: the whole line, with valid check bytes. -/
def dbgWrite (p : Part) (m : Mach) : Mach :=
  let line := rdF p m Reg.dbgMemAddr 19 0
  let k := m.run.kilnSt
  match rdF p m Reg.dbgMemAddr 63 60 with
  | 1 => if kilnLines p ≤ line then m
    else
      let m := putKiln m (64 * line) (dbgData p m)
      { m with run := { m.run with kilnSt := { k with badLines := k.badLines.filter (· != line) } } }
  | 2 => if emberLines ≤ line then m
    else
      let m := putEmberLine m line (dbgData p m)
      { m with run := { m.run with kilnSt := { k with badEmber := k.badEmber.filter (· != line) } } }
  | _ => m

/-- The actions of the DBG memory window, READ first. They wait while the group of a kiln line is being copied
(R223). -/
def memActs (p : Part) (m : Mach) (r w : Bool) : Mach :=
  if rdF p m Reg.dbgMemAddr 63 60 = 1 ∧ copyBusy m (64 * rdF p m Reg.dbgMemAddr 19 0) = true then
    { m with sec := { m.sec with memHeld := true } }
  else
    let m := if r then dbgRead p m else m
    if w then dbgWrite p m else m

/-- DBG_MEM_ACCESS (R540, R538): READ, WRITE, or with both bits 1 first the one and then the other. Either sets BUSY
until the next core cycle has passed; an action that already runs is not started again (R536). -/
def dbgMemAccess (src : Src) (v : Word) (p : Part) (m : Mach) : Mach :=
  gated p m src Reg.dbgMemCtrl fun m =>
    if m.sec.debug < 2 ∨ (bitOf v 0 && m.sec.memRead) ∨ (bitOf v 1 && m.sec.memWrite) then ignored p m src Reg.dbgMemCtrl
    else
      memActs p { m with sec := { m.sec with
        memRead := m.sec.memRead || bitOf v 0, memWrite := m.sec.memWrite || bitOf v 1 } } (bitOf v 0) (bitOf v 1)

/-! ### Attested reports (R501, R502) -/

/-- Stream ports in use. -/
def usableStreams (p : Part) (m : Mach) : List Nat := (List.range (streamCount p.conf)).filter fun i => !(strmOf m i).retired

/-- Memory ports in use. -/
def livePorts (p : Part) (m : Mach) : List Nat := (List.range (memPortCount p.conf)).filter fun i => !(memPortOf m i).retired

/-- A mask of numbers. -/
def maskOf (l : List Nat) : Nat := (l.map fun i => 2 ^ i).sum

/-- FLAGS of a report. -/
def reportFlags (p : Part) (m : Mach) : Nat :=
  b2n (keyUsable p m) + 2 * b2n (isFatal p m) + 4 * b2n p.relay + 8 * b2n (m.sec.raises != 0)

/-- Bytes 0 to 95 of a report over a nonce of 32 bytes (R501). -/
def reportBody (p : Part) (m : Mach) (nonce : List Byte) : List Byte :=
  let links := (List.range (linkCount p.conf)).filter fun l => (linkOf m l).phase != .retired
  leBytes 4 0x41545354 ++ [1, BitVec.ofNat 8 m.sec.lcState, BitVec.ofNat 8 m.sec.debug, BitVec.ofNat 8 (reportFlags p m)]
    ++ leBytes 2 (nodeId p m) ++ [0, 0] ++ leBytes 4 (pageIdOf p Reg.glbPage) ++ leBytes 8 (timeNs m)
    ++ leBytes 6 (stepNow p m) ++ [0, 0] ++ (nonce ++ List.replicate 32 0).take 32
    ++ leBytes 8 (rd p m Reg.glbFaultStat).toNat ++ leBytes 2 (maskOf (usableHearths p m))
    ++ leBytes 2 (maskOf (livePorts p m) + 16 * maskOf (usableStreams p m)) ++ leBytes 5 (maskOf links)
    ++ leBytes 1 (ctxMask fun c => (ctxOf m c).resident) ++ [0, 0] ++ leBytes 4 m.sec.raises ++ List.replicate 8 0

/-- A report of 128 bytes: the MAC under the identity key, or zeros. -/
def attest (p : Part) (m : Mach) (nonce : List Byte) : List Byte :=
  let body := reportBody p m nonce
  body ++ if keyUsable p m then hmacSha256 (leBytes 32 (fuseKey p)) body else List.replicate 32 0

/-- ATTEST_GO (R502): a write of SEC.ATTEST_CTRL: the report's fields are sampled, and BUSY is 1 until it is built; a
GO while BUSY is 1 is ignored. -/
def attestGo (src : Src) (v : Word) (p : Part) (m : Mach) : Mach :=
  gated p m src Reg.secAttestCtrl fun m =>
    if !bitOf v 0 then m
    else if m.sec.attest.isSome then ignored p m src Reg.secAttestCtrl
    else
      let bs := attest p m ((List.range 4).flatMap fun k => leBytes 8 (rd p m (Reg.secNonce k)).toNat)
      { m with sec := { m.sec with attest := some bs } }

/-- A report that has been sampled is built: REPORT0 to REPORT15 and ATTEST_DONE (R502). -/
def attestDone (p : Part) (m : Mach) : Mach :=
  match m.sec.attest with
  | some bs =>
    let m := { m with sec := { m.sec with attest := none } }
    setEvt p (wrAll p m ((List.range 16).map fun k =>
      (Reg.secReport k, wordOf (leNat ((bs.drop (8 * k)).take 8))))) Reg.secPage 0
  | none => m

/-- What takes a cycle or more of the security unit and the DBG memory window ends (R502, R540). -/
def endActions (p : Part) (m : Mach) : Mach :=
  if portUp m && decide (m.sec.power = .lit) then
    let m := if m.sec.memHeld then memActs p { m with sec := { m.sec with memHeld := false } } m.sec.memRead m.sec.memWrite else m
    attestDone p (if m.sec.memHeld then m else { m with sec := { m.sec with memRead := false, memWrite := false } })
  else m

/-! ### Power states (R491 to R495) -/

/-- Every link is DISABLED and its PHY state lost; what its registers show of it stays (R491). -/
def loseLinks (m : Mach) : Mach :=
  { m with net := { m.net with
      links := m.net.links.map fun l => (l.1, { quiesce := l.2.quiesce, retired := l.2.retired, retiredAt := l.2.retiredAt,
                                                phase := if l.2.retired then .retired else .disabled }),
      ownWait := [], transitWait := [] } }

/-- A power request is refused with a code of R493. -/
def refusePower (p : Part) (m : Mach) (code : Nat) : Mach :=
  setEvt p (wrF p m Reg.pwrStat 15 8 code) Reg.pwrPage 1

/-- A link is neither DISABLED nor RETIRED. -/
def linkLive (p : Part) (m : Mach) : Bool :=
  (List.range (linkCount p.conf)).any fun l => (linkOf m l).phase != .disabled && (linkOf m l).phase != .retired

/-- The first condition of R493 that fails; 0 where none does. -/
def bankedCheck (p : Part) (m : Mach) : Nat :=
  if 2 ≤ m.sec.debug ∨ m.sec.zeroing.isSome = true then 1
  else if isFatal p m then 2
  else if tickRuns p m then 3
  else if linkLive p m then 4
  else if !m.cmd.running.isEmpty || m.run.autoSwap.isSome || m.sec.burning.isSome then 5
  else 0

/-- pc_req changes, while pc_ack equals it (R492). -/
def requestState (m : Mach) (n : Nat) : Mach := { m with sec := { m.sec with pcReq := n } }

/-- The handshake is at rest. -/
def pcIdle (m : Mach) : Bool := m.sec.pcReq == m.sec.pcAck

/-- The entry to Cold begins, or its return to Lit from Banked (R495); a burn or a transition in progress
ends first. A raise whose zeroisation it meets gives way: Cold holds no level above OFF (R499). -/
def startCold (p : Part) (m : Mach) : Mach :=
  if m.sec.burning.isSome || !pcIdle m then { m with sec := { m.sec with thenCold := true } }
  else
    let m := loseLinks (discardAll p m)
    if m.sec.power = .banked then requestState { m with sec := { m.sec with thenCold := true } } 0
    else
      let m := zeroise p m
      { m with sec := { m.sec with thenCold := false, keyCleared := true, zeroing := some .cold } }

/-- A write of PWR.CTRL (R493 to R495). -/
def pwrCtrlWrite (src : Src) (v : Word) (p : Part) (m : Mach) : Mach :=
  gated p m src Reg.pwrCtrl fun m =>
    let t := bitsOf v 1 0
    if t = 3 then ignored p m src Reg.pwrCtrl
    else
      let m := wr p m Reg.pwrCtrl (wordOf t)
      if t = 1 then
        if m.sec.power ≠ .lit ∨ m.sec.thenCold = true ∨ m.sec.zeroing = some .cold ∨ pcIdle m = false then m
        else
          let e := bankedCheck p m
          if e ≠ 0 then refusePower p m e else requestState m 1
      else if t = 2 then
        if m.sec.power = .cold ∨ m.sec.thenCold = true ∨ m.sec.zeroing = some .cold ∨ m.sec.pcReq = 2 then m
        else if 2 ≤ m.sec.debug then refusePower p m 1
        else startCold p m
      else if m.sec.power ≠ .lit ∧ pcIdle m then requestState m 0
      else m

/-- POWER_REQ_BANKED (R493). -/
def powerReqBanked (src : Src) (v : Word) (p : Part) (m : Mach) : Mach :=
  if bitsOf v 1 0 = 1 then pwrCtrlWrite src v p m else m

/-- POWER_REQ_COLD (R495). -/
def powerReqCold (src : Src) (v : Word) (p : Part) (m : Mach) : Mach :=
  if bitsOf v 1 0 = 2 then pwrCtrlWrite src v p m else m

/-- POWER_REQ_LIT (R494). -/
def powerReqLit (src : Src) (v : Word) (p : Part) (m : Mach) : Mach :=
  if bitsOf v 1 0 = 0 then pwrCtrlWrite src v p m else m

/-- What stands outside the engine, or belongs to the model alone, survives any loss of state. -/
def outsideOnly (m : Mach) : Mach := { mem := { host := m.mem.host }, out := m.out, free := m.free }

/-- Registers of the PWR page. -/
def pwrRegs (m : Mach) : Assoc Word := m.regs.filter fun r => addrPage r.1 == Reg.pwrPage

/-- What the always-on domain holds: the PWR page, the life-cycle state, a burn and the power handshake (R491, R492);
the key register stays clear. -/
def alwaysOn (m : Mach) (power : Power) (held : Bool) : Mach :=
  { outsideOnly m with
    regs := pwrRegs m,
    sec := { lcState := m.sec.lcState, fuseErr := m.sec.fuseErr, burning := m.sec.burning, keyCleared := true,
             power := power, pcReq := m.sec.pcReq, pcAck := m.sec.pcAck, held := held, scrapDue := m.sec.scrapDue,
             booted := m.sec.booted && !held } }

/-- What Cold keeps. -/
def coldMach (m : Mach) : Mach := alwaysOn m .cold m.sec.held

/-- The engine holds itself in reset (R476): its links are down, nothing runs and no register but the PWR page's holds
a value of its own. -/
def heldMach (m : Mach) : Mach := alwaysOn m m.sec.power true

/-- The engine is Lit again (R494, R495): from Cold its reset is asserted; a LC_SCRAP or a Cold request that
waited for Lit goes on. -/
def backToLit (p : Part) (m : Mach) : Mach :=
  let wasCold := decide (m.sec.power = .cold)
  let m := { m with sec := { m.sec with power := .lit, booted := m.sec.booted && !wasCold, wakeCold := wasCold } }
  let m := setEvt p (clrReg p m Reg.tickStat 1) Reg.pwrPage 0
  if m.sec.scrapDue then { m with sec := { m.sec with scrapDue := false, burning := some 5 } }
  else if m.sec.thenCold then startCold p m
  else m

/-- A held engine whose supplies have left Lit has a burn to start there, and asks for Lit (R476). -/
def wakeHeld (m : Mach) : Mach :=
  if m.sec.scrapDue || (m.sec.held && m.sec.burning.isSome) then requestState m 0 else m

/-- POWER_ACK (R492): pc_ack shows the state requested. -/
def powerAck (state : Nat) (p : Part) (m : Mach) : Mach :=
  if m.sec.power = .off ∨ pcIdle m = true ∨ state ≠ m.sec.pcReq then m
  else
    let m := { m with sec := { m.sec with pcAck := state } }
    match state with
    | 0 => backToLit p m
    | 1 =>
      let m := setEvt p (loseLinks { m with sec := { m.sec with power := .banked } }) Reg.pwrPage 0
      if m.sec.thenCold then startCold p m else wakeHeld m
    | 2 => wakeHeld (setEvt p (coldMach m) Reg.pwrPage 0)
    | _ => m

/-! ### Life cycle (R473 to R479) -/

/-- The transitions of R474. -/
def lcMay (p : Part) (now target : Nat) : Bool :=
  match now, target with
  | 0, 1 | 0, 5 | 1, 5 | 2, 3 | 2, 4 | 2, 5 | 3, 4 | 3, 5 | 4, 5 => true
  | 1, 2 => keyFused p
  | _, _ => false

/-- LC_ADVANCE (R474). -/
def lcAdvance (src : Src) (v : Word) (p : Part) (m : Mach) : Mach :=
  gated p m src Reg.lcsAdvance fun m =>
    let t := bitsOf v 2 0
    if bitsOf v 31 16 = 0x5EA1 ∧ lcMay p m.sec.lcState t ∧ m.sec.burning.isNone = true then
      { m with sec := { m.sec with burning := some t } }
    else setEvt p (ignored p m src Reg.lcsAdvance) Reg.lcsPage 1

/-- A state's bit is blown, and KEY_KILL with RETURN and SCRAPPED (R474, R475). -/
def burnFuse (p : Part) (t : Nat) : Part := blow p 0 (lcBits t)

/-- LC_BURN_DONE (R474 to R476): the bit is blown; a LC_SCRAP or a Cold request that waited goes on. A burn of LC_SCRAP
that a loss of Lit interrupts ends only in Lit. -/
def lcBurnDone (p : Part) (m : Mach) : Part × Mach :=
  match if m.sec.held && decide (m.sec.power ≠ .lit) then none else m.sec.burning with
  | some t =>
    let p := burnFuse p t
    let m := setEvt p { m with sec := { m.sec with burning := none } } Reg.lcsPage 0
    if m.sec.scrapDue then (p, { m with sec := { m.sec with scrapDue := false, burning := some 5 } })
    else if m.sec.thenCold && pcIdle m && !m.sec.held then (p, startCold p m)
    else (p, m)
  | none => (p, m)

/-- KEY_COMMIT (R477): in TEST alone, once. -/
def keyCommit (src : Src) (v : Word) (p : Part) (m : Mach) : Part × Mach :=
  match writeGate p m src Reg.lcsKeyCommit with
  | .pass =>
    if m.sec.lcState ≠ 1 ∨ (bitOf v 0 = true ∧ keyFused p = true) then (p, ignored p m src Reg.lcsKeyCommit)
    else if !bitOf v 0 then (p, m)
    else
      let key := ((List.range 4).map fun k => at_ (64 * k) (rd p m (Reg.lcsKeyProg k)).toNat).sum
      (burnKey p key,
       (List.range 4).foldl (fun m k => wr p m (Reg.lcsKeyProg k) 0) m)
  | .closed => (p, m)
  | .refuse k => (p, accErr p m src Reg.lcsKeyCommit k)

/-- LC_SCRAP (R476): the engine holds itself in reset at once; in Lit the burn starts at once, or when a burn in
progress ends; elsewhere Lit is asked for first. -/
def lcScrap (confirm : Nat) (_p : Part) (m : Mach) : Mach :=
  if confirm ≠ 0x5EA1 ∨ m.sec.power = .off then m
  else
    let m := heldMach m
    if m.sec.power = .lit ∧ m.sec.burning.isNone = true then { m with sec := { m.sec with burning := some 5 } }
    else
      let m := { m with sec := { m.sec with scrapDue := true } }
      if decide (m.sec.power ≠ .lit) && pcIdle m then requestState m 0 else m

/-- A burn that a loss of power or a power-on reset cuts short leaves each of its bits blown or not blown
(R473): free values. -/
def cutBurn (p : Part) (m : Mach) : Part × Mach :=
  match m.sec.burning with
  | some t => let (v, m) := drawFree m; (blow p 0 (lcBits t &&& v.toNat), m)
  | none => (p, m)

/-- POWER_REMOVED (R496). -/
def powerRemoved (p : Part) (m : Mach) : Part × Mach :=
  let (p, m) := cutBurn p m
  (p, { outsideOnly m with sec := { power := .off, booted := false } })

/-! ### The end of a zeroisation (R481, R489, R495) -/

/-- ZERO_FAIL (R481): a store has not reported within 64 µs: a raise fails, a reset sequence or an entry to
Cold does not complete. -/
def zeroFail (_store : Nat) (_p : Part) (m : Mach) : Mach :=
  match m.sec.zeroing with
  | some (.raise _) => { m with sec := { m.sec with zeroing := none, zeroFail := true } }
  | some _ => { m with sec := { m.sec with zeroStuck := true } }
  | none => m

/-! ### The meanings of the commands -/

/-- EVT_FORCE (R490). -/
def execEvtForce (src : Src) (page : Nat) (value : Word) (s : State) : Host.Outcome State Fault Refusal :=
  .next { s with m := responded s.m src none (evtForce src page value s.part s.m) }

/-- LC_ADVANCE (R474). -/
def execLcAdvance (src : Src) (value : Word) (s : State) : Host.Outcome State Fault Refusal :=
  .next { s with m := responded s.m src none (lcAdvance src value s.part s.m) }

/-- LC_BURN_DONE (R474). -/
def execLcBurnDone (s : State) : Host.Outcome State Fault Refusal :=
  let q := lcBurnDone s.part s.m
  .next { s with part := q.1, m := q.2 }

/-- KEY_COMMIT (R477). -/
def execKeyCommit (src : Src) (value : Word) (s : State) : Host.Outcome State Fault Refusal :=
  let q := keyCommit src value s.part s.m
  .next { s with part := q.1, m := responded s.m src none q.2 }

/-- LC_SCRAP (R476). -/
def execLcScrap (confirm : Nat) (s : State) : Host.Outcome State Fault Refusal :=
  .next { s with m := lcScrap confirm s.part s.m }

/-- DBG_REQ (R488). -/
def execDbgReq (src : Src) (level : Nat) (s : State) : Host.Outcome State Fault Refusal :=
  .next { s with m := responded s.m src none (dbgReq src level s.part s.m) }

/-- DBG_MEM_ACCESS (R540). -/
def execDbgMemAccess (src : Src) (value : Word) (s : State) : Host.Outcome State Fault Refusal :=
  .next { s with m := responded s.m src none (dbgMemAccess src value s.part s.m) }

/-- ATTEST_GO (R502). -/
def execAttestGo (src : Src) (value : Word) (s : State) : Host.Outcome State Fault Refusal :=
  .next { s with m := responded s.m src none (attestGo src value s.part s.m) }

/-- POWER_REQ_BANKED (R493). -/
def execPowerReqBanked (src : Src) (value : Word) (s : State) : Host.Outcome State Fault Refusal :=
  .next { s with m := responded s.m src none (powerReqBanked src value s.part s.m) }

/-- POWER_REQ_COLD (R495). -/
def execPowerReqCold (src : Src) (value : Word) (s : State) : Host.Outcome State Fault Refusal :=
  .next { s with m := responded s.m src none (powerReqCold src value s.part s.m) }

/-- POWER_REQ_LIT (R494). -/
def execPowerReqLit (src : Src) (value : Word) (s : State) : Host.Outcome State Fault Refusal :=
  .next { s with m := responded s.m src none (powerReqLit src value s.part s.m) }

/-- POWER_ACK (R492). -/
def execPowerAck (state : Nat) (s : State) : Host.Outcome State Fault Refusal :=
  .next { s with m := powerAck state s.part s.m }

/-- POWER_REMOVED (R496). -/
def execPowerRemoved (s : State) : Host.Outcome State Fault Refusal :=
  let q := powerRemoved s.part s.m
  .next { s with part := q.1, m := q.2 }

/-- ZERO_FAIL (R481). -/
def execZeroFail (store : Nat) (s : State) : Host.Outcome State Fault Refusal :=
  .next { s with m := zeroFail store s.part s.m }

end Sys2Proof.Machine
end

