-- ==== Sys2Proof/Machine/Bringup.lean ====
section
/-! DEFINITION. Resets (R399, R503 to R507, R533), the core clock register (R16), self-tests (R518 to R521),
link delay measurement (R294), temperature sensors and droop monitors (R498, R513). -/

namespace Sys2Proof.Machine

/-! ### What the self-test finds (R507) -/

/-- The logical groups that fail memory BIST. -/
def failedGroups (p : Part) (f : Findings) : List Nat := maskList f.groups (groupCount p.conf - 1)

/-- A group whose loss is FATAL: program store, system region, a relay's reduction window. -/
def criticalGroup (p : Part) (g : Nat) : Bool :=
  [GroupUse.program, GroupUse.system, GroupUse.reduction].contains (groupUse p g)

/-- The group that the spare takes: a critical one first, else the lowest-numbered. -/
def spareTakes (p : Part) (f : Findings) : Option Nat :=
  match (failedGroups p f).find? (criticalGroup p) with
  | some g => some g
  | none => (failedGroups p f).head?

/-- The groups left unusable. -/
def groupsLost (p : Part) (f : Findings) : List Nat := (failedGroups p f).filter fun g => some g != spareTakes p f

/-- The hearths that fail logic BIST. -/
def failedHearths (p : Part) (f : Findings) : List Nat := maskList f.hearths (hearthCount p.conf)

/-- Hearths after the assignment phase: failing ones unusable, the spare standing for the lowest of them. -/
def assignHearths (p : Part) (f : Findings) : Assoc Hearth :=
  let bad := failedHearths p f
  let t := bad.foldl (fun (t : Assoc Hearth) h => Assoc.set t h { unusable := true }) []
  match spareHearth p.conf, bad with
  | some s, h :: _ => if bad.contains s then t else Assoc.set t s { standsFor := some h }
  | _, _ => t

/-- BIST.BOOT. -/
def bootReg (p : Part) (f : Findings) : Nat :=
  2 ^ 48 * maskOf (failedHearths p f) + 2 ^ 47 * b2n (f.other.testBit 0)
    + 2 ^ 46 * b2n (f.other.testBit 1 || f.other.testBit 2) + maskOf (failedGroups p f)

/-- The assignment phase (R507). -/
def assign (p : Part) (m : Mach) (f : Findings) : Mach :=
  let m := { m with run := { m.run with
    hearths := assignHearths p f, kilnSt := { m.run.kilnSt with served := spareTakes p f } } }
  let m := wrAll p m [(Reg.bistBoot, wordOf (bootReg p f)), (Reg.bistBootEmber, wordOf (f.embers % 2 ^ 64)),
                      (Reg.kilnGroupUnusable, wordOf (maskOf (groupsLost p f)))]
  (maskList f.embers 64).foldl (markEmber p) m

/-- The cause and unit of the FATAL that the findings lead to. -/
def bootFatal (p : Part) (m : Mach) (f : Findings) : Option (Nat × Nat) :=
  match (groupsLost p f).find? (criticalGroup p) with
  | some g => some (1, g)
  | none =>
    if (usableHearths p m).isEmpty then some (2, 0)
    else if f.other.testBit 0 || f.other.testBit 1 then some (4, 0)
    else if f.other.testBit 2 then some (5, 0)
    else none

/-! ### Reset sequences (R503 to R506) -/

/-- GLB.BOOT_STAT with a cause and a phase. -/
def bootStat (cause phase : Nat) (done : Bool) : Word := wordOf (cause * 2 ^ 56 + phase * 2 ^ 8 + b2n done)

/-- The sequence has run to its zeroise phase on a machine at its reset values. -/
def runSequence (p : Part) (m : Mach) (cause : Nat) (f : Findings) : Mach :=
  let m := wr p (assign p m f) Reg.glbBootStat (bootStat cause 5 false)
  { m with sec := { m.sec with booted := false, zeroing := some (.boot cause f) } }

/-- Registers that a warm reset keeps (R505): NODE_ID, the log's pointers, the USER fields, the CALF page and the PWR
page. -/
def warmKeeps (a : Nat) : Bool :=
  a == Reg.routeNodeId || a == Reg.logHead || a == Reg.logTail || a == Reg.logLost || addrPage a == Reg.pwrPage ||
  addrPage a == Reg.calfPage ||
  (addrPage a == Reg.caluPage && decide (0x100 ≤ addrOff a) && decide (addrOff a < 0x268))

/-- The machine that a warm reset starts its sequence from (R399, R505). -/
def warmBase (m : Mach) : Mach :=
  { outsideOnly m with
    regs := m.regs.filter fun r => warmKeeps r.1,
    tick := { time := m.tick.time, frac := m.tick.frac, cycle := m.tick.cycle },
    log := m.log,
    sec := { lcState := m.sec.lcState, fuseErr := m.sec.fuseErr, burning := m.sec.burning, raises := m.sec.raises,
             pcReq := m.sec.pcReq, pcAck := m.sec.pcAck, entropyAt := m.tick.time, kicked := m.tick.time, booted := false } }

/-- A power-on sequence that a warm reset meets is run again (R506): its cause. -/
def powerOnRuns (m : Mach) : Option Nat :=
  match m.sec.zeroing with
  | some (.boot c _) => if c = 1 ∨ c = 4 then some c else none
  | _ => none

/-- The machine that a power-on sequence starts from: nothing is kept, engine time is zero (R505); the fuses
are read (R473, R479, R515), and a SCRAPPED part is held in reset (R476). -/
def powerOnBase (p : Part) (m : Mach) : Mach :=
  let lc := lcOf (lcFuse p)
  let bad := keyParityBad p
  let m := { outsideOnly m with
    sec := { lcState := lc, fuseErr := bad, held := lc == 5 || bad, booted := false } }
  let m := if bad then setEvt p m Reg.lcsPage 2 else m
  if fuseStat p ≠ 0 then setEvt p m Reg.calfPage 0 else m

/-- POWER_ON_RESET (R503, R21): straps are sampled, and a burn in progress is cut short. -/
def powerOnReset (relay tref : Bool) (f : Findings) (p : Part) (m : Mach) : Part × Mach :=
  let cause := if m.sec.wakeCold then 4 else 1
  let (p, m) := cutBurn p m
  let p := { p with relay := relay, tref := tref }
  (p, runSequence p (powerOnBase p m) cause f)

/-- WARM_RESET (R503, R506): by pin, or by register once its 64 cycles have passed. In Banked, in Cold and
without power there is none to take; a part held in reset stays held. -/
def warmReset (pin : Bool) (f : Findings) (p : Part) (m : Mach) : Mach :=
  let due := pin || m.sec.warmDue.any fun t => decide (t ≤ m.tick.cycle)
  if m.sec.power ≠ .lit ∨ m.sec.held = true ∨ due = false then m
  else match powerOnRuns m with
    | some c => runSequence p (powerOnBase p m) c f
    | none => if m.sec.wakeCold then m else runSequence p (warmBase (flushEntries p m)) (if pin then 2 else 3) f

/-- RESET_CTRL_WARM (R503): the reset is due 64 cycles after the write. -/
def resetCtrlWarm (src : Src) (v : Word) (p : Part) (m : Mach) : Mach :=
  gated p m src Reg.glbResetCtrl fun m =>
    if bitOf v 0 then { m with sec := { m.sec with warmDue := some (m.tick.cycle + 64) } } else m

/-- The Done phase: BOOT_STAT, the RESET entry, and a FATAL that the findings lead to (R503, R507, R470). -/
def finishBoot (p : Part) (m : Mach) (cause : Nat) (f : Findings) : Mach :=
  let m := { m with sec := { m.sec with booted := true, zeroing := none } }
  let m := wr p m Reg.glbBootStat (bootStat cause 6 true)
  let m := flushEntries p (report p m { code := 1, page := Reg.glbPage, sev := .info, detail := [BitVec.ofNat 8 cause] })
  match bootFatal p m f with
  | some (c, u) => fatal p m c u
  | none => m

/-- A zeroisation has completed: every store has reported (R481). -/
def finishZeroise (p : Part) (m : Mach) : Mach :=
  if m.sec.zeroStuck || m.sec.held then m
  else if m.sec.zeroing = some .cold ∧ m.sec.burning.isSome = true then m
  else match m.sec.zeroing with
    | some (.raise level) =>
      let m := { m with sec := { m.sec with zeroing := none, zeroFail := false, raises := m.sec.raises + 1 } }
      setLevel p (setEvt p m Reg.secPage 1) level
    | some (.boot cause f) => finishBoot p m cause f
    | some .cold => requestState (setEvt p { m with sec := { m.sec with zeroing := none } } Reg.secPage 1) 2
    | none => m

/-! ### The core clock (R16) -/

/-- CORE_FREQ_WRITE (R16). -/
def coreFreqWrite (src : Src) (v : Word) (p : Part) (m : Mach) : Mach :=
  gated p m src Reg.glbCoreFreq fun m =>
    let f := bitsOf v 10 0
    if f < 600 ∨ 1100 < f ∨ tickRuns p m = true then ignored p m src Reg.glbCoreFreq
    else wr p m Reg.glbCoreFreq (wordOf f)

/-! ### Self-test while work continues (R225, R518 to R520) -/

/-- UNIT and INDEX of BIST_RUN. -/
def bistUnit (l : Line) : Nat := bytesOf l 16 16
def bistIndex (l : Line) : Nat := bytesOf l 17 17

/-- The checks of R520 for a hearth; a status where one fails. -/
def bistHearthCheck (p : Part) (m : Mach) (h : Nat) : Option Nat :=
  if hearthCount p.conf ≤ h then some stFormat
  else if (hearthOf m h).retired || (hearthOf m h).unusable then some stChannelRetired
  else if (usableHearths p m).all (fun i => i == h || (hearthOf m i).bist) then some stQuota
  else none

/-- The checks of R520 for a kiln group. -/
def bistKilnCheck (p : Part) (m : Mach) (g : Nat) : Option Nat :=
  if groupCount p.conf ≤ g + 1 then some stFormat
  else if groupUnusable p m g then some stChannelRetired
  else if m.run.kilnSt.served.isSome then some stQuota
  else none

/-- A BIST_RUN ends with a failed check. -/
def bistRefused (p : Part) (m : Mach) (r : Running) (st : Nat) : Mach := endBist p m r.acc st false false

/-- BIST_RUN_HEARTH (R518, R520): the hearth leaves placement, its placed items move to
others; a second test of the unit waits. -/
def bistRunHearth (w seq : Nat) (p : Part) (m : Mach) : Mach :=
  match dueCmd p m w seq 0x70 with
  | some r =>
    let h := bistIndex r.line
    if bistUnit r.line ≠ 1 ∨ r.stage ≠ 0 then m
    else match bistHearthCheck p m h with
      | some st => bistRefused p m r st
      | none =>
        if (List.range (hearthCount p.conf)).any fun i => (hearthOf m i).bist then m
        else moveItems (setHearth (setRunning m { r with stage := 1 }) h
          { hearthOf m h with bist := true, bistAcc := r.acc, bistAt := m.tick.cycle }) h
  | none => m

/-- BIST_RUN_KILN (R519, R520): the group is copied into the spare. -/
def bistRunKiln (w seq : Nat) (p : Part) (m : Mach) : Mach :=
  match dueCmd p m w seq 0x70 with
  | some r =>
    let g := bistIndex r.line
    if bistUnit r.line ≠ 2 ∨ r.stage ≠ 0 then m
    else match bistKilnCheck p m g with
      | some st => bistRefused p m r st
      | none =>
        if m.run.kilnSt.bist.isSome then m
        else
          let m := setRunning m { r with stage := 1 }
          { m with run := { m.run with kilnSt := { m.run.kilnSt with
            bist := some g, bistAcc := r.acc, bistAt := m.tick.cycle } } }
  | none => m

/-- The fewest cycles that a hearth's test takes: the save, the logic BIST and, where it passes, the restore
(R518). -/
def hearthTestCycles (pass : Bool) : Nat := 512 + 147456 + if pass then 512 else 0

/-- The fewest cycles that a kiln group's test takes: the copy out, the march test and, where it passes, the
copy back (R519). -/
def kilnTestCycles (pass : Bool) : Nat := 4096 + 49152 + if pass then 4096 else 0

/-- A hearth's test ends: it rejoins placement, or is retired as by a request (R518). -/
def hearthTestEnd (p : Part) (m : Mach) (h : Nat) (pass : Bool) : Mach :=
  let x := hearthOf m h
  if !x.bist ∨ m.tick.cycle < x.bistAt + hearthTestCycles pass then m
  else
    let m := setHearth m h { x with bist := false }
    if pass then endBist p m x.bistAcc stDone true false
    else endBist p (retireHearth p m h 3) x.bistAcc stChannelRetired true true

/-- A kiln group's test ends: copied back, or it stays on the spare (R519). -/
def kilnTestEnd (p : Part) (m : Mach) (g : Nat) (pass : Bool) : Mach :=
  let k := m.run.kilnSt
  if k.bist ≠ some g ∨ m.tick.cycle < k.bistAt + kilnTestCycles pass then m
  else if pass then endBist p { m with run := { m.run with kilnSt := { k with bist := none } } } k.bistAcc stDone true false
  else
    let m := { m with run := { m.run with kilnSt := { k with bist := none, served := some g } } }
    let m := report p (kilnPageRetired p m) { code := 0x12, page := Reg.kilnPage, sev := .permanent, detail := [BitVec.ofNat 8 g, 1] }
    endBist p m k.bistAcc stChannelRetired true true

/-- BIST_TEST_END (R518, R519). -/
def bistTestEnd (kiln : Bool) (unit : Nat) (pass : Bool) (p : Part) (m : Mach) : Mach :=
  if engineUp m then (if kiln then kilnTestEnd p m unit pass else hearthTestEnd p m unit pass) else m

/-! ### Link delay measurement (R294) -/

/-- One link's part of a CAL_MEASURE begins; a link that is not ACTIVE ends it at once. -/
def startPart (p : Part) (acc want : Nat) (m : Mach) (l : Nat) : Mach :=
  let x := linkOf m l
  if linkCount p.conf ≤ l then measPart m l acc stTimeout
  else if x.phase == .active then setLink m l { x with meas := some { acc := acc, want := want } }
  else measPart m l acc (if x.phase == .retired then stChannelRetired else stTimeout)

/-- The named links begin their parts; with none named the command is done. -/
def startMeas (p : Part) (m : Mach) (r : Running) (ls : List Nat) (want : Nat) : Mach :=
  if ls.isEmpty then complete m r stDone
  else
    let r := { r with stage := 1, n := ls.length, status := List.replicate 36 stDone }
    ls.foldl (startPart p r.acc want) (setRunning m r)

/-- CAL_MEASURE (R294): each named link begins its part, one that is not ACTIVE ends it at once; the command
ends when every part has, and one that names a link under measurement waits. -/
def calMeasure (w seq : Nat) (p : Part) (m : Mach) : Mach :=
  match dueCmd p m w seq 0x71 with
  | some r =>
    if r.stage ≠ 0 then m
    else
      let ls := maskList (bytesOf r.line 24 31 % 2 ^ 36) 36
      if ls.any fun l => (linkOf m l).meas.isSome then m
      else startMeas p m r ls (bytesOf r.line 32 33)
  | none => m

/-! ### Temperature and droop (R498, R513) -/

/-- TEMP_SAMPLE (R513): a sensor's uncorrected reading. -/
def tempSample (s : Nat) (raw : Word) (p : Part) (m : Mach) : Mach :=
  if s < 4 ∧ engineUp m then
    let t := clampInt (-2048) 2047 (signed 64 raw.toNat + effective p m (itemTemp s))
    wr p m (Reg.caluTemp s) (wordOf (toPattern 12 t))
  else m

/-- DROOP (R498): a monitor with a threshold above zero trips. -/
def droop (d : Nat) (p : Part) (m : Mach) : Mach :=
  if d < 4 ∧ m.sec.power = .lit ∧ portUp m ∧ 0 < effective p m (itemDroop d) then
    setEvt p { m with sec := { m.sec with droop := some m.tick.time } } Reg.pwrPage 2
  else m

/-- DROOP_END (R498): its 10 µs have passed. -/
def droopEnd (_p : Part) (m : Mach) : Mach :=
  if m.sec.droop.any fun t => decide (t + 10000 * fsPerNs ≤ m.tick.time) then { m with sec := { m.sec with droop := none } }
  else m

/-! ### The meanings of the commands -/

/-- POWER_ON_RESET (R503). -/
def execPowerOnReset (relay tref : Bool) (found : Findings) (s : State) : Host.Outcome State Fault Refusal :=
  let q := powerOnReset relay tref found s.part s.m
  .next { s with part := q.1, m := q.2 }

/-- WARM_RESET (R503). -/
def execWarmReset (pin : Bool) (found : Findings) (s : State) : Host.Outcome State Fault Refusal :=
  .next { s with m := warmReset pin found s.part s.m }

/-- RESET_CTRL_WARM (R503). -/
def execResetCtrlWarm (src : Src) (value : Word) (s : State) : Host.Outcome State Fault Refusal :=
  .next { s with m := responded s.m src none (resetCtrlWarm src value s.part s.m) }

/-- CORE_FREQ_WRITE (R16). -/
def execCoreFreqWrite (src : Src) (value : Word) (s : State) : Host.Outcome State Fault Refusal :=
  .next { s with m := responded s.m src none (coreFreqWrite src value s.part s.m) }

/-- BIST_RUN_HEARTH (R518). -/
def execBistRunHearth (win seq : Nat) (s : State) : Host.Outcome State Fault Refusal :=
  .next { s with m := bistRunHearth win seq s.part s.m }

/-- BIST_RUN_KILN (R519). -/
def execBistRunKiln (win seq : Nat) (s : State) : Host.Outcome State Fault Refusal :=
  .next { s with m := bistRunKiln win seq s.part s.m }

/-- BIST_TEST_END (R518). -/
def execBistTestEnd (kiln : Bool) (unit : Nat) (pass : Bool) (s : State) : Host.Outcome State Fault Refusal :=
  .next { s with m := bistTestEnd kiln unit pass s.part s.m }

/-- CAL_MEASURE (R294). -/
def execCalMeasure (win seq : Nat) (s : State) : Host.Outcome State Fault Refusal :=
  .next { s with m := calMeasure win seq s.part s.m }

/-- TEMP_SAMPLE (R513). -/
def execTempSample (sensor : Nat) (raw : Word) (s : State) : Host.Outcome State Fault Refusal :=
  .next { s with m := tempSample sensor raw s.part s.m }

/-- DROOP (R498). -/
def execDroop (monitor : Nat) (s : State) : Host.Outcome State Fault Refusal :=
  .next { s with m := droop monitor s.part s.m }

/-- DROOP_END (R498). -/
def execDroopEnd (s : State) : Host.Outcome State Fault Refusal :=
  .next { s with m := droopEnd s.part s.m }

end Sys2Proof.Machine
end

