-- ==== Sys2Proof/Machine/Flags.lean ====
section
/-! DEFINITION. The interrupt lines and the power handshake's pins, and what the test port's
IDCODE reads: functions of the state (R464, R465, R492, R543, R556). -/

namespace Sys2Proof.Machine

/-- The interrupt lines, by route code (R464): irq_cpl, irq_evt, irq_err, irq_sec. -/
inductive IrqLine where
  | cpl | evt | err | sec
  deriving DecidableEq, Repr

/-- The route code of a line. -/
def IrqLine.code : IrqLine → Nat
  | .cpl => 0 | .evt => 1 | .err => 2 | .sec => 3

/-- The pages whose events can raise a line: every page with a header in Lit, the PWR page in Banked and in Cold,
none where the port is down (R543). -/
def irqPages (p : Part) (m : Mach) : List Nat :=
  if !portUp m then []
  else if m.sec.power = .lit then (List.range 256).filter fun g => hasHeader (pageKind p.conf g).1
  else [Reg.pwrPage]

/-- A page has an event that is set, enabled and routed to the line (R465). -/
def pageRaises (p : Part) (m : Mach) (x : IrqLine) (g : Nat) : Bool :=
  (List.range 32).any fun b => rdB p m (Reg.evtStat g) b && rdB p m (Reg.evtEn g) b &&
    rdF p m (Reg.evtRoute g) (2 * b + 1) (2 * b) == x.code

/-- GLB.FAULT_STAT raises irq_err: an enabled bit of [2:0], or FATAL (R465). -/
def faultRaises (p : Part) (m : Mach) : Bool :=
  m.sec.power == .lit && portUp m &&
  (isFatal p m || rdF p m Reg.glbFaultStat 2 0 &&& rdF p m Reg.glbFaultEn 2 0 != 0)

/-- The level of an interrupt line (R465). -/
def irq (p : Part) (m : Mach) (x : IrqLine) : Bool :=
  (irqPages p m).any (pageRaises p m x) || (x == .err && faultRaises p m)

/-- pc_req of the power handshake (R492). -/
def pcReqPin (m : Mach) : BitVec 2 := BitVec.ofNat 2 m.sec.pcReq

/-- The part number of a configuration (R556). -/
def partNumber : Conf → Nat
  | .ihlan12 => 0x1A12 | .ihlan24 => 0x1A24 | .ihlan36 => 0x1A36

/-- IDCODE of the IEEE 1149.1 port, with the tie-off inputs ids_mfr (R556). -/
def idcode (p : Part) (mfr : BitVec 11) : BitVec 32 :=
  BitVec.ofNat 32 (2 ^ 28 * (p.stepping % 16) + 2 ^ 12 * partNumber p.conf + 2 * mfr.toNat + 1)

end Sys2Proof.Machine
end

