-- ==== Sys2Proof/Machine/Router.lean ====
section
/-! DEFINITION. Register writes: what each access type does, the writes that a rule ignores, the effects that
follow a plain write, and the way of every address to the command that its register is (R522 to R538). -/

namespace Sys2Proof.Machine

/-! ### Writes that a rule of their register ignores (R532) -/

/-- The channel kinds of R153: none, inbound in slots 0 to 3, outbound in slots 4 to 7. -/
def bindRefused (slot : Nat) (v : Word) : Bool :=
  let kind := bitsOf v 3 0
  !(kind == 0 || (decide (slot < 4) && decide (1 ≤ kind) && decide (kind ≤ 4)) ||
    (decide (4 ≤ slot) && (kind == 9 || kind == 10)))

/-- RET_CTRL (R213): a format not listed, a reserved PRUNE, a threshold negative, infinite or NaN. -/
def retCtrlRefused (v : Word) : Bool :=
  let tau := bitsOf v 63 32
  !([0x01, 0x02, 0x05, 0x06, 0x07, 0x08, 0x09, 0x0A, 0x15, 0x16, 0x17, 0x18, 0x19, 0x1A].contains (bitsOf v 4 0)) ||
  decide (2 ≤ bitsOf v 9 8) || decide (0x7F800000 ≤ tau % 2 ^ 31) || decide (0x80000000 < tau)

/-- TICK registers (R451). -/
def tickRefused (p : Part) (m : Mach) (off : Nat) (v : Word) : Bool :=
  match off with
  | 0x108 => decide (bitsOf v 23 0 < 8000) || decide (8400000 < bitsOf v 23 0)
  | 0x118 | 0x158 => tickRuns p m
  | 0x120 => decide (bitsOf v 15 0 < 64) || bitsOf v 23 16 == 0
  | 0x128 => bitsOf v 15 0 == 0
  | _ => false

/-- A completion ring's BASE and CTRL. -/
def ringRefused (p : Part) (m : Mach) (off : Nat) (v : Word) : Bool :=
  let r := (off - 0x100) / 0x20
  let old := rd p m (Reg.cplRingCtrl r)
  match off % 0x20 with
  | 0x00 => bitOf old 8 && bitsOf v 41 12 != rdF p m (Reg.cplRingBase r) 41 12
  | 0x08 => decide (bitsOf v 4 0 < 7) || decide (20 < bitsOf v 4 0) ||
      (bitOf old 8 && bitsOf v 4 0 != bitsOf old 4 0)
  | _ => false

/-- KILN registers (R242, R227). -/
def kilnRefused (p : Part) (m : Mach) (off : Nat) (v : Word) : Bool :=
  if off = 0x118 then decide (bitsOf v 15 0 < 64)
  else if 0x140 ≤ off ∧ off < 0x180 then
    (ctxOf m ((off - 0x140) / 8)).resident || (maskList (bitsOf v 31 0) 32).any fun g => groupUse p g != .partition
  else if 0x180 ≤ off ∧ off < 0x200 then (ctxOf m ((off - 0x180) / 0x10)).resident
  else false

/-- Registers of a context (R61, R125, R213, and the field maps of EVT_RANGE, QUOTA, the rings and SAVE_AREA). -/
def ctxRefused (p : Part) (m : Mach) (c off : Nat) (v : Word) : Bool :=
  if 0x440 ≤ off ∧ off < 0x478 then decide (0x30000 < bitsOf v 17 0)
  else match off with
    | 0x158 => decide (4096 < bitsOf v 11 0 + bitsOf v 28 16)
    | 0x238 => decide (bitsOf v 31 0 < 1024)
    | 0x2C0 => decide (65536 < bitsOf v 16 0) || bitsOf v 31 24 == 0
    | 0x3C0 => retCtrlRefused v
    | 0x3C8 => decide (8192 < bitsOf v 13 0)
    | 0x548 => rdB p m (Reg.ctxFabIringCtrl c) 28 && bitsOf v 41 12 != rdF p m (Reg.ctxFabIringBase c) 41 12
    | 0x550 => decide (bitsOf v 4 0 < 4) || decide (20 < bitsOf v 4 0) ||
        (rdB p m (Reg.ctxFabIringCtrl c) 28 && bitsOf v 4 0 != rdF p m (Reg.ctxFabIringCtrl c) 4 0)
    | 0x590 => m.run.autoSwap.any fun a => a.out == c || a.inn == c
    | 0x600 => rdB p m (Reg.ctxReplayCtrl c) 8 && bitsOf v 41 12 != rdF p m (Reg.ctxReplayBase c) 41 12
    | 0x608 =>
      let old := rd p m (Reg.ctxReplayCtrl c)
      decide (bitsOf v 4 0 < 12) || decide (30 < bitsOf v 4 0) ||
        (bitOf old 8 && (bitsOf v 4 0 != bitsOf old 4 0 || bitsOf v 10 9 != bitsOf old 10 9))
    | _ => false

/-- ROUTE registers (R301, R300, TRANSIT_CTRL). -/
def routeRefused (p : Part) (m : Mach) (off : Nat) (v : Word) : Bool :=
  match off with
  | 0x100 => (List.range (linkCount p.conf)).any fun l => (linkOf m l).phase != .disabled
  | 0x110 => bitsOf v 13 0 == 0 || decide (transitSlots p.conf < bitsOf v 13 0) || decide (1024 < bitsOf v 26 16)
  | 0x300 => bitsOf v 15 0 == 0
  | _ => false

/-- The six fields of CRED_ADV summed. -/
def credSum (v : Word) : Nat := ((List.range 6).map fun k => bitsOf v (10 * k + 9) (10 * k)).sum

/-- The flits that a relay's CRED_ADV registers may advertise in all: 8,192 for each usable transit group, which is
R285's 212,992 with the 26 of Ihlan-36 (R507). DEDUCED: the other configurations' relays hold as many a group (R1,
R218). -/
def relayFlits (p : Part) (m : Mach) : Nat :=
  8192 * ((List.range (groupCount p.conf)).filter fun g => groupUse p g == .transit && !groupUnusable p m g).length

/-- CRED_ADV against the sums of R285. -/
def credRefused (p : Part) (m : Mach) (l : Nat) (v : Word) : Bool :=
  if p.relay then
    let others := (List.range (linkCount p.conf)).filter fun i => i != l
    decide (relayFlits p m < (others.map fun i => credSum (rd p m (Reg.linkCredAdv i))).sum + credSum v)
  else decide (128 < credSum v)

/-- LINK registers (R300). -/
def linkRefused (p : Part) (m : Mach) (l off : Nat) (v : Word) : Bool :=
  match off with
  | 0x118 => credRefused p m l v
  | 0x120 => (List.range 5).any fun k => bitsOf v (6 * k + 5) (6 * k) == 0
  | 0x130 => bitsOf v 15 0 == 0 || decide (bitsOf v 31 16 < 200)
  | _ => false

/-- A write that a rule of its register ignores. -/
def writeRefused (p : Part) (m : Mach) (addr : Nat) (v : Word) : Bool :=
  let (k, i) := pageKind p.conf (addrPage addr)
  let off := addrOff addr
  if off < 0x100 then false
  else match k with
    | .glb => off == 0x190 && bitsOf v 15 0 == 0
    | .lcs => m.sec.lcState != 1
    | .dbg => decide (m.sec.debug < 2)
    | .tick => tickRefused p m off v
    | .cpl => ringRefused p m off v
    | .sched => off == 0x100 && bitsOf v 23 8 == 0
    | .kiln => kilnRefused p m off v
    | .fab => off == 0x110 && (bitsOf v 7 0 == 0 || bitsOf v 31 16 == 0)
    | .coll => off == 0x108 && bitsOf v 31 16 == 0
    | .ctx => ctxRefused p m i off v
    | .route => routeRefused p m off v
    | .exmap => off == 0x100 && decide (12 < bitsOf v 3 0)
    | .strm => decide (off < 0x140) && bindRefused ((off - 0x100) / 8) v
    | .memp => off == 0x100 && (bitsOf v 31 16 == 0 || bitsOf v 47 32 == 0)
    | .link => linkRefused p m i off v
    | _ => false

/-! ### The access types (R531) and what follows a plain write -/

/-- A register's value after a write of its RW and W1C fields. -/
def plainValue (r : RegRow) (old v : Word) : Word :=
  ((old &&& ~~~(wordOf (r.rw ||| r.rwl))) ||| (v &&& wordOf (r.rw ||| r.rwl))) &&& ~~~(v &&& wordOf r.w1c)

/-- The enable of a ring rises: HEAD takes TAIL. -/
def headToTail (p : Part) (m : Mach) (head tail : Nat) : Mach := wr p m head (rd p m tail)

/-- What follows a write of a context's register: IRING_CTRL and REPLAY_CTRL set HEAD to TAIL where EN rises,
entries that wait for room in a ring are gone where REPLAY_CTRL.EN rises or falls (R448), and SAVE_AREA loses the
image it named. -/
def afterCtx (p : Part) (m : Mach) (c off : Nat) (old v : Word) : Mach :=
  match off with
  | 0x550 =>
    let m := if !bitOf old 28 && bitOf v 28 then headToTail p m (Reg.ctxFabIringHead c) (Reg.ctxFabIringTail c) else m
    iringOverflow p m c
  | 0x590 => setCtx m c { ctxOf m c with image := false }
  | 0x608 =>
    let m := if bitOf old 8 != bitOf v 8 then setCtx m c { ctxOf m c with replayWait := [] } else m
    if !bitOf old 8 && bitOf v 8 then
      clrReg p (headToTail p m (Reg.ctxReplayHead c) (Reg.ctxReplayTail c)) (Reg.ctxReplayDiv c) (2 ^ 62)
    else m
  | _ => m

/-- What follows a plain write: a watchdog that starts has a new period (R463), a ring that opens takes the
records it held (R395), a link's windows restart (R300). -/
def afterWrite (p : Part) (m : Mach) (addr : Nat) (old v : Word) : Mach :=
  let (k, i) := pageKind p.conf (addrPage addr)
  let off := addrOff addr
  if off < 0x100 then m
  else match k with
    | .glb => if off = 0x190 ∧ bitOf old 16 = false ∧ bitOf v 16 = true then
        { m with sec := { m.sec with kicked := m.tick.time } } else m
    | .cpl => if off % 0x20 = 0x08 then completionWrite ((off - 0x100) / 0x20) p m else m
    | .ctx => afterCtx p m i off old v
    | .link => if off = 0x128 then setLink m i { linkOf m i with failAt := [], trainFailAt := [] } else m
    | _ => m

/-- A register's shadow after a write in this cycle: a value of an earlier cycle that it replaces stays beside it. -/
def shadowWritten (m : Mach) (addr : Nat) (v : Word) : Shadow :=
  match Assoc.find? m.shadow addr with
  | some x => { cycle := m.tick.cycle, value := v, prior := if x.cycle < m.tick.cycle then some x.value else x.prior }
  | none => { cycle := m.tick.cycle, value := v }

/-- A write of RWS fields (R537, R509): into the shadow while the tick runs or a parked step holds it there,
in force at once otherwise. -/
def storeRws (p : Part) (m : Mach) (addr : Nat) (v : Word) : Mach :=
  if tickRuns p m || shadowHeld p m addr then
    { m with shadow := Assoc.set m.shadow addr (shadowWritten m addr (v &&& wordOf (rwsMask p addr))) }
  else applyRws p m addr v

/-- A write to a register without behaviour of its own. -/
def plainWrite (src : Src) (addr : Nat) (v : Word) (p : Part) (m : Mach) : Mach :=
  gated p m src addr fun m =>
    if writeRefused p m addr v then ignored p m src addr
    else match regRow (pageKind p.conf (addrPage addr)).1 (addrOff addr) with
      | some r =>
        if r.rws ≠ 0 then storeRws p m addr v
        else
          let old := rd p m addr
          afterWrite p (wr p m addr (plainValue r old v)) addr old v
      | none => m

/-! ### Registers that are commands of their own -/

/-- The word index of a command window, where the offset is one of W0 to W7. -/
def windowWrite (src : Src) (w off : Nat) (v : Word) (p : Part) (m : Mach) : Mach :=
  if off = 0x138 then commandSubmit src w v p m
  else if off = 0x140 then cmdSeqWrite src w v p m
  else commandStage src w ((off - 0x100) / 8) v p m

/-- A write to a context's page. -/
def ctxPageWrite (src : Src) (c addr : Nat) (v : Word) (p : Part) (m : Mach) : Mach :=
  let off := addrOff addr
  if off < 0x148 then windowWrite src c off v p m
  else match off with
    | 0x288 => seedDraw src c v p m
    | 0x560 => fabIringTailWrite src c v p m
    | 0x580 => ctlWrite src c v p m
    | 0x618 => replayTailWrite src c v p m
    | _ => plainWrite src addr v p m

/-- A write to a block register. -/
def blockWrite (src : Src) (addr : Nat) (v : Word) (p : Part) (m : Mach) : Mach :=
  let (k, i) := pageKind p.conf (addrPage addr)
  let off := addrOff addr
  match k, off with
  | .glb, 0x108 => coreFreqWrite src v p m
  | .glb, 0x198 => hostKick src v p m
  | .glb, 0x1A0 => resetCtrlWarm src v p m
  | .lcs, 0x108 => lcAdvance src v p m
  | .sec, 0x100 => attestGo src v p m
  | .dbg, 0x100 => dbgCtrlWrite src v p m
  | .dbg, 0x118 => dbgMemAccess src v p m
  | .tick, 0x100 => tickRun src v p m
  | .pwr, 0x100 => pwrCtrlWrite src v p m
  | .log, 0x100 => logClear src v p m
  | .fab, 0x120 => lockClr src v p m
  | .fab, 0x140 => duxForce src v p m
  | .link, 0x100 => linkRetrainRequest src i v p m
  | .perf, 0x100 => perfSnap src v p m
  | .cmd, 0x188 => evtValWrite src v p m
  | .cmd, _ => if off < 0x148 then windowWrite src 8 off v p m else plainWrite src addr v p m
  | .cpl, _ =>
    if off % 0x20 = 0x18 ∧ off < 0x220 then ringTailWrite src ((off - 0x100) / 0x20) v p m else plainWrite src addr v p m
  | .kiln, _ =>
    if 0x210 ≤ off ∧ off < 0x258 then ringWrite src ((off - 0x210) / 8) v p m else plainWrite src addr v p m
  | .ctx, _ => ctxPageWrite src i addr v p m
  | .regionWin, _ => regionEntryWrite src addr v p m
  | _, _ => plainWrite src addr v p m

/-- A whole write to an aligned address: the header's PAGE_CTRL and EVT_FORCE, KEY_COMMIT, a block register, or
a register without behaviour of its own. -/
def routeWrite (src : Src) (addr : Nat) (v : Word) (p : Part) (m : Mach) : Part × Mach :=
  let page := addrPage addr
  let off := addrOff addr
  if addr = Reg.lcsKeyCommit then keyCommit src v p m
  else if hasHeader (pageKind p.conf page).1 ∧ off < 0x100 then
    (p, if off = 0x10 then pageCtrlWrite src page v p m
        else if off = 0x38 then evtForce src page v p m
        else plainWrite src addr v p m)
  else (p, blockWrite src addr v p m)

/-- The doubleword that an access names: address bits [19:3] (R534, R547). -/
def alignAddr (addr : Nat) : Nat := addr % 2 ^ 20 / 8 * 8

/-- REGISTER_WRITE (R531, R534): a write whose byte enables are not all set is ignored with KIND 1. -/
def regWrite (src : Src) (addr : Nat) (be : BitVec 8) (v : Word) (p : Part) (m : Mach) : Part × Mach :=
  let a := alignAddr addr
  if be = 0xFF then routeWrite src a v p m
  else (p, match writeGate p m src a with
    | .closed => m
    | _ => accErr p m src a 1)

/-- RWS_WRITE (R537): a whole write to a register with RWS fields. -/
def rwsWrite (src : Src) (addr : Nat) (v : Word) (p : Part) (m : Mach) : Mach :=
  let a := alignAddr addr
  if rwsMask p a = 0 then m else plainWrite src a v p m

/-! ### The meanings of the commands -/

/-- REGISTER_WRITE (R531): an access of the register target port, the host's read among them, which has no side
effect and returns what it reads (R547). -/
def execRegisterWrite (src : Src) (addr : Nat) (be : BitVec 8) (value : Word) (s : State) (read : Bool := false) :
    Host.Outcome State Fault Refusal :=
  if read then .next { s with m := responded s.m src (some (readReg s.part s.m src (alignAddr addr))) s.m }
  else
    let q := regWrite src addr be value s.part s.m
    .next { s with part := q.1, m := responded s.m src none q.2 }

/-- RWS_WRITE (R537). -/
def execRwsWrite (src : Src) (addr : Nat) (value : Word) (s : State) : Host.Outcome State Fault Refusal :=
  .next { s with m := responded s.m src none (rwsWrite src addr value s.part s.m) }

end Sys2Proof.Machine
end

