-- ==== Sys2Proof/Machine/Mgmt.lean ====
section
/-! DEFINITION. Management messages (R484, R485) and the test ports (R476, R487, R538,
R556). -/

namespace Sys2Proof.Machine

/-! ### The packet at PQ4's head -/

/-- The entries of the packet at PQ4's head, where that is a management packet and all of it is there. -/
def mgmtHead (m : Mach) : Option (Entry × List Byte) :=
  match (pqOf m 4).head with
  | e :: rest =>
    let n := mgmtEntries (lineBytes e.line)
    let es := e :: rest.take (n - 1)
    if e.kind == .mgmt && es.length == n && (es.drop 1).all (fun f => f.kind == .cont && f.acc == e.acc) then
      some (e, es.flatMap fun f => lineBytes f.line)
    else none
  | [] => none

/-- The packet leaves the queue. -/
def popMgmt (m : Mach) (bs : List Byte) : Mach :=
  let x := pqOf m 4
  settleQueue (setPq m 4 { x with head := x.head.drop (mgmtEntries bs) }) 4 8

/-- The fields of entry 0 (R484). -/
def mgKind (bs : List Byte) : Nat := fieldOf bs 0 0
def mgAddr (bs : List Byte) : Nat := fieldOf bs 8 11
def mgData (bs : List Byte) : Word := wordOf (fieldOf bs 16 23)
def mgNonce (bs : List Byte) : List Byte := (bs.drop 32).take 32

/-- The entries of a request kind (R484); none for a reserved kind. -/
def mgWant : Nat → Option Nat
  | 0x70 | 0x71 | 0x73 => some 1
  | 0x72 => some 2
  | _ => none

/-- A packet that R485 answers with ERR_FORMAT: a reserved kind, a wrong ENTRIES, a reserved byte that is not
zero, the bits of ADDR above [19:0] among them. -/
def mgFormatBad (bs : List Byte) : Bool :=
  mgWant (mgKind bs) != some (fieldOf bs 1 1) || fieldOf bs 3 3 != 0 || fieldOf bs 12 15 != 0 ||
  fieldOf bs 24 31 != 0 || decide (2 ^ 20 ≤ mgAddr bs)

/-- The bit of SEC.MGMT_CTRL of a kind. -/
def mgBit : Nat → Nat
  | 0x70 => 1 | 0x71 => 2 | 0x72 => 3 | _ => 0

/-- An address that no MG_REG_WRITE may target (R485): LCS, SEC, DBG, PWR, a command window, the region table. -/
def mgProtected (p : Part) (addr : Nat) : Bool :=
  let (k, _) := pageKind p.conf (addrPage addr)
  k == .lcs || k == .sec || k == .dbg || k == .pwr || k == .regionWin ||
  ((k == .ctx || k == .cmd) && decide (0x100 ≤ addrOff addr) && decide (addrOff addr < 0x140))

/-- The status of a request that is refused; 0 for one that is carried out. -/
def mgRefusal (p : Part) (m : Mach) (bs : List Byte) : Nat :=
  if mgFormatBad bs then stFormat
  else if !rdB p m Reg.secMgmtCtrl (mgBit (mgKind bs)) then stRegionKey
  else if mgKind bs = 0x71 ∧ mgProtected p (alignAddr (mgAddr bs)) then stRegionKey
  else stDone

/-- The bytes of an MG_RESP: STATUS, TAG, ADDR, NONCE copied, DATA, and a report in entries 1 and 2. -/
def mgAnswer (bs : List Byte) (st : Nat) (data : Word) (rep : List Byte) : List Byte :=
  [0x74, if rep.isEmpty then 1 else 3, BitVec.ofNat 8 st, 0] ++ (bs.drop 4).take 4 ++ leBytes 4 (mgAddr bs % 2 ^ 20)
    ++ leBytes 4 0 ++ leBytes 8 data.toNat ++ leBytes 8 0 ++ mgNonce bs ++ rep

/-- A request is answered to its source. -/
def mgReply (p : Part) (m : Mach) (e : Entry) (bs : List Byte) (st : Nat) (data : Word) (rep : List Byte) : Mach :=
  sendFlow p m e.src 5 (mgAnswer bs st data rep) 8 .mgmt true

/-- A refusal is counted and answered (R485). -/
def mgRefuse (p : Part) (m : Mach) (e : Entry) (bs : List Byte) (st : Nat) : Mach :=
  mgReply p (setEvt p (bump p m Reg.secMgmtRefused 1) Reg.secPage 2) e bs st (mgData bs) []

/-- A request row takes the packet at PQ4's head where that is of its kind, or of a reserved kind. -/
def mgServe (kind : Nat) (p : Part) (s : Part × Mach) (f : Entry → List Byte → Mach → Part × Mach) : Part × Mach :=
  let m := takeMgmt p s.2
  if !engineUp m || isFatal p m || systemCopies p m then (s.1, m)
  else match mgmtHead m with
    | some (e, bs) =>
      if mgKind bs = kind ∨ ((mgWant (mgKind bs)).isNone ∧ mgKind bs ≠ 0x74) then
        let m := popMgmt m bs
        let st := mgRefusal p m bs
        if st = stDone then f e bs m else (s.1, mgRefuse p m e bs st)
      else (s.1, m)
    | none => (s.1, m)

/-! ### The requests (R485) -/

/-- MG_REG_READ. -/
def mgRegRead (p : Part) (m : Mach) : Mach :=
  (mgServe 0x70 p (p, m) fun e bs m => (p, mgReply p m e bs stDone (readReg p m .mgmt (alignAddr (mgAddr bs))) [])).2

/-- MG_REG_WRITE. -/
def mgRegWrite (p : Part) (m : Mach) : Part × Mach :=
  mgServe 0x71 p (p, m) fun e bs m =>
    let q := routeWrite .mgmt (alignAddr (mgAddr bs)) (mgData bs) p m
    (q.1, mgReply q.1 q.2 e bs stDone (mgData bs) [])

/-- The status of an MG_CMD: how its submission ends. -/
def mgCmdStatus : Submitted → Nat
  | .accepted => stDone
  | .gap => stSeqGap
  | _ => stQuota

/-- MG_CMD: entry 1 is submitted to the CMD window. -/
def mgCmd (p : Part) (m : Mach) : Mach :=
  (mgServe 0x72 p (p, m) fun e bs m =>
    let l := lineOf (bs.drop 64)
    let st := mgCmdStatus (submitCase p m 8 l)
    (p, mgReply p (submitRecord .mgmt 8 l p m) e bs st (mgData bs) [])).2

/-- MG_ATTEST (R502). -/
def mgAttest (p : Part) (m : Mach) : Mach :=
  (mgServe 0x73 p (p, m) fun e bs m => (p, mgReply p m e bs stDone (mgData bs) (attest p m (mgNonce bs)))).2

/-- MG_RESP (R484): an answer arrives and is handed to the requester's host software. -/
def mgResp (p : Part) (m : Mach) : Mach :=
  let m := takeMgmt p m
  if !engineUp m || isFatal p m || systemCopies p m then m
  else match mgmtHead m with
    | some (e, bs) =>
      if mgKind bs = 0x74 then
        let m := popMgmt m bs
        { m with sec := { m.sec with answers := m.sec.answers ++ [(e.src, bs)] } }
      else m
    | none => m

/-! ### The test ports (R476, R487, R538, R556) -/

/-- A register access of the wrapper; what a read returns is an output. Held in reset it does not answer (R476). -/
def wrapAccess (write : Bool) (addr : Nat) (v : Word) (p : Part) (m : Mach) : Part × Mach :=
  let a := alignAddr addr
  if m.sec.held then (p, m)
  else if write then routeWrite .ieee1500 a v p m
  else (p, { m with out := m.out ++ [.wrapRead a (readReg p m .ieee1500 a)] })

/-- A data register of n bits shifts a word out. -/
def shiftOut (m : Mach) (ir : BitVec 8) (n : Nat) (v : Word) : Mach := { m with out := m.out ++ [.testData ir n v] }

/-- BYPASS: its one bit, 0 when it is captured, goes out ahead of what is shifted in. -/
def bypass (m : Mach) (ir : BitVec 8) : Mach := shiftOut m ir 1 0

/-- A data register whose content the manual does not lay out, the boundary scan register or the internal scan chains,
shifts out a free value. -/
def shiftFree (m : Mach) (ir : BitVec 8) : Mach := let (v, m) := drawFree m; shiftOut m ir 64 v

/-- An instruction of the TAP (R556): each code has its data register, and other codes act as BYPASS; so does WRAP_SCAN
below SCAN, where it reaches no chain. -/
def tapInstr (write : Bool) (addr : Nat) (v : Word) (ir : BitVec 8) (dr : Word) (mfr : BitVec 11) (p : Part) (m : Mach) :
    Part × Mach :=
  match ir with
  | 0x00 | 0x02 => (p, shiftFree m ir)
  | 0x01 => (p, shiftOut m ir 32 (wordOf (idcode p mfr).toNat))
  | 0x10 => wrapAccess write addr v p m
  | 0x11 => (p, dbgReq .ieee1500 (bitsOf dr 1 0) p m)
  | 0x12 => (p, lcScrap (bitsOf dr 15 0) p m)
  | 0x13 => (p, if m.sec.debug = 3 then shiftFree m ir else bypass m ir)
  | _ => (p, bypass m ir)

/-- The sequencer and the command engine are halted, released or stepped once, at INVASIVE (R487). -/
def debugHalt (m : Mach) (halted stepOnce : Bool) : Mach :=
  if portUp m && m.sec.debug == 2 then { m with sec := { m.sec with halted := halted, stepOnce := stepOnce } } else m

/-- WRAP_REG: a use of the test ports, which answer in every combination with power (R499). -/
def wrapReg (write : Bool) (addr : Nat) (v : Word) (tap : TapOp) (p : Part) (m : Mach) : Part × Mach :=
  if m.sec.power = .off then (p, m)
  else match tap with
    | .access => wrapAccess write addr v p m
    | .shift ir dr mfr => tapInstr write addr v ir dr mfr p m
    | .halt => (p, debugHalt m true false)
    | .resume => (p, debugHalt m false false)
    | .singleStep => (p, debugHalt m true m.sec.halted)

/-! ### The meanings of the commands -/

/-- WRAP_REG (R538). -/
def execWrapReg (write : Bool) (addr : Nat) (value : Word) (s : State) (tap : TapOp := .access) :
    Host.Outcome State Fault Refusal :=
  let q := wrapReg write addr value tap s.part s.m
  .next { s with part := q.1, m := q.2 }

end Sys2Proof.Machine
end

