-- ==== Sys2Proof/Machine/Stores.lean ====
section
/-! DEFINITION. What a read of a store other than a pool buffer or an ember slot finds (R221, R222, R461), and
the rows that such a read belongs to. A finding of a store that its row does not read counts as clean. A row
whose reads lie in a kiln group that is being copied waits (R223). -/

namespace Sys2Proof.Machine

/-- The engine's stores are in use: it is powered and not halted. -/
def storesUp (p : Part) (m : Mach) : Bool := engineUp m && !isFatal p m

/-- A correctable error is corrected and logged (R221, R461). -/
def storeCorrected (p : Part) (m : Mach) (f : StoreRead) : Mach :=
  match f with
  | .line n true => kilnCorrected p m n
  | .word n true => report p m { code := 0x10, page := Reg.glbPage, sev := .corrected, detail := [3, 0, 0, 0] ++ leBytes 4 n }
  | _ => m

/-- An uncorrectable word of an internal store is logged (R461, R468). -/
def wordLost (p : Part) (m : Mach) (c : Nat) : Mach :=
  report p m { code := 0x62, page := Reg.glbPage, sev := .transient, ctx := c, detail := [2] }

/-! ### The command engine: COMMAND_START -/

/-- The entry at the head of a queue could not be read: it completes under the host sequence number kept apart
from it (R222). -/
def entryLost (p : Part) (m : Mach) (q : Nat) : Mach :=
  match headEntry m q, winOfQueue m q with
  | some e, some w =>
    if e.kind == .command && windowMayStart p m w then completeLine (popHead m q w) w (unstarted p m w e.line) e.hseq stUncorrectable 0 else m
  | _, _ => m

/-- COMMAND_START with what the command engine's reads of the queue store and of its own state find. -/
def startRead (q : Nat) (f : StoreRead) (p : Part) (m : Mach) : Mach :=
  if systemCopies p m then m
  else match f with
  | .line n false => if storesUp p m then entryLost p (kilnUe p m n (some 5)) q else m
  | .control => if storesUp p m then fatal p m 4 0 else m
  | f => commandStart q p (if storesUp p m then storeCorrected p m f else m)

/-! ### Selection: SCORE_RECORD -/

/-- The record that SCORE_RECORD would take passes the checks that come before the reads of its tables (R66, R81). -/
def readsTables (p : Part) (m : Mach) (s : StepRun) (r : InRec) (l : LayerT) : Bool :=
  let x := phaseOf s (headLayer chScore r.header)
  !(scEob r.header || x.eob) && r.fail.isNone && scoreReason l x.lastTok r.header == 0 &&
    inputRoom p m s.ctx (512 * r.beats.length) && (scoreTables p m s l x).isNone

/-- A line of the partition's table area could not be read: the record's item fails (R222). -/
def tableLost (p : Part) (m : Mach) (q k n : Nat) : Mach :=
  let m := kilnUe p m n (some 0)
  match takeable p m q k chScore with
  | some (s, r, _) =>
    let layer := headLayer chScore r.header
    takeRec p (recordInput p (scoreFails m s layer (nodeId p m) (scToken r.header) stUncorrectable) s.ctx layer r) q k
  | none => m

/-- SCORE_RECORD with what selection's reads of the expert map, the bias table and the share table find. -/
def scoreRead (q k : Nat) (f : StoreRead) (p : Part) (m : Mach) : Mach :=
  match takeable p m q k chScore with
  | some (s, r, l) =>
    if groupCopies m s.ctx then m
    else if readsTables p m s r l then match f with
      | .line n false => tableLost p m q k n
      | f => scoreRecord q k p (storeCorrected p m f)
    else scoreRecord q k p m
  | none => m

/-! ### Event counters and semaphores -/

/-- An event counter's word is lost: every context whose EVT_RANGE holds it is torn down, and what the counter
then holds is open; a counter in no range is set to 0 (R461). -/
def counterLost (p : Part) (m : Mach) (e : Nat) : Mach :=
  let m := wordLost p m 0xFF
  match (List.range 8).filter fun c => evtInRange p m c e with
  | [] => setEvtCnt m e 0
  | cs =>
    let (v, m) := drawFree (cs.foldl (fun m c => teardown p m c causeInternal 0) m)
    release (setEvtCnt m e (v.toNat % 2 ^ 28))

/-- A semaphore's word is lost: its context is torn down, and what the semaphore then holds is open (R461). -/
def semLost (p : Part) (m : Mach) (c s : Nat) : Mach :=
  let (v, m) := drawFree (teardown p (wordLost p m c) c causeInternal 0)
  setSem m c s (v.toNat % 2 ^ 32)

/-- EVENT_SIGNAL with what its read of the counter finds. -/
def signalRead (w seq : Nat) (f : StoreRead) (p : Part) (m : Mach) : Mach :=
  match dueCmd p m w seq 0x50 with
  | some r => match f with
    | .word _ false => eventSignal w seq p (counterLost p m (bytesOf r.line 16 17 % 4096))
    | f => eventSignal w seq p (storeCorrected p m f)
  | none => m

/-- SEM_ACQ with what its read of the semaphore finds. -/
def semAcqRead (w seq : Nat) (f : StoreRead) (p : Part) (m : Mach) : Mach :=
  match dueCmd p m w seq 0x52 with
  | some r => match f with
    | .word _ false => semLost p m w (semIdx r.line)
    | f => semAcq w seq p (storeCorrected p m f)
  | none => m

/-- SEM_REL with what its read of the semaphore finds. -/
def semRelRead (w seq : Nat) (f : StoreRead) (p : Part) (m : Mach) : Mach :=
  match dueCmd p m w seq 0x53 with
  | some r => match f with
    | .word _ false => semLost p m w (semIdx r.line)
    | f => semRel w seq p (storeCorrected p m f)
  | none => m

/-! ### The sequencer: BUNDLE_COMPLETE -/

/-- A bundle or template of the running step's program could not be read: the step is abandoned as under R51,
and its context has no program until it is loaded again (R222). -/
def programLost (p : Part) (m : Mach) (n : Nat) : Mach :=
  let m := kilnUe p m n (some (if groupUse p (n / 32768) = .system then 2 else 1))
  match liveStep m with
  | some s =>
    if isFatal p m || s.ended then m
    else settleStopped p (installProgram p (abandonStep p m s.ctx 1 stUncorrectable) s.ctx none)
  | none => m

/-- BUNDLE_COMPLETE with what the sequencer's read of the program store finds. -/
def bundleRead (f : StoreRead) (p : Part) (m : Mach) : Mach :=
  match f with
  | .line n false => if storesUp p m && (liveStep m).isSome then programLost p m n else m
  | f => bundleComplete p (if storesUp p m then storeCorrected p m f else m)

/-! ### The receive hearth: BILLET_RECEIVE -/

/-- The context and layer of the billet that BILLET_RECEIVE takes as an item. -/
def billetItem (p : Part) (m : Mach) (loop : Bool) : Option (Nat × Nat) :=
  let header := if loop then (m.run.loopBillets.find? fun b => (recvCase p m b.2.header).due).map fun b => b.2.header
    else ((m.net.rx.find? (billetDue p m)).filter fun x => !x.taken).map rxHeader
  match header with
  | some h => match recvCase p m h with
    | .item s _ => some (s.ctx, bhLayer h)
    | _ => none
  | none => none

/-- BILLET_RECEIVE with what its reads find. A lost word of the partition's pool bitmaps and reference counts tears the
context down (R461), and the billet then meets no step of it; with a kiln line of the expert map or of the loopback
copy that does not decode, its item fails (R222). -/
def billetRead (loop : Bool) (f : StoreRead) (p : Part) (m : Mach) : Mach :=
  if (billetItem p m loop).any fun i => groupCopies m i.1 then m
  else match f, billetItem p m loop with
  | .word _ false, some (c, layer) => billetReceive loop p (teardown p (wordLost p m c) c causeInternal layer)
  | .line n false, some _ => billetReceive loop p (kilnUe p m n (some 0)) true
  | f, _ => billetReceive loop p (if storesUp p m then storeCorrected p m f else m)

/-! ### The transit pool: TRANSIT_FLIT -/

/-- The flit that TRANSIT_FLIT would forward could not be read: its packet is dropped (R222). -/
def transitLost (p : Part) (m : Mach) (l vc n : Nat) : Mach :=
  let m := kilnUe p m n (some 3)
  let x := linkOf m l
  match x.waiting.find? fun t => t.flit.vc == vc with
  | some t =>
    if isFatal p m || t.flit.dst == nodeId p m || t.routed then m
    else
      let m := freeCredit (setLink m l { x with waiting := x.waiting.erase t }) l vc
      deliverFront p l vc x.waiting.length
        (noteDropped m ((droppedOf m t.flit).getD { id := packetId t.flit, seen := [], lastPos := none }) t.flit)
  | none => m

/-- TRANSIT_FLIT with what its reads of the transit pool and of the pool's bitmap find. -/
def transitRead (l vc : Nat) (f : StoreRead) (p : Part) (m : Mach) : Mach :=
  if transitCopies p m then m
  else match f with
  | .line n false => if storesUp p m then transitLost p m l vc n else m
  | .word _ false => if storesUp p m then fatal p m 5 0 else m
  | f => transitFlit l vc p (if storesUp p m then storeCorrected p m f else m)

/-! ### Fabric memory: the requests that read the region table -/

/-- A region table entry could not be read: V is cleared, with the effects of R352 (R461). -/
def regionLost (p : Part) (m : Mach) (r : Nat) : Mach :=
  setRegionCtrl p (wordLost p m 0xFF) r ((regionOf m r).ctrl &&& 0x7FFF_FFFF_FFFF_FFFF)

/-- A duplicate filter entry could not be read: it is not VALID, and every collective running here aborts with
reason FAULT (R461, R342). -/
def filterLost (p : Part) (m : Mach) (src vc : Nat) : Mach :=
  let m := setFilter (wordLost p m 0xFF) src vc {}
  m.coll.groups.foldl (fun m g => abortColl p m g.1 reFault stUncorrectable) m

/-- The request is checked now, and no check before the region's entry refuses it (R351, R360). -/
def readsEntry (p : Part) (m : Mach) (x : RxPkt) : Bool :=
  !x.taken && x.seen.isNone && !p.relay && !(lockOf m x.src).locked && !fabForm (rxBytes x)

/-- An ATOMIC comes to its checks: it is new, its answer has room, and its outcome is not unknown (R364). -/
def atomicChecks (m : Mach) (x : RxPkt) : Bool :=
  !isDuplicate m x && cacheCanInsert m && ((readFab (rxBytes x)).flags % 2 == 0 || (filterOf m x.src 4).valid)

/-- A request whose reads find something. Where it reads its region's entry (`reads`) and the entry is lost, `lost`
answers it; `base` is its handling otherwise. -/
def requestRead (found : Option RxPkt) (reads : RxPkt → Bool) (f : StoreRead) (lost : Mach → RxPkt → Mach)
    (base : Part → Mach → Mach) (p : Part) (m : Mach) : Mach :=
  match found with
  | some x => match f with
    | .word _ false =>
      if storesUp p m && reads x then lost (regionLost p m (readFab (rxBytes x)).region) x else base p m
    | .filter => base p (if storesUp p m && !x.taken then filterLost p m x.src x.vc else m)
    | f => base p (if storesUp p m then storeCorrected p m f else m)
  | none => base p m

/-- The failure of a request whose region's entry is lost: reason MEMORY, which counts for no lockout (R461). -/
def noteLost (p : Part) (m : Mach) (x : RxPkt) : Mach := noteFail p m x.src (readFab (rxBytes x)) 0x08 true

/-- FAB_WRITE with what its reads of the filter and the region table find. -/
def writeRead (f : StoreRead) (p : Part) (m : Mach) : Mach :=
  requestRead (findServe m kWrite) (fun x => readsEntry p m x && !isDuplicate m x) f
    (fun m x => respond p (noteLost p (dropRx m x) x) x stUncorrectable 0x08 0 []) fabWrite p m

/-- A READ, SUB, PUB, OWN_REQ or OWN_REL, which is handled whatever its filter entry says (R359), with what its reads
find; one whose region's entry is lost is accepted with its answer. -/
def otherRead (kind : Nat) (base : Part → Mach → Mach) (f : StoreRead) (p : Part) (m : Mach) : Mach :=
  requestRead (findOther m kind) (readsEntry p m) f
    (fun m x => answer p (noteLost p m x) x stUncorrectable 0x08 []) base p m

/-- A reply cache entry could not be read (R222): its data is no answer any more. -/
def replyLost (p : Part) (m : Mach) (src fsn n : Nat) : Mach :=
  let m := kilnUe p m n (some 4)
  { m with fab := { m.fab with cache := m.fab.cache.map fun e =>
    if e.src = src ∧ e.fsn = fsn then { e with bad := true } else e } }

/-- FAB_ATOMIC with what its reads of the filter, the region table and the reply cache find. An ATOMIC answered
for a lost entry is accepted and its answer cached, as every other is (R364). -/
def atomicRead (f : StoreRead) (p : Part) (m : Mach) : Mach :=
  if systemCopies p m then m
  else match f, findServe m kAtomic with
  | .line n false, some x =>
    fabAtomic p (if storesUp p m && !x.taken && isDuplicate m x then replyLost p m x.src x.fsn n else m)
  | f, found => requestRead found (fun x => readsEntry p m x && atomicChecks m x) f
      (fun m x => atomicAnswer p (markFilter m x.src x.vc x.fsn) x stUncorrectable 0x08 0 true) fabAtomic p m

/-! ### The meanings of the commands -/

/-- COMMAND_START (R383, R222, R461). -/
def execCommandStart (q : Nat) (read : StoreRead) (s : State) : Host.Outcome State Fault Refusal :=
  .next { s with m := startRead q read s.part s.m }

/-- SCORE_RECORD (R81, R222). -/
def execScoreRecord (port slot : Nat) (read : StoreRead) (s : State) : Host.Outcome State Fault Refusal :=
  .next { s with m := scoreRead port slot read s.part s.m }

/-- EVENT_SIGNAL (R391, R461). -/
def execEventSignal (win seq : Nat) (read : StoreRead) (s : State) : Host.Outcome State Fault Refusal :=
  .next { s with m := signalRead win seq read s.part s.m }

/-- SEM_ACQ (R387, R461). -/
def execSemAcq (win seq : Nat) (read : StoreRead) (s : State) : Host.Outcome State Fault Refusal :=
  .next { s with m := semAcqRead win seq read s.part s.m }

/-- SEM_REL (R387, R461). -/
def execSemRel (win seq : Nat) (read : StoreRead) (s : State) : Host.Outcome State Fault Refusal :=
  .next { s with m := semRelRead win seq read s.part s.m }

/-- BUNDLE_COMPLETE (R47, R222). -/
def execBundleComplete (read : StoreRead) (s : State) : Host.Outcome State Fault Refusal :=
  .next { s with m := bundleRead read s.part s.m }

/-- TRANSIT_FLIT (R309, R222, R461). -/
def execTransitFlit (link vc : Nat) (read : StoreRead) (s : State) : Host.Outcome State Fault Refusal :=
  .next { s with m := transitRead link vc read s.part s.m }

/-- FAB_WRITE (R359, R461). -/
def execFabWrite (read : StoreRead) (s : State) : Host.Outcome State Fault Refusal :=
  .next { s with m := writeRead read s.part s.m }

/-- FAB_READ (R359, R461). -/
def execFabRead (read : StoreRead) (s : State) : Host.Outcome State Fault Refusal :=
  .next { s with m := otherRead kRead fabRead read s.part s.m }

/-- SUB (R367, R461). -/
def execSub (s : State) (read : StoreRead := .clean) : Host.Outcome State Fault Refusal :=
  .next { s with m := otherRead kSub sub read s.part s.m }

/-- PUB (R368, R461). -/
def execPub (s : State) (read : StoreRead := .clean) : Host.Outcome State Fault Refusal :=
  .next { s with m := otherRead kPub pub read s.part s.m }

/-- OWN_REQ (R372, R461). -/
def execOwnReq (s : State) (read : StoreRead := .clean) : Host.Outcome State Fault Refusal :=
  .next { s with m := otherRead kOwnReq ownReq read s.part s.m }

/-- OWN_REL (R373, R461). -/
def execOwnRel (s : State) (read : StoreRead := .clean) : Host.Outcome State Fault Refusal :=
  .next { s with m := otherRead kOwnRel ownRel read s.part s.m }

/-- FAB_ATOMIC (R364, R222, R461). -/
def execFabAtomic (read : StoreRead) (s : State) : Host.Outcome State Fault Refusal :=
  .next { s with m := atomicRead read s.part s.m }

end Sys2Proof.Machine
end

