-- ==== Sys2Proof/Machine/PacketReads.lean ====
section
/-! DEFINITION. What the rows find that handle a packet of VC3 to VC5 or spill a queue, and that `Stores` does not
name: a duplicate filter entry (R292, R461), a kiln line of the ring's own source, of the reduction window, or of the
queue store (R221, R222). -/

namespace Sys2Proof.Machine

/-- The oldest whole packet of VC3 of the kinds given. -/
def oldestColl (m : Mach) (kinds : List Nat) : Option RxPkt := m.net.rx.find? fun x =>
  x.vc == 3 && !x.mgmt && rxWhole x && kinds.contains (pk (rxBytes x) 3 3)

/-- The oldest whole management packet. -/
def oldestMgmt (m : Mach) : Option RxPkt := m.net.rx.find? fun x => x.vc == 5 && x.mgmt && rxWhole x

/-- A row that handles a packet, with what its reads find: the filter entry of the packet's source and channel, or a
kiln line. -/
def packetRead (found : Option RxPkt) (f : StoreRead) (base : Part → Mach → Mach) (p : Part) (m : Mach) : Mach :=
  match found, f with
  | some x, .filter => base p (if storesUp p m && !x.taken then filterLost p m x.src x.vc else m)
  | some _, .line n false => base p (if storesUp p m then readFinds p m (.line n false) else m)
  | some _, f => base p (if storesUp p m then storeCorrected p m f else m)
  | none, _ => base p m

/-- A row of VC3 packets of these kinds with what its reads find. -/
def collRead (kinds : List Nat) (f : StoreRead) (base : Part → Mach → Mach) (p : Part) (m : Mach) : Mach :=
  packetRead (oldestColl m kinds) f base p m

/-! ### RED_UP: the reduction window -/

/-- The contribution that RED_UP would add to what its slot holds (R317). -/
def foldsInto (p : Part) (m : Mach) : Option RxPkt :=
  if p.relay then
    (findRed p m kindRedUp).filter fun x => !isDuplicate m x && redCase m x == .more &&
      (slotOf m (pk (rxBytes x) 12 13 % 2048)).any fun s => decide (pk (rxBytes x) 14 14 = s.folded)
  else none

/-- RED_UP with what its reads find. With the slot's line lost the contribution is dropped unacknowledged, as one that
cannot be folded. -/
def redUpRead (f : StoreRead) (p : Part) (m : Mach) : Mach :=
  match f, foldsInto p m with
  | .line n false, some x => if storesUp p m then redDropped p (kilnUe p m n (some 7)) x else m
  | .line _ false, none => redUp p m
  | f, _ => collRead [kindRedUp] f redUp p m

/-! ### The queue store: QUEUE_SPILL and the management rows -/

/-- An entry of a queue's tail block could not be read: a command completes with ERR_UNCORRECTABLE under the host
sequence number kept apart from it, a management packet is gone (R222). -/
def spillLost (p : Part) (m : Mach) (q w i : Nat) : Mach :=
  let x := pqOf m q
  match x.tail[i]? with
  | some e =>
    if e.kind == .command then
      completeLine (setPq m q { x with tail := x.tail.eraseIdx i }) w (unstarted p m w e.line) e.hseq stUncorrectable 0
    else if e.kind == .mgmt || e.kind == .cont then
      setPq m q { x with tail := x.tail.filter fun y => !((y.kind == .mgmt || y.kind == .cont) && y.acc == e.acc) }
    else setPq m q { x with tail := x.tail.eraseIdx i }
  | none => m

/-- QUEUE_SPILL with what its reads of the queue store find. -/
def spillRead (q : Nat) (f : StoreRead) (p : Part) (m : Mach) : Mach :=
  match f, winOfQueue m q with
  | .line n false, some w =>
    if engineUp m && !systemCopies p m && spillDue p m q w then
      queueSpill q p (spillLost p (kilnUe p m n (some 5)) q w (n % blockSize))
    else m
  | f, _ => queueSpill q p (if storesUp p m then storeCorrected p m f else m)

/-- The management packet at PQ4's head could not be read: it is gone, and nothing answers it (R222). -/
def mgmtLost (p : Part) (m : Mach) (n : Nat) : Mach :=
  match mgmtHead m with
  | some (_, bs) => popMgmt (kilnUe p m n (some 5)) bs
  | none => m

/-- The reads of a management row: of the filter entry of the packet that comes to PQ4, and of the packet at its
head. -/
def mgRead (f : StoreRead) (base : Part → Mach → Part × Mach) (p : Part) (m : Mach) : Part × Mach :=
  match f, oldestMgmt m with
  | .filter, some x => base p (if storesUp p m then filterLost p m x.src 5 else m)
  | .line n false, _ =>
    if storesUp p m && !systemCopies p m && (mgmtHead m).isSome then (p, mgmtLost p m n) else base p m
  | f, _ => base p (if storesUp p m then storeCorrected p m f else m)

/-! ### The meanings of the commands -/

/-- A2A_DATA (R329, R461). -/
def execA2aData (s : State) (read : StoreRead := .clean) : Host.Outcome State Fault Refusal :=
  .next { s with m := collRead [kindData] read a2aData s.part s.m }

/-- A2AV_COUNTS (R333, R461). -/
def execA2avCounts (s : State) (read : StoreRead := .clean) : Host.Outcome State Fault Refusal :=
  .next { s with m := collRead [kindCounts] read a2avCounts s.part s.m }

/-- RING_AG (R339, R461). -/
def execRingAg (s : State) (read : StoreRead := .clean) : Host.Outcome State Fault Refusal :=
  .next { s with m := collRead [kindAg] read ringAg s.part s.m }

/-- RED_UP (R317, R222, R461). -/
def execRedUp (s : State) (read : StoreRead := .clean) : Host.Outcome State Fault Refusal :=
  .next { s with m := redUpRead read s.part s.m }

/-- RED_DOWN (R338, R461). -/
def execRedDown (s : State) (read : StoreRead := .clean) : Host.Outcome State Fault Refusal :=
  .next { s with m := collRead [kindRedDown] read redDown s.part s.m }

/-- JOIN (R322, R461). -/
def execJoin (s : State) (read : StoreRead := .clean) : Host.Outcome State Fault Refusal :=
  .next { s with m := collRead [kindJoin] read join s.part s.m }

/-- TREE_ACK (R322, R461). -/
def execTreeAck (s : State) (read : StoreRead := .clean) : Host.Outcome State Fault Refusal :=
  .next { s with m := collRead [kindAck, kindNak] read treeAck s.part s.m }

/-- TREE_SET (R324, R461). -/
def execTreeSet (s : State) (read : StoreRead := .clean) : Host.Outcome State Fault Refusal :=
  .next { s with m := collRead [kindSet] read treeSet s.part s.m }

/-- TREE_FREE (R324, R461). -/
def execTreeFree (s : State) (read : StoreRead := .clean) : Host.Outcome State Fault Refusal :=
  .next { s with m := collRead [kindFree] read treeFree s.part s.m }

/-- INVAL (R369, R461). -/
def execInval (s : State) (read : StoreRead := .clean) : Host.Outcome State Fault Refusal :=
  .next { s with m := packetRead (findOther s.m kInval) read inval s.part s.m }

/-- OWN_GRANT (R372, R461). -/
def execOwnGrant (s : State) (read : StoreRead := .clean) : Host.Outcome State Fault Refusal :=
  .next { s with m := packetRead (findOther s.m kOwnGrant) read ownGrant s.part s.m }

/-- QUEUE_SPILL (R235, R222). -/
def execQueueSpill (q : Nat) (s : State) (read : StoreRead := .clean) : Host.Outcome State Fault Refusal :=
  .next { s with m := spillRead q read s.part s.m }

/-- MG_REG_READ (R485, R222, R461). -/
def execMgRegRead (s : State) (read : StoreRead := .clean) : Host.Outcome State Fault Refusal :=
  .next { s with m := (mgRead read (fun p m => (p, mgRegRead p m)) s.part s.m).2 }

/-- MG_REG_WRITE (R485, R222, R461). -/
def execMgRegWrite (s : State) (read : StoreRead := .clean) : Host.Outcome State Fault Refusal :=
  let q := mgRead read mgRegWrite s.part s.m
  .next { s with part := q.1, m := q.2 }

/-- MG_CMD (R485, R222, R461). -/
def execMgCmd (s : State) (read : StoreRead := .clean) : Host.Outcome State Fault Refusal :=
  .next { s with m := (mgRead read (fun p m => (p, mgCmd p m)) s.part s.m).2 }

/-- MG_ATTEST (R502, R222, R461). -/
def execMgAttest (s : State) (read : StoreRead := .clean) : Host.Outcome State Fault Refusal :=
  .next { s with m := (mgRead read (fun p m => (p, mgAttest p m)) s.part s.m).2 }

/-- MG_RESP (R484, R222, R461). -/
def execMgResp (s : State) (read : StoreRead := .clean) : Host.Outcome State Fault Refusal :=
  .next { s with m := (mgRead read (fun p m => (p, mgResp p m)) s.part s.m).2 }

end Sys2Proof.Machine
end

