-- ==== Sys2Proof/Machine/Grants.lean ====
section
/-! DEFINITION. The order in which items are granted hearth sub-units and buffers (R11, R230, R406, R455), and the
commands whose items take part in it. -/

namespace Sys2Proof.Machine

/-! ### The items that wait -/

/-- A lane's place in the order of R11; 7 is the command engine's. -/
def laneRank (lane : Nat) : Nat :=
  if lane = laneMeld then 0 else if lane = laneTake then 1 else if lane = laneRecv then 2 else if lane = laneFeed then 3
  else if lane = laneScore then 4 else if lane = lanePack then 5 else if lane = laneXfer then 6 else 7

/-- The place of an item in the order of R11. -/
def itemRank : ItemRef → Nat
  | .step _ lane _ _ _ => laneRank lane
  | _ => 7

/-- An item that may wait: its place in the order of R11, and what its command does for it where its reads find
nothing. -/
abbrev Try := Nat × (Mach → Mach)

/-- The tiles of the MELD lane's layer phase, in the order of their slots. -/
def meldTries (p : Part) (m : Mach) (s : StepRun) : List Try :=
  let layer := (laneOf s laneMeld).layer
  ((ctxOf m s.ctx).embers.filter fun e => e.key == keyOf s layer && e.wready).flatMap fun e =>
    ((List.range e.nt).filter fun t => !e.streamed.contains t).map fun t =>
      (0, if e.mode = modeKv then kvMergeTile e.token t .clean .clean p else meldFold e.token t .clean .clean p)

/-- The expert output records at the heads of inbound slots, the oldest first. -/
def takeTries (p : Part) (m : Mach) : List Try :=
  let heads := (List.range (streamCount p.conf)).flatMap fun q => [0, 1, 2, 3].filterMap fun k =>
    (takeable p m q k chExpout).map fun (_, r, _) => (r.since, q, k)
  (sortBy (fun a b => decide (a.1 < b.1)) heads).map fun (_, q, k) => (1, expertOutputRecord q k p)

/-- The oldest billets received. -/
def recvTries (p : Part) : List Try := [(2, fun m => billetReceive true p m), (2, fun m => billetReceive false p m)]

/-- The next records of the ricks, the first deliverable first. -/
def feedTries (p : Part) (m : Mach) : List Try := match feedAt p m with
  | some (s, l, layer) =>
    let x := phaseOf s layer
    let due := (List.range 256).filterMap fun j => (nextRows x l j).map fun r => (r.2.2, j)
    (sortBy (fun a b => decide (a.1 < b.1)) due).map fun (_, j) => (3, rickRowDeliver j .clean p)
  | none => []

/-- The tokens of the PACK lane's layer phase, in their order. -/
def packTries (p : Part) (m : Mach) (s : StepRun) : List Try :=
  let layer := (laneOf s lanePack).layer
  match boundTmpl s lanePack layer with
  | some l =>
    if engineUp m && !isFatal p m && laneOpenAt s lanePack layer then
      ((phaseOf s layer).toks.filter fun t => t.decided && t.final && !t.packed).map fun t =>
        (5, fun m => (packItem p m s layer l .clean t).getD m)
    else []
  | none => []

/-- An operation as an item. -/
def opTry (p : Part) (rank : Nat) (o : OpRef) (x : OpCtx) : Try :=
  (rank, if x.opc = opXform then xform o .clean p else if x.opc = opGather then gather o .clean p
    else if x.opc = opScatter then scatter o .clean p else ringRsOf (fun y => y.owner == x.owner) p)

/-- The operations of the XFER lane, the oldest first. -/
def xferTries (p : Part) (s : StepRun) : List Try :=
  (s.xfers.filter fun x => x.outcome.isNone).map fun x => opTry p 6 (.lane x.tmpl) (opOfLane s.ctx x)

/-- The operations of the command engine: of the contexts in the order of R406, the oldest first. -/
def cmdTries (p : Part) (m : Mach) : List Try :=
  (sortBy (creditBefore p m) (residents m)).flatMap fun c =>
    (sortBy (fun a b => decide (a.acc < b.acc)) (runningOf m c)).map fun r => opTry p 7 (.cmd r.win r.hseq) (opOfCmd m r)

/-- Every item that may wait for a sub-unit that lanes share, in the order of R11 and R406. -/
def tries (p : Part) (m : Mach) : List Try := match liveStep m with
  | some s => meldTries p m s ++ takeTries p m ++ recvTries p ++ feedTries p m ++ packTries p m s ++ xferTries p s ++ cmdTries p m
  | none => cmdTries p m

/-! ### What an item takes -/

/-- The items that an action places. -/
def placedBy (m m' : Mach) : List Placed := m'.run.placed.filter fun x => !m.run.placed.contains x

/-- The classes of contexts from which an action allocates. -/
def classesBy (m m' : Mach) : List (Nat × Nat) := (List.range 8).flatMap fun c => (List.range 8).filterMap fun k =>
  if Assoc.get 0 (ctxOf m' c).allocAt k = Assoc.get 0 (ctxOf m c).allocAt k then none else some (c, k)

/-- The operations that an action carries on: commands by their acceptance, then those of the XFER lane by their
template. -/
def opsBy (m m' : Mach) : List Nat :=
  (m.cmd.running.filter fun r => !m'.cmd.running.contains r).map (fun r => r.acc) ++
  ((lane m).filter fun x => !(lane m').contains x).map fun x => x.tmpl
where
  lane (m : Mach) : List XferOp := ((liveStep m).map fun s => s.xfers).getD []

/-- What an item would take in a cycle: the sub-units on which it places itself, the classes from which it allocates,
and, where it is an operation, which. -/
structure Claim where
  placed : List Placed
  classes : List (Nat × Nat)
  ops : List Nat
  deriving DecidableEq, Repr

/-- What an action takes. -/
def claimBy (m m' : Mach) : Claim := { placed := placedBy m m', classes := classesBy m m', ops := opsBy m m' }

/-- What the items that wait would take in this cycle, each on its own, in their order, with their places in R11. -/
def claims (p : Part) (m : Mach) : List (Nat × Claim) := (tries p m).map fun t => (t.1, claimBy m (t.2 m))

/-- Items of a retired hearth that wait ahead of an item of a rank (R455). -/
def movedAhead (m : Mach) (u : SubUnit) (rank : Nat) : Nat :=
  (m.run.placed.filter fun x => x.hearth.isNone && x.unit == u && decide (itemRank x.item ≤ rank)).length

/-- What an action takes is left for it by the items that go before it: a sub-unit of each kind (R11, R406), and the
one allocation that a class makes in a cycle (R230). -/
def goesNow (p : Part) (m m' : Mach) : Bool :=
  let own := claimBy m m'
  if own.placed.isEmpty && own.classes.isEmpty then true
  else
    let ahead := (claims p m).takeWhile fun x => x.2 != own
    (own.placed.all fun x => decide ((ahead.filter fun y => y.2.placed.any fun z => z.unit == x.unit).length
      + movedAhead m x.unit (itemRank x.item) < freePlaces p m x.unit)) &&
    ahead.all fun y => y.2.classes.all fun k => !own.classes.contains k

/-- An item's command runs in its turn: where it would overtake an item that goes first, it waits (R11, R230, R406). -/
def inTurn (p : Part) (m : Mach) (go : Mach → Mach) : Mach :=
  let m' := go m
  if goesNow p m m' then m' else m

/-- The machine as it would be with no item placed and no throttle: what an item does there it waits for here. -/
def cleared (p : Part) (m : Mach) : Mach :=
  wr p { m with run := { m.run with placed := [] }, sec := { m.sec with droop := none } } Reg.pwrThrottle 0

/-- The sub-units that items wait for in this cycle, with their contexts. -/
def wanted (p : Part) (m : Mach) : List (Nat × SubUnit) :=
  ((claims p (cleared p m)).flatMap fun x => x.2.placed).map fun z => (z.ctx, z.unit)

/-- The items of a retired hearth, the first of their lanes, go to the hearths that R10 chooses; one that finds none
does not go on in this cycle (R455). -/
def seatMoved (p : Part) (m : Mach) : Mach :=
  let moved := m.run.placed.filter fun x => x.hearth.isNone
  if moved.isEmpty then m
  else
    let cs := claims p m
    (sortBy (fun a b : Placed => decide (itemRank a.item < itemRank b.item)) moved).foldl (fun m x =>
      let ahead := (cs.filter fun y => decide (y.1 < itemRank x.item) && y.2.placed.any fun z => z.unit == x.unit).length
      let h := if ahead < freePlaces p m x.unit then placement p m x.unit else none
      { m with run := { m.run with placed := (unplace m fun y => y == x).run.placed ++
          [{ x with hearth := h, accepts := x.accepts + if h.isNone then 1 else 0 }] } }) m

/-! ### The meanings of the commands -/

/-- PACK_ENCODE (R147). -/
def execPackEncode (read : ReadFinding) (s : State) : Host.Outcome State Fault Refusal :=
  .next { s with m := inTurn s.part s.m (packEncode read s.part) }

/-- RICK_ROW_DELIVER (R178). -/
def execRickRowDeliver (slot : Nat) (read : ReadFinding) (s : State) : Host.Outcome State Fault Refusal :=
  .next { s with m := inTurn s.part s.m (rickRowDeliver slot read s.part) }

/-- EXPERT_OUTPUT_RECORD (R189). -/
def execExpertOutputRecord (port slot : Nat) (s : State) : Host.Outcome State Fault Refusal :=
  .next { s with m := inTurn s.part s.m (expertOutputRecord port slot s.part) }

/-- MELD_FOLD (R202). -/
def execMeldFold (token colt : Nat) (stage : ReadFinding) (ember : StoreRead) (s : State) :
    Host.Outcome State Fault Refusal :=
  .next { s with m := inTurn s.part s.m (meldFold token colt stage ember s.part) }

/-- KV_MERGE (R205). -/
def execKvMerge (token colt : Nat) (stage : ReadFinding) (s : State) (ember : StoreRead := .clean) :
    Host.Outcome State Fault Refusal :=
  .next { s with m := inTurn s.part s.m (kvMergeTile token colt stage ember s.part) }

/-- XFORM (R249). -/
def execXform (op : OpRef) (s : State) (read : StoreRead := .clean) : Host.Outcome State Fault Refusal :=
  .next { s with m := inTurn s.part s.m (xform op read s.part) }

/-- GATHER (R255). -/
def execGather (op : OpRef) (s : State) (read : StoreRead := .clean) : Host.Outcome State Fault Refusal :=
  .next { s with m := inTurn s.part s.m (gather op read s.part) }

/-- SCATTER (R255). -/
def execScatter (op : OpRef) (s : State) (read : StoreRead := .clean) : Host.Outcome State Fault Refusal :=
  .next { s with m := inTurn s.part s.m (scatter op read s.part) }

/-- BILLET_RECEIVE (R171, R461). -/
def execBilletReceive (loop : Bool) (read : StoreRead) (s : State) : Host.Outcome State Fault Refusal :=
  .next { s with m := inTurn s.part s.m (billetRead loop read s.part) }

/-- RING_RS (R339, R222, R461). -/
def execRingRs (s : State) (read : StoreRead := .clean) : Host.Outcome State Fault Refusal :=
  .next { s with m := inTurn s.part s.m (collRead [kindRs] read ringRs s.part) }

end Sys2Proof.Machine
end

