-- ==== Sys2Proof/Machine/Dispatch.lean ====
section
/-! DEFINITION. The dispatch of a command to its meaning: one arm per constructor of Instr. -/

namespace Sys2Proof.Machine

def exec (i : Instr) (s : State) : Host.Outcome State Fault Refusal :=
  match i with
  | .powerOnReset relay tref found => Sys2Proof.Machine.execPowerOnReset relay tref found s
  | .warmReset pin found => Sys2Proof.Machine.execWarmReset pin found s
  | .resetCtrlWarm src value => Sys2Proof.Machine.execResetCtrlWarm src value s
  | .coreFreqWrite src value => Sys2Proof.Machine.execCoreFreqWrite src value s
  | .hostKick src value => Sys2Proof.Machine.execHostKick src value s
  | .hostLost => Sys2Proof.Machine.execHostLost s
  | .registerWrite src addr be value read => Sys2Proof.Machine.execRegisterWrite src addr be value s read
  | .rwsWrite src addr value => Sys2Proof.Machine.execRwsWrite src addr value s
  | .commandStage src win k value => Sys2Proof.Machine.execCommandStage src win k value s
  | .commandSubmit src win value => Sys2Proof.Machine.execCommandSubmit src win value s
  | .cmdSeqWrite src win value => Sys2Proof.Machine.execCmdSeqWrite src win value s
  | .evtValWrite src value => Sys2Proof.Machine.execEvtValWrite src value s
  | .commandStart q read => Sys2Proof.Machine.execCommandStart q read s
  | .completionWrite ring => Sys2Proof.Machine.execCompletionWrite ring s
  | .ringTailWrite src ring value => Sys2Proof.Machine.execRingTailWrite src ring value s
  | .stepRun win seq => Sys2Proof.Machine.execStepRun win seq s
  | .layerRun win seq => Sys2Proof.Machine.execLayerRun win seq s
  | .collA2a op read => Sys2Proof.Machine.execCollA2a op s read
  | .collA2av op read => Sys2Proof.Machine.execCollA2av op s read
  | .collReduce op read => Sys2Proof.Machine.execCollReduce op s read
  | .collBarrier op => Sys2Proof.Machine.execCollBarrier op s
  | .groupForm win seq => Sys2Proof.Machine.execGroupForm win seq s
  | .groupReform win seq => Sys2Proof.Machine.execGroupReform win seq s
  | .fabBatch win seq read => Sys2Proof.Machine.execFabBatch win seq s read
  | .fence win seq => Sys2Proof.Machine.execFence win seq s
  | .subscribe win seq => Sys2Proof.Machine.execSubscribe win seq s
  | .publishInval win seq => Sys2Proof.Machine.execPublishInval win seq s
  | .ownAcquire win seq => Sys2Proof.Machine.execOwnAcquire win seq s
  | .ownRelease win seq => Sys2Proof.Machine.execOwnRelease win seq s
  | .xform op read => Sys2Proof.Machine.execXform op s read
  | .gather op read => Sys2Proof.Machine.execGather op s read
  | .scatter op read => Sys2Proof.Machine.execScatter op s read
  | .tableLoad win seq => Sys2Proof.Machine.execTableLoad win seq s
  | .tableLoadRoute win seq => Sys2Proof.Machine.execTableLoadRoute win seq s
  | .progLoad win seq => Sys2Proof.Machine.execProgLoad win seq s
  | .biasUpdate win seq => Sys2Proof.Machine.execBiasUpdate win seq s
  | .hint win seq => Sys2Proof.Machine.execHint win seq s
  | .eventSignal win seq read => Sys2Proof.Machine.execEventSignal win seq read s
  | .eventWait win seq => Sys2Proof.Machine.execEventWait win seq s
  | .semAcq win seq read => Sys2Proof.Machine.execSemAcq win seq read s
  | .semRel win seq read => Sys2Proof.Machine.execSemRel win seq read s
  | .ctxSave win seq read => Sys2Proof.Machine.execCtxSave win seq s read
  | .ctxSaveDrainEnd ctx => Sys2Proof.Machine.execCtxSaveDrainEnd ctx s
  | .ctxRestore win seq => Sys2Proof.Machine.execCtxRestore win seq s
  | .ctxKill win seq => Sys2Proof.Machine.execCtxKill win seq s
  | .queueFlush win seq => Sys2Proof.Machine.execQueueFlush win seq s
  | .bistRunHearth win seq => Sys2Proof.Machine.execBistRunHearth win seq s
  | .bistRunKiln win seq => Sys2Proof.Machine.execBistRunKiln win seq s
  | .bistTestEnd kiln unit pass => Sys2Proof.Machine.execBistTestEnd kiln unit pass s
  | .calMeasure win seq => Sys2Proof.Machine.execCalMeasure win seq s
  | .logSnapshot win seq => Sys2Proof.Machine.execLogSnapshot win seq s
  | .nop win seq => Sys2Proof.Machine.execNop win seq s
  | .tickEdge => Sys2Proof.Machine.execTickEdge s
  | .perfSnap src value => Sys2Proof.Machine.execPerfSnap src value s
  | .bundleComplete read => Sys2Proof.Machine.execBundleComplete read s
  | .slipRequest => Sys2Proof.Machine.execSlipRequest s
  | .stretchLimitExpiry => Sys2Proof.Machine.execStretchLimitExpiry s
  | .seedDraw src ctx value => Sys2Proof.Machine.execSeedDraw src ctx value s
  | .entropyWord word => Sys2Proof.Machine.execEntropyWord word s
  | .entropyStall => Sys2Proof.Machine.execEntropyStall s
  | .ctlWrite src ctx value => Sys2Proof.Machine.execCtlWrite src ctx value s
  | .faultClr src ctx value => Sys2Proof.Machine.execFaultClr src ctx value s
  | .swapAdvice => Sys2Proof.Machine.execSwapAdvice s
  | .scoreRecord port slot read => Sys2Proof.Machine.execScoreRecord port slot read s
  | .eobMarker port slot => Sys2Proof.Machine.execEobMarker port slot s
  | .admitFlitReceive loop => Sys2Proof.Machine.execAdmitFlitReceive loop s
  | .admitVerdicts layer => Sys2Proof.Machine.execAdmitVerdicts layer s
  | .agrantReceive => Sys2Proof.Machine.execAgrantReceive s
  | .tokenRecord port slot => Sys2Proof.Machine.execTokenRecord port slot s
  | .packEncode read => Sys2Proof.Machine.execPackEncode read s
  | .closeMarkerSend dest => Sys2Proof.Machine.execCloseMarkerSend dest s
  | .ask dest => Sys2Proof.Machine.execAsk dest s
  | .kindleReceive => Sys2Proof.Machine.execKindleReceive s
  | .askReceive => Sys2Proof.Machine.execAskReceive s
  | .grantReceive => Sys2Proof.Machine.execGrantReceive s
  | .billetReceive loop read => Sys2Proof.Machine.execBilletReceive loop read s
  | .closeMarkerReceive loop => Sys2Proof.Machine.execCloseMarkerReceive loop s
  | .rickRowDeliver slot read => Sys2Proof.Machine.execRickRowDeliver slot read s
  | .rickEnd slot => Sys2Proof.Machine.execRickEnd slot s
  | .expertOutputRecord port slot => Sys2Proof.Machine.execExpertOutputRecord port slot s
  | .returnTileReceive loop read => Sys2Proof.Machine.execReturnTileReceive loop read s
  | .meldFold token colt stage ember => Sys2Proof.Machine.execMeldFold token colt stage ember s
  | .kvMerge token colt stage ember => Sys2Proof.Machine.execKvMerge token colt stage s ember
  | .combOutAccepted port => Sys2Proof.Machine.execCombOutAccepted port s
  | .inboundBeat port slot first side data par => Sys2Proof.Machine.execInboundBeat port slot first side data par s
  | .hostCreditReturn port slot => Sys2Proof.Machine.execHostCreditReturn port slot s
  | .memoryResponse port id resp => Sys2Proof.Machine.execMemoryResponse port id resp s
  | .memoryTimeout id => Sys2Proof.Machine.execMemoryTimeout id s
  | .queueSpill q read => Sys2Proof.Machine.execQueueSpill q s read
  | .queueFill q => Sys2Proof.Machine.execQueueFill q s
  | .ringWrite src ring value => Sys2Proof.Machine.execRingWrite src ring value s
  | .linkEnable src link value => Sys2Proof.Machine.execLinkEnable src link value s
  | .linkRetrainRequest src link value => Sys2Proof.Machine.execLinkRetrainRequest src link value s
  | .retireReq src page value => Sys2Proof.Machine.execRetireReq src page value s
  | .quiesce src page value => Sys2Proof.Machine.execQuiesce src page value s
  | .softReset src page value => Sys2Proof.Machine.execSoftReset src page value s
  | .evtForce src page value => Sys2Proof.Machine.execEvtForce src page value s
  | .phyLock link => Sys2Proof.Machine.execPhyLock link s
  | .phyLockLoss link lane tx => Sys2Proof.Machine.execPhyLockLoss link lane tx s
  | .plAdaptAck link rise => Sys2Proof.Machine.execPlAdaptAck link rise s
  | .laneAligned link rx0 rx1 => Sys2Proof.Machine.execLaneAligned link rx0 rx1 s
  | .tsFlitReceive link pos lanes => Sys2Proof.Machine.execTsFlitReceive link pos lanes s
  | .trainingTimeout link => Sys2Proof.Machine.execTrainingTimeout link s
  | .flitReceive link pos lanes => Sys2Proof.Machine.execFlitReceive link pos lanes s
  | .replayTimeout link => Sys2Proof.Machine.execReplayTimeout link s
  | .linkFlitSlot link read => Sys2Proof.Machine.execLinkFlitSlot link s read
  | .vc0Token link => Sys2Proof.Machine.execVc0Token link s
  | .linkDown => Sys2Proof.Machine.execLinkDown s
  | .salvageDrop link => Sys2Proof.Machine.execSalvageDrop link s
  | .e2eAck => Sys2Proof.Machine.execE2eAck s
  | .e2eTimeout dest vc fsn => Sys2Proof.Machine.execE2eTimeout dest vc fsn s
  | .reassemblyTimeout node vc ptag => Sys2Proof.Machine.execReassemblyTimeout node vc ptag s
  | .dlyProbe link => Sys2Proof.Machine.execDlyProbe link s
  | .dlyProbeReceive => Sys2Proof.Machine.execDlyProbeReceive s
  | .dlyEcho => Sys2Proof.Machine.execDlyEcho s
  | .transitFlit link vc read => Sys2Proof.Machine.execTransitFlit link vc read s
  | .mgRegRead read => Sys2Proof.Machine.execMgRegRead s read
  | .mgRegWrite read => Sys2Proof.Machine.execMgRegWrite s read
  | .mgCmd read => Sys2Proof.Machine.execMgCmd s read
  | .mgAttest read => Sys2Proof.Machine.execMgAttest s read
  | .mgResp read => Sys2Proof.Machine.execMgResp s read
  | .tickRecord => Sys2Proof.Machine.execTickRecord s
  | .tickSync => Sys2Proof.Machine.execTickSync s
  | .tickLost => Sys2Proof.Machine.execTickLost s
  | .refPps => Sys2Proof.Machine.execRefPps s
  | .tickRun src value => Sys2Proof.Machine.execTickRun src value s
  | .slipReq => Sys2Proof.Machine.execSlipReq s
  | .barArrive => Sys2Proof.Machine.execBarArrive s
  | .barRelease => Sys2Proof.Machine.execBarRelease s
  | .barrierRelease group => Sys2Proof.Machine.execBarrierRelease group s
  | .stepAbort => Sys2Proof.Machine.execStepAbort s
  | .collAbort => Sys2Proof.Machine.execCollAbort s
  | .collStall group => Sys2Proof.Machine.execCollStall group s
  | .collDefer group => Sys2Proof.Machine.execCollDefer group s
  | .join read => Sys2Proof.Machine.execJoin s read
  | .treeSet read => Sys2Proof.Machine.execTreeSet s read
  | .treeAck read => Sys2Proof.Machine.execTreeAck s read
  | .treeFree read => Sys2Proof.Machine.execTreeFree s read
  | .a2aData read => Sys2Proof.Machine.execA2aData s read
  | .a2avCounts read => Sys2Proof.Machine.execA2avCounts s read
  | .redUp read => Sys2Proof.Machine.execRedUp s read
  | .redDown read => Sys2Proof.Machine.execRedDown s read
  | .ringRs read => Sys2Proof.Machine.execRingRs s read
  | .ringAg read => Sys2Proof.Machine.execRingAg s read
  | .fabWrite read => Sys2Proof.Machine.execFabWrite read s
  | .fabRead read => Sys2Proof.Machine.execFabRead read s
  | .fabAtomic read => Sys2Proof.Machine.execFabAtomic read s
  | .sub read => Sys2Proof.Machine.execSub s read
  | .pub read => Sys2Proof.Machine.execPub s read
  | .inval read => Sys2Proof.Machine.execInval s read
  | .ownReq read => Sys2Proof.Machine.execOwnReq s read
  | .ownRel read => Sys2Proof.Machine.execOwnRel s read
  | .ownGrant read => Sys2Proof.Machine.execOwnGrant s read
  | .resp => Sys2Proof.Machine.execResp s
  | .lockoutHoldEnd node => Sys2Proof.Machine.execLockoutHoldEnd node s
  | .lockClr src value => Sys2Proof.Machine.execLockClr src value s
  | .duxForce src value => Sys2Proof.Machine.execDuxForce src value s
  | .regionEntryWrite src addr value => Sys2Proof.Machine.execRegionEntryWrite src addr value s
  | .keygen src addr value => Sys2Proof.Machine.execKeygen src addr value s
  | .fabIringTailWrite src ctx value => Sys2Proof.Machine.execFabIringTailWrite src ctx value s
  | .scrubRead line read => Sys2Proof.Machine.execScrubRead line read s
  | .kilnSpareCopyEnd found => Sys2Proof.Machine.execKilnSpareCopyEnd s found
  | .hearthFault hearth unit tries item => Sys2Proof.Machine.execHearthFault hearth unit tries item s
  | .ashLogWrite => Sys2Proof.Machine.execAshLogWrite s
  | .logClear src value => Sys2Proof.Machine.execLogClear src value s
  | .tempSample sensor raw => Sys2Proof.Machine.execTempSample sensor raw s
  | .droop monitor => Sys2Proof.Machine.execDroop monitor s
  | .droopEnd => Sys2Proof.Machine.execDroopEnd s
  | .lcAdvance src value => Sys2Proof.Machine.execLcAdvance src value s
  | .lcBurnDone => Sys2Proof.Machine.execLcBurnDone s
  | .keyCommit src value => Sys2Proof.Machine.execKeyCommit src value s
  | .lcScrap confirm => Sys2Proof.Machine.execLcScrap confirm s
  | .dbgReq src level => Sys2Proof.Machine.execDbgReq src level s
  | .wrapReg write addr value tap => Sys2Proof.Machine.execWrapReg write addr value s tap
  | .dbgMemAccess src value => Sys2Proof.Machine.execDbgMemAccess src value s
  | .attestGo src value => Sys2Proof.Machine.execAttestGo src value s
  | .powerReqBanked src value => Sys2Proof.Machine.execPowerReqBanked src value s
  | .powerReqCold src value => Sys2Proof.Machine.execPowerReqCold src value s
  | .powerReqLit src value => Sys2Proof.Machine.execPowerReqLit src value s
  | .powerAck state => Sys2Proof.Machine.execPowerAck state s
  | .replayTailWrite src ctx value => Sys2Proof.Machine.execReplayTailWrite src ctx value s
  | .powerRemoved => Sys2Proof.Machine.execPowerRemoved s
  | .readyFlitSent link => Sys2Proof.Machine.execReadyFlitSent link s
  | .zeroFail store => Sys2Proof.Machine.execZeroFail store s

end Sys2Proof.Machine
end

