-- ==== Sys2Proof/Machine/Charge.lean ====
section
/-! DEFINITION. What a context is charged with in a core cycle (R408, R409): the hearth sub-units that work on its
items, and the cycles in which it waits for what another context holds. -/

namespace Sys2Proof.Machine

/-! ### Items that wait for a hearth -/

/-- A score record of a context waits for a selection unit: its lane would take it, and no hearth holds its item
(R93). -/
def scoreWaits (p : Part) (m : Mach) (c : Nat) : Bool :=
  (List.range (streamCount p.conf)).any fun q => [0, 1, 2, 3].any fun k => match takeable p m q k chScore with
    | some (s, r, _) => s.ctx == c && !scEob r.header &&
        !m.run.placed.any fun x => x.item == scoreItem (headLayer chScore r.header) (nodeId p m) (scToken r.header)
    | none => false

/-- The sub-units that items of a context wait for in this cycle, of those that items `want`. -/
def unitsWanted (p : Part) (m : Mach) (want : List (Nat × SubUnit)) (c : Nat) : List SubUnit :=
  (want.filter fun x => x.1 == c).map (fun x => x.2) ++ (if scoreWaits p m c then [.selection] else []) ++
    (m.run.placed.filter fun x => x.ctx == c && x.hearth.isNone).map fun x => x.unit

/-! ### What another context holds (R409) -/

/-- An item of a context waits for a sub-unit only because of what other contexts' items hold. -/
def heldAtHearth (p : Part) (m : Mach) (c : Nat) (u : SubUnit) : Bool :=
  (placement p m u).isNone && (placement p (unplace m fun x => x.ctx != c) u).isSome

/-- The context a memory port transaction belongs to. -/
def txnCtx (m : Mach) : TxnUse → Option Nat
  | .cmdRead acc | .cmdWrite acc => ((findAcc m acc).map fun r => r.win).filter fun w => decide (w < 8)
  | .xfer c _ | .back c | .replay c | .swap c => some c
  | .fill r _ | .spill r _ => some r
  | _ => none

/-- A transfer of a context waits for a memory port. -/
def memWaits (m : Mach) (c : Nat) : Bool := m.mem.waiting.any fun t => txnCtx m t.use == some c

/-- It waits only because of the transfers of others. -/
def heldAtPort (p : Part) (m : Mach) (c : Nat) : Bool :=
  memWaits m c && (usablePorts p m).any fun i =>
    decide (((m.mem.txns.filter fun t => t.port == i && txnCtx m t.use == some c).length) < 256)

/-- A link on which an own flit of a context is eligible. -/
def flitWaits (x : Link) (c : Nat) : Bool :=
  decide (x.phase = .active) && !x.quiesce && x.own.any fun f => f.ctx == c && decide (0 < linkCredit x f.flit.vc)

/-- The links on which an own flit of a context is eligible. -/
def flitLinks (p : Part) (m : Mach) (c : Nat) : List Nat :=
  (List.range (linkCount p.conf)).filter fun l => flitWaits (linkOf m l) c

/-- The sub-units that work, with the contexts of their items: each is charged once in a cycle (R408). -/
def unitsAtWork (m : Mach) : List (Option Nat × SubUnit × Nat) :=
  ((m.run.placed.filter fun x => x.hearth.isSome).map fun x => (x.hearth, x.unit, x.ctx)).eraseDups

/-- The charges of one cycle of a context. -/
def chargeCtx (p : Part) (m : Mach) (atWork : List (Option Nat × SubUnit × Nat)) (want : List (Nat × SubUnit)) (c : Nat) : Charges :=
  let units := unitsWanted p m want c
  let links := flitLinks p m c
  let hearth := units.any (heldAtHearth p m c)
  let mem := heldAtPort p m c
  let link := links.any fun l => m.run.carried.any fun q => q.1 == l && q.2 != c
  let runs := (m.run.placed.any fun x => x.ctx == c) || !units.isEmpty || !links.isEmpty || memWaits m c
  let one := fun (b : Bool) => if b then 1 else 0
  { used := (atWork.filter fun x => x.2.2 == c).length, run := one runs, intf := one (runs && (hearth || mem || link)),
    hearth := one hearth, mem := one mem, link := one link }

/-- Charges added to those of the tick so far. -/
def Charges.add (x y : Charges) : Charges :=
  { used := x.used + y.used, run := x.run + y.run, intf := x.intf + y.intf, hearth := x.hearth + y.hearth,
    mem := x.mem + y.mem, link := x.link + y.link }

/-- A counter rises by an amount. -/
def raiseBy (p : Part) (m : Mach) (n a : Nat) : Mach := if n = 0 then m else bump p m a n

/-- A context's charges of a cycle: its counters of R409 count them, and the tick sums them for R408 and R410. -/
def chargeTo (p : Part) (m : Mach) (c : Nat) (x : Charges) : Mach :=
  let m := { m with run := { m.run with charges := Assoc.set m.run.charges c ((Assoc.get {} m.run.charges c).add x) } }
  let m := raiseBy p (raiseBy p m x.run (Reg.ctxRunCyc c)) x.intf (Reg.ctxIntfCyc c)
  raiseBy p (raiseBy p (raiseBy p m x.hearth (Reg.ctxIntfHearthCyc c)) x.mem (Reg.ctxIntfMemCyc c)) x.link (Reg.ctxIntfLinkCyc c)

/-- The cycle in progress is charged (R408, R409). -/
def chargeCycle (p : Part) (m : Mach) : Mach :=
  let atWork := unitsAtWork m
  let want := wanted p m
  let m' := { m with run := { m.run with carried := [] } }
  (List.range 8).foldl (fun m' c => chargeTo p m' c (chargeCtx p m atWork want c)) m'

/-- Items whose sub-unit has done with them are off their hearths, and those of a retired hearth find another (R455). -/
def endItems (p : Part) (m : Mach) : Mach := seatMoved p (unplace m fun x => !stillPlaced m x)

end Sys2Proof.Machine
end

