-- ==== Sys2Proof/Machine/Idle.lean ====
section
/-! DEFINITION. One core cycle with no command waiting: engine time advances (R431), what the engine does of its
own goes on, and the counters of waiting cycles count (R170, R183, R242). -/

namespace Sys2Proof.Machine

/-- The rate term r of R431 in ppb: the trim and the terms of R435; at the master the trim alone, and none where it
follows ref_clk (R432). -/
def timeRate (p : Part) (m : Mach) : Int :=
  if isMaster p m then (if rdB p m Reg.tickCtrl 3 then 0 else rateTrim p m) else rateTrim p m + m.tick.freq + m.tick.slew

/-- Engine time and the cycle count advance by one core cycle while the core runs (R431, R487, R494): by (10⁹ + r) / F femtoseconds,
the remainder kept. -/
def tickOn (p : Part) (m : Mach) : Mach :=
  if coreRuns m then
    let f := max 1 (coreMhz p m)
    let n := m.tick.frac + (1000000000 + timeRate p m).toNat
    { m with tick := { m.tick with time := m.tick.time + (n / f : Nat), frac := n % f, cycle := m.tick.cycle + 1 } }
  else m

/-! ### Counters of waiting cycles -/

/-- A head billet of the context's running step waits with no usable credit (R170). -/
def creditWaits (m : Mach) (c : Nat) : Bool :=
  match liveStep m with
  | some s => s.ctx == c && s.phases.any fun (layer, x) =>
      (x.sendQ.map fun b => b.dest).eraseDups.any fun d =>
        match headBillet x d with
        | some b => (bestCredit (ctxOf m c) (keyOf s layer) d b.cls).isNone
        | none => false
  | none => false

/-- A bound inbound slot of the port has no credit outstanding to the host. -/
def holdsIn (x : StrmPort) : Bool :=
  (List.range 4).any fun k => let s := Assoc.get {} x.slots k; bitOf s.bind 7 && s.credit == 0

/-- An outbound slot of the port has a beat ready and no credit. -/
def holdsOut (x : StrmPort) : Bool :=
  (List.range 4).any fun k => let s := Assoc.get {} x.slots (4 + k); !s.out.isEmpty && s.credit == 0

/-- A counter rises by one where a condition holds. -/
def countIf (p : Part) (m : Mach) (b : Bool) (a : Nat) : Mach := if b then bump p m a 1 else m

/-- A token record of the context holds the host off for want of stage buffers (R559). -/
def stageWaits (p : Part) (m : Mach) (c : Nat) : Bool :=
  (List.range (streamCount p.conf)).any fun q => [0, 1, 2, 3].any fun k => match headRec (slotAt m q k) with
    | some r => r.ctx == c && r.held != 0 && r.kind == chToken && laneTakes m c r.kind r.header && (readyToDrain p m r).isNone
    | none => false

/-- A token of the PACK lane waits for a home, loopback or return staging buffer. -/
def packPoolWaits (p : Part) (m : Mach) (s : StepRun) : Bool :=
  let layer := (laneOf s lanePack).layer
  match boundTmpl s lanePack layer with
  | some l => laneOpenAt s lanePack layer && (phaseOf s layer).toks.any fun t =>
      t.decided && t.final && !t.packed && !t.failed && liveRanks t != [] && match t.landed with
        | some (header, area) => (encodeToken p m s layer l t header area).isNone
        | none => false
  | none => false

/-- An expert output record waits for an encode buffer. -/
def takePoolWaits (p : Part) (m : Mach) (c : Nat) : Bool :=
  (List.range (streamCount p.conf)).any fun q => [0, 1, 2, 3].any fun k => match takeable p m q k chExpout with
    | some (s, r, l) => s.ctx == c && r.fail.isNone && r.code == 0 && takeReason (phaseOf s (headLayer chExpout r.header)) l r.header == 0 &&
        (allocBuf p m c 2 .take).isNone
    | none => false

/-- Admission credit that the context owes a node waits for buffers (R107). -/
def grantWaits (p : Part) (m : Mach) (s : StepRun) : Bool :=
  s.phases.any fun (layer, x) => x.admitBound && match boundTmpl s laneScore layer with
    | some l => l.nodes.any fun n => n != nodeId p m &&
        decide (Assoc.get 0 x.admitGranted n < rdF p m (Reg.ctxAdmitCtrl s.ctx) 31 24)
    | none => false

/-- A layout operation waits for its staging buffers. -/
def layoutWaits (p : Part) (m : Mach) (o : OpCtx) : Bool :=
  [opXform, opGather, opScatter].contains o.opc && o.stage == 1 && !txnsOut m o.useR && match opParts m o with
    | some (_, _, _, idx) => (allocAll p o.ctx .cmd (List.replicate (stageBuffers o (shapeOf o) idx) 7) m).isNone
    | none => false

/-- An allocation of the context waits (R230, R232). -/
def poolWaits (p : Part) (m : Mach) (c : Nat) : Bool :=
  !(ctxOf m c).asks.isEmpty || stageWaits p m c || takePoolWaits p m c ||
  (liveStep m).any (fun s => s.ctx == c && (packPoolWaits p m s || grantWaits p m s ||
    s.xfers.any fun x => x.outcome.isNone && layoutWaits p m (opOfLane c x))) ||
  (runningOf m c).any fun r => layoutWaits p m (opOfCmd m r)

/-- The waiting cycles of a context: for credit, and of its allocations. -/
def countCtx (p : Part) (m : Mach) (c : Nat) : Mach :=
  countIf p (countIf p m (creditWaits m c) (Reg.ctxCreditWaitCyc c)) (poolWaits p m c) (Reg.ctxPoolWaitCyc c)

/-- The held cycles of a stream port. -/
def countPort (p : Part) (m : Mach) (q : Nat) : Mach :=
  let x := strmOf m q
  if x.retired then m
  else countIf p (countIf p m (holdsIn x) (Reg.strmHoldInCyc q)) (holdsOut x) (Reg.strmHoldOutCyc q)

/-- Every counter of waiting cycles. -/
def countWaits (p : Part) (m : Mach) : Mach :=
  (List.range (streamCount p.conf)).foldl (countPort p) ((residents m).foldl (countCtx p) m)

/-! ### What goes on of its own -/

/-- Waiting work goes as far as it can: flits of VC3 in the input buffers, transactions, management packets, the teardown of a context with an item
that failed with ERR_INTERNAL, a stopped tick's steps and tables, a
commit that waits, ASKs, billets, an auto-swap, the condition of R428. -/
def pumpAll (p : Part) (m : Mach) : Mach :=
  let m := (residents m).foldl (settleInternal p) (takeMgmt p (issueWaiting p (settleRetire p (leaveBuffers p m))))
  let m := retryCommit p (settleStopped p m)
  let m := (residents m).foldl (pumpAsks p) m
  let m := pumpGrants p ((residents m).foldl (pumpSend p) m)
  let m := drainAllOut p (drainAllIn p (codesGrow p m))
  seekSwap p (advanceSwap p m)

/-- The sequencer's cycle, unless a debugger has halted it (R487). -/
def sequence (p : Part) (m : Mach) : Mach := if mayStep m then stepped (fetchBundle p m) else m

/-- One core cycle. -/
def idleCycle (p : Part) (m : Mach) : Mach :=
  let m := if engineUp m && !isFatal p m then chargeCycle p m else m
  let m := finishZeroise p (endActions p (endItems p (tickOn p m)))
  if engineUp m && !isFatal p m then countWaits p (sequence p (pumpAll p m)) else m

end Sys2Proof.Machine
end

