-- ==== Sys2Proof/Machine/Step.lean ====
section
/-! DEFINITION. One step of the machine: the command at the front of the queue is carried out; with
no command waiting the engine runs one core cycle. -/

namespace Sys2Proof.Machine

/-- One step (DESIGN CHOICE, notes/assumptions: an empty queue is one core cycle). -/
def step (s : State) : Host.Outcome State Fault Refusal :=
  match s.pending with
  | c :: rest => exec c { s with pending := rest }
  | [] => .next { s with m := idleCycle s.part s.m }

/-- The state with a table word's command put in front; the table gives no row bits, so there is
none and the state stays. -/
def State.withFetchWord (s : State) (_nbits _w : Nat) : State := s

end Sys2Proof.Machine
end

