-- ==== Sys2Proof/WellFormed.lean ====
section
/-! DEFINITION. Which commands name something the register space and the ports can carry: windows,
window words, register addresses, streams, links, contexts and byte enables within their widths. -/

namespace Sys2Proof

/-- A command window: 0 to 7 are the contexts', 8 is CMD (R376). -/
def winOk (w : Nat) : Bool := decide (w ≤ 8)

/-- A register address: 20 bits, on an 8-byte boundary (R522). -/
def addrOk (a : Nat) : Bool := decide (a < 2 ^ 20) && a % 8 == 0

/-- The operation reference names a window or a template index of 14 bits. -/
def opRefOk : OpRef → Bool
  | .cmd w seq => winOk w && decide (seq < 2 ^ 32)
  | .lane t => decide (t < 2 ^ 14)

/-- A finding of a kiln line within the kiln, of a word, and none of another store; `line` and `word` say which
the row reads. -/
def StoreRead.ok (line word : Bool) : StoreRead → Bool
  | .clean => true
  | .line n _ => line && decide (n < 2 ^ 20)
  | .word n _ => word && decide (n < 2 ^ 32)
  | .filter | .control => false

/-- The command's operands lie within their widths. -/
def Instr.wf : Instr → Bool
  | .registerWrite src a _ _ read => addrOk a && (!read || src == .host)
  | .rwsWrite _ a _ | .regionEntryWrite _ a _ | .keygen _ a _
  | .wrapReg _ a _ _ => addrOk a
  | .commandStage _ w k _ => winOk w && decide (k < 7)
  | .commandSubmit _ w _ | .cmdSeqWrite _ w _ => winOk w
  | .commandStart q f => decide (q ≤ 4) && (f == .control || f.ok true false)
  | .queueSpill q _ | .queueFill q => decide (q ≤ 4)
  | .completionWrite r | .ringTailWrite _ r _ | .ringWrite _ r _ => decide (r ≤ 8)
  | .stepRun w q | .layerRun w q | .groupForm w q | .groupReform w q | .fence w q
  | .subscribe w q | .publishInval w q | .ownAcquire w q | .ownRelease w q | .tableLoad w q
  | .tableLoadRoute w q | .progLoad w q | .biasUpdate w q | .hint w q
  | .eventWait w q | .ctxRestore w q | .ctxKill w q
  | .queueFlush w q | .bistRunHearth w q | .bistRunKiln w q | .calMeasure w q | .logSnapshot w q
  | .nop w q => winOk w && decide (q < 2 ^ 32)
  | .eventSignal w q f | .semAcq w q f | .semRel w q f => winOk w && decide (q < 2 ^ 32) && f.ok false true
  | .fabBatch w q f | .ctxSave w q f => winOk w && decide (q < 2 ^ 32) && f.ok true false
  | .linkFlitSlot l f => decide (l < 36) && f.ok true false
  | .bundleComplete f => f.ok true false
  | .billetReceive _ f => f.ok false true
  | .transitFlit l _ f => decide (l < 36) && f.ok true true
  | .fabWrite f | .fabRead f => f == .filter || f.ok false true
  | .fabAtomic f => f == .filter || f.ok true true
  | .collBarrier o => opRefOk o
  | .collA2a o f | .collA2av o f | .collReduce o f | .xform o f | .gather o f | .scatter o f => opRefOk o && f.ok true false
  | .ctxSaveDrainEnd c | .seedDraw _ c _ | .ctlWrite _ c _ | .faultClr _ c _
  | .fabIringTailWrite _ c _ | .replayTailWrite _ c _ => decide (c < 8)
  | .scoreRecord q s f => decide (q < 8) && decide (s < 8) && f.ok true false
  | .eobMarker q s | .tokenRecord q s | .expertOutputRecord q s
  | .hostCreditReturn q s | .inboundBeat q s _ _ _ _ => decide (q < 8) && decide (s < 8)
  | .combOutAccepted q => decide (q < 8)
  | .linkEnable _ l _ | .linkRetrainRequest _ l _ | .phyLock l | .plAdaptAck l _
  | .laneAligned l _ _ | .trainingTimeout l | .replayTimeout l | .vc0Token l
  | .salvageDrop l | .dlyProbe l | .readyFlitSent l => decide (l < 36)
  | .phyLockLoss l n _ => decide (l < 36) && decide (n < 2)
  | .tsFlitReceive l n _ | .flitReceive l n _ => decide (l < 36) && decide (n < 8)
  | .retireReq _ g _ | .quiesce _ g _ | .softReset _ g _ | .evtForce _ g _ => decide (g < 256)
  | .scrubRead n _ => decide (n < 2 ^ 20)
  | .hearthFault h _ t _ => decide (h < 16) && decide (0 < t)
  | .bistTestEnd _ u _ => decide (u < 32)
  | .tempSample s _ => decide (s < 4)
  | .droop n => decide (n < 4)
  | .lcScrap c => decide (c < 2 ^ 16)
  | .dbgReq _ v => decide (v < 4)
  | .powerAck v => decide (v < 4)
  | .askReceive | .kindleReceive | .grantReceive => true
  | .rickRowDeliver s _ | .rickEnd s => decide (s < 256)
  | .e2eTimeout d v f => decide (d < 4096) && decide (v < 6) && decide (f < 2 ^ 32)
  | .reassemblyTimeout d v t => decide (d < 4096) && decide (v < 6) && decide (t < 2 ^ 16)
  | .closeMarkerSend d | .ask d | .lockoutHoldEnd d => decide (d < 4096)
  | .powerOnReset _ _ _ | .warmReset _ _ | .resetCtrlWarm _ _ | .coreFreqWrite _ _ | .hostKick _ _
  | .hostLost | .evtValWrite _ _ | .tickEdge | .perfSnap _ _ | .slipRequest
  | .stretchLimitExpiry | .entropyWord _ | .entropyStall | .swapAdvice | .admitFlitReceive _
  | .admitVerdicts _ | .agrantReceive | .packEncode _ | .closeMarkerReceive _
  | .returnTileReceive _ _ | .meldFold _ _ _ _ | .kvMerge _ _ _ _ | .memoryResponse _ _ _
  | .memoryTimeout _ | .linkDown | .e2eAck | .dlyProbeReceive | .dlyEcho | .mgRegRead _ | .mgRegWrite _
  | .mgCmd _ | .mgAttest _ | .mgResp _ | .tickRecord | .tickSync | .tickLost | .refPps | .tickRun _ _
  | .slipReq | .barArrive | .barRelease | .barrierRelease _ | .stepAbort | .collAbort | .collStall _
  | .collDefer _ | .join _ | .treeSet _ | .treeAck _ | .treeFree _ | .a2aData _ | .a2avCounts _ | .redUp _ | .redDown _
  | .ringRs _ | .ringAg _ | .sub _ | .pub _ | .inval _ | .ownReq _ | .ownRel _
  | .ownGrant _ | .resp | .lockClr _ _ | .duxForce _ _ | .kilnSpareCopyEnd _ | .ashLogWrite | .logClear _ _
  | .droopEnd | .lcAdvance _ _ | .lcBurnDone | .keyCommit _ _ | .dbgMemAccess _ _ | .attestGo _ _
  | .powerReqBanked _ _ | .powerReqCold _ _ | .powerReqLit _ _ | .powerRemoved | .zeroFail _ => true

end Sys2Proof
end

