-- ==== Sys2Proof/Certificates/Slice0/Obligations.lean ====
section
/-! DEFINITION. The statements about the block, for the provers. `Gives` and `GivesPart` say that a
command answers a next state and what that state is; since they give the whole state, they say as well
what the command leaves as it was: every field that the machine named does not change, the queue of
waiting commands, and (for `Gives`) the part. `GivesW` and `GivesPartW` say the same of register writes. -/

namespace Sys2Proof.Machine

/-- Carried out in s, the command answers the next state that differs from s in its machine alone, which is m. -/
def Gives (c : Instr) (s : State) (m : Mach) : Prop := exec c s = .next { s with m := m }

/-- As `Gives`, with the part p. -/
def GivesPart (c : Instr) (s : State) (p : Part) (m : Mach) : Prop := exec c s = .next { s with part := p, m := m }

/-- A register's write reaches the register (R494, R504, R524, R531, R538). -/
abbrev Reaches (s : State) (src : Src) (addr : Nat) : Prop := writeGate s.part s.m src addr = .pass

/-- As `Gives`, for a register write: m is what the write leaves, and where the source is the host the register port
answers it as well (R547). -/
def GivesW (src : Src) (c : Instr) (s : State) (m : Mach) : Prop := Gives c s (responded s.m src none m)

/-- As `GivesW`, with the part p. -/
def GivesPartW (src : Src) (c : Instr) (s : State) (p : Part) (m : Mach) : Prop :=
  GivesPart c s p (responded s.m src none m)

/-- A write ignored by a rule of its register: nothing but ACC_ERR and the event bit of R532 changes, and the register
port answers it (R547). -/
def Refuses (c : Instr) (s : State) (src : Src) (addr : Nat) : Prop :=
  GivesW src c s (ignored s.part s.m src addr)

/-- As `Gives`, for an item that waits while another goes first: for a sub-unit of a hearth (R11, R406), or for the one
allocation that a buffer class makes in a cycle (R230). Waiting, it leaves the state as it is. -/
def GivesInTurn (c : Instr) (s : State) (m : Mach) : Prop :=
  (goesNow s.part s.m m = true → Gives c s m) ∧ (goesNow s.part s.m m = false → exec c s = .next s)

/-- As `Gives`, for an event of a link: it acts while the links run (R476, R487, R491, R504) and else leaves the state as
it is. -/
def GivesLinked (c : Instr) (s : State) (m : Mach) : Prop :=
  (linksUp s.m = true → Gives c s m) ∧ (linksUp s.m = false → exec c s = .next s)

/-- The register commands: a write that each of them is, by source and address. -/
def regTarget : Instr → Option (Src × Nat)
  | .resetCtrlWarm src _ => some (src, Reg.glbResetCtrl)
  | .coreFreqWrite src _ => some (src, Reg.glbCoreFreq)
  | .hostKick src _ => some (src, Reg.glbHostKick)
  | .registerWrite src addr _ _ _ => some (src, alignAddr addr)
  | .rwsWrite src addr _ => some (src, alignAddr addr)
  | .commandStage src w k _ => some (src, winAddr w k)
  | .commandSubmit src w _ => some (src, winAddr w 7)
  | .cmdSeqWrite src w _ => some (src, winSeq w)
  | .evtValWrite src _ => some (src, Reg.cmdEvtVal)
  | .ringTailWrite src r _ => some (src, Reg.cplRingTail r)
  | .perfSnap src _ => some (src, Reg.perfPerfCtrl)
  | .seedDraw src c _ => some (src, Reg.ctxSeedCtrl c)
  | .ctlWrite src c _ => some (src, Reg.ctxCtl c)
  | .faultClr src c _ => some (src, Reg.ctxCtl c)
  | .ringWrite src r _ => some (src, Reg.kilnRing r)
  | .linkEnable src l _ => some (src, Reg.pageCtrl (Reg.linkPage l))
  | .linkRetrainRequest src l _ => some (src, Reg.linkCtrl l)
  | .retireReq src g _ => some (src, Reg.pageCtrl g)
  | .quiesce src g _ => some (src, Reg.pageCtrl g)
  | .softReset src g _ => some (src, Reg.pageCtrl g)
  | .evtForce src g _ => some (src, Reg.evtForce g)
  | .tickRun src _ => some (src, Reg.tickCtrl)
  | .lockClr src _ => some (src, Reg.fabLockClr)
  | .duxForce src _ => some (src, Reg.fabDuxForce)
  | .regionEntryWrite src addr _ => some (src, addr)
  | .keygen src addr _ => some (src, addr)
  | .fabIringTailWrite src c _ => some (src, Reg.ctxFabIringTail c)
  | .logClear src _ => some (src, Reg.logCtrl)
  | .lcAdvance src _ => some (src, Reg.lcsAdvance)
  | .keyCommit src _ => some (src, Reg.lcsKeyCommit)
  | .dbgMemAccess src _ => some (src, Reg.dbgMemCtrl)
  | .attestGo src _ => some (src, Reg.secAttestCtrl)
  | .powerReqBanked src _ => some (src, Reg.pwrCtrl)
  | .powerReqCold src _ => some (src, Reg.pwrCtrl)
  | .powerReqLit src _ => some (src, Reg.pwrCtrl)
  | .replayTailWrite src c _ => some (src, Reg.ctxReplayTail c)
  | _ => none

/-- The commands that carry a running command record on: its window and host sequence number. -/
def recordRow : Instr → Bool
  | .stepRun _ _ | .layerRun _ _ | .groupForm _ _ | .groupReform _ _ | .fabBatch _ _ _ | .fence _ _
  | .subscribe _ _ | .publishInval _ _ | .ownAcquire _ _ | .ownRelease _ _ | .tableLoad _ _
  | .tableLoadRoute _ _ | .progLoad _ _ | .biasUpdate _ _ | .hint _ _ | .eventSignal _ _ _
  | .eventWait _ _ | .semAcq _ _ _ | .semRel _ _ _ | .ctxSave _ _ _ | .ctxRestore _ _ | .ctxKill _ _
  | .queueFlush _ _ | .bistRunHearth _ _ | .bistRunKiln _ _ | .calMeasure _ _ | .logSnapshot _ _
  | .nop _ _ | .completionWrite _ => true
  | _ => false

end Sys2Proof.Machine

open Sys2Proof Sys2Proof.Machine

/-! ### The block as a whole -/

/-- A step with a command at the front of the queue is that command's meaning over the queue's rest. -/
def Obligations.StepRunsFront : Prop :=
  ∀ (c : Instr) (rest : List Instr) (s : State),
    s.pending = c :: rest → step s = exec c { s with pending := rest }

/-- With no command waiting a step is one core cycle (the model's choice, notes/assumptions/1.md); in a machine
halted by FATAL whose core runs, with no item on a hearth and no action of the security unit or the DBG window under
way, the cycle moves engine time alone, by (10⁹ + r) / F femtoseconds with the remainder kept (R431). -/
def Obligations.IdleStepIsOneCycle : Prop :=
  ∀ s : State, s.pending = [] →
    step s = .next { s with m := idleCycle s.part s.m } ∧
    (coreRuns s.m = true → s.m.sec.zeroing = none → isFatal s.part s.m = true → s.m.run.placed = [] →
      s.m.sec.memRead = false → s.m.sec.memWrite = false → s.m.sec.memHeld = false → s.m.sec.attest = none →
      idleCycle s.part s.m = { s.m with tick := { s.m.tick with
        time := s.m.tick.time
          + ((s.m.tick.frac + (1000000000 + timeRate s.part s.m).toNat) / max 1 (coreMhz s.part s.m) : Nat)
        frac := (s.m.tick.frac + (1000000000 + timeRate s.part s.m).toNat) % max 1 (coreMhz s.part s.m)
        cycle := s.m.tick.cycle + 1 } })

/-- The canonical form of what is kept as tables: the memories list their bytes by rising address and none that reads 0,
and the registers theirs by rising address and none at its reset value. -/
def Canonical (s : State) : Prop :=
  Memory.wf s.m.mem.host = true ∧ Memory.wf s.m.mem.kiln = true ∧ Memory.wf s.m.mem.ember = true ∧
  Sparse.wf (regReset s.part.conf s.part.relay) s.m.regs = true

/-- The state after reset: no command waits, no fuse is blown, BOOT_STAT shows a completed power-on sequence and
the log its RESET entry; every other register holds its reset value, every byte of every memory reads 0, no link is
enabled, no context resident, nothing runs. That host memory reads 0 is the model's choice (notes/assumptions/4.md), and so
is the part (configuration, straps, fuses; notes/assumptions/2.md). -/
def Obligations.ResetLeaves : Prop :=
  State.reset.pending = [] ∧ State.reset.part.fuses = [] ∧
  rd State.reset.part State.reset.m Reg.glbBootStat = 0x0100000000000601 ∧
  rd State.reset.part State.reset.m Reg.logHead = 1 ∧
  Assoc.find? State.reset.m.log.slots 0 = some resetEntry ∧
  (∀ a, a ≠ Reg.glbBootStat → a ≠ Reg.logHead →
    rd State.reset.part State.reset.m a = regReset State.reset.part.conf State.reset.part.relay a) ∧
  (∀ a, byteAt State.reset.m.mem.host a = 0 ∧ byteAt State.reset.m.mem.kiln a = 0 ∧
    byteAt State.reset.m.mem.ember a = 0) ∧ Canonical State.reset ∧
  (∀ l, (linkOf State.reset.m l).phase = .disabled) ∧ residents State.reset.m = [] ∧
  State.reset.m.run.step = none ∧ State.reset.m.cmd.running = [] ∧ State.reset.m.cmd.queues = []

/-- Every command answers a next state that leaves the waiting commands alone, but SCRUB_READ of a kiln line that
the configuration does not have, which faults (the model's choice, notes/assumptions/95.md); SCRUB_READ of one that
exists answers. -/
def Obligations.CommandsAnswer : Prop :=
  (∀ (c : Instr) (s : State), (∀ line f, c ≠ .scrubRead line f) →
    ∃ t, exec c s = .next t ∧ t.pending = s.pending) ∧
  (∀ (line : Nat) (f : ReadFinding) (s : State), line < kilnLines s.part →
    ∃ t, exec (.scrubRead line f) s = .next t ∧ t.pending = s.pending) ∧
  (∀ (line : Nat) (f : ReadFinding) (s : State), kilnLines s.part ≤ line →
    exec (.scrubRead line f) s = .fault .kilnNoSuchLine)

/-- What a part keeps of the fuses of another: a blown bit stays blown; the words of a key once fused (1 to 8, and its
parity in 9) stay as they are; the words above 9, calibration and repair among them, never change. -/
def fusesKept (f g : Part) : Prop :=
  (∀ w b, (fuseWord f w).getLsbD b = true → (fuseWord g w).getLsbD b = true) ∧
  (keyFused f = true → ∀ w, 1 ≤ w → w ≤ 9 → fuseWord g w = fuseWord f w) ∧
  (∀ w, 9 < w → fuseWord g w = fuseWord f w)

/-- Fuses only blow: whatever a step does, in every state, what the fuses held they keep holding. -/
def Obligations.FusesOnlyBlow : Prop :=
  ∀ (F : Part) (s t : State), fusesKept F s.part → step s = .next t → fusesKept F t.part

/-- What the part is never changes, and its straps only at POWER_ON_RESET, which samples them. -/
def Obligations.PartAndStrapsStay : Prop :=
  ∀ s t : State, step s = .next t →
    t.part.conf = s.part.conf ∧ t.part.stepping = s.part.stepping ∧
    ((∀ r f g rest, s.pending ≠ .powerOnReset r f g :: rest) →
      t.part.relay = s.part.relay ∧ t.part.tref = s.part.tref) ∧
    (∀ r f g rest, s.pending = .powerOnReset r f g :: rest → t.part.relay = r ∧ t.part.tref = f)

/-- While the engine is halted by FATAL, or does not run (a reset sequence, SCAN, zeroisation, a power state other
than Lit), no command record goes on and no completion record is written. -/
def Obligations.HaltedCommandsStay : Prop :=
  ∀ (c : Instr) (s : State), recordRow c = true →
    (isFatal s.part s.m = true ∨ engineUp s.m = false) → exec c s = .next s

/-- Until BOOT_STAT.DONE a register write changes no register but ACC_ERR and GLB EVT_STAT, where R532 records it, and
nothing else of the machine but the port's response; while the part is held in reset or without power it leaves no
trace at all (the model's choice, notes/assumptions/26.md and notes/assumptions/52.md). -/
def Obligations.ClosedPortIgnoresWrites : Prop :=
  (∀ (c : Instr) (s : State) (src : Src) (a : Nat), regTarget c = some (src, a) →
    s.m.sec.booted = false → ∃ t, exec c s = .next t ∧ t.part = s.part ∧ t.pending = s.pending ∧
      t.m = { s.m with regs := t.m.regs, out := t.m.out } ∧
      ∀ b, b ≠ Reg.glbAccErr → b ≠ Reg.evtStat Reg.glbPage → rd t.part t.m b = rd s.part s.m b) ∧
  (∀ (c : Instr) (s : State) (src : Src) (a : Nat), regTarget c = some (src, a) →
    s.m.sec.held = true ∨ s.m.sec.power = .off → exec c s = .next s)

/-- No port can read the identity key: what a register reads as, from any source in any state, is the same whatever
the fuse words of the key and of its parity hold. -/
def Obligations.NoReadShowsKey : Prop :=
  ∀ (p : Part) (f : Assoc (BitVec 32)) (m : Mach) (src : Src) (addr : Nat),
    (∀ w, w = 0 ∨ 9 < w → fuseWord { p with fuses := f } w = fuseWord p w) →
    readReg { p with fuses := f } m src addr = readReg p m src addr

/-- An event of severity TRANSIENT or higher leaves its entry's 32 bytes in ERR_CAP0 to ERR_CAP3 of its page,
eight bytes each, whatever the log does with the entry. -/
def Obligations.ErrCapHoldsLatestFault : Prop :=
  ∀ (p : Part) (m : Mach) (r : Report) (k : Nat), k < 4 → 2 ≤ r.sev.code →
    rd p (report p m r) (Reg.errCap0 r.page + 8 * k)
      = wordOf (bitsOf (entryOf p m r) (64 * k + 63) (64 * k))

/-- Memory operations: bytes written are read back and every other byte stays; a range cleared reads 0 and every
byte outside it stays. -/
def Obligations.MemoryReadsBack : Prop :=
  ∀ (mem : List Host.Cell) (a : Nat) (bs : List Byte),
    (∀ i, i < bs.length → byteAt (writeBytes mem a bs) (a + i) = bs.getD i 0) ∧
    (∀ x, x < a ∨ a + bs.length ≤ x → byteAt (writeBytes mem a bs) x = byteAt mem x) ∧
    (∀ n, (∀ x, a ≤ x → x < a + n → byteAt (clearBytes mem a n) x = 0) ∧
      (∀ x, x < a ∨ a + n ≤ x → byteAt (clearBytes mem a n) x = byteAt mem x))

/-! ### Frames -/

/-- The commands that settle events and semaphores where their read of the counter or semaphore is clean, and NOP.
What they do where it is not, EventsAndSemaphoresAnswer says. -/
def signalRow : Instr → Bool
  | .nop _ _ | .eventSignal _ _ .clean | .eventWait _ _ | .semAcq _ _ .clean | .semRel _ _ .clean => true
  | _ => false

/-- NOP, EVENT_SIGNAL, EVENT_WAIT, SEM_ACQ and SEM_REL, their reads clean, change the command side (running commands, event counters,
completion holds), semaphores and the memory transactions of the commands that end with their tags, and nothing else: no
register, no memory, no queue, and of a context nothing but its semaphores. -/
def Obligations.SignalRowsFrame : Prop :=
  ∀ (c : Instr) (s t : State), signalRow c = true → exec c s = .next t →
    t.part = s.part ∧ t.pending = s.pending ∧
    t.m = { s.m with
      cmd := { s.m.cmd with running := t.m.cmd.running, events := t.m.cmd.events, holds := t.m.cmd.holds }
      mem := { s.m.mem with txns := t.m.mem.txns, waiting := t.m.mem.waiting, ports := t.m.mem.ports }
      run := { s.m.run with ctxs := t.m.run.ctxs } } ∧
    (∀ n, { ctxOf t.m n with sems := (ctxOf s.m n).sems } = ctxOf s.m n)

/-- The registers that a register command of this list may change beside ACC_ERR and GLB EVT_STAT. -/
def regRowWrites : Instr → Option (List Nat)
  | .resetCtrlWarm _ _ | .hostKick _ _ => some []
  | .coreFreqWrite _ _ => some [Reg.glbCoreFreq]
  | .cmdSeqWrite _ w _ => some [winSeq w]
  | .commandStage _ _ _ _ => some []
  | .evtForce _ g _ => some [Reg.evtStat g]
  | .logClear _ _ => some [Reg.logCtrl, Reg.logTail, Reg.logLost]
  | .lockClr _ _ => some []
  | .lcAdvance _ _ => some [Reg.evtStat Reg.lcsPage]
  | .tempSample n _ => some [Reg.caluTemp n]
  | .droop _ => some [Reg.evtStat Reg.pwrPage]
  | .refPps => some [Reg.tickPpsTime]
  | .entropyStall => some [Reg.evtStat Reg.secPage]
  | _ => none

/-- Register commands write the registers named for each and no other, and answer the port as R547 says; they change
nothing else of the machine than a window's staged doublewords, the locked table, and of the security state the reset that
is due, the burn, the droop and the watchdog's kick. The part stays. -/
def Obligations.RegisterRowsFrame : Prop :=
  ∀ (c : Instr) (s t : State) (ws : List Nat), regRowWrites c = some ws → exec c s = .next t →
    t.part = s.part ∧ t.pending = s.pending ∧
    (∀ a, a ≠ Reg.glbAccErr → a ≠ Reg.evtStat Reg.glbPage → a ∉ ws → rd t.part t.m a = rd s.part s.m a) ∧
    t.m = { s.m with
      regs := t.m.regs
      cmd := { s.m.cmd with windows := t.m.cmd.windows }
      fab := { s.m.fab with locks := t.m.fab.locks }
      sec := { s.m.sec with warmDue := t.m.sec.warmDue, burning := t.m.sec.burning, droop := t.m.sec.droop,
                            kicked := t.m.sec.kicked }
      out := ((regTarget c).elim s.m fun q => responded s.m q.1 none s.m).out }

/-! ### Register rules -/

/-- The two commands that write a whole register of any address. -/
def wholeWrites (src : Src) (addr : Nat) (v : Word) : List Instr :=
  [.registerWrite src addr 0xFF v, .rwsWrite src addr v]

/-- A write of CORE_FREQ outside 600 to 1,100 MHz, or while the tick runs, is ignored; any other sets the field,
and engine time advances by that frequency from the next cycle (R431). -/
def Obligations.CoreFreqTakesRange : Prop :=
  ∀ (s : State) (src : Src) (v : Word), Reaches s src Reg.glbCoreFreq →
    ((bitsOf v 10 0 < 600 ∨ 1100 < bitsOf v 10 0 ∨ tickRuns s.part s.m = true) →
      Refuses (.coreFreqWrite src v) s src Reg.glbCoreFreq) ∧
    (600 ≤ bitsOf v 10 0 → bitsOf v 10 0 ≤ 1100 → tickRuns s.part s.m = false →
      GivesW src (.coreFreqWrite src v) s (wr s.part s.m Reg.glbCoreFreq (wordOf (bitsOf v 10 0))) ∧
      coreMhz s.part (wr s.part s.m Reg.glbCoreFreq (wordOf (bitsOf v 10 0))) = bitsOf v 10 0)

/-- EXMAP.CELL.SHIFT above 12 is ignored and keeps its value; it resets to 4, so that nodes 16c to 16c + 15 share
cell c; a value of at most 12 goes to the shadow while the tick runs and takes effect at once otherwise. -/
def Obligations.CellShiftTakesUpTo12 : Prop :=
  (∀ (s : State) (src : Src) (v : Word), Reaches s src Reg.exmapCell →
    (12 < bitsOf v 3 0 → ∀ c ∈ wholeWrites src Reg.exmapCell v,
      Refuses c s src Reg.exmapCell ∧
      rd s.part (ignored s.part s.m src Reg.exmapCell) Reg.exmapCell = rd s.part s.m Reg.exmapCell) ∧
    (bitsOf v 3 0 ≤ 12 → ∀ c ∈ wholeWrites src Reg.exmapCell v,
      GivesW src c s (if tickRuns s.part s.m then
          { s.m with
            shadow := Assoc.set s.m.shadow Reg.exmapCell (shadowWritten s.m Reg.exmapCell (v &&& 0xF)) }
        else wr s.part s.m Reg.exmapCell ((rd s.part s.m Reg.exmapCell &&& ~~~0xF) ||| (v &&& 0xF))))) ∧
  rd State.reset.part State.reset.m Reg.exmapCell = 4 ∧
  (∀ node c : Nat, node >>> 4 = c ↔ 16 * c ≤ node ∧ node ≤ 16 * c + 15)

/-- ADMIT_CTRL with BATCH_MAX above 65,536 or ADMIT_CRED 0 is ignored and keeps its value. -/
def Obligations.AdmitCtrlTakesRange : Prop :=
  ∀ (s : State) (src : Src) (c : Nat) (v : Word), c < 8 → Reaches s src (Reg.ctxAdmitCtrl c) →
    (65536 < bitsOf v 16 0 ∨ bitsOf v 31 24 = 0) → ∀ i ∈ wholeWrites src (Reg.ctxAdmitCtrl c) v,
      Refuses i s src (Reg.ctxAdmitCtrl c) ∧
      rd s.part (ignored s.part s.m src (Reg.ctxAdmitCtrl c)) (Reg.ctxAdmitCtrl c)
        = rd s.part s.m (Reg.ctxAdmitCtrl c)

/-- The tick registers' refusals: CTRL that changes MASTER, UPLINK, ALT_UPLINK or ALT_EN while the tick runs, that
sets REF_EN without the strap, or with SYNC_US below 8; PERIOD outside its range; STEP and MASTER_ID while the
tick runs; SLIP with QUANTUM_NS below 64 or LIMIT 0; BARRIER with LEAD_10NS 0. A refused write leaves every
register but ACC_ERR and GLB EVT_STAT as it was. -/
def Obligations.TickRegistersRefuse : Prop :=
  (∀ (s : State) (src : Src) (v : Word),
    (Reaches s src Reg.tickCtrl →
      ((tickRuns s.part s.m = true ∧
          (bitsOf v 2 2 ≠ rdF s.part s.m Reg.tickCtrl 2 2 ∨ bitsOf v 15 10 ≠ rdF s.part s.m Reg.tickCtrl 15 10 ∨
           bitsOf v 23 18 ≠ rdF s.part s.m Reg.tickCtrl 23 18 ∨ bitsOf v 17 17 ≠ rdF s.part s.m Reg.tickCtrl 17 17)) ∨
        (bitOf v 3 = true ∧ s.part.tref = false) ∨ bitsOf v 47 32 < 8) →
      Refuses (.tickRun src v) s src Reg.tickCtrl ∧
      Refuses (.registerWrite src Reg.tickCtrl 0xFF v) s src Reg.tickCtrl) ∧
    (Reaches s src Reg.tickPeriod → (bitsOf v 23 0 < 8000 ∨ 8400000 < bitsOf v 23 0) →
      ∀ c ∈ wholeWrites src Reg.tickPeriod v, Refuses c s src Reg.tickPeriod) ∧
    (Reaches s src Reg.tickStep → tickRuns s.part s.m = true →
      Refuses (.registerWrite src Reg.tickStep 0xFF v) s src Reg.tickStep) ∧
    (Reaches s src Reg.tickMasterId → tickRuns s.part s.m = true →
      Refuses (.registerWrite src Reg.tickMasterId 0xFF v) s src Reg.tickMasterId) ∧
    (Reaches s src Reg.tickSlip → (bitsOf v 15 0 < 64 ∨ bitsOf v 23 16 = 0) →
      Refuses (.registerWrite src Reg.tickSlip 0xFF v) s src Reg.tickSlip) ∧
    (Reaches s src Reg.tickBarrier → bitsOf v 15 0 = 0 →
      Refuses (.registerWrite src Reg.tickBarrier 0xFF v) s src Reg.tickBarrier)) ∧
  (∀ (p : Part) (m : Mach) (src : Src) (addr a : Nat), a ≠ Reg.glbAccErr → a ≠ Reg.evtStat Reg.glbPage →
    rd p (ignored p m src addr) a = rd p m a)

/-- EVT_FORCE of any page takes effect at INVASIVE and SCAN alone, whichever port writes it; there it sets the
page's event bits that are written as 1 and exist. -/
def Obligations.EvtForceNeedsInvasive : Prop :=
  ∀ (s : State) (src : Src) (page : Nat) (v : Word), Reaches s src (Reg.evtForce page) →
    (s.m.sec.debug < 2 → Refuses (.evtForce src page v) s src (Reg.evtForce page)) ∧
    (2 ≤ s.m.sec.debug →
      GivesW src (.evtForce src page v) s (wr s.part s.m (Reg.evtStat page) (rd s.part s.m (Reg.evtStat page) |||
        wordOf (v.toNat &&& eventMask (pageKind s.part.conf page).1))))

/-- A write to CMD_SEQ.NEXT takes effect only when the window's queue and staging block are empty and no command
of it runs; otherwise it is ignored. -/
def Obligations.CmdSeqNeedsIdleWindow : Prop :=
  ∀ (s : State) (src : Src) (w : Nat) (v : Word), w ≤ 8 → Reaches s src (winSeq w) →
    (windowIdle s.m w = true →
      GivesW src (.cmdSeqWrite src w v) s (wr s.part s.m (winSeq w) (wordOf (bitsOf v 31 0)))) ∧
    (windowIdle s.m w = false → Refuses (.cmdSeqWrite src w v) s src (winSeq w) ∧
      rd s.part (ignored s.part s.m src (winSeq w)) (winSeq w) = rd s.part s.m (winSeq w))

/-- A command window: a write to W0 to W6 stages that doubleword; a write to W7 submits W7 with the latest of each
of the others since the last submission, 0 where there is none, as record bytes 8k to 8k + 7; reads return 0. The
window lies at offset 0x100 of the context's page, or of the CMD page 0x08. -/
def Obligations.WindowStagesAndSubmits : Prop :=
  (∀ (s : State) (src : Src) (w k : Nat) (v : Word), w ≤ 8 → k < 7 → Reaches s src (winAddr w k) →
    GivesW src (.commandStage src w k v) s (stageWord s.m w k v)) ∧
  (∀ (s : State) (src : Src) (w : Nat) (v : Word), w ≤ 8 → Reaches s src (winAddr w 7) →
    GivesW src (.commandSubmit src w v) s
      (submitRecord src w (stagedRecord s.m w v) s.part (clearStaged s.m w))) ∧
  (∀ (m : Mach) (w k j : Nat) (v w7 : Word), k < 7 → j < 7 →
    bytesOf (stagedRecord (stageWord m w k v) w w7) (8 * j) (8 * j + 7)
      = if j = k then v.toNat else bytesOf (stagedRecord m w w7) (8 * j) (8 * j + 7)) ∧
  (∀ (m : Mach) (w : Nat) (w7 : Word), bytesOf (stagedRecord m w w7) 56 63 = w7.toNat) ∧
  (∀ (m : Mach) (w j : Nat) (w7 : Word), j < 7 →
    bytesOf (stagedRecord (clearStaged m w) w w7) (8 * j) (8 * j + 7) = 0) ∧
  (∀ (p : Part) (m : Mach) (src : Src) (w k : Nat), w ≤ 8 → k < 8 → readReg p m src (winAddr w k) = 0) ∧
  (∀ w k : Nat, winAddr w k = 4096 * (if w = 8 then 0x08 else 0x10 + w) + 0x100 + 8 * k)

/-- What a submission does, its staged doublewords taken: with SEQ equal to NEXT and room, NEXT rises and the record
enters its queue; an undefined context's is refused; with SEQ other than NEXT a gap report is produced (where
the hold has room for one, R395), counted, and nothing else happens. -/
def Obligations.SubmissionAcceptsOrReportsGap : Prop :=
  ∀ (s : State) (src : Src) (w : Nat) (v : Word), w ≤ 8 → Reaches s src (winAddr w 7) →
    isFatal s.part s.m = false →
    let m := clearStaged s.m w
    let l := stagedRecord s.m w v
    ((w < 8 → ctxDefined s.part s.m w = true) → windowFull s.part m w = false →
      recSeq l ≠ rdF s.part s.m (winSeq w) 31 0 →
      ((holdOf s.m w).filter fun c => c.gap).length < 32 → (holdOf s.m w).length < 64 →
      GivesW src (.commandSubmit src w v) s (pushHold (bump s.part m (winGap w) 1) w
        { hseq := recSeq l, opcode := recOp l, status := stSeqGap,
          detail := rdF s.part (bump s.part m (winGap w) 1) (winSeq w) 31 0, gap := true }) ∧
      rd s.part (bump s.part m (winGap w) 1) (winSeq w) = rd s.part s.m (winSeq w)) ∧
    ((w < 8 → ctxDefined s.part s.m w = true) → windowFull s.part m w = false →
      recSeq l = rdF s.part s.m (winSeq w) 31 0 →
      GivesW src (.commandSubmit src w v) s (enterQueue s.part
        { wr s.part m (winSeq w) (wordOf ((recSeq l + 1) % 2 ^ 32)) with
          cmd := { m.cmd with nextAcc := m.cmd.nextAcc + 1 } } w
        { line := l, win := w, acc := m.cmd.nextAcc, hseq := recSeq l })) ∧
    (w < 8 → ctxDefined s.part s.m w = false →
      GivesW src (.commandSubmit src w v) s
        (accErr s.part (orReg s.part m (winStat w) (2 ^ 17)) src (winAddr w 7) 2))

/-- LAYER_RUN from a context that is not privileged completes with ERR_FORMAT and has no other effect; from a
privileged one it is handed to the sequencer. -/
def Obligations.LayerRunNeedsPrivilege : Prop :=
  ∀ (s : State) (w q : Nat) (r : Running), dueCmd s.part s.m w q 0x02 = some r → r.phase = .started →
    (rdB s.part s.m (Reg.ctxCtl w) 30 = false → Gives (.layerRun w q) s (complete s.m r stFormat)) ∧
    (rdB s.part s.m (Reg.ctxCtl w) 30 = true →
      Gives (.layerRun w q) s
        (settleStopped s.part (setRunning s.m { r with phase := .handed s.m.tick.cycle })))

/-- A burn to RETURN or SCRAPPED also blows KEY_KILL, the identity key is gone from use when the burn completes (its
register is cleared: KEY_USABLE reads 0), and no later step makes the key usable again. Any burn ends with its bit blown in
both copies of LC_FUSE, BURNING clear and ADV_DONE. -/
def Obligations.KeyKillIsForGood : Prop :=
  (∀ (s : State) (c : Nat), s.m.sec.burning = some c → s.m.sec.scrapDue = false → s.m.sec.thenCold = false →
    s.m.sec.held = false ∨ s.m.sec.power = .lit →
    GivesPart .lcBurnDone s
      { s.part with fuses := Assoc.set s.part.fuses 0 (fuseWord s.part 0 |||
          BitVec.ofNat 32 (2 ^ (c - 1) + 2 ^ (c + 7) + if 4 ≤ c then 2 ^ 16 + 2 ^ 17 else 0)) }
      (setEvt (burnFuse s.part c) { s.m with sec := { s.m.sec with burning := none } } Reg.lcsPage 0)) ∧
  (∀ (s t : State) (c : Nat), s.m.sec.burning = some c → 4 ≤ c → s.m.sec.held = false ∨ s.m.sec.power = .lit →
    exec .lcBurnDone s = .next t → keyKilled t.part = true ∧ keyUsable t.part t.m = false) ∧
  (∀ s t : State, keyKilled s.part = true → step s = .next t →
    keyKilled t.part = true ∧ keyUsable t.part t.m = false)

/-! ### Selection, capacity and replicas -/

/-- Every entry of T is 2^(i/256) rounded to the nearest binary32: its 24-bit significand n has 2^(i/256) · 2^24
strictly between 2n − 1 and 2n + 1 (a 256th power compared with 2^(i + 6144)), and T[0] and T[128] are as given. -/
def Obligations.ExpTableIsNearest : Prop :=
  (∀ i, i < 256 → ∃ n, 2 ^ 23 ≤ n ∧ n < 2 ^ 24 ∧ (expTab i).toNat = 0x3F800000 + (n - 2 ^ 23) ∧
    (2 * n - 1) ^ 256 < 2 ^ (i + 6144) ∧ 2 ^ (i + 6144) < (2 * n + 1) ^ 256) ∧
  expTab 0 = 0x3F800000 ∧ expTab 128 = 0x3FB504F3

/-- Every step keeps the canonical form of the host, kiln and ember memories and of the registers, in every state that
has it; State.reset has it (ResetLeaves). -/
def Obligations.TablesStayCanonical : Prop :=
  ∀ s t : State, Canonical s → step s = .next t → Canonical t

/-- LOCAL_SHARE: a source's quota is its floor share, and one more where its share is not 0 and fewer than the
remainder's number of sources with a share come before it in source rank; 0 where no share is set. It hands out the whole
capacity and no more: the quotas of all sources of the set sum to C_e wherever some share is not 0. -/
def Obligations.LocalQuotasSumToCapacity : Prop :=
  (∀ (cap : Nat) (share : Nat → Nat) (n step e i : Nat), i < n →
    localQuota cap share n step e i =
      if shareSum share n = 0 then 0 else
        cap * share i / shareSum share n +
          (if 0 < share i ∧
              ((List.range n).filter fun j => decide (0 < share j) &&
                decide (sourceRank step e n j < sourceRank step e n i)).length
                < cap - ((List.range n).map fun j => cap * share j / shareSum share n).sum
           then 1 else 0)) ∧
  ∀ (cap : Nat) (share : Nat → Nat) (n step e : Nat), shareSum share n ≠ 0 →
    ((List.range n).map fun i => localQuota cap share n step e i).sum = cap

/-- Replica choice takes a valid replica of the entry, one whose distance from home no valid replica undercuts, and
finds one wherever there is a valid replica; a lone nearest replica is taken without the generator. -/
def Obligations.ReplicaIsNearest : Prop :=
  ∀ (reps : List Replica) (shift : Nat) (seed salt step : Word) (layer home token rank : Nat),
    (∀ r, pickReplica reps shift seed salt step layer home token rank = some r →
      r ∈ reps ∧ r.valid = true ∧
      ∀ x ∈ reps, x.valid = true → replicaDist shift home r.node ≤ replicaDist shift home x.node) ∧
    ((∃ x ∈ reps, x.valid = true) → pickReplica reps shift seed salt step layer home token rank ≠ none)

/-! ### The link's code -/

/-- The fields of a flit fit their places in the header (R276). -/
def flitFits (h : LinkFields) (f : Flit) : Prop :=
  h.fkind < 4 ∧ h.lseq < 1024 ∧ h.lack < 1024 ∧ h.crvc < 8 ∧ h.crtot < 4096 ∧ f.vc < 8 ∧ f.src < 4096 ∧
  f.dst < 4096 ∧ f.ptag < 65536 ∧ f.ppos < 256 ∧ f.ttl < 8 ∧ f.fsn < 2 ^ 32

/-- What goes out on a link comes back: the wire image of a flit at any place of a frame, scrambled and with its
check bytes, is received as that flit, with no codeword corrected and none bad. -/
def Obligations.FlitRoundTrip : Prop :=
  ∀ (pos : Nat) (h : LinkFields) (f : Flit), pos < 8 → flitFits h f →
    decodeFlit pos (encodeFlit pos h f) = { corrected := 0, bad0 := false, bad1 := false, link := h, flit := f }

/-- The two-symbol code: 128 data bytes with their check bytes are clean, and with any one byte changed they are
corrected to what they were. -/
def Obligations.OneByteErrorIsCorrected : Prop :=
  ∀ d : List Byte, d.length = 128 →
    rsDecode (d ++ rsCheck d) = .clean ∧
    ∀ (i : Nat) (e : Byte), i < 132 → e ≠ 0 →
      rsDecode ((d ++ rsCheck d).set i ((d ++ rsCheck d).getD i 0 ^^^ e)) = .corrected (d ++ rsCheck d)

/-! ### Every command completes: resets, power, life cycle, debug -/

/-- Resets. POWER_ON_RESET samples the straps and starts the power-on sequence, with cause 0x01, or 0x04 out of
Cold; WARM_RESET in Lit starts the warm sequence with cause 0x02 by pin, and 0x03 where a register reset is due,
64 cycles after its write; POWER_REMOVED loses all but what stands outside the engine; ZERO_FAIL ends a raise
with ZERO_FAIL set and the level as it was. -/
def Obligations.ResetsAnswer : Prop :=
  (∀ (s : State) (relay tref : Bool) (f : Findings), s.m.sec.burning = none →
    let p : Part := { s.part with relay := relay, tref := tref }
    GivesPart (.powerOnReset relay tref f) s p
      (runSequence p (powerOnBase p s.m) (if s.m.sec.wakeCold then 4 else 1) f)) ∧
  (∀ (s : State) (f : Findings), s.m.sec.power = .lit → s.m.sec.held = false → powerOnRuns s.m = none →
    s.m.sec.wakeCold = false →
    Gives (.warmReset true f) s (runSequence s.part (warmBase (flushEntries s.part s.m)) 2 f) ∧
    (∀ t, s.m.sec.warmDue = some t → t ≤ s.m.tick.cycle →
      Gives (.warmReset false f) s (runSequence s.part (warmBase (flushEntries s.part s.m)) 3 f))) ∧
  (∀ (s : State) (src : Src) (v : Word), Reaches s src Reg.glbResetCtrl → bitOf v 0 = true →
    GivesW src (.resetCtrlWarm src v) s { s.m with sec := { s.m.sec with warmDue := some (s.m.tick.cycle + 64) } }) ∧
  (∀ s : State, s.m.sec.burning = none →
    Gives .powerRemoved s { outsideOnly s.m with sec := { power := .off, booted := false } }) ∧
  (∀ (s : State) (n level : Nat), s.m.sec.zeroing = some (.raise level) →
    Gives (.zeroFail n) s { s.m with sec := { s.m.sec with zeroing := none, zeroFail := true } })

/-- Power. A request for Banked whose conditions of R493 hold, with the handshake at rest, drives pc_req with 1; one
whose conditions fail is refused with the code of the first that fails; a request for Cold in Lit discards
commands, disables links, clears the key register and starts zeroisation; a request for Lit from Banked or Cold
drives pc_req with 0; pc_ack completes the transition requested. -/
def Obligations.PowerAnswers : Prop :=
  (∀ (s : State) (src : Src) (v : Word), Reaches s src Reg.pwrCtrl → bitsOf v 1 0 = 1 → s.m.sec.power = .lit →
    pcIdle s.m = true → s.m.sec.thenCold = false → s.m.sec.zeroing ≠ some .cold →
    let m := wr s.part s.m Reg.pwrCtrl 1
    (bankedCheck s.part m = 0 → GivesW src (.powerReqBanked src v) s (requestState m 1)) ∧
    (bankedCheck s.part m ≠ 0 →
      GivesW src (.powerReqBanked src v) s (refusePower s.part m (bankedCheck s.part m)))) ∧
  (∀ (s : State) (src : Src) (v : Word), Reaches s src Reg.pwrCtrl → bitsOf v 1 0 = 2 → s.m.sec.power = .lit →
    s.m.sec.debug < 2 → s.m.sec.zeroing ≠ some .cold → s.m.sec.burning = none → pcIdle s.m = true →
    s.m.sec.thenCold = false → s.m.sec.pcReq ≠ 2 →
    let m := zeroise s.part (loseLinks (discardAll s.part (wr s.part s.m Reg.pwrCtrl 2)))
    (loseLinks (discardAll s.part (wr s.part s.m Reg.pwrCtrl 2))).sec.power = .lit →
    GivesW src (.powerReqCold src v) s
      { m with sec := { m.sec with thenCold := false, keyCleared := true, zeroing := some .cold } }) ∧
  (∀ (s : State) (src : Src) (v : Word), Reaches s src Reg.pwrCtrl → bitsOf v 1 0 = 0 → s.m.sec.power ≠ .lit →
    pcIdle s.m = true → GivesW src (.powerReqLit src v) s (requestState (wr s.part s.m Reg.pwrCtrl 0) 0)) ∧
  (∀ s : State, s.m.sec.power = .lit → pcIdle s.m = false → s.m.sec.pcReq = 1 → s.m.sec.scrapDue = false →
    s.m.sec.thenCold = false → s.m.sec.held = false →
    Gives (.powerAck 1) s (setEvt s.part (loseLinks { s.m with
      sec := { s.m.sec with pcAck := 1, power := .banked } }) Reg.pwrPage 0)) ∧
  (∀ s : State, s.m.sec.power = .lit → pcIdle s.m = false → s.m.sec.pcReq = 2 → s.m.sec.scrapDue = false →
    s.m.sec.held = false →
    Gives (.powerAck 2) s
      (setEvt s.part (coldMach { s.m with sec := { s.m.sec with pcAck := 2 } }) Reg.pwrPage 0)) ∧
  (∀ s : State, s.m.sec.power = .banked → pcIdle s.m = false → s.m.sec.pcReq = 0 →
    Gives (.powerAck 0) s (backToLit s.part { s.m with sec := { s.m.sec with pcAck := 0 } }))

/-- Life cycle. An advance that the table lists, with the confirmation and no burn in progress, starts the burn, and
any other is ignored with ADV_REFUSED; KEY_COMMIT in TEST with no key fused burns the key and clears
KEY_PROG; LC_SCRAP in Lit holds the engine in reset and starts the burn of SCRAPPED. -/
def Obligations.LifeCycleAnswers : Prop :=
  (∀ (s : State) (src : Src) (v : Word), Reaches s src Reg.lcsAdvance →
    (bitsOf v 31 16 = 0x5EA1 → lcMay s.part s.m.sec.lcState (bitsOf v 2 0) = true → s.m.sec.burning = none →
      GivesW src (.lcAdvance src v) s { s.m with sec := { s.m.sec with burning := some (bitsOf v 2 0) } }) ∧
    ((bitsOf v 31 16 ≠ 0x5EA1 ∨ lcMay s.part s.m.sec.lcState (bitsOf v 2 0) = false ∨ s.m.sec.burning ≠ none) →
      GivesW src (.lcAdvance src v) s
        (setEvt s.part (ignored s.part s.m src Reg.lcsAdvance) Reg.lcsPage 1))) ∧
  (∀ (s : State) (src : Src) (v : Word), Reaches s src Reg.lcsKeyCommit →
    (s.m.sec.lcState = 1 → keyFused s.part = false → bitOf v 0 = true →
      GivesPartW src (.keyCommit src v) s
        (burnKey s.part (((List.range 4).map fun k => at_ (64 * k) (rd s.part s.m (Reg.lcsKeyProg k)).toNat).sum))
        (wrAll s.part s.m ((List.range 4).map fun k => (Reg.lcsKeyProg k, 0)))) ∧
    ((s.m.sec.lcState ≠ 1 ∨ (bitOf v 0 = true ∧ keyFused s.part = true)) →
      Refuses (.keyCommit src v) s src Reg.lcsKeyCommit)) ∧
  (∀ (p : Part) (key : Nat), keyFused (burnKey p key) = true ∧
    ∀ w, w < 8 → fuseWord (burnKey p key) (1 + w) = fuseWord p (1 + w) ||| BitVec.ofNat 32 (key >>> (32 * w))) ∧
  (∀ s : State, s.m.sec.power = .lit → s.m.sec.burning = none →
    Gives (.lcScrap 0x5EA1) s { heldMach s.m with sec := { (heldMach s.m).sec with burning := some 5 } }) ∧
  (∀ m : Mach, (heldMach m).sec.held = true ∧ (heldMach m).cmd.running = [] ∧ (heldMach m).net.links = [])

/-- Debug and attestation. A level that is not refused and does not raise above INVASIVE's start is set at once, from
DBG.CTRL (which takes REQ) and from the TAP alike, and one to INVASIVE or SCAN from below starts a raise; the
debug window moves the addressed line at INVASIVE and SCAN alone: a READ, a WRITE, or with both bits the READ before the
WRITE (the model's choice, notes/assumptions/15.md), and an action that already runs is not started again; ATTEST_GO samples
the report over the nonce, a second while it is built is ignored, and the report built stands in REPORT0 to REPORT15 with
its event. -/
def Obligations.DebugAndAttestAnswer : Prop :=
  (∀ (s : State) (level : Nat), level < 4 → portUp s.m = true → s.m.sec.power = .lit →
    debugRefused s.m level = false →
    let m := clrReg s.part s.m Reg.dbgStat 0x100
    ((level < 2 ∨ level ≤ s.m.sec.debug) → GivesW .ieee1500 (.dbgReq .ieee1500 level) s (setLevel s.part m level)) ∧
    (2 ≤ level → s.m.sec.debug < level → GivesW .ieee1500 (.dbgReq .ieee1500 level) s (startRaise s.part m level))) ∧
  (∀ (s : State) (level : Nat), level < 4 → Reaches s .host Reg.dbgCtrl → debugRefused s.m level = false →
    level < 2 →
    GivesW .host (.dbgReq .host level) s
      (setLevel s.part (clrReg s.part (wr s.part s.m Reg.dbgCtrl (wordOf level)) Reg.dbgStat 0x100) level)) ∧
  (∀ (s : State) (src : Src) (v : Word), Reaches s src Reg.dbgMemCtrl →
    let busy : Bool → Bool → Mach := fun r w => { s.m with sec := { s.m.sec with memRead := r, memWrite := w } }
    let line := rdF s.part s.m Reg.dbgMemAddr 19 0
    (2 ≤ s.m.sec.debug → s.m.sec.memRead = false → s.m.sec.memWrite = false →
      (rdF s.part s.m Reg.dbgMemAddr 63 60 = 1 → copyBusy s.m (64 * line) = false) →
      (bitOf v 0 = false → bitOf v 1 = true → rdF s.part s.m Reg.dbgMemAddr 63 60 = 1 → line < kilnLines s.part →
        GivesW src (.dbgMemAccess src v) s
          (let k := s.m.run.kilnSt
           let m := putKiln (busy false true) (64 * line) (dbgData s.part (busy false true))
           { m with run := { m.run with kilnSt := { k with badLines := k.badLines.filter (· != line) } } })) ∧
      (bitOf v 0 = true → bitOf v 1 = false → GivesW src (.dbgMemAccess src v) s (dbgRead s.part (busy true false))) ∧
      (bitOf v 0 = true → bitOf v 1 = true →
        GivesW src (.dbgMemAccess src v) s (dbgWrite s.part (dbgRead s.part (busy true true))))) ∧
    ((s.m.sec.debug < 2 ∨ (bitOf v 0 = true ∧ s.m.sec.memRead = true) ∨ (bitOf v 1 = true ∧ s.m.sec.memWrite = true)) →
      Refuses (.dbgMemAccess src v) s src Reg.dbgMemCtrl)) ∧
  (∀ (s : State) (src : Src) (v : Word), Reaches s src Reg.secAttestCtrl → bitOf v 0 = true →
    (s.m.sec.attest = none → GivesW src (.attestGo src v) s { s.m with sec := { s.m.sec with
      attest := some (attest s.part s.m
        ((List.range 4).flatMap fun k => leBytes 8 (rd s.part s.m (Reg.secNonce k)).toNat)) } }) ∧
    (s.m.sec.attest ≠ none → Refuses (.attestGo src v) s src Reg.secAttestCtrl)) ∧
  (∀ (p : Part) (m : Mach) (bs : List Byte), m.sec.attest = some bs → portUp m = true → m.sec.power = .lit →
    m.sec.memHeld = false →
    endActions p m = setEvt p (wrAll p
      { m with sec := { m.sec with attest := none, memRead := false, memWrite := false } }
      ((List.range 16).map fun k => (Reg.secReport k, wordOf (leNat ((bs.drop (8 * k)).take 8))))) Reg.secPage 0)

/-- The wrapper and management. WRAP_REG puts the doubleword read on its output, and writes as the IEEE 1500 port;
of the instructions of the TAP, IDCODE shifts out the identification code, DBG_REQ and LC_SCRAP act as those commands, a
code that the list does not name is BYPASS with its one bit 0; halting takes effect at INVASIVE (the way a debugger asks for
it is the model's choice, notes/assumptions/132.md); a
management request at PQ4's head, of a page and level that R485 allows, leaves the queue, is carried out (a read,
a write as management, a submission to CMD, an attestation) and is answered to its source; an answer that
arrives is handed to host software. -/
def Obligations.WrapperAndManagementAnswer : Prop :=
  (∀ (s : State) (addr : Nat) (v : Word), s.m.sec.power ≠ .off → s.m.sec.held = false →
    Gives (.wrapReg false addr v) s { s.m with
      out := s.m.out ++ [.wrapRead (alignAddr addr) (readReg s.part s.m .ieee1500 (alignAddr addr))] } ∧
    GivesPart (.wrapReg true addr v) s (routeWrite .ieee1500 (alignAddr addr) v s.part s.m).1
      (routeWrite .ieee1500 (alignAddr addr) v s.part s.m).2) ∧
  (∀ (s : State) (w : Bool) (addr : Nat) (v dr : Word) (mfr : BitVec 11), s.m.sec.power ≠ .off →
    Gives (.wrapReg w addr v (.shift 0x01 dr mfr)) s { s.m with out := s.m.out ++ [.testData 0x01 32
      (wordOf (2 ^ 28 * (s.part.stepping % 16) + 2 ^ 12 * partNumber s.part.conf + 2 * mfr.toNat + 1))] } ∧
    Gives (.wrapReg w addr v (.shift 0x11 dr mfr)) s (dbgReq .ieee1500 (bitsOf dr 1 0) s.part s.m) ∧
    Gives (.wrapReg w addr v (.shift 0x12 dr mfr)) s (lcScrap (bitsOf dr 15 0) s.part s.m) ∧
    (∀ ir : BitVec 8, ir ∉ [0x00, 0x01, 0x02, 0x10, 0x11, 0x12, 0x13] →
      Gives (.wrapReg w addr v (.shift ir dr mfr)) s { s.m with out := s.m.out ++ [.testData ir 1 0] })) ∧
  (∀ (s : State) (w : Bool) (addr : Nat) (v : Word), s.m.sec.power ≠ .off → portUp s.m = true →
    s.m.sec.debug = 2 →
    Gives (.wrapReg w addr v .halt) s { s.m with sec := { s.m.sec with halted := true, stepOnce := false } } ∧
    Gives (.wrapReg w addr v .resume) s { s.m with sec := { s.m.sec with halted := false, stepOnce := false } } ∧
    Gives (.wrapReg w addr v .singleStep) s
      { s.m with sec := { s.m.sec with halted := true, stepOnce := s.m.sec.halted } }) ∧
  (∀ (s : State) (e : Entry) (bs : List Byte), engineUp (takeMgmt s.part s.m) = true →
    isFatal s.part (takeMgmt s.part s.m) = false → systemCopies s.part (takeMgmt s.part s.m) = false → mgmtHead (takeMgmt s.part s.m) = some (e, bs) →
    let m := popMgmt (takeMgmt s.part s.m) bs
    mgRefusal s.part m bs = stDone →
    (mgKind bs = 0x70 → Gives .mgRegRead s
      (mgReply s.part m e bs stDone (readReg s.part m .mgmt (alignAddr (mgAddr bs))) [])) ∧
    (mgKind bs = 0x71 →
      let q := routeWrite .mgmt (alignAddr (mgAddr bs)) (mgData bs) s.part m
      GivesPart .mgRegWrite s q.1 (mgReply q.1 q.2 e bs stDone (mgData bs) [])) ∧
    (mgKind bs = 0x72 → Gives .mgCmd s
      (mgReply s.part (submitRecord .mgmt 8 (lineOf (bs.drop 64)) s.part m) e bs
        (mgCmdStatus (submitCase s.part m 8 (lineOf (bs.drop 64)))) (mgData bs) [])) ∧
    (mgKind bs = 0x73 → Gives .mgAttest s
      (mgReply s.part m e bs stDone (mgData bs) (attest s.part m (mgNonce bs))))) ∧
  (∀ (s : State) (e : Entry) (bs : List Byte), engineUp (takeMgmt s.part s.m) = true →
    isFatal s.part (takeMgmt s.part s.m) = false → systemCopies s.part (takeMgmt s.part s.m) = false → mgmtHead (takeMgmt s.part s.m) = some (e, bs) →
    mgKind bs = 0x74 →
    Gives .mgResp s
      (let m := popMgmt (takeMgmt s.part s.m) bs
       { m with sec := { m.sec with answers := m.sec.answers ++ [(e.src, bs)] } }))

/-- Host watch and sensors. A kick starts a new period; a period that has passed without one sets HOST_LOST, is
logged and starts the kills; a temperature reading is corrected by its sensor's calibration and clamped to 12
bits; a droop monitor with a threshold sets DROOP and its throttle's start, which ends after 10 µs. -/
def Obligations.HostWatchAndSensorsAnswer : Prop :=
  (∀ (s : State) (src : Src) (v : Word), Reaches s src Reg.glbHostKick → bitOf v 0 = true →
    GivesW src (.hostKick src v) s { s.m with sec := { s.m.sec with kicked := s.m.tick.time } }) ∧
  (∀ s : State, engineUp s.m = true → wdogDue s.part s.m = true → s.part.relay = false →
    let m := report s.part (orReg s.part { s.m with sec := { s.m.sec with kicked := s.m.tick.time } }
      Reg.glbFaultStat 4) { code := 0xF0, page := Reg.glbPage, sev := .transient }
    isFatal s.part m = false →
    Gives .hostLost s (settleLost s.part { m with sec := { m.sec with lost := true } })) ∧
  (∀ s : State, engineUp s.m = true → wdogDue s.part s.m = true → s.part.relay = true →
    Gives .hostLost s (report s.part (orReg s.part { s.m with sec := { s.m.sec with kicked := s.m.tick.time } }
      Reg.glbFaultStat 4) { code := 0xF0, page := Reg.glbPage, sev := .transient })) ∧
  (∀ (s : State) (n : Nat) (raw : Word), n < 4 → engineUp s.m = true →
    Gives (.tempSample n raw) s (wr s.part s.m (Reg.caluTemp n) (wordOf (toPattern 12
      (clampInt (-2048) 2047 (signed 64 raw.toNat + effective s.part s.m (itemTemp n))))))) ∧
  (∀ (s : State) (n : Nat), n < 4 → s.m.sec.power = .lit → portUp s.m = true → 0 < effective s.part s.m (itemDroop n) →
    Gives (.droop n) s
      (setEvt s.part { s.m with sec := { s.m.sec with droop := some s.m.tick.time } } Reg.pwrPage 2)) ∧
  (∀ (s : State) (t : Int), s.m.sec.droop = some t → t + 10000000000 ≤ s.m.tick.time →
    Gives .droopEnd s { s.m with sec := { s.m.sec with droop := none } })

/-! ### Every command completes: registers, command records, steps -/

/-- The commands that write PAGE_CTRL of a page. -/
def pageCtrlWrites (src : Src) (page : Nat) (v : Word) : List Instr :=
  [.retireReq src page v, .quiesce src page v, .softReset src page v]

/-- A write of PAGE_CTRL that the engine ignores (R528): QUIESCE or RETIRE_REQ where the channel cannot be
retired, and a QUIESCE that would leave no channel of its kind that is not quiescing. -/
def pageCtrlIgnored (s : State) (page : Nat) (v : Word) : Bool :=
  ((bitOf v 1 || bitOf v 2) && !retirable (pageKind s.part.conf page).1) ||
  (bitOf v 1 && !rdB s.part s.m (Reg.pageCtrl page) 1 && quiesceLast s.part s.m page)

/-- A write of PAGE_CTRL that is not ignored, the effect of ENABLE apart: SOFT_RESET, QUIESCE and RETIRE_REQ, each where
its bit and the page's kind have it act. -/
def pageCtrlTaken (s : State) (page : Nat) (v : Word) : Mach :=
  let can := retirable (pageKind s.part.conf page).1
  let m := wr s.part s.m (Reg.pageCtrl page) (v &&& 3)
  let m := if bitOf v 3 then softClear s.part m page else m
  let m := if can then setQuiesce s.part m page (bitOf v 1) else m
  if bitOf v 2 then retireRequest s.part m page else m

/-- Registers. A whole write of EVT_EN takes the page's event bits, and one of EVT_STAT clears the events written 1; a
write whose byte enables are not all set is ignored with KIND 1. A read of the host's is answered with the doubleword read
and changes nothing else. For every value, a write of PAGE_CTRL is ignored
or taken by R528, by RETIRE_REQ, QUIESCE and SOFT_RESET on a page that is no link, and by LINK_ENABLE on a link,
where ENABLE acts too and 1 is ignored while the node has no id; LINKn.CTRL takes MGMT_PORT and retrains the link
where bit 1 is 1. -/
def Obligations.RegisterWritesAnswer : Prop :=
  (∀ (s : State) (src : Src) (v : Word) (page : Nat), page < 256 → hasHeader (pageKind s.part.conf page).1 = true →
    let events := wordOf (eventMask (pageKind s.part.conf page).1)
    (Reaches s src (Reg.evtEn page) →
      GivesW src (.registerWrite src (Reg.evtEn page) 0xFF v) s
        (wr s.part s.m (Reg.evtEn page) ((rd s.part s.m (Reg.evtEn page) &&& ~~~events) ||| (v &&& events)))) ∧
    (Reaches s src (Reg.evtStat page) →
      GivesW src (.registerWrite src (Reg.evtStat page) 0xFF v) s
        (wr s.part s.m (Reg.evtStat page) (rd s.part s.m (Reg.evtStat page) &&& ~~~(v &&& events))))) ∧
  (∀ (s : State) (src : Src) (v : Word) (addr : Nat) (be : BitVec 8), be ≠ 0xFF →
    Reaches s src (alignAddr addr) →
    GivesW src (.registerWrite src addr be v) s (accErr s.part s.m src (alignAddr addr) 1)) ∧
  (∀ (s : State) (addr : Nat) (be : BitVec 8) (v : Word), s.m.sec.held = false → s.m.sec.power ≠ .off →
    Gives (.registerWrite .host addr be v true) s { s.m with
      out := s.m.out ++ [.response (some (readReg s.part s.m .host (alignAddr addr)))] }) ∧
  (∀ (s : State) (src : Src) (v : Word) (page : Nat), Reaches s src (Reg.pageCtrl page) →
    ∀ c ∈ pageCtrlWrites src page v,
    (pageCtrlIgnored s page v = true → Refuses c s src (Reg.pageCtrl page)) ∧
    (pageCtrlIgnored s page v = false → (pageKind s.part.conf page).1 ≠ .link →
      GivesW src c s (pageCtrlTaken s page v))) ∧
  (∀ (s : State) (src : Src) (v : Word) (l : Nat), l < linkCount s.part.conf →
    pageKind s.part.conf (Reg.linkPage l) = (.link, l) → Reaches s src (Reg.pageCtrl (Reg.linkPage l)) →
    ∀ c ∈ .linkEnable src l v :: pageCtrlWrites src (Reg.linkPage l) v,
    (pageCtrlIgnored s (Reg.linkPage l) v = true ∨ (bitOf v 0 = true ∧ nodeId s.part s.m = 0xFFF) →
      Refuses c s src (Reg.pageCtrl (Reg.linkPage l))) ∧
    (pageCtrlIgnored s (Reg.linkPage l) v = false → (bitOf v 0 = true → nodeId s.part s.m ≠ 0xFFF) →
      GivesW src c s (linkEnabled s.part (pageCtrlTaken s (Reg.linkPage l) v) l
        (rdB s.part s.m (Reg.pageCtrl (Reg.linkPage l)) 0) (bitOf v 0)))) ∧
  (∀ (s : State) (src : Src) (v : Word) (l : Nat), l < linkCount s.part.conf → Reaches s src (Reg.linkCtrl l) →
    GivesW src (.linkRetrainRequest src l v) s
      (let m := wrF s.part s.m (Reg.linkCtrl l) 0 0 (bitsOf v 0 0)
       if bitOf v 1 then retrainLink s.part m l else m))

/-- The front of the command engine. EVT_VAL sets the selected event counter and lets waiters go; COMMAND_START pops
the head of the queue that R406 serves and starts it, or completes it with the status of the first check that
fails; where the entry's line cannot be read, it completes with ERR_UNCORRECTABLE, and a parity error of the control
state makes the engine FATAL; a completed command's record is written to its open ring with the next CSEQ; RING_TAIL and RINGr take
their values, and the first lets held records go. -/
def Obligations.CommandEngineAnswers : Prop :=
  (∀ (s : State) (src : Src) (v : Word), Reaches s src Reg.cmdEvtVal →
    GivesW src (.evtValWrite src v) s
      (release (setEvtCnt s.m (rdF s.part s.m Reg.cmdEvtIdx 11 0) (bitsOf v 27 0)))) ∧
  (∀ (s : State) (q w : Nat) (e : Entry), r406Pick s.part s.m = some q → headEntry s.m q = some e →
    winOfQueue s.m q = some w → systemCopies s.part s.m = false →
    (checkRecord s.part s.m w e.line = none → Gives (.commandStart q .clean) s (stepped (startCommand s.part s.m q w e))) ∧
    (∀ st, checkRecord s.part s.m w e.line = some st →
      Gives (.commandStart q .clean) s
        (stepped (completeLine (popHead s.m q w) w (unstarted s.part s.m w e.line) e.hseq st 0)))) ∧
  (∀ (s : State) (q w n : Nat) (e : Entry), engineUp s.m = true → isFatal s.part s.m = false →
    systemCopies s.part s.m = false →
    (Gives (.commandStart q .control) s (fatal s.part s.m 4 0)) ∧
    (Gives (.commandStart q (.line n true)) s (commandStart q s.part (kilnCorrected s.part s.m n))) ∧
    (let m := kilnUe s.part s.m n (some 5)
     headEntry m q = some e → winOfQueue m q = some w → e.kind = .command → windowMayStart s.part m w = true →
     Gives (.commandStart q (.line n false)) s
       (completeLine (popHead m q w) w (unstarted s.part m w e.line) e.hseq stUncorrectable 0))) ∧
  (∀ (s : State) (r : Nat) (c : Completion) (cs : List Completion), r ≤ 8 → holdOf s.m r = c :: cs →
    engineUp s.m = true → isFatal s.part s.m = false → ringOpen s.part s.m r = true → recordOut s.m r = false →
    let n := (rdF s.part s.m (Reg.cplRingHead r) 31 0 + 1) % 2 ^ 32
    Gives (.completionWrite r) s
      (startWrites s.part s.m (recordAddr s.part s.m r n + 4) (completionBytes s.part s.m r c)
        (.cplBody r (recordAddr s.part s.m r n) n))) ∧
  (∀ (p : Part) (m : Mach) (t : Txn) (r a n : Nat) (c : Completion) (cs : List Completion),
    t.use = .cplBody r a n → isFatal p m = false → holdOf m r = c :: cs →
    let m₁ := startWrites p (setHold m r cs) a (leBytes 4 n) .other
    let m₁ := setLastStatus p (wr p m₁ (Reg.cplRingHead r) (wordOf n)) (winPage r) c.status
    recordDone p m r a n =
      completionWrite r p (if c.irq || rdB p m₁ (Reg.cplRingCtrl r) 9 then setEvt p m₁ Reg.cplPage r else m₁)) ∧
  (∀ (s : State) (src : Src) (r : Nat) (v : Word), r ≤ 8 → Reaches s src (Reg.cplRingTail r) →
    GivesW src (.ringTailWrite src r v) s
      (completionWrite r s.part (wr s.part s.m (Reg.cplRingTail r) (wordOf (bitsOf v 31 0))))) ∧
  (∀ (s : State) (src : Src) (r : Nat) (v : Word), r ≤ 8 → Reaches s src (Reg.kilnRing r) →
    ((ringOf s.m r).blocks = [] →
      GivesW src (.ringWrite src r v) s (setRing (wr s.part s.m (Reg.kilnRing r) (v &&& 0x3FFFFFFF3FFFFFFF)) r {})) ∧
    ((ringOf s.m r).blocks ≠ [] → Refuses (.ringWrite src r v) s src (Reg.kilnRing r)))

/-- Queues. A due block of 16 tail entries goes to the bog; the oldest block of the bog is read back where the head has
room; QUEUE_FLUSH completes with FLUSHED what was accepted before it was read, then with DONE; NOP completes with DONE; HINT sends its requests and completes
when the last record has left, at once where it has none for another node. -/
def Obligations.QueueCommandsAnswer : Prop :=
  (∀ (s : State) (q w : Nat), winOfQueue s.m q = some w → engineUp s.m = true →
    systemCopies s.part s.m = false → spillDue s.part s.m q w = true →
    Gives (.queueSpill q) s
      (spillBlock s.part (setPq s.m q { pqOf s.m q with tail := (pqOf s.m q).tail.drop 16 }) w
        ((pqOf s.m q).tail.take 16))) ∧
  (∀ (s : State) (q w : Nat) (b : BogBlock) (bs : List BogBlock), winOfQueue s.m q = some w →
    (ringOf s.m w).blocks = b :: bs → b.filling = false → engineUp s.m = true → systemCopies s.part s.m = false →
    (pqOf s.m q).head.length + 16 ≤ storeSize → queueGone s.m w = false →
    txnsOut s.m (.spill w b.place) = false →
    let m := setRing s.m w { ringOf s.m w with blocks := { b with filling := true } :: bs }
    Gives (.queueFill q) s (startReads s.part m (ringAddr s.part m w b.place) 1024 (.fill w b.place))) ∧
  (∀ (s : State) (w q v : Nat) (r : Running), dueCmd s.part s.m w q 0x68 = some r →
    winOfQueue s.m (bytesOf r.line 16 16) = some v →
    let n := bytesOf r.line 16 16
    let all := (pqOf s.m n).head ++ (ringOf s.m v).blocks.flatMap (fun b => b.entries) ++ (pqOf s.m n).tail
    let m := setPq s.m n { head := [], tail := all.filter fun e => !(decide (e.acc < r.n) || e.kind == .pad) }
    let m := setRing m v { ringOf m v with blocks := [] }
    let m := dropTxns m fun u => match u with
      | .fill i _ => i != v
      | .spill i _ => i != v
      | _ => true
    Gives (.queueFlush w q) s
      (complete (completeEntries s.part (settleQueue m n v) stFlushed
        (all.filter fun e => decide (e.acc < r.n) || e.kind == .pad)) r stDone)) ∧
  (∀ (s : State) (w q : Nat) (r : Running), dueCmd s.part s.m w q 0x7F = some r →
    Gives (.nop w q) s (complete s.m r stDone)) ∧
  (∀ (s : State) (w q : Nat) (r r' : Running) (pr : Program) (l : LayerT), dueCmd s.part s.m w q 0x48 = some r →
    r.phase = .started → w < 8 → r.memFail = false → txnsOut s.m (.cmdRead r.acc) = false →
    (ctxOf s.m w).program = some pr → layerTmpl pr (bytesOf r.line 26 27 % 16384) = some l →
    let es := hintEntries (bytesOf r.line 40 41)
      (hostBytes s.m (bytesOf r.line 32 39 % 2 ^ 42) (4 * bytesOf r.line 40 41))
    let far := ((hintSends s.part s.m w l.nodes es).filter fun e => hintNode e != nodeId s.part s.m).length
    let m := kindleList s.part (setRunning s.m { r with phase := .waiting, n := far }) w
      ⟨bytesOf r.line 16 21, bytesOf r.line 22 22 % 16, bytesOf r.line 24 25 % 1024⟩ l.nodes es (some r.acc)
    findAcc m r.acc = some r' →
    Gives (.hint w q) s (if far = 0 then complete m r' stDone else m))

/-- Events and semaphores. EVENT_SIGNAL sets a counter or adds to it, saturating at 0x0FFF_FFFF, completes, and waiters
whose condition holds go; EVENT_WAIT completes once the counter has its value; SEM_ACQ takes its count once
the semaphore holds it and no earlier one waits on it; SEM_REL adds, saturating, completes and lets waiters go. Where
the counter's word is lost its contexts are torn down, or in no range it is 0 and the signal applies to that; where
the semaphore's word is lost its context is torn down. -/
def Obligations.EventsAndSemaphoresAnswer : Prop :=
  (∀ (s : State) (w q : Nat) (r : Running), dueCmd s.part s.m w q 0x50 = some r →
    let e := bytesOf r.line 16 17 % 4096
    let v := bytesOf r.line 20 23 % 2 ^ 28
    (bytesOf r.line 18 18 = 1 →
      Gives (.eventSignal w q .clean) s (release (complete (setEvtCnt s.m e v) r stDone)) ∧
      evtOf (setEvtCnt s.m e v) e = v) ∧
    (bytesOf r.line 18 18 ≠ 1 →
      Gives (.eventSignal w q .clean) s (release (complete (addEvt s.m e v) r stDone)) ∧
      evtOf (addEvt s.m e v) e = min 0x0FFFFFFF (evtOf s.m e + v)) ∧
    (∀ n, Gives (.eventSignal w q (.word n false)) s (eventSignal w q s.part (counterLost s.part s.m e)) ∧
      ((∀ c, c < 8 → evtInRange s.part s.m c e = false) → evtOf (counterLost s.part s.m e) e = 0))) ∧
  (∀ (s : State) (w q : Nat) (r : Running), dueCmd s.part s.m w q 0x51 = some r →
    (bytesOf r.line 20 23 % 2 ^ 28 ≤ evtOf s.m (bytesOf r.line 16 17 % 4096) →
      Gives (.eventWait w q) s (complete s.m r stDone)) ∧
    (evtOf s.m (bytesOf r.line 16 17 % 4096) < bytesOf r.line 20 23 % 2 ^ 28 →
      exec (.eventWait w q) s = .next s)) ∧
  (∀ (s : State) (w q n : Nat) (r : Running) (c : Instr) (op : Nat),
    (c, op) ∈ [(Instr.semAcq w q (.word n false), 0x52), (Instr.semRel w q (.word n false), 0x53)] →
    dueCmd s.part s.m w q op = some r → Gives c s (semLost s.part s.m w (semIdx r.line))) ∧
  (∀ (s : State) (w q : Nat) (r : Running), dueCmd s.part s.m w q 0x52 = some r →
    (semCount r.line ≤ semOf s.m r.win (semIdx r.line) →
      (∀ x ∈ s.m.cmd.running, x.win = r.win → recOp x.line = 0x52 → semIdx x.line = semIdx r.line → r.acc ≤ x.acc) →
      Gives (.semAcq w q .clean) s
        (complete (setSem s.m r.win (semIdx r.line) (semOf s.m r.win (semIdx r.line) - semCount r.line)) r stDone)) ∧
    (semOf s.m r.win (semIdx r.line) < semCount r.line → exec (.semAcq w q .clean) s = .next s)) ∧
  (∀ (s : State) (w q : Nat) (r : Running), dueCmd s.part s.m w q 0x53 = some r →
    Gives (.semRel w q .clean) s (release (complete (setSem s.m w (semIdx r.line)
      (min 0xFFFFFFFF (semOf s.m w (semIdx r.line) + semCount r.line))) r stDone)))

/-- Steps. STEP_RUN is handed to the sequencer; a due edge commits the step that ends, puts shadows in force, charges
the tick, takes the next step number and begins what is eligible; a bundle whose time has passed and whose lanes
have finished completes; one whose program cannot be read is abandoned with ERR_UNCORRECTABLE, and its context has
no program (the reason code of its log entry is the model's choice, log entry 96); a step that reaches 64 cycles before its edge asks for a slip within the limit, and
beyond it is abandoned; one stretched beyond STRETCH_LIMIT is abandoned with ERR_TIMEOUT. -/
def Obligations.StepsAnswer : Prop :=
  (∀ (s : State) (w q : Nat) (r : Running), dueCmd s.part s.m w q 0x01 = some r → r.phase = .started →
    Gives (.stepRun w q) s (settleStopped s.part (setRunning s.m { r with phase := .handed s.m.tick.cycle }))) ∧
  (∀ (s : State) (e : Int), edgeDue s.part s.m = some e → rdB s.part s.m Reg.perfPerfCtrl 0 = false →
    let m := advanceEdge s.part (chargeTick s.part (applyShadows s.part (settleEdge s.part s.m) true fun _ => true)) e
    Gives .tickEdge s (beginTick s.part (if isMaster s.part m then announce s.part m else m))) ∧
  (∀ (s : State) (x : StepRun), liveStep s.m = some x → engineUp s.m = true → isFatal s.part s.m = false →
    x.ended = false → bundleDone s.part s.m x = true →
    let m := finishBundle s.part s.m x
    Gives (.bundleComplete .clean) s (if m.run.step.isNone then settleStopped s.part m else m)) ∧
  (∀ (s : State) (x : StepRun) (n : Nat), (liveStep s.m).isSome = true → engineUp s.m = true →
    isFatal s.part s.m = false →
    let m := kilnUe s.part s.m n (some (if groupUse s.part (n / 32768) = .system then 2 else 1))
    liveStep m = some x → isFatal s.part m = false → x.ended = false →
    Gives (.bundleComplete (.line n false)) s
      (settleStopped s.part (installProgram s.part (abandonStep s.part m x.ctx 1 stUncorrectable) x.ctx none))) ∧
  (∀ (s : State) (x : StepRun), liveStep s.m = some x → engineUp s.m = true → isFatal s.part s.m = false →
    slipDue s.part s.m x = true →
    (x.slips + 1 ≤ rdF s.part s.m Reg.tickSlip 23 16 →
      let m := setStep s.m { x with slips := x.slips + 1 }
      let m := { m with tick := { m.tick with
        ownEdge := m.tick.edge.map fun e => e + (x.slips + 1 : Nat) * quantumFs s.part m } }
      let m := bump s.part (bump s.part m Reg.tickSlipCnt 1) (Reg.ctxSlipReqCnt x.ctx) 1
      Gives .slipRequest s (setEvt s.part (sendRecord s.part m (rdF s.part m Reg.tickMasterId 11 0)
        (slipRecord (stepNow s.part m) (x.slips + 1) (ctxJob s.part m x.ctx))) Reg.tickPage 2)) ∧
    (rdF s.part s.m Reg.tickSlip 23 16 < x.slips + 1 →
      Gives .slipRequest s (settleStopped s.part
        (setEvt s.part (abandonStep s.part s.m x.ctx 2 stTimeout) Reg.tickPage 5)))) ∧
  (∀ (s : State) (x : StepRun), liveStep s.m = some x → engineUp s.m = true → isFatal s.part s.m = false →
    x.ended = false → x.stalled = false → bundleDone s.part s.m x = false →
    x.bundleCycle + bunDur (curBundle x) + rdF s.part s.m (Reg.ctxStretchLimit x.ctx) 31 0 < s.m.tick.cycle →
    Gives .stretchLimitExpiry s (settleStopped s.part (abandonStep s.part s.m x.ctx 1 stTimeout)))

/-- Beside a step. STEP_ABORT for a step that runs here abandons it with ABORTED_REMOTE; a performance snapshot is taken
while EN is 1; a seed draw waits for the generator or takes its value; twelve entropy words instantiate it,
fewer are kept, and a stall sets its event; REPLAY_TAIL frees room, and in CHECK mode has the host's entries
read. -/
def Obligations.StepHelpersAnswer : Prop :=
  (∀ (s : State) (r : In0) (m : Mach) (c : Nat) (x : StepRun), takeRecord s.m 0x41 = some (r, m) →
    ctxOfJob s.part m (bytesOf r.bytes 7 7) = some c →
    stepOfCtx (dropFor m c r.src (bytesOf r.bytes 0 5) (bytesOf r.bytes 6 6 % 16)) c = some x →
    x.step = bytesOf r.bytes 0 5 → x.att = bytesOf r.bytes 6 6 % 16 →
    Gives .stepAbort s (settleStopped s.part (abandonStep s.part
      (dropFor m c r.src (bytesOf r.bytes 0 5) (bytesOf r.bytes 6 6 % 16)) c 3 stAbortedRemote))) ∧
  (∀ (s : State) (src : Src) (v : Word), Reaches s src Reg.perfPerfCtrl → bitOf v 0 = true → bitOf v 1 = true →
    GivesW src (.perfSnap src v) s (perfSnapshot s.part (wr s.part s.m Reg.perfPerfCtrl (v &&& 5)))) ∧
  (∀ (s : State) (src : Src) (c : Nat) (v : Word), c < 8 → Reaches s src (Reg.ctxSeedCtrl c) → bitOf v 0 = true →
    ((ctxOf s.m c).seedPending = false →
      GivesW src (.seedDraw src c v) s
        (serveDraw s.part (setCtx s.m c { ctxOf s.m c with seedPending := true }) (.seed c))) ∧
    ((ctxOf s.m c).seedPending = true → Refuses (.seedDraw src c v) s src (Reg.ctxSeedCtrl c))) ∧
  (∀ (s : State) (x : BitVec 32), engineUp s.m = true → drbgNeeds s.m = true →
    (s.m.sec.entropy.length < 11 →
      Gives (.entropyWord x) s
        { s.m with sec := { s.m.sec with entropy := s.m.sec.entropy ++ [x], entropyAt := s.m.tick.time } }) ∧
    (s.m.sec.entropy.length = 11 →
      Gives (.entropyWord x) s
        (serveDraws s.part { s.m with sec := { s.m.sec with entropy := [], drbgReady := true, draws := 0 } })) ∧
    (s.m.sec.entropyAt + 1000000 * fsPerNs ≤ s.m.tick.time →
      Gives .entropyStall s (setEvt s.part s.m Reg.secPage 3))) ∧
  (∀ (s : State) (src : Src) (c : Nat) (v : Word), c < 8 → Reaches s src (Reg.ctxReplayTail c) →
    let m := wr s.part s.m (Reg.ctxReplayTail c) v
    (replayMode s.part m c ≠ 3 →
      GivesW src (.replayTailWrite src c v) s
        (drainAllIn s.part (pumpReplay s.part c (ctxOf m c).replayWait.length m))) ∧
    (replayMode s.part m c = 3 →
      let size := replaySize s.part m c
      let n := min size (v - rd s.part s.m (Reg.ctxReplayTail c)).toNat
      let off := (rd s.part s.m (Reg.ctxReplayTail c)).toNat % size
      let base := (rd s.part m (Reg.ctxReplayBase c)).toNat
      GivesW src (.replayTailWrite src c v) s (retryCommit s.part
        (startReads s.part (startReads s.part m (base + off) (min n (size - off)) (.replay c))
          base (n - (size - off)) (.replay c)))))

/-! ### Every command completes: layout, tables, collectives -/

/-- XFORM, GATHER and SCATTER run on from the stage they are in, one stage after another, each waiting while their
transactions are out; where an item that goes first would be overtaken on a sub-unit or a class of buffers they wait. What each stage does is said with it: the checks end an operation with their status, a
move writes every access and counts, and with the writes ended the operation ends with DONE. -/
def Obligations.LayoutOperationsAnswer : Prop :=
  (∀ (s : State) (o : OpRef) (x : OpCtx) (f : StoreRead),
    let n := layoutStages s.part x.ctx x.owner 4 (readFinds s.part s.m f)
    ∀ c opc, (c, opc) ∈ [(Instr.xform o f, opXform), (Instr.gather o f, opGather), (Instr.scatter o f, opScatter)] →
      dueOp s.part s.m o opc = some x →
      GivesInTurn c s n) ∧
  (∀ (p : Part) (m : Mach) (o : OpCtx), o.memFail = false → txnsOut m o.useR = false → txnsOut m o.useW = false →
    (o.stage = 0 → (bytesOf o.line 0 0 ≠ 2 ∨ bytesOf o.line 1 1 ≠ o.opc) → layoutStage p m o = endOp m o stFormat) ∧
    (∀ e, o.stage = 0 → bytesOf o.line 0 0 = 2 → bytesOf o.line 1 1 = o.opc → checkEarly m o = some e →
      layoutStage p m o = xfEnd p m o e) ∧
    (∀ sw dw iw idx, o.stage = 1 → opParts m o = some (sw, dw, iw, idx) →
      (∀ l, listBad m o iw = some l → layoutStage p m o = endOp (kilnNote p m l (some 0)) o stUncorrectable) ∧
      (∀ e, listBad m o iw = none → checkLate o sw dw iw idx = some e → byBitmap o e idx = false →
        layoutStage p m o = xfEnd p m o e) ∧
      (∀ e bufs n, listBad m o iw = none → checkLate o sw dw iw idx = some e → byBitmap o e idx = true →
        allocAll p o.ctx .cmd (List.replicate (stageBuffers o (shapeOf o) idx) 7) m = some (bufs, n) →
        layoutStage p m o = xfEnd p n { o with bufs := bufs } e) ∧
      (∀ bufs n, listBad m o iw = none → checkLate o sw dw iw idx = none →
        allocAll p o.ctx .cmd (List.replicate (stageBuffers o (shapeOf o) idx) 7) m = some (bufs, n) →
        layoutStage p m o = fetchData p (setOp n { o with stage := 2, bufs := bufs }) o sw dw idx)) ∧
    (∀ sw dw iw idx, o.stage = 2 → opParts m o = some (sw, dw, iw, idx) →
      let h := shapeOf o
      let n := (accesses o h idx).length
      let move := fun m => moveAll p (setOp m { o with stage := 3 }) o sw dw idx
      (∀ l, readBad m o sw dw idx = some l → layoutStage p m o = endOp (kilnNote p m l (some 0)) o stUncorrectable) ∧
      (readBad m o sw dw idx = none → h.sfmt = h.dfmt → h.acc = false → layoutStage p m o = move m) ∧
      (readBad m o sw dw idx = none → h.sfmt ≠ h.dfmt → h.acc = false → (placement p m .coder).isSome = true →
        layoutStage p m o = move (placeItem p m .coder o.ctx (o.item m) (coderCycles (n * h.w)))) ∧
      (readBad m o sw dw idx = none → h.sfmt = h.dfmt → h.acc = true → (placement p m .combine).isSome = true →
        layoutStage p m o = move (placeItem p m .combine o.ctx (o.item m) (foldCycles (n * h.v))))) ∧
    (o.stage = 3 → layoutStage p m o = endOp m o stDone)) ∧
  (∀ (p : Part) (m : Mach) (o : OpCtx), o.memFail = true → layoutStage p m o = endOp m o stUncorrectable)

/-- Tables and programs. An image that is read and passes its checks becomes a pending table, in force at once where the
tick is stopped and no step of the context is in flight, and the command completes with TABLE_ERR 0; one that
fails completes with its reason. Routes take effect at once. A program that passes waits for its context's step
boundary. BIAS_UPDATE waits for the edge, and completes when its dump has been written. -/
def Obligations.TableLoadsAnswer : Prop :=
  (∀ (s : State) (w q : Nat) (r : Running), dueCmd s.part s.m w q 0x40 = some r → w < 8 → groupCopies s.m w = false →
    1 ≤ bytesOf r.line 16 16 → bytesOf r.line 16 16 ≤ 3 → r.memFail = false → txnsOut s.m (.cmdRead r.acc) = false →
    let bs := hostBytes s.m (bytesOf r.line 24 31 % 2 ^ 42) (bytesOf r.line 32 35)
    (∀ t, checkImage (ctxOf s.m w) r.acc (bytesOf r.line 16 16) bs = .ok t →
      let m := tableEnd s.part (setCtx s.m w { ctxOf s.m w with pend := (ctxOf s.m w).pend ++ [t] }) r 0 0 true
      Gives (.tableLoad w q) s
        (if atOnce s.part m w then applyTables s.part m w (fun q => !q.isUpdate) else m)) ∧
    (∀ e off, checkImage (ctxOf s.m w) r.acc (bytesOf r.line 16 16) bs = .error (e, off) →
      Gives (.tableLoad w q) s (tableEnd s.part s.m r e off true))) ∧
  (∀ (s : State) (q : Nat) (r : Running), dueCmd s.part s.m 8 q 0x40 = some r → r.memFail = false →
    txnsOut s.m (.cmdRead r.acc) = false →
    let bs := hostBytes s.m (bytesOf r.line 24 31 % 2 ^ 42) (bytesOf r.line 32 35)
    (∀ es, checkRoutes s.part bs = .ok es →
      Gives (.tableLoadRoute 8 q) s (routeEnd s.part (installRoutes s.part s.m es) r 0 0)) ∧
    (∀ e d, checkRoutes s.part bs = .error (e, d) →
      Gives (.tableLoadRoute 8 q) s (routeEnd s.part s.m r e d))) ∧
  (∀ (s : State) (w q : Nat) (r : Running), dueCmd s.part s.m w q 0x41 = some r → r.memFail = false →
    txnsOut s.m (.cmdRead r.acc) = false → storeRoom s.part s.m (bytesOf r.line 24 27) (bytesOf r.line 28 31) = true →
    useMoves s.part s.m [.program, .system] = false →
    let a := bytesOf r.line 16 23 % 2 ^ 42
    let bs := imageLines s.m a (bytesOf r.line 24 27)
    let ts := imageLines s.m (a + 64 * bytesOf r.line 24 27) (bytesOf r.line 28 31)
    (programFault s.part s.m (partitionSize (ctxOf s.m w)) bs ts = (0, 0) →
      let m := setCtx s.m w { ctxOf s.m w with newProgram := some (r.acc, ⟨bs, ts⟩) }
      Gives (.progLoad w q) s (progLoadEnd s.part
        (if tickRuns s.part m || hasParked m w then m else takeNewProgram s.part m w) r 0 0)) ∧
    (∀ e i, programFault s.part s.m (partitionSize (ctxOf s.m w)) bs ts = (e, i) → e ≠ 0 →
      Gives (.progLoad w q) s (progLoadEnd s.part s.m r e i))) ∧
  (∀ (s : State) (w q : Nat) (r : Running), dueCmd s.part s.m w q 0x41 = some r →
    storeRoom s.part s.m (bytesOf r.line 24 27) (bytesOf r.line 28 31) = false →
    Gives (.progLoad w q) s (progLoadEnd s.part s.m r 0x0B 0)) ∧
  (∀ (s : State) (w q : Nat) (r : Running), dueCmd s.part s.m w q 0x42 = some r → r.memFail = false →
    groupCopies s.m w = false → txnsOut s.m (.cmdRead r.acc) = false → txnsOut s.m (.cmdWrite r.acc) = false →
    (r.phase = .waiting → Gives (.biasUpdate w q) s (complete s.m r stDone)) ∧
    (∀ t, r.phase = .started → (bytesOf r.line 16 16).testBit 0 = false →
      checkUpdate (ctxOf s.m w) r (hostBytes s.m (bytesOf r.line 24 31 % 2 ^ 42) r.stage) = .ok t →
      let m := setRunning s.m { r with phase := .atEdge }
      let m := setCtx m w { ctxOf s.m w with pend := (ctxOf s.m w).pend ++ [t] }
      Gives (.biasUpdate w q) s (if atOnce s.part m w then applyTables s.part m w PendTable.isUpdate else m)))

/-- The collective operations of a command or lane: one that has started goes on (counts, chunks, the closing barrier);
one that waits for its turn is checked when that comes, and started where no read is out and the group can carry
it. -/
def Obligations.CollectivesAnswer : Prop :=
  (∀ (s : State) (o : OpRef) (x : OpCtx) (c : Instr) (opc : Nat) (f : StoreRead),
    ((c, opc) ∈ [(Instr.collA2a o f, opA2a), (Instr.collA2av o f, opA2av), (Instr.collReduce o f, opReduce)] ∨
      (c, opc, f) = (Instr.collBarrier o, opBarrier, StoreRead.clean)) →
    dueOp s.part s.m o opc = some x →
    let m := readFinds s.part s.m f
    (2 ≤ x.stage → Gives c s (settleColl s.part m x.handle)) ∧
    (x.stage = 0 → txnsOut m x.useR = false → collTurn m x = true → winsMove m x = false → x.memFail = false →
      let n := collCheck s.part m x
      (∀ y, findOp n x.ctx x.owner = some y → y.stage = 1 → Gives c s (collStage s.part n y)) ∧
      (findOp n x.ctx x.owner = none → Gives c s n))) ∧
  (∀ (p : Part) (m : Mach) (y : OpCtx) (g : Group), y.stage = 1 → txnsOut m y.useR = false → collTurn m y = true →
    winsMove m y = false → countsBad m y g = none → y.memFail = false → collLate m y (heldGroup m y) = none → heldGroup m y = some g → groupLacks y g = false →
    collStage p m y = beginColl p m y g)

/-- Groups. With its image read, GROUP_FORM and GROUP_REFORM complete with the failure of the first check of R323 that
fails, dissolve the group (REFORM alone), or start the formation; rank 0 takes JOINs and TREE_ACKs of its
epoch, and refuses a JOIN of another image; a relay reserves the slots that a TREE_SET names and answers, and
frees them on TREE_FREE. -/
def Obligations.GroupFormationAnswers : Prop :=
  (∀ (s : State) (w q : Nat) (r : Running) (c : Instr) (opc : Nat),
    (c, opc) ∈ [(Instr.groupForm w q, 0x14), (Instr.groupReform w q, 0x15)] →
    dueCmd s.part s.m w q opc = some r → r.memFail = false → txnsOut s.m (.cmdRead r.acc) = false → r.stage = 1 →
    let a := bytesOf r.line 16 23 % 2 ^ 42
    let g := readImage (hostBytes s.m a (readImage (hostBytes s.m a 64)).len)
    (∀ e, imageFault s.part s.m w (opc == 0x15) g = some e → Gives c s (imageFails s.part s.m r g e)) ∧
    (imageFault s.part s.m w (opc == 0x15) g = none → resumes s.m w g = false → formable s.m g.handle = true →
      Gives c s (if g.dissolve then dissolve s.part s.m r g
        else startForming s.part (setRunning s.m { r with stage := 2 }) r.acc w g))) ∧
  (∀ (s : State) (x : RxPkt) (g : Group) (f : Forming), findColl s.m kindJoin (formPick s.m) = some x →
    isDuplicate s.m x = false → pkCrcOk (rxBytes x) = true →
    let h := pk (rxBytes x) 0 1
    let m := crcPass (acceptAck s.part s.m x) x.src
    groupOf m h = some g → g.forming = some f → pk (rxBytes x) 4 7 = g.epoch →
    (pk (pkData (rxBytes x)) 0 3 = f.crc →
      Gives .join s (joinReady s.part
        (setGroup m h { g with forming := some { f with joins := addOnce f.joins x.src } }) h)) ∧
    (pk (pkData (rxBytes x)) 0 3 ≠ f.crc → Gives .join s (formRefused s.part m h 7 x.src))) ∧
  (∀ (s : State) (x : RxPkt) (g : Group) (f : Forming), findColl s.m kindAck (formPick s.m) = some x →
    isDuplicate s.m x = false → pkCrcOk (rxBytes x) = true → pk (rxBytes x) 3 3 ≠ kindNak →
    let h := pk (rxBytes x) 0 1
    let m := crcPass (acceptAck s.part s.m x) x.src
    groupOf m h = some g → g.forming = some f → pk (rxBytes x) 4 7 = g.epoch →
    Gives .treeAck s (joinReady s.part
      (setGroup m h { g with forming := some { f with acks := addOnce f.acks x.src } }) h)) ∧
  (∀ (s : State) (x : RxPkt), s.part.relay = true → findColl s.m kindSet (fun _ => true) = some x →
    isDuplicate s.m x = false → pkCrcOk (rxBytes x) = true → s.m.coll.redResv = [] →
    let bs := rxBytes x
    let m := freeResv (crcPass (acceptAck s.part s.m x) x.src) fun r => r.handle == pk bs 0 1 && decide (r.epoch < pk bs 4 7)
    (crcPass (acceptAck s.part s.m x) x.src).coll.redResv = [] →
    let n := newResv m bs
    Gives .treeSet s (treeAnswer s.part { n.2 with coll := { n.2.coll with redResv := n.2.coll.redResv ++ [n.1] } }
      x.src (pk bs 0 1) (pk bs 4 7) kindAck)) ∧
  (∀ (s : State) (x : RxPkt), s.part.relay = true → findColl s.m kindFree (fun _ => true) = some x →
    isDuplicate s.m x = false → pkCrcOk (rxBytes x) = true →
    Gives .treeFree s (freeResv (crcPass (acceptAck s.part s.m x) x.src) fun r =>
      r.handle == pk (rxBytes x) 0 1 && decide (r.epoch ≤ pk (rxBytes x) 4 7)))

/-- Barriers and aborts. The root counts an arrival of its current barrier; a member that has arrived schedules the
release that its record gives, by the record's arrival, its lead and its residence; at that instant the barrier
goes on to the next and what waited goes on. An abort with a terminal reason of an operation's own number ends
it with that reason's status; a stall aborts with TIMEOUT, a deferral with PREEMPT. -/
def Obligations.BarriersAndAbortsAnswer : Prop :=
  (∀ (s : State) (r : In0) (m : Mach) (g : Group) (rank : Nat), takeRecord s.m 0x62 = some (r, m) →
    groupOf m (bytesOf r.bytes 0 1) = some g → g.rank r.src = some rank → bytesOf r.bytes 4 7 = g.epoch →
    myRank s.part m g = 0 → bitsOf r.bytes 83 64 = g.bar.bseq →
    Gives .barArrive s (countArrival s.part m (bytesOf r.bytes 0 1) rank (bitsOf r.bytes 87 84))) ∧
  (∀ (s : State) (r : In0) (m : Mach) (g : Group), takeRecord s.m 0x63 = some (r, m) →
    groupOf m (bytesOf r.bytes 0 1) = some g → bytesOf r.bytes 4 7 = g.epoch →
    bitsOf r.bytes 83 64 = g.bar.bseq → g.bar.here = some (bitsOf r.bytes 87 84) →
    let delay : Int := if r.src = nodeId s.part m then 0 else linkDelay s.part m r.link
    Gives .barRelease s (setRelease s.part m (bytesOf r.bytes 0 1)
      (10000 * r.at10 + leadFs (bytesOf r.bytes 2 3) - 10000 * ((bytesOf r.bytes 12 15 : Nat) + delay)))) ∧
  (∀ (s : State) (h : Nat) (g : Group), groupOf s.m h = some g → g.bar.here ≠ none →
    ∀ t, g.bar.releaseAt = some t → t ≤ s.m.tick.time →
    Gives (.barrierRelease h) s (settleColl s.part (afterRelease (nextBarrier s.part s.m h) h g) h)) ∧
  (∀ (s : State) (r : In0) (m' : Mach) (g : Group) (op : CollOp), takeRecord s.m 0x40 = some (r, m') →
    let m := setEvt s.part (bump s.part m' Reg.collAbortRx 1) Reg.collPage 0
    let h := bytesOf r.bytes 0 1
    groupOf m h = some g → bytesOf r.bytes 4 7 = g.epoch → g.forming = none → g.op = some op →
    op.opseq = bytesOf r.bytes 12 15 → isRerun (bytesOf r.bytes 3 3) = false → bitsOf r.bytes 19 16 ≤ op.att →
    Gives .collAbort s (endColl (leaveBarrier (raiseAtt m h (bitsOf r.bytes 19 16)) h) h
      (remoteStatus (bytesOf r.bytes 3 3)))) ∧
  (∀ (s : State) (h : Nat) (g : Group) (op : CollOp), groupOf s.m h = some g → g.op = some op →
    (op.suspended = false → op.entered = false →
      op.lastAt + 1000 * fsPerNs * rdF s.part s.m Reg.collTmo 31 16 ≤ s.m.tick.time →
      Gives (.collStall h) s (abortColl s.part s.m h reTimeout stTimeout)) ∧
    ((ctxOf s.m g.ctx).phase = 1 →
      (ctxOf s.m g.ctx).saveAt + 1000 * fsPerNs * rdF s.part s.m Reg.collTmo 15 0 ≤ s.m.tick.time →
      Gives (.collDefer h) s (preemptColl s.part s.m h g op)))

/-- The packet at the front of the receive list is a collective packet of a kind, to be taken by the operation op
(as o) that its group g runs. -/
def collTaken (m : Mach) (kind : Nat) (x : RxPkt) (g : Group) (o : OpCtx) (op : CollOp) : Prop :=
  m.net.rx.head? = some x ∧ x.vc = 3 ∧ x.mgmt = false ∧ rxStarted x = true ∧ pk (rxBytes x) 3 3 = kind ∧
  collVerdict m x = .take ∧ groupOf m (pk (rxBytes x) 0 1) = some g ∧ g.op = some op ∧
  findOp m g.ctx op.owner = some o

/-- The operation's last write to its destination has ended, and the next can go: its window's kiln group is not being
copied. -/
def dstReady (m : Mach) (o : OpCtx) : Prop := txnsOut m o.useW = false ∧ dstMoves m o = false

/-- Collective data. A data packet within the destination is written at the place that it names, a result at its
chunk's place, and a ring result likewise and passed on: the flits that have come are written, and once the write has
ended and the packet is whole it is acknowledged and counted. A counts packet's row is kept. At a relay a contribution
to a free slot opens it, the first child's is folded at once and any other waits for its turn, a further one is folded in the
order of the children, and a result is copied to the slot's children; where
the slot's contributions are all folded the partial goes up, or at the root the result down. On the ring a partial gets
the rank's own contribution and goes to the next rank, and at its owner becomes the result; the partial waits where an item that goes
first would be overtaken on a combine unit. A filter entry found lost is handled before the packet is. -/
def Obligations.CollectiveDataAnswers : Prop :=
  (∀ (s : State) (x : RxPkt) (g : Group) (o : OpCtx) (op : CollOp), collTaken s.m kindData x g o op →
    dstReady s.m o → rxWhole x = true →
    let h := pk (rxBytes x) 0 1
    let off := o.cDst + pk (rxBytes x) 24 31
    dstHolds s.m o off (pkLen (rxBytes x)) = true →
    Gives .a2aData s (takeData s.part s.m x h o off fun m => updOp m h fun y => { y with gotN := y.gotN + 1 })) ∧
  (∀ (s : State) (x : RxPkt) (g : Group) (o : OpCtx) (op : CollOp), s.part.relay = false →
    collTaken s.m kindRedDown x g o op → dstReady s.m o → rxWhole x = true →
    let h := pk (rxBytes x) 0 1
    let c := pk (rxBytes x) 8 11 - g.c0
    g.c0 ≤ pk (rxBytes x) 8 11 → c < o.chunks →
    Gives .redDown s (takeData s.part s.m x h o (redPlace o c) fun m =>
      updOp m h fun y => { y with done := addOnce y.done c })) ∧
  (∀ (s : State) (x : RxPkt) (g : Group) (o : OpCtx) (op : CollOp), collTaken s.m kindAg x g o op →
    dstReady s.m o → rxWhole x = true → pk (rxBytes x) 8 11 < o.chunks →
    let h := pk (rxBytes x) 0 1
    let bs := rxBytes x
    let c := pk bs 8 11
    Gives .ringAg s (takeData s.part s.m x h o (redPlace o c) fun m =>
      let me := myRank s.part m g
      let m := updOp m h fun y => { y with done := addOnce y.done c }
      if (me + 1) % g.size = c % g.size then m
      else sendColl s.part m h g op ((me + 1) % g.size)
        (collPacket h op.att kindAg g.epoch c me (1024 * c * redBytes o.redFmt) op.opseq op.opc (pkData bs)))) ∧
  (∀ (p : Part) (m : Mach) (x : RxPkt) (h off : Nat) (o : OpCtx) (done : Mach → Mach),
    let q := putFlits p m x o off
    opFailed q.1 o = false →
    (txnsOut q.1 o.useW = true → takeData p m x h o off done = q.1) ∧
    (txnsOut q.1 o.useW = false → rxWhole (freeFlits q.1 q.2 q.2.put.contains).2 = true →
      let f := freeFlits q.1 q.2 q.2.put.contains
      takeData p m x h o off done = settleColl p (done (acceptAck p (crcPassed f.1 h x.src) f.2)) h)) ∧
  (∀ (s : State) (x : RxPkt) (g : Group) (o : OpCtx) (op : CollOp), collTaken s.m kindCounts x g o op → rxWhole x = true →
    let h := pk (rxBytes x) 0 1
    let d := pkData (rxBytes x)
    let row := (List.range g.size).map fun i => pk d (4 * i) (4 * i + 3)
    let cap := pk d (4 * g.size) (4 * g.size + 3)
    Gives .a2avCounts s (settleColl s.part (acceptAck s.part (updOp (crcPassed s.m h x.src) h fun y =>
      { y with rows := Assoc.set y.rows (pk (rxBytes x) 12 13 % 4096) (row, cap) }) x) h)) ∧
  (∀ (s : State) (x : RxPkt) (r : RedResv), s.part.relay = true → isDuplicate s.m x = false →
    let bs := rxBytes x
    let n := pk bs 12 13 % 2048
    let k := pk bs 14 14
    let m := acceptAck s.part (crcPass s.m x.src) x
    resvOf s.m n = some r →
    (findRed s.part s.m kindRedUp = some x → redCase s.m x = .fresh → k = 0 →
      Gives .redUp s (foldOn s.part m r n (freshSlot bs) (redValues bs))) ∧
    (findRed s.part s.m kindRedUp = some x → redCase s.m x = .fresh → k ≠ 0 →
      Gives .redUp s (setSlot s.m n (freshSlot bs))) ∧
    (∀ z, findRed s.part s.m kindRedUp = some x → redCase s.m x = .more → slotOf s.m n = some z →
      (k < z.folded → Gives .redUp s m) ∧ (k ≥ z.folded → Gives .redUp s (foldOn s.part m r n z (redValues bs)))) ∧
    (findRed s.part s.m kindRedDown = some x → redCase s.m x = .fresh →
      Gives .redDown s (sendDown s.part m r n (freshSlot bs) (pkData bs))) ∧
    (∀ z, findRed s.part s.m kindRedDown = some x → redCase s.m x = .more → slotOf s.m n = some z → z.downOut = none →
      Gives .redDown s (sendDown s.part m r n z (pkData bs)))) ∧
  (∀ (p : Part) (m : Mach) (r : RedResv) (n : Nat) (z : RedSlot) (v : List F32), (placement p m .combine).isSome = true →
    foldOn p m r n z v = slotComplete p (placeItem p m .combine 8 .none (foldCycles z.elems)) r n
      { z with folded := z.folded + 1
               acc := if z.folded = 0 then v else (z.acc.zip v).map fun q => addK q.1 q.2 }) ∧
  (∀ (p : Part) (m : Mach) (r : RedResv) (n : Nat) (z : RedSlot), z.folded = r.children.length → z.downOut = none →
    (r.parent = none → slotComplete p m r n z = sendDown p m r n z (partialBytes z)) ∧
    (∀ d, r.parent = some d → slotComplete p m r n z = sendFlow p (setSlot m n z) d 3 (redPacket r.handle z.att kindRedUp
      z.epoch z.chunk ((r.parentBase + (n - r.base)) % 2048) r.myChild z.fmt z.elems (partialBytes z)) 8 .none)) ∧
  (∀ (s : State) (x : RxPkt) (g : Group) (o : OpCtx) (op : CollOp) (w : XWin), collTaken s.m kindRs x g o op →
    rxWhole x = true → partialReady s.part s.m o op (rxBytes x) = true → xfWin s.m o (o.winNo 0) = some w →
    let h := pk (rxBytes x) 0 1
    let bs := rxBytes x
    let c := pk bs 8 11
    let m := crcPassed s.m h x.src
    let me := myRank s.part m g
    let src := chunkSrc o op g.size me c
    xfWin m o (o.winNo 0) = some w → winBad m o.ctx w src.1 src.2 = none →
    (∀ a ∈ partialOps s.part s.m, opBefore s.part s.m a o = false) → (placement s.part m .combine).isSome = true →
    let m := placeItem s.part m .combine g.ctx (o.item m) (foldCycles (o.chunkElems c))
    let sum := redOut o.redFmt (((redElems o.redFmt (pkData bs)).zip
      (redElems o.redFmt (ownChunk m o op g me c))).map fun q => addInto o.redFmt q.1 q.2)
    let off := 1024 * c * redBytes o.redFmt
    let pass := fun m kind => settleColl s.part (sendColl s.part m h g op ((me + 1) % g.size)
      (collPacket h op.att kind g.epoch c me off op.opseq op.opc sum)) h
    let m := acceptAck s.part m x
    let n := if me = c % g.size then
        pass (writeDst s.part (updOp m h fun y => { y with done := addOnce y.done c }) o (redPlace o c) sum) kindAg
      else pass m kindRs
    GivesInTurn .ringRs s n) ∧
  (∀ (s : State) (x : RxPkt) (c : Instr) (kinds : List Nat) (base : Part → Mach → Mach),
    (c, kinds, base) ∈ [(Instr.a2aData .filter, [kindData], a2aData), (Instr.a2avCounts .filter, [kindCounts], a2avCounts),
      (Instr.ringAg .filter, [kindAg], ringAg), (Instr.redDown .filter, [kindRedDown], redDown),
      (Instr.join .filter, [kindJoin], join), (Instr.treeAck .filter, [kindAck, kindNak], treeAck),
      (Instr.treeSet .filter, [kindSet], treeSet), (Instr.treeFree .filter, [kindFree], treeFree)] →
    oldestColl s.m kinds = some x → storesUp s.part s.m = true → x.taken = false →
    Gives c s (base s.part (filterLost s.part s.m x.src x.vc)))

/-! ### Every command completes: fabric memory, swaps, self-test -/

/-- Fabric commands. A FAB_BATCH with its list read takes its verbs in order, and goes on with those it has; FENCE
completes when no WRITE it covers is outstanding, with the first that failed; the four requests send their
packet and wait for its answer. -/
def Obligations.FabricCommandsAnswer : Prop :=
  (∀ (s : State) (w q : Nat) (r : Running) (f : StoreRead), dueCmd s.part s.m w q 0x20 = some r → groupCopies s.m w = false →
    let n := bytesOf r.line 32 35
    let m := readFinds s.part s.m f
    (r.stage = 0 → r.memFail = false → txnsOut m (.cmdRead r.acc) = false →
      let lines := (List.range n).map fun i => hostLine m (bytesOf r.line 16 23 % 2 ^ 42 + 64 * i)
      let b : Batch := { acc := r.acc, ctx := w, statusAddr := bytesOf r.line 24 31 % 2 ^ 42, wins := r.wins,
                         verbs := lines.zipIdx.map fun (l, i) => { idx := i, line := l } }
      let m := setRunning { m with cmd := { m.cmd with batches := m.cmd.batches ++ [b] } } { r with stage := 1 }
      Gives (.fabBatch w q f) s (batchSettle s.part (pumpVerbs s.part r.acc (n + 1) m) r.acc)) ∧
    (r.stage = 1 → Gives (.fabBatch w q f) s (batchSettle s.part (pumpVerbs s.part r.acc (n + 1) m) r.acc))) ∧
  (∀ (s : State) (w q : Nat) (r : Running), dueCmd s.part s.m w q 0x21 = some r →
    let covered := s.m.cmd.writes.filter fun k => k.ctx == w && decide (k.order < r.n) &&
      (bitOf r.line 143 || k.node == bytesOf r.line 16 17 % 4096)
    ((∀ k ∈ covered, k.failed ≠ none) →
      Gives (.fence w q) s (complete s.m r (((covered.head?).bind (·.failed)).getD stDone))) ∧
    ((∃ k ∈ covered, k.failed = none) → exec (.fence w q) s = .next s)) ∧
  (∀ (s : State) (w q : Nat) (r : Running) (c : Instr) (opc kind : Nat),
    (c, opc, kind) ∈ [(Instr.subscribe w q, 0x22, kSub), (Instr.publishInval w q, 0x23, kPub),
      (Instr.ownAcquire w q, 0x24, kOwnReq), (Instr.ownRelease w q, 0x25, kOwnRel)] →
    dueCmd s.part s.m w q opc = some r → r.stage = 0 → s.m.fab.subsOwn.length + subscribing s.m < 4096 →
    Gives c s (sendFlow s.part (setRunning s.m { r with stage := 1 }) (bytesOf r.line 16 17 % 4096) 4
      (cmdPacket s.part s.m w r.line kind) w (.cmd r.acc w)))

/-- Requests for this node's memory that pass their checks. A WRITE or ATOMIC is checked once, when it is first taken up.
A WRITE starts its transfer and, when that has ended, raises its region's counter and is acknowledged; a READ is
answered with the bytes; an ATOMIC writes the new value and answers with the old; a request whose region's entry
cannot be read is answered ERR_UNCORRECTABLE and the region is no longer valid, a retried ATOMIC whose cached answer
cannot be read is answered ERR_OUTCOME_UNKNOWN, and a filter entry that cannot be read is not VALID; SUB enters a
subscription or cancels it, and PUB notifies those that meet the range. -/
def Obligations.FabricServiceAnswers : Prop :=
  (∀ (p : Part) (m : Mach) (x : RxPkt), x.seen = none →
    let y : RxPkt := { x with seen := some (fabSee p m x) }
    seeRx p m x = (putRx m x y, y) ∧ ((fabSee p m x).reason, (fabSee p m x).status) = fabCheck p m x.src (rxBytes x) ∧
    (fabSee p m x).base = (regionOf m (readFab (rxBytes x)).region).base.toNat + (readFab (rxBytes x)).roff) ∧
  (∀ (s : State) (x : RxPkt), findServe s.m kWrite = some x →
    let k := readFab (rxBytes x)
    let z := seeRx s.part s.m x
    let seen := seenOf s.part z.1 z.2
    (x.taken = false → isDuplicate s.m x = false → seen.reason = 0 → lineHeld z.1 z.2 = false →
      let y := beginServe z.1 z.2 1
      Gives (.fabWrite .clean) s (startWrites s.part y.1 seen.base k.data (.serve y.2.serve))) ∧
    (x.taken = true → serveFailed s.m x = false →
      (∀ n, (seenOf s.part s.m x).evt = some n →
        Gives (.fabWrite .clean) s (acceptAck s.part (release (addEvt s.m n 1)) x)) ∧
      ((seenOf s.part s.m x).evt = none → Gives (.fabWrite .clean) s (acceptAck s.part s.m x)))) ∧
  (∀ (s : State) (x : RxPkt), findOther s.m kRead = some x →
    let k := readFab (rxBytes x)
    (x.taken = false → (fabSee s.part s.m x).reason = 0 →
      let z := seeRx s.part s.m x
      let y := beginServe z.1 z.2 1
      Gives (.fabRead .clean) s (startReads s.part y.1 (fabSee s.part s.m x).base k.len (.serve y.2.serve))) ∧
    (x.taken = true → serveFailed s.m x = false →
      Gives (.fabRead .clean) s
        (answer s.part s.m x stDone 0 (hostBytes s.m (seenOf s.part s.m x).base k.len)))) ∧
  (∀ (s : State) (x : RxPkt), systemCopies s.part s.m = false → findServe s.m kAtomic = some x → x.taken = true →
    serveFailed s.m x = false →
    let k := readFab (rxBytes x)
    let span := fabSpan s.m x
    (x.stage = 1 →
      let old := leNat (hostBytes s.m span.1 span.2)
      let z : RxPkt := { x with rxOld := old }
      let y := beginServe (putRx s.m x z) z 2
      Gives (.fabAtomic .clean) s (startWrites s.part y.1 span.1
        (leBytes span.2 (atomicNew k.op old k.op0 k.op1)) (.serve y.2.serve))) ∧
    (x.stage = 2 → Gives (.fabAtomic .clean) s (atomicAnswer s.part s.m x stDone 0 x.rxOld true))) ∧
  (∀ (s : State) (x : RxPkt) (n : Nat), engineUp s.m = true → isFatal s.part s.m = false →
    readsEntry s.part s.m x = true →
    let m := regionLost s.part s.m (readFab (rxBytes x)).region
    (regionOf m (readFab (rxBytes x)).region).v = false ∧
    (findServe s.m kWrite = some x → isDuplicate s.m x = false →
      Gives (.fabWrite (.word n false)) s (respond s.part (noteLost s.part (dropRx m x) x) x stUncorrectable 0x08 0 [])) ∧
    (∀ c kind, (c, kind) ∈ [(Instr.fabRead (.word n false), kRead), (Instr.sub (.word n false), kSub),
        (Instr.pub (.word n false), kPub), (Instr.ownReq (.word n false), kOwnReq),
        (Instr.ownRel (.word n false), kOwnRel)] →
      findOther s.m kind = some x → Gives c s (answer s.part (noteLost s.part m x) x stUncorrectable 0x08 [])) ∧
    (systemCopies s.part s.m = false → findServe s.m kAtomic = some x → atomicChecks s.m x = true →
      Gives (.fabAtomic (.word n false)) s
        (atomicAnswer s.part (markFilter m x.src x.vc x.fsn) x stUncorrectable 0x08 0 true))) ∧
  (∀ (s : State) (x : RxPkt) (n : Nat), engineUp s.m = true → isFatal s.part s.m = false →
    systemCopies s.part s.m = false → findServe s.m kAtomic = some x → x.taken = false → isDuplicate s.m x = true →
    let m := replyLost s.part s.m x.src x.fsn n
    let z := seeRx s.part m x
    cacheLookup m x.src x.fsn = none ∧
    (findServe m kAtomic = some x → s.part.relay = false → lineHeld z.1 z.2 = false →
      Gives (.fabAtomic (.line n false)) s
        (respond s.part (noteFail s.part (dropRx z.1 z.2) x.src (readFab (rxBytes x)) 0x09 true) z.2 stUnknown 0x09 0 []))) ∧
  (∀ (s : State) (x : RxPkt), engineUp s.m = true → isFatal s.part s.m = false → findServe s.m kWrite = some x →
    x.taken = false → Gives (.fabWrite .filter) s (fabWrite s.part (filterLost s.part s.m x.src x.vc))) ∧
  (∀ (s : State) (x : RxPkt), findOther s.m kSub = some x → (fabCheck s.part s.m x.src (rxBytes x)).1 = 0 →
    let k := readFab (rxBytes x)
    let e : Subscription := { node := x.src, ctx := k.flags / 2 % 8, region := k.region, roff := k.roff, len := k.len }
    (k.op = 1 →
      Gives (.sub .clean) s (answer s.part { s.m with fab := { s.m.fab with subsHome := s.m.fab.subsHome.erase e } }
        x stDone 0 [])) ∧
    (k.op ≠ 1 → e ∉ s.m.fab.subsHome → s.m.fab.subsHome.length < 4096 →
      Gives (.sub .clean) s (answer s.part { s.m with fab := { s.m.fab with subsHome := s.m.fab.subsHome ++ [e] } }
        x stDone 0 []))) ∧
  (∀ (s : State) (x : RxPkt), findOther s.m kPub = some x → (fabCheck s.part s.m x.src (rxBytes x)).1 = 0 →
    let k := readFab (rxBytes x)
    let hit := s.m.fab.subsHome.filter fun e =>
      e.meets k.region k.roff k.len && !(e.node == x.src && e.ctx == k.flags / 2 % 8)
    let id := s.m.fab.nextPub
    let m := dropRx s.m x
    let q : Pub := { id := id, src := x.src, fsn := x.fsn, region := k.region, job := k.job, left := hit.length }
    let m := { m with fab := { m.fab with nextPub := id + 1, pubs := m.fab.pubs ++ [q] } }
    Gives (.pub .clean) s (pubSettle s.part (hit.foldl (fun m e =>
      sendInval s.part m e false x.src k.roff k.len (.inval id e.node e.ctx e.region e.roff e.len)) m) id))

/-- Notices, ownership and answers. INVAL puts a record in the context's ring and is acknowledged when that is
written; OWN_REQ takes an unowned region or joins its waiters; OWN_REL of the owner passes it to the next waiter;
OWN_GRANT completes the acquisitions that wait; the first RESP to an outstanding request settles it. -/
def Obligations.OwnershipAndAnswers : Prop :=
  (∀ (s : State) (x : RxPkt), findOther s.m kInval = some x →
    (x.taken = true → Gives .inval s (acceptAck s.part s.m x)) ∧
    (x.taken = false → isDuplicate s.m x = false → (readFab (rxBytes x)).op % 2 = 0 →
      let k := readFab (rxBytes x)
      let y := beginServe s.m x 1
      let m := iringWrite s.part y.1 (k.flags / 2 % 8)
        (iringRecord k.region x.src (k.op0 % 4096) 0 k.roff k.len) (some y.2.serve)
      Gives .inval s (if iringHolds m y.2.serve then m else acceptAck s.part m y.2))) ∧
  (∀ (s : State) (x : RxPkt), findOther s.m kOwnReq = some x → (fabCheck s.part s.m x.src (rxBytes x)).1 = 0 →
    let k := readFab (rxBytes x)
    let r := regionOf s.m k.region
    (r.owner = none →
      Gives (.ownReq .clean) s (answer s.part (setRegion s.m k.region { r with owner := some x.src }) x stDone 0 [])) ∧
    (∀ n, r.owner = some n → n ≠ x.src →
      (∀ w ∈ s.m.fab.waiters, w.1 ≠ k.region ∨ w.2.1 ≠ x.src) → s.m.fab.waiters.length < 1024 →
      Gives (.ownReq .clean) s (acceptAck s.part
        { s.m with fab := { s.m.fab with waiters := s.m.fab.waiters ++ [(k.region, x.src, k.job)] } } x))) ∧
  (∀ (s : State) (x : RxPkt), findOther s.m kOwnRel = some x → (fabCheck s.part s.m x.src (rxBytes x)).1 = 0 →
    let k := readFab (rxBytes x)
    ((regionOf s.m k.region).owner = some x.src →
      Gives (.ownRel .clean) s (answer s.part (grantNext s.part s.m k.region) x stDone 0 [])) ∧
    ((regionOf s.m k.region).owner ≠ some x.src →
      Gives (.ownRel .clean) s (answer s.part { s.m with fab := { s.m.fab with
        waiters := s.m.fab.waiters.filter fun w => !(w.1 == k.region && w.2.1 == x.src) } } x stDone 0 []))) ∧
  (∀ (s : State) (x : RxPkt), s.m.net.rx.find? (fun x => isFab x kOwnGrant) = some x → isDuplicate s.m x = false →
    let m := acceptAck s.part s.m x
    Gives .ownGrant s ((acquiring m x.src (readFab (rxBytes x)).region).foldl
      (fun m r => complete m r (readFab (rxBytes x)).status) m)) ∧
  (∀ (s : State) (x : RxPkt) (o : Outst), s.m.net.rx.find? (fun x => isFab x kResp) = some x →
    let k := readFab (rxBytes x)
    findOut s.m x.src 4 k.rfsn = some o →
    let m := settleFlow s.part (dropRx s.m x) x.src 4 k.rfsn
    (∀ acc c, o.use = .cmd acc c → Gives .resp s (cmdAnswered m acc k.status)) ∧
    (∀ acc c i j, o.use = .verb acc c i j → groupCopies s.m c = false →
      let z := if k.status = stDone then verbResult s.part m acc i j k else (m, k.status)
      Gives .resp s (verbPktDone s.part z.1 acc i j z.2)))

/-- Fabric registers. A lock ends after HOLD_MS, or by LOCK_CLR of its source or of all; DUX_FORCE passes an owned
region on as a release would; region entries take CTRL (unless R351 ignores it), and BASE, LEN and KEY (the
first two while V is 0); KEYGEN draws the key; FAB_IRING_TAIL frees room. -/
def Obligations.FabricRegistersAnswer : Prop :=
  (∀ (s : State) (n : Nat), (lockOf s.m n).locked = true → rdF s.part s.m Reg.fabLockCtrl 47 32 ≠ 0 →
    (lockOf s.m n).start + 1000000000000 * rdF s.part s.m Reg.fabLockCtrl 47 32 ≤ s.m.tick.time →
    Gives (.lockoutHoldEnd n) s (unlock s.m n)) ∧
  (∀ (s : State) (src : Src) (v : Word), Reaches s src Reg.fabLockClr →
    (bitOf v 12 = true → GivesW src (.lockClr src v) s
      { s.m with fab := { s.m.fab with locks := s.m.fab.locks.filter fun q => !q.2.locked } }) ∧
    (bitOf v 12 = false → (lockOf s.m (bitsOf v 11 0)).locked = true →
      GivesW src (.lockClr src v) s (unlock s.m (bitsOf v 11 0)))) ∧
  (∀ (s : State) (src : Src) (v : Word), Reaches s src Reg.fabDuxForce →
    (regionOf s.m (bitsOf v 15 0)).owner ≠ none →
    GivesW src (.duxForce src v) s (grantNext s.part s.m (bitsOf v 15 0))) ∧
  (∀ (s : State) (src : Src) (addr : Nat) (v : Word), inRegionWin addr = true → Reaches s src addr →
    let r := (regionAt s.part s.m addr).1
    let x := regionOf s.m r
    ((regionAt s.part s.m addr).2 = 0 → ctrlRefused x v = false → bitOf v 57 = false →
      GivesW src (.regionEntryWrite src addr v) s (setRegionCtrl s.part s.m r v)) ∧
    ((regionAt s.part s.m addr).2 = 0 → ctrlRefused x v = true →
      Refuses (.regionEntryWrite src addr v) s src addr) ∧
    ((regionAt s.part s.m addr).2 = 1 → x.v = false →
      GivesW src (.regionEntryWrite src addr v) s (setRegion s.m r { x with base := v &&& 0x3FF_FFFF_FFC0 })) ∧
    ((regionAt s.part s.m addr).2 = 2 → x.v = false →
      GivesW src (.regionEntryWrite src addr v) s (setRegion s.m r { x with len := v &&& 0x7FF_FFFF_FFFF })) ∧
    ((regionAt s.part s.m addr).2 = 3 → GivesW src (.regionEntryWrite src addr v) s (setKey s.part s.m r v)) ∧
    ((regionAt s.part s.m addr).2 = 0 → addr % 32 = 0 → ctrlRefused x v = false → bitOf v 57 = true →
      GivesW src (.keygen src addr v) s (keygenRegion s.part (setRegionCtrl s.part s.m r v) r))) ∧
  (∀ (s : State) (src : Src) (c : Nat) (v : Word), c < 8 → Reaches s src (Reg.ctxFabIringTail c) →
    GivesW src (.fabIringTailWrite src c v) s
      (iringOverflow s.part (wr s.part s.m (Reg.ctxFabIringTail c) (wordOf (bitsOf v 31 0))) c))

/-- Contexts and swaps. A save of a resident context begins its drain, writes its queue when the drain ends, then its
image, and with the image written releases the context and completes, and one whose writes fail leaves the context
resident and ends ERR_UNCORRECTABLE; a restore with AREA 0 makes the context resident
and empty where the checks of R417 pass and completes with the failed one's status otherwise; a kill stops what
runs, and completes once its write-backs have ended and every killed command has its record; CTL takes its fields
where no rule of R401 and R402
ignores the write, FAULT_CLR with it; SWAP_ADVICE is set when its condition has held for HOLD_US. -/
def Obligations.SwapsAnswer : Prop :=
  (∀ (s : State) (w q : Nat) (r : Running) (f : StoreRead), dueCmd s.part s.m w q 0x60 = some r →
    let m := readFinds s.part s.m f
    let c := swapCtx r.line
    (r.stage = 0 → ctxDefined s.part m c = true → (ctxOf m c).resident = true → (ctxOf m c).phase = 0 →
      Gives (.ctxSave w q f) s (startSave s.part (setRunning m { r with stage := 1 }) c)) ∧
    (r.stage = 0 → (ctxDefined s.part m c = false ∨ (ctxOf m c).resident = false) →
      Gives (.ctxSave w q f) s (swapDone s.part m r stFormat)) ∧
    (r.stage = 2 → groupCopies m c = false → txnsOut m (.cmdWrite r.acc) = false →
      (∀ n, (ctxOf m c).phase = 2 → spillsOut m c = false → r.memFail = false →
        imageOut s.part m c (swapArea r.line) (.cmdWrite r.acc) = (false, n) → Gives (.ctxSave w q f) s n) ∧
      ((ctxOf m c).phase = 3 → r.memFail = false →
        Gives (.ctxSave w q f) s (setCtx m c { ctxOf m c with phase := 4 })) ∧
      ((ctxOf m c).phase = 4 →
        Gives (.ctxSave w q f) s (swapDone s.part (saveEnds s.part m c (swapArea r.line)) r stDone)) ∧
      (((ctxOf m c).phase = 2 ∧ spillsOut m c = false ∨ (ctxOf m c).phase = 3) → r.memFail = true →
        Gives (.ctxSave w q f) s (swapDone s.part (saveFails s.part m c) r stUncorrectable)))) ∧
  (∀ (s : State) (c : Nat) (r : Running), engineUp s.m = true → isFatal s.part s.m = false →
    (ctxOf s.m c).phase = 1 → drained s.m c = true → queueFits s.part s.m (ctxOf s.m c).slot c = true →
    savingCmd s.m c = some r → r.stage = 1 →
    Gives (.ctxSaveDrainEnd c) s (queueOut s.part (setRunning s.m { r with stage := 2 }) c)) ∧
  (∀ (s : State) (w q : Nat) (r : Running), dueCmd s.part s.m w q 0x61 = some r →
    let c := swapCtx r.line
    (r.stage = 0 → (ctxOf s.m c).phase ≠ 5 → partCopies s.part s.m c = false → swapArea r.line = 0 →
      (restoreCheck s.part s.m c none = 0 →
        Gives (.ctxRestore w q) s (swapDone s.part (restoreEmpty s.part (takeParts s.part s.m c 0 0) c) r
          (restoreStatus 0))) ∧
      (restoreCheck s.part s.m c none ≠ 0 →
        Gives (.ctxRestore w q) s (swapDone s.part
          (restoreFails s.part s.m c (restoreCheck s.part s.m c none)) r
          (restoreStatus (restoreCheck s.part s.m c none))))) ∧
    (r.stage = 1 → swapArea r.line ≠ 0 → partCopies s.part s.m c = false → txnsOut s.m (.cmdRead r.acc) = false →
      let b := restoreBody s.part s.m c (swapArea r.line) r.memFail
      Gives (.ctxRestore w q) s (swapDone s.part b.2 r (restoreStatus b.1)))) ∧
  (∀ (s : State) (w q : Nat) (r : Running), dueCmd s.part s.m w q 0x62 = some r →
    let c := swapCtx r.line
    (r.stage = 0 → ctxDefined s.part s.m c = true → s.m.run.autoSwap = none → (ctxOf s.m c).phase < 2 →
      let m := killAny s.part s.m c
      let m := if (ctxOf m c).phase = 0 then setCtx m c { ctxOf m c with phase := 6 } else m
      let m := setRunning m { r with stage := 1 }
      Gives (.ctxKill w q) s (settleStopped s.part (if writeBackRuns m c then m
        else setRunning m { r with stage := 2, n := holdEnd s.part m c }))) ∧
    (r.stage = 1 → writeBackRuns s.m c = false →
      Gives (.ctxKill w q) s (setRunning s.m { r with stage := 2, n := holdEnd s.part s.m c })) ∧
    (r.stage = 2 → headReached s.part s.m c r.n = true →
      let m := if (ctxOf s.m c).phase = 6 then setCtx s.m c { ctxOf s.m c with phase := 0 } else s.m
      Gives (.ctxKill w q) s (settleStopped s.part (complete m r stDone)))) ∧
  (∀ (s : State) (src : Src) (c : Nat) (v : Word), c < 8 → Reaches s src (Reg.ctxCtl c) →
    let m := wr s.part s.m (Reg.ctxCtl c) (v &&& 0xE0FF00FF)
    (ctlRefused s.part s.m c v = true →
      Refuses (.ctlWrite src c v) s src (Reg.ctxCtl c) ∧ Refuses (.faultClr src c v) s src (Reg.ctxCtl c)) ∧
    (ctlRefused s.part s.m c v = false → bitOf v 28 = false →
      GivesW src (.ctlWrite src c v) s
        (if !ctxDefined s.part s.m c && bitOf v 31 then defineCtx s.part m c else m)) ∧
    (ctlRefused s.part s.m c v = false → bitOf v 28 = true → ctxDefined s.part s.m c = true →
      GivesW src (.faultClr src c v) s (clearFault s.part m c))) ∧
  (∀ (s : State) (t : Int), (trackAdvice s.part s.m).run.adviceSince = some t →
    (trackAdvice s.part s.m).run.adviceGiven = false →
    engineUp (trackAdvice s.part s.m) = true → isFatal s.part (trackAdvice s.part s.m) = false →
    t + 1000000000 * rdF s.part (trackAdvice s.part s.m) Reg.schedCtrl 23 8 ≤ (trackAdvice s.part s.m).tick.time →
    let m := trackAdvice s.part s.m
    Gives .swapAdvice s (startAutoSwap s.part
      (setEvt s.part { m with run := { m.run with adviceGiven := true } } Reg.schedPage 0)))

/-- Self-test, calibration and the log's copy. A test whose checks pass takes its unit, one that fails a check ends
with its status, and a finished test gives the unit back or retires it; a measurement starts its links' parts; a
snapshot writes its header and entries and completes when they are written. -/
def Obligations.SelfTestsAnswer : Prop :=
  (∀ (s : State) (w q : Nat) (r : Running), dueCmd s.part s.m w q 0x70 = some r → r.stage = 0 →
    bistUnit r.line = 1 →
    let h := bistIndex r.line
    (bistHearthCheck s.part s.m h = none → (∀ i, i < hearthCount s.part.conf → (hearthOf s.m i).bist = false) →
      Gives (.bistRunHearth w q) s
        (moveItems (setHearth (setRunning s.m { r with stage := 1 }) h
          { hearthOf s.m h with bist := true, bistAcc := r.acc, bistAt := s.m.tick.cycle }) h)) ∧
    (∀ st, bistHearthCheck s.part s.m h = some st →
      Gives (.bistRunHearth w q) s (bistRefused s.part s.m r st))) ∧
  (∀ (s : State) (w q : Nat) (r : Running), dueCmd s.part s.m w q 0x70 = some r → r.stage = 0 →
    bistUnit r.line = 2 → bistKilnCheck s.part s.m (bistIndex r.line) = none → s.m.run.kilnSt.bist = none →
    let m := setRunning s.m { r with stage := 1 }
    Gives (.bistRunKiln w q) s { m with run := { m.run with
      kilnSt := { m.run.kilnSt with bist := some (bistIndex r.line), bistAcc := r.acc, bistAt := s.m.tick.cycle } } }) ∧
  (∀ (s : State) (n : Nat), engineUp s.m = true → (hearthOf s.m n).bist = true →
    let x := hearthOf s.m n
    let m := setHearth s.m n { x with bist := false }
    (x.bistAt + 512 + 147456 + 512 ≤ s.m.tick.cycle →
      Gives (.bistTestEnd false n true) s (endBist s.part m x.bistAcc stDone true false)) ∧
    (x.bistAt + 512 + 147456 ≤ s.m.tick.cycle →
      Gives (.bistTestEnd false n false) s
        (endBist s.part (retireHearth s.part m n 3) x.bistAcc stChannelRetired true true))) ∧
  (∀ (s : State) (n : Nat), engineUp s.m = true → s.m.run.kilnSt.bist = some n →
    let x := s.m.run.kilnSt
    (x.bistAt + 4096 + 49152 + 4096 ≤ s.m.tick.cycle →
      Gives (.bistTestEnd true n true) s
        (endBist s.part { s.m with run := { s.m.run with kilnSt := { x with bist := none } } } x.bistAcc stDone true false)) ∧
    (x.bistAt + 4096 + 49152 ≤ s.m.tick.cycle →
      let m := report s.part (kilnPageRetired s.part
          { s.m with run := { s.m.run with kilnSt := { x with bist := none, served := some n } } })
        { code := 0x12, page := Reg.kilnPage, sev := .permanent, detail := [BitVec.ofNat 8 n, 1] }
      Gives (.bistTestEnd true n false) s (endBist s.part m x.bistAcc stChannelRetired true true))) ∧
  (∀ (s : State) (w q : Nat) (r : Running), dueCmd s.part s.m w q 0x71 = some r → r.stage = 0 →
    (∀ l ∈ maskList (bytesOf r.line 24 31 % 2 ^ 36) 36, (linkOf s.m l).meas = none) →
    Gives (.calMeasure w q) s
      (startMeas s.part s.m r (maskList (bytesOf r.line 24 31 % 2 ^ 36) 36) (bytesOf r.line 32 33))) ∧
  (∀ (s : State) (w q : Nat) (r : Running), dueCmd s.part s.m w q 0x78 = some r →
    (r.stage = 0 → Gives (.logSnapshot w q) s
      (startWrites s.part (setRunning s.m { r with stage := 1 }) (bytesOf r.line 16 23 % 2 ^ 42)
        (snapshotHeader s.part s.m r.n ++ r.entries.flatMap fun e => leBytes 32 e.toNat) (.cmdWrite r.acc))) ∧
    (r.stage = 1 → r.memFail = false → txnsOut s.m (.cmdWrite r.acc) = false →
      Gives (.logSnapshot w q) s (complete s.m r stDone)))


/-! ### Every command completes: scoring, dispatch, experts, combining -/

/-- Scores and admission. A score record that its lane takes, that passes its checks, whose tables are in force and
whose ember granules can be had is decided; one whose beats failed fails its item. An end-of-batch marker ends
the batch. An admission flit that belongs to the running step enters its records, returns a credit and cancels
what its source's closes end; one on the loopback path is taken. With every offer held, the verdicts and the
closes are queued. A grant adds to its source's admission credit. -/
def Obligations.ScoresAndAdmissionAnswer : Prop :=
  (∀ (s : State) (q k : Nat) (st : StepRun) (r : InRec) (l : LayerT), takeable s.part s.m q k chScore = some (st, r, l) →
    let layer := headLayer chScore r.header
    let x := phaseOf st layer
    groupCopies s.m st.ctx = false → x.eob = false →
    (∀ gs m, scEob r.header = false → r.fail = none → r.code = 0 → scoreReason l x.lastTok r.header = 0 →
      inputRoom s.part s.m st.ctx (512 * r.beats.length) = true → scoreTables s.part s.m st l x = none →
      newGranules s.part s.m st.ctx (slotGranules l) = some gs →
      seatScore s.part s.m st.ctx layer (scToken r.header) l.experts = some m →
      Gives (.scoreRecord q k .clean) s
        (takeRec s.part (recordInput s.part (decideRecord s.part m st r l gs) st.ctx layer r) q k)) ∧
    (∀ e, scEob r.header = false → r.fail = some e →
      Gives (.scoreRecord q k .clean) s
        (takeRec s.part (scoreFails s.m st layer (nodeId s.part s.m) (scToken r.header) e) q k)) ∧
    (scEob r.header = true → inputRoom s.part s.m st.ctx 512 = true → r.fail = none → r.code = 0 →
      scoreReason l none r.header = 0 →
      Gives (.eobMarker q k) s
        (takeRec s.part (endBatch s.part (recordInput s.part s.m st.ctx layer r) st layer l) q k))) ∧
  (∀ (s : State) (x : RxPkt) (c : Nat) (st : StepRun) (l : LayerT), findAdmit s.part s.m = some x →
    let bs := rxBytes x
    let layer := bhLayer (lineOf bs)
    let m := dropRx s.m x
    arrivalOf s.part m (lineOf bs) = .fits c st → boundTmpl st laneScore layer = some l →
    Gives (.admitFlitReceive false) s
      (cancelAdmit (sendRecord s.part (enterAdmits s.part m c layer l st (flitAdmits x.src bs)) x.src
        (creditRecord s.part (enterAdmits s.part m c layer l st (flitAdmits x.src bs)) c (keyOf st layer) 0 0x14 1 0))
        c layer x.src)) ∧
  (∀ s : State, Gives (.admitFlitReceive true) s (loopAdmits s.part s.m)) ∧
  (∀ (s : State) (layer : Nat) (st : StepRun) (l : LayerT), liveStep s.m = some st →
    boundTmpl st laneScore layer = some l → engineUp s.m = true → isFatal s.part s.m = false →
    let x := phaseOf st layer
    usesAdmit l = true → x.admitBound = true → x.verdictsSent = false → allClosed x l adOffers x.gotOffers = true →
    let vs := sortBy (fun (a b : Admit) => decide (b.pkey < a.pkey)) (verdictsOf (stepTables s.m st) l x.offers)
    let closes := l.nodes.map fun n =>
      ({ node := n, pkey := (vs.filter fun a => a.node == n).length, expert := 0, kind := adClose, phase := adVerdicts } : Admit)
    Gives (.admitVerdicts layer) s
      (queueAdmits s.part (updPhase s.m st.ctx (keyOf st layer) fun x => { x with verdictsSent := true })
        st.ctx (keyOf st layer) (vs ++ closes))) ∧
  (∀ (s : State) (r : In0) (m : Mach) (c : Nat), takeRecord s.m 0x14 = some (r, m) →
    creditTarget s.part m r.bytes = some c →
    (∀ st, stepOfCtx m c = some st → keyOfStep st (recKey r.bytes) = true →
      admitClosed (phaseOf st (recKey r.bytes).layer) r.src = false) →
    Gives .agrantReceive s (pumpAdmit s.part (setAdmitCredit m c (recKey r.bytes) r.src
      (admitCreditOf (ctxOf m c) (recKey r.bytes) r.src + bytesOf r.bytes 12 13)) c (recKey r.bytes).layer))

/-- Packing and sending. A token record of a decided token that passes its checks lands in stage buffers; the token that
PACK finds is encoded and sent as far as credit allows; a destination with nothing left to send gets its close
marker with the count sent; a head billet without credit asks for one; KINDLE is answered at once, ASK joins the
queue, and credit that comes is held and sends what waited. -/
def Obligations.PackAndSendAnswer : Prop :=
  (∀ (s : State) (q k : Nat) (st : StepRun) (r : InRec) (l : LayerT) (tok : Tok) (bufs : List (Nat × Nat)) (m : Mach),
    takeable s.part s.m q k chToken = some (st, r, l) → groupCopies s.m st.ctx = false →
    let layer := headLayer chToken r.header
    let area := (beatBytes r.beats).take (areaLen (tkFmt r.header) l.hidden 64)
    (phaseOf st layer).toks[(phaseOf st layer).paired]? = some tok → tok.decided = true → r.fail = none →
    tokenCheck l tok r area = 0 → inputRoom s.part s.m st.ctx (512 * r.beats.length) = true →
    landStage s.part s.m r area.length = some (bufs, m) →
    Gives (.tokenRecord q k) s (takeRec s.part (updPhase (recordInput s.part
      (setTok (putStage m st.ctx bufs area) st.ctx (keyOf st layer)
        { tok with landed := some (r.header, area), stage := bufs }) st.ctx layer r)
      st.ctx (keyOf st layer) fun x => { x with paired := x.paired + 1 }) q k)) ∧
  (∀ (s : State) (read : ReadFinding) (st : StepRun) (l : LayerT) (m : Mach), liveStep s.m = some st →
    let layer := (laneOf st lanePack).layer
    boundTmpl st lanePack layer = some l → engineUp s.m = true → isFatal s.part s.m = false →
    laneOpenAt st lanePack layer = true →
    ((phaseOf st layer).toks.filter fun t => t.decided && t.final && !t.packed).findSome?
      (packItem s.part s.m st layer l read) = some m →
    GivesInTurn (.packEncode read) s (drainAllIn s.part (pumpSend s.part m st.ctx))) ∧
  (∀ (s : State) (dest : Nat) (st : StepRun) (l : LayerT), liveStep s.m = some st →
    let layer := (laneOf st laneSend).layer
    let x := phaseOf st layer
    let k := keyOf st layer
    boundTmpl st laneSend layer = some l → engineUp s.m = true → isFatal s.part s.m = false →
    laneOpenAt st laneSend layer = true → dest ∈ l.nodes → dest ∉ x.closeSent → dest ∉ x.unreach →
    packFinished x = true → headBillet x dest = none →
    let m := lapseCredit s.part (updPhase s.m st.ctx k fun x => { x with closeSent := x.closeSent ++ [dest] }) st.ctx k dest
    let m := queuePacket s.part m 1 dest false 0 st.ctx (.close st.ctx k dest)
      (closeHeader s.part m st dest layer (Assoc.get 0 x.sentCount dest))
    Gives (.closeMarkerSend dest) s (if dest = nodeId s.part m then
      updPhase m st.ctx k fun x => { x with closeLeft := x.closeLeft ++ [dest] } else m)) ∧
  (∀ (s : State) (dest layer : Nat) (st : StepRun) (b : Billet), liveStep s.m = some st →
    askPhase s.part s.m st dest = some (layer, b) → engineUp s.m = true → isFatal s.part s.m = false →
    let x := ctxOf s.m st.ctx
    let k := keyOf st layer
    bestCredit x k dest b.cls = none → (dest, k) ∉ x.asked →
    let m := bump s.part (setCtx s.m st.ctx { x with asked := x.asked ++ [(dest, k)] }) (Reg.ctxAskCnt st.ctx) 1
    Gives (.ask dest) s (if dest = nodeId s.part m then queueAsk s.part m st.ctx dest k b.cls
      else sendRecord s.part m dest (creditRecord s.part m st.ctx k b.cls 0x13 1 0))) ∧
  (∀ (s : State) (r : In0) (m : Mach) (c : Nat), creditTarget s.part m r.bytes = some c →
    (takeRecord s.m 0x11 = some (r, m) → Gives .kindleReceive s
      (answerKindle s.part m c r.src (recKey r.bytes) (bytesOf r.bytes 10 10 % 8) (bytesOf r.bytes 12 13))) ∧
    (takeRecord s.m 0x13 = some (r, m) →
      let n := queueAsk s.part m c r.src (recKey r.bytes) (bytesOf r.bytes 10 10 % 8)
      Gives .askReceive s ((residents n).foldl (pumpAsks s.part) n)) ∧
    (takeRecord s.m 0x12 = some (r, m) → Gives .grantReceive s
      (takeGrant s.part m c r.src (recKey r.bytes) (bytesOf r.bytes 10 10 % 8) (bytesOf r.bytes 12 13)
        (bitOf r.bytes 112))))

/-- Experts and combining. The oldest billet whose case is known is received, off the network, where it is placed with
its first flit and its code lands with the last, or off the loopback path,
and a close marker recorded; where the partition's pool bitmaps cannot be read the context is torn down; the next rows of a rick that may go are streamed, and a rick with no rows left gets
its terminating record; an expert's output that passes its checks is encoded in a class-2 buffer and sent; a return
tile is matched and staged; a tile's next rank is folded and a complete tile streamed; in KV_MERGE mode the live
parts are merged; a combined tile that the host accepts is counted and done. -/
def Obligations.ExpertsAndCombiningAnswer : Prop :=
  (∀ (s : State) (x : RxPkt), s.m.net.rx.find? (billetDue s.part s.m) = some x →
    let h := rxHeader x
    (x.taken = true → GivesInTurn (.billetReceive false .clean) s (codeLands s.part (dropRx s.m x) x)) ∧
    (∀ (c : StepRun) (l : LayerT), x.taken = false → recvCase s.part s.m h = .item c l → groupCopies s.m c.ctx = false →
      (placement s.part s.m .packer).isSome = true →
      let m := placeItem s.part s.m .packer c.ctx (.step (bhLayer h) laneRecv (bhHome h) (bhToken h) 0) 1
      GivesInTurn (.billetReceive false .clean) s (if rxWhole x then takeBillet s.part (dropRx m x) x.src h (rxCode x) none false
        else takeBillet s.part (markRx m x) x.src h (rxCode x) (some x.ptag) false))) ∧
  (∀ (s : State) (c : Nat) (b : Billet) (r : StepRun) (l : LayerT),
    s.m.run.loopBillets.find? (fun b => (recvCase s.part s.m b.2.header).due) = some (c, b) →
    recvCase s.part s.m b.header = .item r l → groupCopies s.m r.ctx = false →
    (placement s.part s.m .packer).isSome = true →
    let h := b.header
    let m := placeItem s.part s.m .packer r.ctx (.step (bhLayer h) laneRecv (bhHome h) (bhToken h) 0) 1
    let m := { m with run := { m.run with loopBillets := m.run.loopBillets.erase (c, b) } }
    GivesInTurn (.billetReceive true .clean) s (loopCopied (takeBillet s.part m (nodeId s.part m) h b.code none false) c b)) ∧
  (∀ (s : State) (loop : Bool) (n c layer : Nat), billetItem s.part s.m loop = some (c, layer) →
    groupCopies s.m c = false →
    GivesInTurn (.billetReceive loop (.word n false)) s
      (billetReceive loop s.part (teardown s.part (wordLost s.part s.m c) c causeInternal layer)) ∧
    GivesInTurn (.billetReceive loop (.line n false)) s (billetReceive loop s.part (kilnUe s.part s.m n (some 0)) true)) ∧
  (∀ (s : State) (loop : Bool) (x : RxPkt), s.m.net.rx.find? (fun x => x.vc == 1 && rxWhole x &&
      bhKind (lineOf (rxBytes x)) == 2 && (x.src == nodeId s.part s.m) == loop &&
      (recvCase s.part s.m (lineOf (rxBytes x))).due) = some x →
    Gives (.closeMarkerReceive loop) s (takeMarker s.part (dropRx s.m x) x.src (lineOf (rxBytes x)))) ∧
  (∀ (s : State) (slot : Nat) (read : ReadFinding) (st : StepRun) (l : LayerT) (layer t : Nat) (b : RecvBillet)
      (rows : List RecvBillet) (last : Bool) (m : Mach),
    feedAt s.part s.m = some (st, l, layer) →
    let k := keyOf st layer
    let x := phaseOf st layer
    nextRows x l slot = some (b :: rows, last, t) → rickMay s.part s.m st l layer slot = true →
    copyBusy s.m (bufAddr (ctxOf s.m st.ctx) b.cls b.buf) = false →
    (placement s.part s.m .coder).isSome = true →
    let z := placeItem s.part s.m .coder st.ctx (.step layer laneFeed b.home b.token 0) (feedCycles l (b :: rows))
    kilnRead s.part z (bufAddr (ctxOf z st.ctx) b.cls b.buf) read (some 0) = (false, m) →
    let r := rickOf x slot
    let m' := updPhase m st.ctx k fun x =>
      { setRick (giveRows x slot (b :: rows)) { r with rows := r.rows + (b :: rows).length, ended := last }
        with outRicks := x.outRicks + 1 }
    GivesInTurn (.rickRowDeliver slot read) s (pumpAsks s.part (placeOut s.part m'
      { beats := rickBeats l layer slot r.rows last (b :: rows),
        use := .rick st.ctx k slot ((b :: rows).map fun b => (b.home, b.token)),
        awaits := ((b :: rows).filter fun b => !b.whole).map fun b => (b.home, b.token),
        landed := recLanded l (b :: rows) (if layTiles l then 16 * rowLen l b else 0), tiled := layTiles l }) st.ctx)) ∧
  (∀ (s : State) (slot : Nat) (st : StepRun) (l : LayerT) (layer : Nat), feedAt s.part s.m = some (st, l, layer) →
    let x := phaseOf st layer
    rowsLeft x slot = [] → recvFinished x l = true → rickMay s.part s.m st l layer slot = true →
    let r := rickOf x slot
    let m := updPhase s.m st.ctx (keyOf st layer) fun x =>
      { setRick x { r with ended := true } with outRicks := x.outRicks + 1 }
    Gives (.rickEnd slot) s (placeOut s.part m
      { beats := [(rowHead true true 0 0 layer slot r.rows, 0)], use := .rick st.ctx (keyOf st layer) slot [] })) ∧
  (∀ (s : State) (q k : Nat) (st : StepRun) (r : InRec) (l : LayerT) (buf : Nat) (m : Mach),
    takeable s.part s.m q k chExpout = some (st, r, l) →
    let w := r.header
    let layer := headLayer chExpout w
    r.fail = none → r.code = 0 → takeReason (phaseOf st layer) l w = 0 → groupCopies s.m st.ctx = false →
    (placement s.part s.m .coder).isSome = true →
    inputRoom s.part s.m st.ctx (512 * r.beats.length) = true →
    allocAll s.part st.ctx .take [2] s.m = some ([(2, buf)], m) →
    let m := placeItem s.part m .coder st.ctx (.step layer laneTake (exHome w) (exToken w) (exColt w))
      (coderCycles (512 * r.beats.length))
    let bs := beatBytes r.beats
    let n := tileElems l.hidden (exColt w)
    let kv := l.mode == modeKv
    let enc := returnCode s.part m st.ctx (exFmt w) n (if kv then bs.drop 512 else bs)
    let header := tileHeader s.part m st (exHome w) layer (exToken w) (exSlot w) (exColt w)
      (rdF s.part m (Reg.ctxRetCtrl st.ctx) 4 0) enc.bytes.length n
    let m := updPhase (countCode s.part m st.ctx enc false) st.ctx (keyOf st layer) fun x => markTaken x w
    GivesInTurn (.expertOutputRecord q k) s (takeRec s.part (sendTile s.part (recordInput s.part m st.ctx layer r) st layer buf w header
      (if kv then bs.take 32 else []) enc.bytes) q k)) ∧
  (∀ (s : State) (read : StoreRead) (x : RxPkt), engineUp s.m = true → isFatal s.part s.m = false →
    s.m.net.rx.find? (fun x => x.vc == 2 && rxWhole x) = some x →
    (∀ c, ctxOfJob s.part s.m (readTile (BitVec.ofNat 256 (leNat ((rxBytes x).take 32)))).job = some c →
      groupCopies s.m c = false) →
    Gives (.returnTileReceive false read) s (takeTile s.part (dropRx s.m x) read
      (BitVec.ofNat 256 (leNat ((rxBytes x).take 32))) ((rxBytes x).drop 32))) ∧
  (∀ (s : State) (token colt : Nat) (stage : ReadFinding) (ember : StoreRead) (st : StepRun) (layer : Nat)
      (e : EmberSlot) (m₁ m : Mach),
    meldAt s.part s.m token colt = some (st, layer, e) → e.mode ≠ modeKv →
    (placement s.part s.m .combine).isSome = true →
    let n := tileElems e.hidden colt
    let item := ItemRef.step layer laneMeld (nodeId s.part s.m) token colt
    (tileComplete e colt = true →
      GivesInTurn (.meldFold token colt stage ember) s
        (streamTile s.part (placeItem s.part s.m .combine st.ctx item 1) st layer e colt (accOf e colt n) e.readyAt)) ∧
    (∀ r, tileComplete e colt = false → e.ranks[Assoc.get 0 e.next colt]? = some r → Assoc.find? r.tiles colt ≠ none →
      copyBusy s.m (tileAddr s.m st.ctx e r colt) = false →
      let z := placeItem s.part s.m .combine st.ctx item (foldCount e colt * foldCycles n)
      kilnRead s.part z (tileAddr z st.ctx e r colt) stage (some 0) = (false, m₁) →
      emberRead s.part m₁ e.granules ember = (false, m) →
      let f := foldTile colt n e.ranks.length e
      let m := storeFold m st.ctx (keyOf st layer) f
      GivesInTurn (.meldFold token colt stage ember) s
        (if tileComplete f colt then streamTile s.part m st layer f colt (accOf f colt n) else m))) ∧
  (∀ (s : State) (token colt : Nat) (stage : ReadFinding) (ember : StoreRead) (st : StepRun) (layer : Nat)
      (e : EmberSlot) (m₁ m : Mach), meldAt s.part s.m token colt = some (st, layer, e) → e.mode = modeKv →
    (placement s.part s.m .combine).isSome = true →
    let n := tileElems e.hidden colt
    let live := e.ranks.filter fun r => r.status == rkLive
    let parts := live.filterMap (mergePart colt n)
    let place := (live.head?.map fun r => tileAddr s.m st.ctx e r colt).getD 0
    let z := placeItem s.part s.m .combine st.ctx (.step layer laneMeld (nodeId s.part s.m) token colt)
      (8 + live.length * foldCycles n)
    parts.length = live.length → (∀ r ∈ live, copyBusy s.m (tileAddr s.m st.ctx e r colt) = false) →
    (if live = [] then m₁ = z else kilnRead s.part z place stage (some 0) = (false, m₁)) →
    emberRead s.part m₁ e.granules ember = (false, m) →
    let count := ((List.range (ceilDiv n 128)).map fun q => kvBad (parts.map fun v => v.1.getD q ⟨0, 0⟩)).sum
    let f := (List.range e.ranks.length).foldl (fun e i => dropTile e i colt)
      { e with next := Assoc.set e.next colt e.ranks.length }
    GivesInTurn (.kvMerge token colt stage ember) s (streamTile s.part
      (storeFold (bump s.part m (Reg.ctxKvStatBad st.ctx) count) st.ctx (keyOf st layer) f)
      st layer f colt (kvMerge parts n) (if live = [] then e.readyAt else m.tick.cycle))) ∧
  (∀ (s : State) (q c token colt : Nat) (k : Key) (rest : List OutUse), (strmOf s.m q).unaccepted = .comb c k token colt :: rest →
    Gives (.combOutAccepted q) s (tileDone (bump s.part
      (setStrm s.m q { strmOf s.m q with unaccepted := rest }) (Reg.ctxCombTiles c) 1) c k token colt))

/-! ### Every command completes: ports, memory, faults and the log -/

/-- Ports, memory and faults. A beat on a bound inbound slot is framed and its slot drained; a returned credit sends beats
that waited; a memory response completes its write, stores the beat of its read, or fails the try; a
transaction past its time fails a try, and a response that no transaction waits for is counted; a scrub read of a line counts what it finds, and one of a
line that is absent faults; a spare copy ends after 4,096 cycles; three failed tries of a hearth retire it; the
log takes the oldest waiting entry, and CLEAR empties it. -/
def Obligations.PortsMemoryAndFaultsAnswer : Prop :=
  (∀ (s : State) (q k : Nat) (first : Bool) (side : Word) (data : BitVec 4096) (par : BitVec 65), s.part.relay = false →
    q < streamCount s.part.conf → k < 4 → (strmOf s.m q).retired = false → engineUp s.m = true →
    let z := if first then endDropped s.m q k else s.m
    let good := par = beatParity side data
    (bindEn (slotAt z q k).bind = true →
      let m := frameBeat s.part z q k first side data (if good then none else some stUncorrectable)
      Gives (.inboundBeat q k first side data par) s
        (takeHints s.part (drainIn s.part (if good then m else strmParity s.part m q k) q k))) ∧
    (bindEn (slotAt z q k).bind = false →
      let m := framing s.part z q k 1
      Gives (.inboundBeat q k first side data par) s (if good then m else strmParity s.part m q k))) ∧
  (∀ (s : State) (q k : Nat), s.part.relay = false → q < streamCount s.part.conf → 4 ≤ k → k < 8 → (strmOf s.m q).retired = false →
    engineUp s.m = true →
    let m := drainOut s.part (setSlotAt s.m q k { slotAt s.m q k with credit := (slotAt s.m q k).credit + 1 }) q
    Gives (.hostCreditReturn q k) s ((residents m).foldl (pumpAsks s.part) m)) ∧
  (∀ (s : State) (port tag : Nat) (resp : MemResp), port < memPortCount s.part.conf → (memPortOf s.m port).retired = false →
    s.m.sec.power = .lit → portUp s.m = true →
    (txnOfTag s.m port tag = none → Assoc.find? (memPortOf s.m port).stale tag = none →
      Gives (.memoryResponse port tag resp) s (countMemFault s.part s.m port)) ∧
    (∀ n, txnOfTag s.m port tag = none → Assoc.find? (memPortOf s.m port).stale tag = some n →
      Gives (.memoryResponse port tag resp) s (issueWaiting s.part (staleBeat s.m port tag n))) ∧
    (∀ t bits, txnOfTag s.m port tag = some t →
      Gives (.memoryResponse port tag .error) s (memFault s.part s.m { t with got := t.got + 1 } 1) ∧
      Gives (.memoryResponse port tag .poison) s (memFault s.part s.m { t with got := t.got + 1 } 2) ∧
      (t.write = true → Gives (.memoryResponse port tag (.ok bits)) s (txnDone s.part s.m t)) ∧
      (∀ a data, t.write = false → beatPart t bits = (a, data) →
        (t.got + 1 < respBeats t → Gives (.memoryResponse port tag (.ok bits)) s
          (let m := putHost s.m a data
           { m with mem := { m.mem with txns := m.mem.txns.map fun x => if x.id = t.id then { x with got := x.got + 1 } else x } })) ∧
        (respBeats t ≤ t.got + 1 →
          Gives (.memoryResponse port tag (.ok bits)) s (txnDone s.part (putHost s.m a data) t))))) ∧
  (∀ (s : State) (id : Nat) (t : Txn), s.m.mem.txns.find? (fun t => t.id == id) = some t →
    t.since + 1000 * fsPerNs * rdF s.part s.m (Reg.mempThresh t.port) 31 16 ≤ s.m.tick.time →
    Gives (.memoryTimeout id) s (memFault s.part s.m t 3)) ∧
  (∀ (s : State) (line : Nat) (read : ReadFinding),
    (kilnLines s.part ≤ line → exec (.scrubRead line read) s = .fault .kilnNoSuchLine) ∧
    (line < kilnLines s.part → engineUp s.m = true → rdB s.part s.m Reg.kilnScrub 16 = true →
      copyBusy s.m (64 * line) = false →
      Gives (.scrubRead line read) s (kilnRead s.part s.m (64 * line) read none).2)) ∧
  (∀ (s : State) (c : Nat) (found : List StoreRead), s.m.run.kilnSt.copying = some c → c + 4096 ≤ s.m.tick.cycle →
    Gives (.kilnSpareCopyEnd found) s (found.foldl (copyFinds s.part (s.m.run.kilnSt.served.getD 32))
      { s.m with run := { s.m.run with kilnSt := { s.m.run.kilnSt with copying := none } } })) ∧
  (∀ (s : State) (h tries : Nat) (unit : SubUnit) (item : ItemRef), h ∈ usableHearths s.part s.m → 3 ≤ tries →
    worksOn s.m h unit item = true → unit ≠ .itemState →
    Gives (.hearthFault h unit tries item) s (retireHearth s.part (setLastStatus s.part (report s.part s.m
      { code := 0x20, page := Reg.hrthPage h, sev := .transient,
        detail := [BitVec.ofNat 8 h, BitVec.ofNat 8 (unitCode unit), 3] }) (Reg.hrthPage h) stUncorrectable) h 2)) ∧
  (∀ (s : State) (n : Nat) (e : LogEntry) (rest : List (Nat × LogEntry)), s.m.log.buf = (n, e) :: rest →
    Gives .ashLogWrite s (takeEntry s.part { s.m with log := { s.m.log with buf := rest } } e)) ∧
  (∀ (s : State) (src : Src) (v : Word), Reaches s src Reg.logCtrl → isFatal s.part s.m = false →
    let m := wr s.part s.m Reg.logCtrl (v &&& 7)
    GivesW src (.logClear src v) s
      (if bitOf v 3 then wr s.part (wr s.part m Reg.logTail (wordOf (rdF s.part m Reg.logHead 31 0))) Reg.logLost 0 else m))

/-! ### Every command completes: links, flows and the tick -/

/-- Link training. Both lanes locked begin the run of a link in DOWN; a lost lane retrains; the adaptation's
acknowledgement ends the request and then begins the run; a link in ALIGN sends training words, which have the fields of
R270, one in CONFIG or READY training flits, one in DOWN or RETRAIN zero words; lanes found within 16 cycles of each
other are aligned, and more fails the run; a training flit is read where it decodes; a run past its time fails; the
eighth READY flit brings the link up. -/
def Obligations.LinkTrainingAnswers : Prop :=
  (∀ (s : State) (l : Nat), l < linkCount s.part.conf → (linkOf s.m l).phase = .down →
    GivesLinked (.phyLock l) s (setLink s.m l (startRun s.part s.m l { linkOf s.m l with txLock := 3, rxLock := 3 }))) ∧
  (∀ (s : State) (l lane : Nat), (linkOf s.m l).phase ≠ .disabled → lane ≤ 1 →
    let x := linkOf s.m l
    GivesLinked (.phyLockLoss l lane true) s
      (retrainLink s.part (setLink s.m l { x with txLock := x.txLock &&& (3 - 2 ^ lane) }) l) ∧
    GivesLinked (.phyLockLoss l lane false) s
      (retrainLink s.part (setLink s.m l { x with rxLock := x.rxLock &&& (3 - 2 ^ lane) }) l)) ∧
  (∀ (s : State) (l : Nat), (linkOf s.m l).phase = .retrain →
    GivesLinked (.plAdaptAck l true) s (setLink s.m l { linkOf s.m l with adaptUp := true }) ∧
    ((linkOf s.m l).adaptUp = true →
      GivesLinked (.plAdaptAck l false) s
        (bump s.part (setLink s.m l (startRun s.part s.m l (linkOf s.m l))) (Reg.linkRetrainCnt l) 1))) ∧
  (∀ fpos lane node link : Nat, ∀ aligned : Bool, fpos ≤ 32 → lane ≤ 1 → node < 4096 → link < 64 →
    let w := trainWord fpos lane aligned node link
    bytesOf w 0 7 = 0xA5A53C3CF00F5AA5 ∧ bytesOf w 8 8 = fpos ∧ bytesOf w 9 9 = lane ∧
    bytesOf w 10 10 = (if aligned then 1 else 0) ∧ bytesOf w 11 11 = 0 ∧ bytesOf w 12 13 = node ∧
    bytesOf w 14 14 = link ∧ bytesOf w 15 31 = 0) ∧
  (∀ (s : State) (l : Nat) (r : StoreRead),
    ((linkOf s.m l).phase = .align →
      let m := emitWords s.m l fun w lane => trainWord w lane (linkOf s.m l).aligned (nodeId s.part s.m) l
      GivesLinked (.linkFlitSlot l r) s (setLink m l (configStart (linkOf m l)))) ∧
    ((linkOf s.m l).phase = .config → GivesLinked (.linkFlitSlot l r) s (sendTs s.part s.m l 1)) ∧
    ((linkOf s.m l).phase = .ready →
      let m := sendTs s.part s.m l 2
      GivesLinked (.linkFlitSlot l r) s
        (readyCheck s.part (setLink m l { linkOf m l with readySent := (linkOf m l).readySent + 1 }) l)) ∧
    ((linkOf s.m l).phase = .retrain → GivesLinked (.linkFlitSlot l r) s (emitWords s.m l fun _ _ => 0)) ∧
    ((linkOf s.m l).phase = .down →
      let m := emitWords s.m l fun _ _ => 0
      GivesLinked (.linkFlitSlot l r) s
        (if lanesUp (linkOf s.m l) then setLink m l (startRun s.part m l (linkOf m l)) else m))) ∧
  (∀ (s : State) (l : Nat) (rx0 rx1 : List (BitVec 256)) (a b : LaneFound), (linkOf s.m l).phase = .align →
    (linkOf s.m l).rxLock = 3 → laneFind rx0 = some a → laneFind rx1 = some b → a.lane + b.lane = 1 →
    (16 * 256 < skewBits a b → GivesLinked (.laneAligned l rx0 rx1) s (trainFail s.part s.m l)) ∧
    (skewBits a b ≤ 16 * 256 → GivesLinked (.laneAligned l rx0 rx1) s (setLink s.m l (lanesFound (linkOf s.m l) a b)))) ∧
  (∀ (s : State) (l pos : Nat) (lanes : List (BitVec 256) × List (BitVec 256)), framed (linkOf s.m l) = true →
    (linkOf s.m l).rxLock = 3 →
    let x := linkOf s.m l
    let d := decodeFlit (pos % 8)
      (gatherFlit x.laneSwap (pos % 8) (laneBits x.laneOffs.1 lanes.1) (laneBits x.laneOffs.2 lanes.2))
    let m := countCodewords s.part s.m l d
    d.bad0 = false → d.bad1 = false → badCodes d.link d.flit = false → d.link.fkind = fkTs →
    GivesLinked (.tsFlitReceive l pos lanes) s
      (tsReceive s.part (setLink m l { linkOf m l with ueRun := 0 }) l (readTs d.flit.payload))) ∧
  (∀ (s : State) (l : Nat),
    (linkOf s.m l).phase = .align ∨ (linkOf s.m l).phase = .config ∨ (linkOf s.m l).phase = .ready →
    (linkOf s.m l).runStart + 1000 * fsPerNs * rdF s.part s.m (Reg.linkTimers l) 15 0 ≤ s.m.tick.time →
    GivesLinked (.trainingTimeout l) s (trainFail s.part s.m l)) ∧
  (∀ (s : State) (l : Nat), (linkOf s.m l).phase = .ready → (linkOf s.m l).readyGot = true → 7 ≤ (linkOf s.m l).readySent →
    let m := sendTs s.part s.m l 2
    GivesLinked (.readyFlitSent l) s
      (readyCheck s.part (setLink m l { linkOf m l with readySent := (linkOf m l).readySent + 1 }) l))

/-- Flits and flows. On an ACTIVE link a data flit that decodes is received, a codeword that does not is a bad flit, the
oldest unacknowledged flit past its time starts a replay, a slot sends, and a token is gained. A retirement
record of a link retired here starts the salvage, which is dropped in the end. An acknowledgement settles its
packet; a packet past its time is resent while resends remain. Partial packets are dropped, delay probes sent
and echoed, and a transit flit goes on to its next link. -/
def Obligations.LinkDataAnswers : Prop :=
  (∀ (s : State) (l pos : Nat) (lanes : List (BitVec 256) × List (BitVec 256)), (linkOf s.m l).phase = .active →
    (linkOf s.m l).rxLock = 3 →
    let x := linkOf s.m l
    let d := decodeFlit (pos % 8)
      (gatherFlit x.laneSwap (pos % 8) (laneBits x.laneOffs.1 lanes.1) (laneBits x.laneOffs.2 lanes.2))
    let m := countCodewords s.part s.m l d
    (d.bad0 = false → d.bad1 = false → badCodes d.link d.flit = false → d.link.fkind ≠ fkTs →
      (linkOf m l).phase = .active →
      GivesLinked (.flitReceive l pos lanes) s
        (dataReceive s.part (setLink m l { linkOf m l with ueRun := 0, tsGood := 0 }) l (pos % 8) d.link d.flit)) ∧
    (d.bad0 = true ∨ d.bad1 = true → GivesLinked (.flitReceive l pos lanes) s (badFlit s.part m l d.bad0))) ∧
  (∀ (s : State) (l : Nat) (r : StoreRead), (linkOf s.m l).phase = .active →
    GivesLinked (.linkFlitSlot l r) s (activeSlot s.part (loseRecords s.part s.m) l r) ∧
    ((linkOf s.m l).tokenAt + 20 ≤ (linkOf s.m l).sinceActive →
      GivesLinked (.vc0Token l) s (setLink s.m l { linkOf s.m l with
        tokens := min 8 ((linkOf s.m l).tokens + 1), tokenAt := (linkOf s.m l).tokenAt + 20 })) ∧
    (∀ h rest, (linkOf s.m l).nakSeq = none → (linkOf s.m l).held = h :: rest →
      h.sentAt + replayTmo s.part s.m l ≤ s.m.tick.time →
      GivesLinked (.replayTimeout l) s (startReplay s.part s.m l)) ∧
    (∀ d n a b, (linkOf s.m l).meas = some d → (linkOf s.m l).partner = some (n, a, b) → probeDue s.m d = true →
      let y := { d with seq := (d.seq + 1) % 65536, lastAt := some s.m.tick.time }
      GivesLinked (.dlyProbe l) s (sendRec s.part (setLink s.m l { linkOf s.m l with meas := some y })
        { dst := n, link := some l,
          bytes := mkRecord ([0, 0, 0, 0] ++ leBytes 2 d.seq ++ [BitVec.ofNat 8 l]) 0x22 [] }))) ∧
  (∀ (s : State) (r : In0) (m : Mach), takeRecord s.m 0x21 = some (r, m) → bytesOf r.bytes 3 3 < linkCount s.part.conf →
    let l := bytesOf r.bytes 3 3
    ((linkOf m l).phase = .retired → GivesLinked .linkDown s (salvageLink s.part m l (bitsOf r.bytes 9 0))) ∧
    ((linkOf m l).phase ≠ .retired →
      GivesLinked .linkDown s (setLink m l { linkOf m l with downGot := some (bitsOf r.bytes 9 0) }))) ∧
  (∀ (s : State) (l : Nat), (linkOf s.m l).phase = .retired →
    (linkOf s.m l).retiredAt + 100000 * fsPerNs ≤ s.m.tick.time →
    GivesLinked (.salvageDrop l) s
      (loseHeld s.part (setLink s.m l { linkOf s.m l with salvage := [] }) l (linkOf s.m l).salvage)) ∧
  (∀ (s : State) (r : In0) (m : Mach) (o : Outst), takeRecord s.m 0x20 = some (r, m) →
    findOut m r.src (bytesOf r.bytes 4 4) (bytesOf r.bytes 0 3) = some o →
    Gives .e2eAck s (ackEffect s.part (settleFlow s.part m r.src (bytesOf r.bytes 4 4) (bytesOf r.bytes 0 3)) o.use)) ∧
  (∀ (s : State) (d vc fsn : Nat) (o : Outst), findOut s.m d vc fsn = some o →
    o.sentAt + e2eTmo s.part s.m ≤ s.m.tick.time →
    (o.resends < rdF s.part s.m Reg.routeE2eCtrl 19 16 →
      let y := { o with resends := o.resends + 1, sentAt := s.m.tick.time }
      let m := { s.m with net := { s.m.net with outst := s.m.net.outst.map fun z => if z = o then y else z } }
      Gives (.e2eTimeout d vc fsn) s
        (queuePacket s.part (bump s.part m Reg.routeE2eResend 1) vc d o.mgmt fsn o.ctx (.flow d vc fsn) (resendBody o))) ∧
    (rdF s.part s.m Reg.routeE2eCtrl 19 16 ≤ o.resends →
      Gives (.e2eTimeout d vc fsn) s (lossEffect s.part (failFlow s.m d vc fsn) o.use
        (if noRoute s.part s.m d then stUnreachable else stTimeout)))) ∧
  (∀ (s : State) (node vc ptag : Nat), 3 ≤ vc → vc ≤ 5 →
    GivesLinked (.reassemblyTimeout node vc ptag) s ((s.m.net.rx.filter fun x =>
      x.src == node && x.vc == vc && x.ptag == ptag && !rxWhole x &&
        decide (x.firstAt + e2eTmo s.part s.m ≤ s.m.tick.time)).foldl dropRx s.m)) ∧
  (∀ (s : State) (r : In0) (m : Mach), takeRecord s.m 0x22 = some (r, m) →
    GivesLinked .dlyProbeReceive s (sendRec s.part m
      { dst := r.src, link := some r.link, since := some r.at10,
        bytes := mkRecord ([0, 0, 0, 0] ++ leBytes 2 (bytesOf r.bytes 4 5) ++ [byteOf r.bytes 6]) 0x23 [] })) ∧
  (∀ (s : State) (r : In0) (m : Mach) (d : DlyMeas) (i : Nat) (t1 : Int), takeRecord s.m 0x23 = some (r, m) →
    (linkOf m r.link).meas = some d → d.out.find? (fun q => q.1 == bytesOf r.bytes 4 5) = some (i, t1) →
    let x := linkOf m r.link
    let out := d.out.filter fun q => q.1 != i
    (r.replayed = true → GivesLinked .dlyEcho s (setLink m r.link { x with meas := some { d with out := out } })) ∧
    let samples := d.samples ++ [delaySample t1 r.at10 (bytesOf r.bytes 0 3)]
    (r.replayed = false → samples.length < d.want → GivesLinked .dlyEcho s
      (setLink m r.link { x with meas := some { d with out := out, samples := samples } })) ∧
    (r.replayed = false → d.want ≤ samples.length → GivesLinked .dlyEcho s (measPart
      (wr s.part (setLink m r.link { x with meas := none }) (Reg.linkDlyMeas r.link) (measResult samples))
      r.link d.acc stDone))) ∧
  (∀ (s : State) (l vc : Nat) (t : TransitFlit), (linkOf s.m l).waiting.find? (fun t => t.flit.vc == vc) = some t →
    isFatal s.part s.m = false → transitCopies s.part s.m = false → t.flit.dst ≠ nodeId s.part s.m → t.routed = false →
    let x := linkOf s.m l
    (∀ m, transitDrop s.part (setLink s.m l { x with waiting := x.waiting.erase t }) l t = some m →
      Gives (.transitFlit l vc .clean) s (deliverFront s.part l vc x.waiting.length m)) ∧
    (transitDrop s.part (setLink s.m l { x with waiting := x.waiting.erase t }) l t = none →
      usableSet s.part s.m t.flit.dst ≠ .wait → slotFree s.part s.m l vc = true →
      Gives (.transitFlit l vc .clean) s (forwardFlit s.part s.m l t))) ∧
  (∀ (s : State) (l vc n : Nat) (t : TransitFlit), engineUp s.m = true → isFatal s.part s.m = false →
    transitCopies s.part s.m = false →
    (Gives (.transitFlit l vc (.word n false)) s (fatal s.part s.m 5 0)) ∧
    (let m := kilnUe s.part s.m n (some 3)
     isFatal s.part m = false → t.routed = false → (linkOf m l).waiting.find? (fun t => t.flit.vc == vc) = some t →
     t.flit.dst ≠ nodeId s.part m →
     let x := linkOf m l
     let m := freeCredit (setLink m l { x with waiting := x.waiting.erase t }) l vc
     Gives (.transitFlit l vc (.line n false)) s (deliverFront s.part l vc x.waiting.length
       (noteDropped m ((droppedOf m t.flit).getD { id := packetId t.flit, seen := [], lastPos := none }) t.flit))))

/-- The tick. A record from the uplink is passed down with its hop count and residence, disciplines this node's time by
its offset and notes its edge; any other is ignored. The master announces every SYNC_US; a node without records
for four of those loses alignment; a reference pulse is stamped at a master with REF_EN; RUN starts and stops
the tick; a slip request for the step in force or a later one is kept. -/
def Obligations.TickMessagesAnswer : Prop :=
  (∀ (s : State) (r : In0) (m : Mach), takeRecord s.m 0x60 = some (r, m) →
    (isMaster s.part m = true ∨ r.link ≠ uplink s.part m → Gives .tickRecord s m) ∧
    (isMaster s.part m = false → r.link = uplink s.part m →
      let resid := bytesOf r.bytes 4 7 + (linkDelay s.part m r.link).toNat
      let m := toDownlinks s.part m (tickBytes (bytesOf r.bytes 0 3) (resid % 2 ^ 32) (bytesOf r.bytes 8 9)
        ((bytesOf r.bytes 10 10 + 1) % 256) (bytesOf r.bytes 12 15)) r.at10
      let e := nearest 32 (time10 m) (bytesOf r.bytes 0 3) + resid - r.at10
      let iv := (m.tick.lastRec.map (r.at10 - ·)).getD 1
      let m := { m with tick := { m.tick with lastRec := some (if edgesTaken s.part m then r.at10 else r.at10 + e) } }
      Gives .tickRecord s (noteEdge s.part (judgeOffset s.part (discipline s.part m e iv) e)
        (bytesOf r.bytes 8 9) (bytesOf r.bytes 12 15)))) ∧
  (∀ s : State, engineUp s.m = true → tickRuns s.part s.m = true → isMaster s.part s.m = true →
    s.m.tick.lastSync + syncFs s.part s.m ≤ s.m.tick.time →
    Gives .tickSync s (announce s.part
      { s.m with tick := { s.m.tick with lastSync := s.m.tick.lastSync + syncFs s.part s.m } })) ∧
  (∀ (s : State) (t : Int), s.m.tick.lastRec = some t → engineUp s.m = true → isMaster s.part s.m = false →
    10000 * t + 4 * syncFs s.part s.m ≤ s.m.tick.time →
    Gives .tickLost s (loseAlignment s.part s.m 2 (signed 32 (rdF s.part s.m Reg.tickStat 63 32)))) ∧
  (∀ s : State, engineUp s.m = true → isMaster s.part s.m = true → rdB s.part s.m Reg.tickCtrl 3 = true →
    Gives .refPps s (wr s.part s.m Reg.tickPpsTime (wordOf (timeNs s.m)))) ∧
  (∀ (s : State) (src : Src) (v : Word), Reaches s src Reg.tickCtrl → tickCtrlRefused s.part s.m v = false →
    let m := wr s.part s.m Reg.tickCtrl (v &&& 0xFFFF00FEFC0D)
    (tickRuns s.part s.m = false → bitOf v 0 = true → GivesW src (.tickRun src v) s (startTick s.part m)) ∧
    (tickRuns s.part s.m = true → bitOf v 0 = false → GivesW src (.tickRun src v) s (stopTick s.part m)) ∧
    (tickRuns s.part s.m = bitOf v 0 → GivesW src (.tickRun src v) s m)) ∧
  (∀ (s : State) (r : In0) (m : Mach), takeRecord s.m 0x61 = some (r, m) → engineUp m = true → tickRuns s.part m = true →
    isMaster s.part m = true →
    let i := bytesOf r.bytes 0 5
    let q := min (rdF s.part m Reg.tickSlip 23 16) (bytesOf r.bytes 6 6)
    let kept := { m with tick := { m.tick with grants := Assoc.set m.tick.grants i q } }
    (grantOf m i < q → stepNow s.part m ≤ i → Gives .slipReq s kept) ∧
    (grantOf m i < q → i + 1 = stepNow s.part m → edgesTaken s.part m = true →
      let n := countSlip s.part kept (q - grantOf m i)
      Gives .slipReq s (announce s.part { n with tick := { n.tick with
        edge := n.tick.edge.map fun e => e + (q - grantOf m i : Nat) * quantumFs s.part n } })) ∧
    (q ≤ grantOf m i ∨ i + 1 < stepNow s.part m → Gives .slipReq s m))
end

