-- ==== Sys2Proof/Laws/State.lean ====
section
/-! SUPPORT. What each update of the machine leaves alone: one lemma for each update and field, so
that a proof about one part of the state never unfolds an update of another. -/

namespace Sys2Proof.Machine

/-! ### wr -/
@[simp] theorem wr_shadow (p : Part) (m : Mach) (a : Nat) (v : Word) :
    (wr p m a v).shadow = m.shadow := rfl
@[simp] theorem wr_cmd (p : Part) (m : Mach) (a : Nat) (v : Word) :
    (wr p m a v).cmd = m.cmd := rfl
@[simp] theorem wr_mem (p : Part) (m : Mach) (a : Nat) (v : Word) :
    (wr p m a v).mem = m.mem := rfl
@[simp] theorem wr_run (p : Part) (m : Mach) (a : Nat) (v : Word) :
    (wr p m a v).run = m.run := rfl
@[simp] theorem wr_net (p : Part) (m : Mach) (a : Nat) (v : Word) :
    (wr p m a v).net = m.net := rfl
@[simp] theorem wr_coll (p : Part) (m : Mach) (a : Nat) (v : Word) :
    (wr p m a v).coll = m.coll := rfl
@[simp] theorem wr_fab (p : Part) (m : Mach) (a : Nat) (v : Word) :
    (wr p m a v).fab = m.fab := rfl
@[simp] theorem wr_tick (p : Part) (m : Mach) (a : Nat) (v : Word) :
    (wr p m a v).tick = m.tick := rfl
@[simp] theorem wr_sec (p : Part) (m : Mach) (a : Nat) (v : Word) :
    (wr p m a v).sec = m.sec := rfl
@[simp] theorem wr_log (p : Part) (m : Mach) (a : Nat) (v : Word) :
    (wr p m a v).log = m.log := rfl
@[simp] theorem wr_out (p : Part) (m : Mach) (a : Nat) (v : Word) :
    (wr p m a v).out = m.out := rfl
@[simp] theorem wr_free (p : Part) (m : Mach) (a : Nat) (v : Word) :
    (wr p m a v).free = m.free := rfl

/-! ### wrF -/
@[simp] theorem wrF_shadow (p : Part) (m : Mach) (a hi lo v : Nat) :
    (wrF p m a hi lo v).shadow = m.shadow := wr_shadow ..
@[simp] theorem wrF_cmd (p : Part) (m : Mach) (a hi lo v : Nat) :
    (wrF p m a hi lo v).cmd = m.cmd := wr_cmd ..
@[simp] theorem wrF_mem (p : Part) (m : Mach) (a hi lo v : Nat) :
    (wrF p m a hi lo v).mem = m.mem := wr_mem ..
@[simp] theorem wrF_run (p : Part) (m : Mach) (a hi lo v : Nat) :
    (wrF p m a hi lo v).run = m.run := wr_run ..
@[simp] theorem wrF_net (p : Part) (m : Mach) (a hi lo v : Nat) :
    (wrF p m a hi lo v).net = m.net := wr_net ..
@[simp] theorem wrF_coll (p : Part) (m : Mach) (a hi lo v : Nat) :
    (wrF p m a hi lo v).coll = m.coll := wr_coll ..
@[simp] theorem wrF_fab (p : Part) (m : Mach) (a hi lo v : Nat) :
    (wrF p m a hi lo v).fab = m.fab := wr_fab ..
@[simp] theorem wrF_tick (p : Part) (m : Mach) (a hi lo v : Nat) :
    (wrF p m a hi lo v).tick = m.tick := wr_tick ..
@[simp] theorem wrF_sec (p : Part) (m : Mach) (a hi lo v : Nat) :
    (wrF p m a hi lo v).sec = m.sec := wr_sec ..
@[simp] theorem wrF_log (p : Part) (m : Mach) (a hi lo v : Nat) :
    (wrF p m a hi lo v).log = m.log := wr_log ..
@[simp] theorem wrF_out (p : Part) (m : Mach) (a hi lo v : Nat) :
    (wrF p m a hi lo v).out = m.out := wr_out ..
@[simp] theorem wrF_free (p : Part) (m : Mach) (a hi lo v : Nat) :
    (wrF p m a hi lo v).free = m.free := wr_free ..

/-! ### orReg -/
@[simp] theorem orReg_shadow (p : Part) (m : Mach) (a k : Nat) :
    (orReg p m a k).shadow = m.shadow := wr_shadow ..
@[simp] theorem orReg_cmd (p : Part) (m : Mach) (a k : Nat) :
    (orReg p m a k).cmd = m.cmd := wr_cmd ..
@[simp] theorem orReg_mem (p : Part) (m : Mach) (a k : Nat) :
    (orReg p m a k).mem = m.mem := wr_mem ..
@[simp] theorem orReg_run (p : Part) (m : Mach) (a k : Nat) :
    (orReg p m a k).run = m.run := wr_run ..
@[simp] theorem orReg_net (p : Part) (m : Mach) (a k : Nat) :
    (orReg p m a k).net = m.net := wr_net ..
@[simp] theorem orReg_coll (p : Part) (m : Mach) (a k : Nat) :
    (orReg p m a k).coll = m.coll := wr_coll ..
@[simp] theorem orReg_fab (p : Part) (m : Mach) (a k : Nat) :
    (orReg p m a k).fab = m.fab := wr_fab ..
@[simp] theorem orReg_tick (p : Part) (m : Mach) (a k : Nat) :
    (orReg p m a k).tick = m.tick := wr_tick ..
@[simp] theorem orReg_sec (p : Part) (m : Mach) (a k : Nat) :
    (orReg p m a k).sec = m.sec := wr_sec ..
@[simp] theorem orReg_log (p : Part) (m : Mach) (a k : Nat) :
    (orReg p m a k).log = m.log := wr_log ..
@[simp] theorem orReg_out (p : Part) (m : Mach) (a k : Nat) :
    (orReg p m a k).out = m.out := wr_out ..
@[simp] theorem orReg_free (p : Part) (m : Mach) (a k : Nat) :
    (orReg p m a k).free = m.free := wr_free ..

/-! ### clrReg -/
@[simp] theorem clrReg_shadow (p : Part) (m : Mach) (a k : Nat) :
    (clrReg p m a k).shadow = m.shadow := wr_shadow ..
@[simp] theorem clrReg_cmd (p : Part) (m : Mach) (a k : Nat) :
    (clrReg p m a k).cmd = m.cmd := wr_cmd ..
@[simp] theorem clrReg_mem (p : Part) (m : Mach) (a k : Nat) :
    (clrReg p m a k).mem = m.mem := wr_mem ..
@[simp] theorem clrReg_run (p : Part) (m : Mach) (a k : Nat) :
    (clrReg p m a k).run = m.run := wr_run ..
@[simp] theorem clrReg_net (p : Part) (m : Mach) (a k : Nat) :
    (clrReg p m a k).net = m.net := wr_net ..
@[simp] theorem clrReg_coll (p : Part) (m : Mach) (a k : Nat) :
    (clrReg p m a k).coll = m.coll := wr_coll ..
@[simp] theorem clrReg_fab (p : Part) (m : Mach) (a k : Nat) :
    (clrReg p m a k).fab = m.fab := wr_fab ..
@[simp] theorem clrReg_tick (p : Part) (m : Mach) (a k : Nat) :
    (clrReg p m a k).tick = m.tick := wr_tick ..
@[simp] theorem clrReg_sec (p : Part) (m : Mach) (a k : Nat) :
    (clrReg p m a k).sec = m.sec := wr_sec ..
@[simp] theorem clrReg_log (p : Part) (m : Mach) (a k : Nat) :
    (clrReg p m a k).log = m.log := wr_log ..
@[simp] theorem clrReg_out (p : Part) (m : Mach) (a k : Nat) :
    (clrReg p m a k).out = m.out := wr_out ..
@[simp] theorem clrReg_free (p : Part) (m : Mach) (a k : Nat) :
    (clrReg p m a k).free = m.free := wr_free ..

/-! ### setEvt -/
@[simp] theorem setEvt_shadow (p : Part) (m : Mach) (g b : Nat) :
    (setEvt p m g b).shadow = m.shadow := orReg_shadow ..
@[simp] theorem setEvt_cmd (p : Part) (m : Mach) (g b : Nat) :
    (setEvt p m g b).cmd = m.cmd := orReg_cmd ..
@[simp] theorem setEvt_mem (p : Part) (m : Mach) (g b : Nat) :
    (setEvt p m g b).mem = m.mem := orReg_mem ..
@[simp] theorem setEvt_run (p : Part) (m : Mach) (g b : Nat) :
    (setEvt p m g b).run = m.run := orReg_run ..
@[simp] theorem setEvt_net (p : Part) (m : Mach) (g b : Nat) :
    (setEvt p m g b).net = m.net := orReg_net ..
@[simp] theorem setEvt_coll (p : Part) (m : Mach) (g b : Nat) :
    (setEvt p m g b).coll = m.coll := orReg_coll ..
@[simp] theorem setEvt_fab (p : Part) (m : Mach) (g b : Nat) :
    (setEvt p m g b).fab = m.fab := orReg_fab ..
@[simp] theorem setEvt_tick (p : Part) (m : Mach) (g b : Nat) :
    (setEvt p m g b).tick = m.tick := orReg_tick ..
@[simp] theorem setEvt_sec (p : Part) (m : Mach) (g b : Nat) :
    (setEvt p m g b).sec = m.sec := orReg_sec ..
@[simp] theorem setEvt_log (p : Part) (m : Mach) (g b : Nat) :
    (setEvt p m g b).log = m.log := orReg_log ..
@[simp] theorem setEvt_out (p : Part) (m : Mach) (g b : Nat) :
    (setEvt p m g b).out = m.out := orReg_out ..
@[simp] theorem setEvt_free (p : Part) (m : Mach) (g b : Nat) :
    (setEvt p m g b).free = m.free := orReg_free ..

/-! ### setLastStatus -/
@[simp] theorem setLastStatus_shadow (p : Part) (m : Mach) (g t : Nat) :
    (setLastStatus p m g t).shadow = m.shadow := wrF_shadow ..
@[simp] theorem setLastStatus_cmd (p : Part) (m : Mach) (g t : Nat) :
    (setLastStatus p m g t).cmd = m.cmd := wrF_cmd ..
@[simp] theorem setLastStatus_mem (p : Part) (m : Mach) (g t : Nat) :
    (setLastStatus p m g t).mem = m.mem := wrF_mem ..
@[simp] theorem setLastStatus_run (p : Part) (m : Mach) (g t : Nat) :
    (setLastStatus p m g t).run = m.run := wrF_run ..
@[simp] theorem setLastStatus_net (p : Part) (m : Mach) (g t : Nat) :
    (setLastStatus p m g t).net = m.net := wrF_net ..
@[simp] theorem setLastStatus_coll (p : Part) (m : Mach) (g t : Nat) :
    (setLastStatus p m g t).coll = m.coll := wrF_coll ..
@[simp] theorem setLastStatus_fab (p : Part) (m : Mach) (g t : Nat) :
    (setLastStatus p m g t).fab = m.fab := wrF_fab ..
@[simp] theorem setLastStatus_tick (p : Part) (m : Mach) (g t : Nat) :
    (setLastStatus p m g t).tick = m.tick := wrF_tick ..
@[simp] theorem setLastStatus_sec (p : Part) (m : Mach) (g t : Nat) :
    (setLastStatus p m g t).sec = m.sec := wrF_sec ..
@[simp] theorem setLastStatus_log (p : Part) (m : Mach) (g t : Nat) :
    (setLastStatus p m g t).log = m.log := wrF_log ..
@[simp] theorem setLastStatus_out (p : Part) (m : Mach) (g t : Nat) :
    (setLastStatus p m g t).out = m.out := wrF_out ..
@[simp] theorem setLastStatus_free (p : Part) (m : Mach) (g t : Nat) :
    (setLastStatus p m g t).free = m.free := wrF_free ..

/-! ### accErr -/
@[simp] theorem accErr_shadow (p : Part) (m : Mach) (s : Src) (a k : Nat) :
    (accErr p m s a k).shadow = m.shadow := by
  unfold accErr; rw [setEvt_shadow, wr_shadow]
@[simp] theorem accErr_cmd (p : Part) (m : Mach) (s : Src) (a k : Nat) :
    (accErr p m s a k).cmd = m.cmd := by
  unfold accErr; rw [setEvt_cmd, wr_cmd]
@[simp] theorem accErr_mem (p : Part) (m : Mach) (s : Src) (a k : Nat) :
    (accErr p m s a k).mem = m.mem := by
  unfold accErr; rw [setEvt_mem, wr_mem]
@[simp] theorem accErr_run (p : Part) (m : Mach) (s : Src) (a k : Nat) :
    (accErr p m s a k).run = m.run := by
  unfold accErr; rw [setEvt_run, wr_run]
@[simp] theorem accErr_net (p : Part) (m : Mach) (s : Src) (a k : Nat) :
    (accErr p m s a k).net = m.net := by
  unfold accErr; rw [setEvt_net, wr_net]
@[simp] theorem accErr_coll (p : Part) (m : Mach) (s : Src) (a k : Nat) :
    (accErr p m s a k).coll = m.coll := by
  unfold accErr; rw [setEvt_coll, wr_coll]
@[simp] theorem accErr_fab (p : Part) (m : Mach) (s : Src) (a k : Nat) :
    (accErr p m s a k).fab = m.fab := by
  unfold accErr; rw [setEvt_fab, wr_fab]
@[simp] theorem accErr_tick (p : Part) (m : Mach) (s : Src) (a k : Nat) :
    (accErr p m s a k).tick = m.tick := by
  unfold accErr; rw [setEvt_tick, wr_tick]
@[simp] theorem accErr_sec (p : Part) (m : Mach) (s : Src) (a k : Nat) :
    (accErr p m s a k).sec = m.sec := by
  unfold accErr; rw [setEvt_sec, wr_sec]
@[simp] theorem accErr_log (p : Part) (m : Mach) (s : Src) (a k : Nat) :
    (accErr p m s a k).log = m.log := by
  unfold accErr; rw [setEvt_log, wr_log]
@[simp] theorem accErr_out (p : Part) (m : Mach) (s : Src) (a k : Nat) :
    (accErr p m s a k).out = m.out := by
  unfold accErr; rw [setEvt_out, wr_out]
@[simp] theorem accErr_free (p : Part) (m : Mach) (s : Src) (a k : Nat) :
    (accErr p m s a k).free = m.free := by
  unfold accErr; rw [setEvt_free, wr_free]

/-! ### ignored -/
@[simp] theorem ignored_shadow (p : Part) (m : Mach) (s : Src) (a : Nat) :
    (ignored p m s a).shadow = m.shadow := accErr_shadow ..
@[simp] theorem ignored_cmd (p : Part) (m : Mach) (s : Src) (a : Nat) :
    (ignored p m s a).cmd = m.cmd := accErr_cmd ..
@[simp] theorem ignored_mem (p : Part) (m : Mach) (s : Src) (a : Nat) :
    (ignored p m s a).mem = m.mem := accErr_mem ..
@[simp] theorem ignored_run (p : Part) (m : Mach) (s : Src) (a : Nat) :
    (ignored p m s a).run = m.run := accErr_run ..
@[simp] theorem ignored_net (p : Part) (m : Mach) (s : Src) (a : Nat) :
    (ignored p m s a).net = m.net := accErr_net ..
@[simp] theorem ignored_coll (p : Part) (m : Mach) (s : Src) (a : Nat) :
    (ignored p m s a).coll = m.coll := accErr_coll ..
@[simp] theorem ignored_fab (p : Part) (m : Mach) (s : Src) (a : Nat) :
    (ignored p m s a).fab = m.fab := accErr_fab ..
@[simp] theorem ignored_tick (p : Part) (m : Mach) (s : Src) (a : Nat) :
    (ignored p m s a).tick = m.tick := accErr_tick ..
@[simp] theorem ignored_sec (p : Part) (m : Mach) (s : Src) (a : Nat) :
    (ignored p m s a).sec = m.sec := accErr_sec ..
@[simp] theorem ignored_log (p : Part) (m : Mach) (s : Src) (a : Nat) :
    (ignored p m s a).log = m.log := accErr_log ..
@[simp] theorem ignored_out (p : Part) (m : Mach) (s : Src) (a : Nat) :
    (ignored p m s a).out = m.out := accErr_out ..
@[simp] theorem ignored_free (p : Part) (m : Mach) (s : Src) (a : Nat) :
    (ignored p m s a).free = m.free := accErr_free ..

/-! ### setCtx -/
@[simp] theorem setCtx_regs (m : Mach) (c : Nat) (x : Ctx) :
    (setCtx m c x).regs = m.regs := rfl
@[simp] theorem setCtx_shadow (m : Mach) (c : Nat) (x : Ctx) :
    (setCtx m c x).shadow = m.shadow := rfl
@[simp] theorem setCtx_cmd (m : Mach) (c : Nat) (x : Ctx) :
    (setCtx m c x).cmd = m.cmd := rfl
@[simp] theorem setCtx_mem (m : Mach) (c : Nat) (x : Ctx) :
    (setCtx m c x).mem = m.mem := rfl
@[simp] theorem setCtx_run_step (m : Mach) (c : Nat) (x : Ctx) :
    (setCtx m c x).run.step = m.run.step := rfl
@[simp] theorem setCtx_run_parked (m : Mach) (c : Nat) (x : Ctx) :
    (setCtx m c x).run.parked = m.run.parked := rfl
@[simp] theorem setCtx_run_ports (m : Mach) (c : Nat) (x : Ctx) :
    (setCtx m c x).run.ports = m.run.ports := rfl
@[simp] theorem setCtx_run_hearths (m : Mach) (c : Nat) (x : Ctx) :
    (setCtx m c x).run.hearths = m.run.hearths := rfl
@[simp] theorem setCtx_run_placed (m : Mach) (c : Nat) (x : Ctx) :
    (setCtx m c x).run.placed = m.run.placed := rfl
@[simp] theorem setCtx_run_charges (m : Mach) (c : Nat) (x : Ctx) :
    (setCtx m c x).run.charges = m.run.charges := rfl
@[simp] theorem setCtx_run_carried (m : Mach) (c : Nat) (x : Ctx) :
    (setCtx m c x).run.carried = m.run.carried := rfl
@[simp] theorem setCtx_run_kilnSt (m : Mach) (c : Nat) (x : Ctx) :
    (setCtx m c x).run.kilnSt = m.run.kilnSt := rfl
@[simp] theorem setCtx_run_outWait (m : Mach) (c : Nat) (x : Ctx) :
    (setCtx m c x).run.outWait = m.run.outWait := rfl
@[simp] theorem setCtx_run_outNo (m : Mach) (c : Nat) (x : Ctx) :
    (setCtx m c x).run.outNo = m.run.outNo := rfl
@[simp] theorem setCtx_run_loopBillets (m : Mach) (c : Nat) (x : Ctx) :
    (setCtx m c x).run.loopBillets = m.run.loopBillets := rfl
@[simp] theorem setCtx_run_loopTiles (m : Mach) (c : Nat) (x : Ctx) :
    (setCtx m c x).run.loopTiles = m.run.loopTiles := rfl
@[simp] theorem setCtx_run_adviceGiven (m : Mach) (c : Nat) (x : Ctx) :
    (setCtx m c x).run.adviceGiven = m.run.adviceGiven := rfl
@[simp] theorem setCtx_run_adviceSince (m : Mach) (c : Nat) (x : Ctx) :
    (setCtx m c x).run.adviceSince = m.run.adviceSince := rfl
@[simp] theorem setCtx_run_autoSwap (m : Mach) (c : Nat) (x : Ctx) :
    (setCtx m c x).run.autoSwap = m.run.autoSwap := rfl
@[simp] theorem setCtx_net (m : Mach) (c : Nat) (x : Ctx) :
    (setCtx m c x).net = m.net := rfl
@[simp] theorem setCtx_coll (m : Mach) (c : Nat) (x : Ctx) :
    (setCtx m c x).coll = m.coll := rfl
@[simp] theorem setCtx_fab (m : Mach) (c : Nat) (x : Ctx) :
    (setCtx m c x).fab = m.fab := rfl
@[simp] theorem setCtx_tick (m : Mach) (c : Nat) (x : Ctx) :
    (setCtx m c x).tick = m.tick := rfl
@[simp] theorem setCtx_sec (m : Mach) (c : Nat) (x : Ctx) :
    (setCtx m c x).sec = m.sec := rfl
@[simp] theorem setCtx_log (m : Mach) (c : Nat) (x : Ctx) :
    (setCtx m c x).log = m.log := rfl
@[simp] theorem setCtx_out (m : Mach) (c : Nat) (x : Ctx) :
    (setCtx m c x).out = m.out := rfl
@[simp] theorem setCtx_free (m : Mach) (c : Nat) (x : Ctx) :
    (setCtx m c x).free = m.free := rfl

/-! ### setSem -/
@[simp] theorem setSem_regs (m : Mach) (c i v : Nat) :
    (setSem m c i v).regs = m.regs := rfl
@[simp] theorem setSem_shadow (m : Mach) (c i v : Nat) :
    (setSem m c i v).shadow = m.shadow := rfl
@[simp] theorem setSem_cmd (m : Mach) (c i v : Nat) :
    (setSem m c i v).cmd = m.cmd := rfl
@[simp] theorem setSem_mem (m : Mach) (c i v : Nat) :
    (setSem m c i v).mem = m.mem := rfl
@[simp] theorem setSem_run_step (m : Mach) (c i v : Nat) :
    (setSem m c i v).run.step = m.run.step := rfl
@[simp] theorem setSem_run_parked (m : Mach) (c i v : Nat) :
    (setSem m c i v).run.parked = m.run.parked := rfl
@[simp] theorem setSem_run_ports (m : Mach) (c i v : Nat) :
    (setSem m c i v).run.ports = m.run.ports := rfl
@[simp] theorem setSem_run_hearths (m : Mach) (c i v : Nat) :
    (setSem m c i v).run.hearths = m.run.hearths := rfl
@[simp] theorem setSem_run_placed (m : Mach) (c i v : Nat) :
    (setSem m c i v).run.placed = m.run.placed := rfl
@[simp] theorem setSem_run_charges (m : Mach) (c i v : Nat) :
    (setSem m c i v).run.charges = m.run.charges := rfl
@[simp] theorem setSem_run_carried (m : Mach) (c i v : Nat) :
    (setSem m c i v).run.carried = m.run.carried := rfl
@[simp] theorem setSem_run_kilnSt (m : Mach) (c i v : Nat) :
    (setSem m c i v).run.kilnSt = m.run.kilnSt := rfl
@[simp] theorem setSem_run_outWait (m : Mach) (c i v : Nat) :
    (setSem m c i v).run.outWait = m.run.outWait := rfl
@[simp] theorem setSem_run_outNo (m : Mach) (c i v : Nat) :
    (setSem m c i v).run.outNo = m.run.outNo := rfl
@[simp] theorem setSem_run_loopBillets (m : Mach) (c i v : Nat) :
    (setSem m c i v).run.loopBillets = m.run.loopBillets := rfl
@[simp] theorem setSem_run_loopTiles (m : Mach) (c i v : Nat) :
    (setSem m c i v).run.loopTiles = m.run.loopTiles := rfl
@[simp] theorem setSem_run_adviceGiven (m : Mach) (c i v : Nat) :
    (setSem m c i v).run.adviceGiven = m.run.adviceGiven := rfl
@[simp] theorem setSem_run_adviceSince (m : Mach) (c i v : Nat) :
    (setSem m c i v).run.adviceSince = m.run.adviceSince := rfl
@[simp] theorem setSem_run_autoSwap (m : Mach) (c i v : Nat) :
    (setSem m c i v).run.autoSwap = m.run.autoSwap := rfl
@[simp] theorem setSem_net (m : Mach) (c i v : Nat) :
    (setSem m c i v).net = m.net := rfl
@[simp] theorem setSem_coll (m : Mach) (c i v : Nat) :
    (setSem m c i v).coll = m.coll := rfl
@[simp] theorem setSem_fab (m : Mach) (c i v : Nat) :
    (setSem m c i v).fab = m.fab := rfl
@[simp] theorem setSem_tick (m : Mach) (c i v : Nat) :
    (setSem m c i v).tick = m.tick := rfl
@[simp] theorem setSem_sec (m : Mach) (c i v : Nat) :
    (setSem m c i v).sec = m.sec := rfl
@[simp] theorem setSem_log (m : Mach) (c i v : Nat) :
    (setSem m c i v).log = m.log := rfl
@[simp] theorem setSem_out (m : Mach) (c i v : Nat) :
    (setSem m c i v).out = m.out := rfl
@[simp] theorem setSem_free (m : Mach) (c i v : Nat) :
    (setSem m c i v).free = m.free := rfl

/-! ### setTables -/
@[simp] theorem setTables_regs (m : Mach) (c : Nat) (x : Tables) :
    (setTables m c x).regs = m.regs := rfl
@[simp] theorem setTables_shadow (m : Mach) (c : Nat) (x : Tables) :
    (setTables m c x).shadow = m.shadow := rfl
@[simp] theorem setTables_cmd (m : Mach) (c : Nat) (x : Tables) :
    (setTables m c x).cmd = m.cmd := rfl
@[simp] theorem setTables_mem (m : Mach) (c : Nat) (x : Tables) :
    (setTables m c x).mem = m.mem := rfl
@[simp] theorem setTables_run_step (m : Mach) (c : Nat) (x : Tables) :
    (setTables m c x).run.step = m.run.step := rfl
@[simp] theorem setTables_run_parked (m : Mach) (c : Nat) (x : Tables) :
    (setTables m c x).run.parked = m.run.parked := rfl
@[simp] theorem setTables_run_ports (m : Mach) (c : Nat) (x : Tables) :
    (setTables m c x).run.ports = m.run.ports := rfl
@[simp] theorem setTables_run_hearths (m : Mach) (c : Nat) (x : Tables) :
    (setTables m c x).run.hearths = m.run.hearths := rfl
@[simp] theorem setTables_run_placed (m : Mach) (c : Nat) (x : Tables) :
    (setTables m c x).run.placed = m.run.placed := rfl
@[simp] theorem setTables_run_charges (m : Mach) (c : Nat) (x : Tables) :
    (setTables m c x).run.charges = m.run.charges := rfl
@[simp] theorem setTables_run_carried (m : Mach) (c : Nat) (x : Tables) :
    (setTables m c x).run.carried = m.run.carried := rfl
@[simp] theorem setTables_run_kilnSt (m : Mach) (c : Nat) (x : Tables) :
    (setTables m c x).run.kilnSt = m.run.kilnSt := rfl
@[simp] theorem setTables_run_outWait (m : Mach) (c : Nat) (x : Tables) :
    (setTables m c x).run.outWait = m.run.outWait := rfl
@[simp] theorem setTables_run_outNo (m : Mach) (c : Nat) (x : Tables) :
    (setTables m c x).run.outNo = m.run.outNo := rfl
@[simp] theorem setTables_run_loopBillets (m : Mach) (c : Nat) (x : Tables) :
    (setTables m c x).run.loopBillets = m.run.loopBillets := rfl
@[simp] theorem setTables_run_loopTiles (m : Mach) (c : Nat) (x : Tables) :
    (setTables m c x).run.loopTiles = m.run.loopTiles := rfl
@[simp] theorem setTables_run_adviceGiven (m : Mach) (c : Nat) (x : Tables) :
    (setTables m c x).run.adviceGiven = m.run.adviceGiven := rfl
@[simp] theorem setTables_run_adviceSince (m : Mach) (c : Nat) (x : Tables) :
    (setTables m c x).run.adviceSince = m.run.adviceSince := rfl
@[simp] theorem setTables_run_autoSwap (m : Mach) (c : Nat) (x : Tables) :
    (setTables m c x).run.autoSwap = m.run.autoSwap := rfl
@[simp] theorem setTables_net (m : Mach) (c : Nat) (x : Tables) :
    (setTables m c x).net = m.net := rfl
@[simp] theorem setTables_coll (m : Mach) (c : Nat) (x : Tables) :
    (setTables m c x).coll = m.coll := rfl
@[simp] theorem setTables_fab (m : Mach) (c : Nat) (x : Tables) :
    (setTables m c x).fab = m.fab := rfl
@[simp] theorem setTables_tick (m : Mach) (c : Nat) (x : Tables) :
    (setTables m c x).tick = m.tick := rfl
@[simp] theorem setTables_sec (m : Mach) (c : Nat) (x : Tables) :
    (setTables m c x).sec = m.sec := rfl
@[simp] theorem setTables_log (m : Mach) (c : Nat) (x : Tables) :
    (setTables m c x).log = m.log := rfl
@[simp] theorem setTables_out (m : Mach) (c : Nat) (x : Tables) :
    (setTables m c x).out = m.out := rfl
@[simp] theorem setTables_free (m : Mach) (c : Nat) (x : Tables) :
    (setTables m c x).free = m.free := rfl

/-! ### setStep -/
@[simp] theorem setStep_regs (m : Mach) (x : StepRun) :
    (setStep m x).regs = m.regs := rfl
@[simp] theorem setStep_shadow (m : Mach) (x : StepRun) :
    (setStep m x).shadow = m.shadow := rfl
@[simp] theorem setStep_cmd (m : Mach) (x : StepRun) :
    (setStep m x).cmd = m.cmd := rfl
@[simp] theorem setStep_mem (m : Mach) (x : StepRun) :
    (setStep m x).mem = m.mem := rfl
@[simp] theorem setStep_run_ctxs (m : Mach) (x : StepRun) :
    (setStep m x).run.ctxs = m.run.ctxs := rfl
@[simp] theorem setStep_run_parked (m : Mach) (x : StepRun) :
    (setStep m x).run.parked = m.run.parked := rfl
@[simp] theorem setStep_run_ports (m : Mach) (x : StepRun) :
    (setStep m x).run.ports = m.run.ports := rfl
@[simp] theorem setStep_run_hearths (m : Mach) (x : StepRun) :
    (setStep m x).run.hearths = m.run.hearths := rfl
@[simp] theorem setStep_run_placed (m : Mach) (x : StepRun) :
    (setStep m x).run.placed = m.run.placed := rfl
@[simp] theorem setStep_run_charges (m : Mach) (x : StepRun) :
    (setStep m x).run.charges = m.run.charges := rfl
@[simp] theorem setStep_run_carried (m : Mach) (x : StepRun) :
    (setStep m x).run.carried = m.run.carried := rfl
@[simp] theorem setStep_run_kilnSt (m : Mach) (x : StepRun) :
    (setStep m x).run.kilnSt = m.run.kilnSt := rfl
@[simp] theorem setStep_run_outWait (m : Mach) (x : StepRun) :
    (setStep m x).run.outWait = m.run.outWait := rfl
@[simp] theorem setStep_run_outNo (m : Mach) (x : StepRun) :
    (setStep m x).run.outNo = m.run.outNo := rfl
@[simp] theorem setStep_run_loopBillets (m : Mach) (x : StepRun) :
    (setStep m x).run.loopBillets = m.run.loopBillets := rfl
@[simp] theorem setStep_run_loopTiles (m : Mach) (x : StepRun) :
    (setStep m x).run.loopTiles = m.run.loopTiles := rfl
@[simp] theorem setStep_run_adviceGiven (m : Mach) (x : StepRun) :
    (setStep m x).run.adviceGiven = m.run.adviceGiven := rfl
@[simp] theorem setStep_run_adviceSince (m : Mach) (x : StepRun) :
    (setStep m x).run.adviceSince = m.run.adviceSince := rfl
@[simp] theorem setStep_run_autoSwap (m : Mach) (x : StepRun) :
    (setStep m x).run.autoSwap = m.run.autoSwap := rfl
@[simp] theorem setStep_net (m : Mach) (x : StepRun) :
    (setStep m x).net = m.net := rfl
@[simp] theorem setStep_coll (m : Mach) (x : StepRun) :
    (setStep m x).coll = m.coll := rfl
@[simp] theorem setStep_fab (m : Mach) (x : StepRun) :
    (setStep m x).fab = m.fab := rfl
@[simp] theorem setStep_tick (m : Mach) (x : StepRun) :
    (setStep m x).tick = m.tick := rfl
@[simp] theorem setStep_sec (m : Mach) (x : StepRun) :
    (setStep m x).sec = m.sec := rfl
@[simp] theorem setStep_log (m : Mach) (x : StepRun) :
    (setStep m x).log = m.log := rfl
@[simp] theorem setStep_out (m : Mach) (x : StepRun) :
    (setStep m x).out = m.out := rfl
@[simp] theorem setStep_free (m : Mach) (x : StepRun) :
    (setStep m x).free = m.free := rfl

/-! ### setStrm -/
@[simp] theorem setStrm_regs (m : Mach) (q : Nat) (x : StrmPort) :
    (setStrm m q x).regs = m.regs := rfl
@[simp] theorem setStrm_shadow (m : Mach) (q : Nat) (x : StrmPort) :
    (setStrm m q x).shadow = m.shadow := rfl
@[simp] theorem setStrm_cmd (m : Mach) (q : Nat) (x : StrmPort) :
    (setStrm m q x).cmd = m.cmd := rfl
@[simp] theorem setStrm_mem (m : Mach) (q : Nat) (x : StrmPort) :
    (setStrm m q x).mem = m.mem := rfl
@[simp] theorem setStrm_run_ctxs (m : Mach) (q : Nat) (x : StrmPort) :
    (setStrm m q x).run.ctxs = m.run.ctxs := rfl
@[simp] theorem setStrm_run_step (m : Mach) (q : Nat) (x : StrmPort) :
    (setStrm m q x).run.step = m.run.step := rfl
@[simp] theorem setStrm_run_parked (m : Mach) (q : Nat) (x : StrmPort) :
    (setStrm m q x).run.parked = m.run.parked := rfl
@[simp] theorem setStrm_run_hearths (m : Mach) (q : Nat) (x : StrmPort) :
    (setStrm m q x).run.hearths = m.run.hearths := rfl
@[simp] theorem setStrm_run_placed (m : Mach) (q : Nat) (x : StrmPort) :
    (setStrm m q x).run.placed = m.run.placed := rfl
@[simp] theorem setStrm_run_charges (m : Mach) (q : Nat) (x : StrmPort) :
    (setStrm m q x).run.charges = m.run.charges := rfl
@[simp] theorem setStrm_run_carried (m : Mach) (q : Nat) (x : StrmPort) :
    (setStrm m q x).run.carried = m.run.carried := rfl
@[simp] theorem setStrm_run_kilnSt (m : Mach) (q : Nat) (x : StrmPort) :
    (setStrm m q x).run.kilnSt = m.run.kilnSt := rfl
@[simp] theorem setStrm_run_outWait (m : Mach) (q : Nat) (x : StrmPort) :
    (setStrm m q x).run.outWait = m.run.outWait := rfl
@[simp] theorem setStrm_run_outNo (m : Mach) (q : Nat) (x : StrmPort) :
    (setStrm m q x).run.outNo = m.run.outNo := rfl
@[simp] theorem setStrm_run_loopBillets (m : Mach) (q : Nat) (x : StrmPort) :
    (setStrm m q x).run.loopBillets = m.run.loopBillets := rfl
@[simp] theorem setStrm_run_loopTiles (m : Mach) (q : Nat) (x : StrmPort) :
    (setStrm m q x).run.loopTiles = m.run.loopTiles := rfl
@[simp] theorem setStrm_run_adviceGiven (m : Mach) (q : Nat) (x : StrmPort) :
    (setStrm m q x).run.adviceGiven = m.run.adviceGiven := rfl
@[simp] theorem setStrm_run_adviceSince (m : Mach) (q : Nat) (x : StrmPort) :
    (setStrm m q x).run.adviceSince = m.run.adviceSince := rfl
@[simp] theorem setStrm_run_autoSwap (m : Mach) (q : Nat) (x : StrmPort) :
    (setStrm m q x).run.autoSwap = m.run.autoSwap := rfl
@[simp] theorem setStrm_net (m : Mach) (q : Nat) (x : StrmPort) :
    (setStrm m q x).net = m.net := rfl
@[simp] theorem setStrm_coll (m : Mach) (q : Nat) (x : StrmPort) :
    (setStrm m q x).coll = m.coll := rfl
@[simp] theorem setStrm_fab (m : Mach) (q : Nat) (x : StrmPort) :
    (setStrm m q x).fab = m.fab := rfl
@[simp] theorem setStrm_tick (m : Mach) (q : Nat) (x : StrmPort) :
    (setStrm m q x).tick = m.tick := rfl
@[simp] theorem setStrm_sec (m : Mach) (q : Nat) (x : StrmPort) :
    (setStrm m q x).sec = m.sec := rfl
@[simp] theorem setStrm_log (m : Mach) (q : Nat) (x : StrmPort) :
    (setStrm m q x).log = m.log := rfl
@[simp] theorem setStrm_out (m : Mach) (q : Nat) (x : StrmPort) :
    (setStrm m q x).out = m.out := rfl
@[simp] theorem setStrm_free (m : Mach) (q : Nat) (x : StrmPort) :
    (setStrm m q x).free = m.free := rfl

/-! ### setSlotAt -/
@[simp] theorem setSlotAt_regs (m : Mach) (q k : Nat) (x : StrmSlot) :
    (setSlotAt m q k x).regs = m.regs := rfl
@[simp] theorem setSlotAt_shadow (m : Mach) (q k : Nat) (x : StrmSlot) :
    (setSlotAt m q k x).shadow = m.shadow := rfl
@[simp] theorem setSlotAt_cmd (m : Mach) (q k : Nat) (x : StrmSlot) :
    (setSlotAt m q k x).cmd = m.cmd := rfl
@[simp] theorem setSlotAt_mem (m : Mach) (q k : Nat) (x : StrmSlot) :
    (setSlotAt m q k x).mem = m.mem := rfl
@[simp] theorem setSlotAt_run_ctxs (m : Mach) (q k : Nat) (x : StrmSlot) :
    (setSlotAt m q k x).run.ctxs = m.run.ctxs := rfl
@[simp] theorem setSlotAt_run_step (m : Mach) (q k : Nat) (x : StrmSlot) :
    (setSlotAt m q k x).run.step = m.run.step := rfl
@[simp] theorem setSlotAt_run_parked (m : Mach) (q k : Nat) (x : StrmSlot) :
    (setSlotAt m q k x).run.parked = m.run.parked := rfl
@[simp] theorem setSlotAt_run_hearths (m : Mach) (q k : Nat) (x : StrmSlot) :
    (setSlotAt m q k x).run.hearths = m.run.hearths := rfl
@[simp] theorem setSlotAt_run_placed (m : Mach) (q k : Nat) (x : StrmSlot) :
    (setSlotAt m q k x).run.placed = m.run.placed := rfl
@[simp] theorem setSlotAt_run_charges (m : Mach) (q k : Nat) (x : StrmSlot) :
    (setSlotAt m q k x).run.charges = m.run.charges := rfl
@[simp] theorem setSlotAt_run_carried (m : Mach) (q k : Nat) (x : StrmSlot) :
    (setSlotAt m q k x).run.carried = m.run.carried := rfl
@[simp] theorem setSlotAt_run_kilnSt (m : Mach) (q k : Nat) (x : StrmSlot) :
    (setSlotAt m q k x).run.kilnSt = m.run.kilnSt := rfl
@[simp] theorem setSlotAt_run_outWait (m : Mach) (q k : Nat) (x : StrmSlot) :
    (setSlotAt m q k x).run.outWait = m.run.outWait := rfl
@[simp] theorem setSlotAt_run_outNo (m : Mach) (q k : Nat) (x : StrmSlot) :
    (setSlotAt m q k x).run.outNo = m.run.outNo := rfl
@[simp] theorem setSlotAt_run_loopBillets (m : Mach) (q k : Nat) (x : StrmSlot) :
    (setSlotAt m q k x).run.loopBillets = m.run.loopBillets := rfl
@[simp] theorem setSlotAt_run_loopTiles (m : Mach) (q k : Nat) (x : StrmSlot) :
    (setSlotAt m q k x).run.loopTiles = m.run.loopTiles := rfl
@[simp] theorem setSlotAt_run_adviceGiven (m : Mach) (q k : Nat) (x : StrmSlot) :
    (setSlotAt m q k x).run.adviceGiven = m.run.adviceGiven := rfl
@[simp] theorem setSlotAt_run_adviceSince (m : Mach) (q k : Nat) (x : StrmSlot) :
    (setSlotAt m q k x).run.adviceSince = m.run.adviceSince := rfl
@[simp] theorem setSlotAt_run_autoSwap (m : Mach) (q k : Nat) (x : StrmSlot) :
    (setSlotAt m q k x).run.autoSwap = m.run.autoSwap := rfl
@[simp] theorem setSlotAt_net (m : Mach) (q k : Nat) (x : StrmSlot) :
    (setSlotAt m q k x).net = m.net := rfl
@[simp] theorem setSlotAt_coll (m : Mach) (q k : Nat) (x : StrmSlot) :
    (setSlotAt m q k x).coll = m.coll := rfl
@[simp] theorem setSlotAt_fab (m : Mach) (q k : Nat) (x : StrmSlot) :
    (setSlotAt m q k x).fab = m.fab := rfl
@[simp] theorem setSlotAt_tick (m : Mach) (q k : Nat) (x : StrmSlot) :
    (setSlotAt m q k x).tick = m.tick := rfl
@[simp] theorem setSlotAt_sec (m : Mach) (q k : Nat) (x : StrmSlot) :
    (setSlotAt m q k x).sec = m.sec := rfl
@[simp] theorem setSlotAt_log (m : Mach) (q k : Nat) (x : StrmSlot) :
    (setSlotAt m q k x).log = m.log := rfl
@[simp] theorem setSlotAt_out (m : Mach) (q k : Nat) (x : StrmSlot) :
    (setSlotAt m q k x).out = m.out := rfl
@[simp] theorem setSlotAt_free (m : Mach) (q k : Nat) (x : StrmSlot) :
    (setSlotAt m q k x).free = m.free := rfl

/-! ### setHearth -/
@[simp] theorem setHearth_regs (m : Mach) (h : Nat) (x : Hearth) :
    (setHearth m h x).regs = m.regs := rfl
@[simp] theorem setHearth_shadow (m : Mach) (h : Nat) (x : Hearth) :
    (setHearth m h x).shadow = m.shadow := rfl
@[simp] theorem setHearth_cmd (m : Mach) (h : Nat) (x : Hearth) :
    (setHearth m h x).cmd = m.cmd := rfl
@[simp] theorem setHearth_mem (m : Mach) (h : Nat) (x : Hearth) :
    (setHearth m h x).mem = m.mem := rfl
@[simp] theorem setHearth_run_ctxs (m : Mach) (h : Nat) (x : Hearth) :
    (setHearth m h x).run.ctxs = m.run.ctxs := rfl
@[simp] theorem setHearth_run_step (m : Mach) (h : Nat) (x : Hearth) :
    (setHearth m h x).run.step = m.run.step := rfl
@[simp] theorem setHearth_run_parked (m : Mach) (h : Nat) (x : Hearth) :
    (setHearth m h x).run.parked = m.run.parked := rfl
@[simp] theorem setHearth_run_ports (m : Mach) (h : Nat) (x : Hearth) :
    (setHearth m h x).run.ports = m.run.ports := rfl
@[simp] theorem setHearth_run_placed (m : Mach) (h : Nat) (x : Hearth) :
    (setHearth m h x).run.placed = m.run.placed := rfl
@[simp] theorem setHearth_run_charges (m : Mach) (h : Nat) (x : Hearth) :
    (setHearth m h x).run.charges = m.run.charges := rfl
@[simp] theorem setHearth_run_carried (m : Mach) (h : Nat) (x : Hearth) :
    (setHearth m h x).run.carried = m.run.carried := rfl
@[simp] theorem setHearth_run_kilnSt (m : Mach) (h : Nat) (x : Hearth) :
    (setHearth m h x).run.kilnSt = m.run.kilnSt := rfl
@[simp] theorem setHearth_run_outWait (m : Mach) (h : Nat) (x : Hearth) :
    (setHearth m h x).run.outWait = m.run.outWait := rfl
@[simp] theorem setHearth_run_outNo (m : Mach) (h : Nat) (x : Hearth) :
    (setHearth m h x).run.outNo = m.run.outNo := rfl
@[simp] theorem setHearth_run_loopBillets (m : Mach) (h : Nat) (x : Hearth) :
    (setHearth m h x).run.loopBillets = m.run.loopBillets := rfl
@[simp] theorem setHearth_run_loopTiles (m : Mach) (h : Nat) (x : Hearth) :
    (setHearth m h x).run.loopTiles = m.run.loopTiles := rfl
@[simp] theorem setHearth_run_adviceGiven (m : Mach) (h : Nat) (x : Hearth) :
    (setHearth m h x).run.adviceGiven = m.run.adviceGiven := rfl
@[simp] theorem setHearth_run_adviceSince (m : Mach) (h : Nat) (x : Hearth) :
    (setHearth m h x).run.adviceSince = m.run.adviceSince := rfl
@[simp] theorem setHearth_run_autoSwap (m : Mach) (h : Nat) (x : Hearth) :
    (setHearth m h x).run.autoSwap = m.run.autoSwap := rfl
@[simp] theorem setHearth_net (m : Mach) (h : Nat) (x : Hearth) :
    (setHearth m h x).net = m.net := rfl
@[simp] theorem setHearth_coll (m : Mach) (h : Nat) (x : Hearth) :
    (setHearth m h x).coll = m.coll := rfl
@[simp] theorem setHearth_fab (m : Mach) (h : Nat) (x : Hearth) :
    (setHearth m h x).fab = m.fab := rfl
@[simp] theorem setHearth_tick (m : Mach) (h : Nat) (x : Hearth) :
    (setHearth m h x).tick = m.tick := rfl
@[simp] theorem setHearth_sec (m : Mach) (h : Nat) (x : Hearth) :
    (setHearth m h x).sec = m.sec := rfl
@[simp] theorem setHearth_log (m : Mach) (h : Nat) (x : Hearth) :
    (setHearth m h x).log = m.log := rfl
@[simp] theorem setHearth_out (m : Mach) (h : Nat) (x : Hearth) :
    (setHearth m h x).out = m.out := rfl
@[simp] theorem setHearth_free (m : Mach) (h : Nat) (x : Hearth) :
    (setHearth m h x).free = m.free := rfl

/-! ### setAutoSwap -/
@[simp] theorem setAutoSwap_regs (m : Mach) (x : AutoSwap) :
    (setAutoSwap m x).regs = m.regs := rfl
@[simp] theorem setAutoSwap_shadow (m : Mach) (x : AutoSwap) :
    (setAutoSwap m x).shadow = m.shadow := rfl
@[simp] theorem setAutoSwap_cmd (m : Mach) (x : AutoSwap) :
    (setAutoSwap m x).cmd = m.cmd := rfl
@[simp] theorem setAutoSwap_mem (m : Mach) (x : AutoSwap) :
    (setAutoSwap m x).mem = m.mem := rfl
@[simp] theorem setAutoSwap_run_ctxs (m : Mach) (x : AutoSwap) :
    (setAutoSwap m x).run.ctxs = m.run.ctxs := rfl
@[simp] theorem setAutoSwap_run_step (m : Mach) (x : AutoSwap) :
    (setAutoSwap m x).run.step = m.run.step := rfl
@[simp] theorem setAutoSwap_run_parked (m : Mach) (x : AutoSwap) :
    (setAutoSwap m x).run.parked = m.run.parked := rfl
@[simp] theorem setAutoSwap_run_ports (m : Mach) (x : AutoSwap) :
    (setAutoSwap m x).run.ports = m.run.ports := rfl
@[simp] theorem setAutoSwap_run_hearths (m : Mach) (x : AutoSwap) :
    (setAutoSwap m x).run.hearths = m.run.hearths := rfl
@[simp] theorem setAutoSwap_run_placed (m : Mach) (x : AutoSwap) :
    (setAutoSwap m x).run.placed = m.run.placed := rfl
@[simp] theorem setAutoSwap_run_charges (m : Mach) (x : AutoSwap) :
    (setAutoSwap m x).run.charges = m.run.charges := rfl
@[simp] theorem setAutoSwap_run_carried (m : Mach) (x : AutoSwap) :
    (setAutoSwap m x).run.carried = m.run.carried := rfl
@[simp] theorem setAutoSwap_run_kilnSt (m : Mach) (x : AutoSwap) :
    (setAutoSwap m x).run.kilnSt = m.run.kilnSt := rfl
@[simp] theorem setAutoSwap_run_outWait (m : Mach) (x : AutoSwap) :
    (setAutoSwap m x).run.outWait = m.run.outWait := rfl
@[simp] theorem setAutoSwap_run_outNo (m : Mach) (x : AutoSwap) :
    (setAutoSwap m x).run.outNo = m.run.outNo := rfl
@[simp] theorem setAutoSwap_run_loopBillets (m : Mach) (x : AutoSwap) :
    (setAutoSwap m x).run.loopBillets = m.run.loopBillets := rfl
@[simp] theorem setAutoSwap_run_loopTiles (m : Mach) (x : AutoSwap) :
    (setAutoSwap m x).run.loopTiles = m.run.loopTiles := rfl
@[simp] theorem setAutoSwap_run_adviceGiven (m : Mach) (x : AutoSwap) :
    (setAutoSwap m x).run.adviceGiven = m.run.adviceGiven := rfl
@[simp] theorem setAutoSwap_run_adviceSince (m : Mach) (x : AutoSwap) :
    (setAutoSwap m x).run.adviceSince = m.run.adviceSince := rfl
@[simp] theorem setAutoSwap_net (m : Mach) (x : AutoSwap) :
    (setAutoSwap m x).net = m.net := rfl
@[simp] theorem setAutoSwap_coll (m : Mach) (x : AutoSwap) :
    (setAutoSwap m x).coll = m.coll := rfl
@[simp] theorem setAutoSwap_fab (m : Mach) (x : AutoSwap) :
    (setAutoSwap m x).fab = m.fab := rfl
@[simp] theorem setAutoSwap_tick (m : Mach) (x : AutoSwap) :
    (setAutoSwap m x).tick = m.tick := rfl
@[simp] theorem setAutoSwap_sec (m : Mach) (x : AutoSwap) :
    (setAutoSwap m x).sec = m.sec := rfl
@[simp] theorem setAutoSwap_log (m : Mach) (x : AutoSwap) :
    (setAutoSwap m x).log = m.log := rfl
@[simp] theorem setAutoSwap_out (m : Mach) (x : AutoSwap) :
    (setAutoSwap m x).out = m.out := rfl
@[simp] theorem setAutoSwap_free (m : Mach) (x : AutoSwap) :
    (setAutoSwap m x).free = m.free := rfl

/-! ### setPq -/
@[simp] theorem setPq_regs (m : Mach) (q : Nat) (x : PQueue) :
    (setPq m q x).regs = m.regs := rfl
@[simp] theorem setPq_shadow (m : Mach) (q : Nat) (x : PQueue) :
    (setPq m q x).shadow = m.shadow := rfl
@[simp] theorem setPq_cmd_windows (m : Mach) (q : Nat) (x : PQueue) :
    (setPq m q x).cmd.windows = m.cmd.windows := rfl
@[simp] theorem setPq_cmd_rings (m : Mach) (q : Nat) (x : PQueue) :
    (setPq m q x).cmd.rings = m.cmd.rings := rfl
@[simp] theorem setPq_cmd_running (m : Mach) (q : Nat) (x : PQueue) :
    (setPq m q x).cmd.running = m.cmd.running := rfl
@[simp] theorem setPq_cmd_holds (m : Mach) (q : Nat) (x : PQueue) :
    (setPq m q x).cmd.holds = m.cmd.holds := rfl
@[simp] theorem setPq_cmd_events (m : Mach) (q : Nat) (x : PQueue) :
    (setPq m q x).cmd.events = m.cmd.events := rfl
@[simp] theorem setPq_cmd_nextAcc (m : Mach) (q : Nat) (x : PQueue) :
    (setPq m q x).cmd.nextAcc = m.cmd.nextAcc := rfl
@[simp] theorem setPq_cmd_batches (m : Mach) (q : Nat) (x : PQueue) :
    (setPq m q x).cmd.batches = m.cmd.batches := rfl
@[simp] theorem setPq_cmd_writes (m : Mach) (q : Nat) (x : PQueue) :
    (setPq m q x).cmd.writes = m.cmd.writes := rfl
@[simp] theorem setPq_cmd_writeSeq (m : Mach) (q : Nat) (x : PQueue) :
    (setPq m q x).cmd.writeSeq = m.cmd.writeSeq := rfl
@[simp] theorem setPq_mem (m : Mach) (q : Nat) (x : PQueue) :
    (setPq m q x).mem = m.mem := rfl
@[simp] theorem setPq_run (m : Mach) (q : Nat) (x : PQueue) :
    (setPq m q x).run = m.run := rfl
@[simp] theorem setPq_net (m : Mach) (q : Nat) (x : PQueue) :
    (setPq m q x).net = m.net := rfl
@[simp] theorem setPq_coll (m : Mach) (q : Nat) (x : PQueue) :
    (setPq m q x).coll = m.coll := rfl
@[simp] theorem setPq_fab (m : Mach) (q : Nat) (x : PQueue) :
    (setPq m q x).fab = m.fab := rfl
@[simp] theorem setPq_tick (m : Mach) (q : Nat) (x : PQueue) :
    (setPq m q x).tick = m.tick := rfl
@[simp] theorem setPq_sec (m : Mach) (q : Nat) (x : PQueue) :
    (setPq m q x).sec = m.sec := rfl
@[simp] theorem setPq_log (m : Mach) (q : Nat) (x : PQueue) :
    (setPq m q x).log = m.log := rfl
@[simp] theorem setPq_out (m : Mach) (q : Nat) (x : PQueue) :
    (setPq m q x).out = m.out := rfl
@[simp] theorem setPq_free (m : Mach) (q : Nat) (x : PQueue) :
    (setPq m q x).free = m.free := rfl

/-! ### setRing -/
@[simp] theorem setRing_regs (m : Mach) (r : Nat) (x : BogRing) :
    (setRing m r x).regs = m.regs := rfl
@[simp] theorem setRing_shadow (m : Mach) (r : Nat) (x : BogRing) :
    (setRing m r x).shadow = m.shadow := rfl
@[simp] theorem setRing_cmd_windows (m : Mach) (r : Nat) (x : BogRing) :
    (setRing m r x).cmd.windows = m.cmd.windows := rfl
@[simp] theorem setRing_cmd_queues (m : Mach) (r : Nat) (x : BogRing) :
    (setRing m r x).cmd.queues = m.cmd.queues := rfl
@[simp] theorem setRing_cmd_running (m : Mach) (r : Nat) (x : BogRing) :
    (setRing m r x).cmd.running = m.cmd.running := rfl
@[simp] theorem setRing_cmd_holds (m : Mach) (r : Nat) (x : BogRing) :
    (setRing m r x).cmd.holds = m.cmd.holds := rfl
@[simp] theorem setRing_cmd_events (m : Mach) (r : Nat) (x : BogRing) :
    (setRing m r x).cmd.events = m.cmd.events := rfl
@[simp] theorem setRing_cmd_nextAcc (m : Mach) (r : Nat) (x : BogRing) :
    (setRing m r x).cmd.nextAcc = m.cmd.nextAcc := rfl
@[simp] theorem setRing_cmd_batches (m : Mach) (r : Nat) (x : BogRing) :
    (setRing m r x).cmd.batches = m.cmd.batches := rfl
@[simp] theorem setRing_cmd_writes (m : Mach) (r : Nat) (x : BogRing) :
    (setRing m r x).cmd.writes = m.cmd.writes := rfl
@[simp] theorem setRing_cmd_writeSeq (m : Mach) (r : Nat) (x : BogRing) :
    (setRing m r x).cmd.writeSeq = m.cmd.writeSeq := rfl
@[simp] theorem setRing_mem (m : Mach) (r : Nat) (x : BogRing) :
    (setRing m r x).mem = m.mem := rfl
@[simp] theorem setRing_run (m : Mach) (r : Nat) (x : BogRing) :
    (setRing m r x).run = m.run := rfl
@[simp] theorem setRing_net (m : Mach) (r : Nat) (x : BogRing) :
    (setRing m r x).net = m.net := rfl
@[simp] theorem setRing_coll (m : Mach) (r : Nat) (x : BogRing) :
    (setRing m r x).coll = m.coll := rfl
@[simp] theorem setRing_fab (m : Mach) (r : Nat) (x : BogRing) :
    (setRing m r x).fab = m.fab := rfl
@[simp] theorem setRing_tick (m : Mach) (r : Nat) (x : BogRing) :
    (setRing m r x).tick = m.tick := rfl
@[simp] theorem setRing_sec (m : Mach) (r : Nat) (x : BogRing) :
    (setRing m r x).sec = m.sec := rfl
@[simp] theorem setRing_log (m : Mach) (r : Nat) (x : BogRing) :
    (setRing m r x).log = m.log := rfl
@[simp] theorem setRing_out (m : Mach) (r : Nat) (x : BogRing) :
    (setRing m r x).out = m.out := rfl
@[simp] theorem setRing_free (m : Mach) (r : Nat) (x : BogRing) :
    (setRing m r x).free = m.free := rfl

/-! ### setHold -/
@[simp] theorem setHold_regs (m : Mach) (r : Nat) (x : List Completion) :
    (setHold m r x).regs = m.regs := rfl
@[simp] theorem setHold_shadow (m : Mach) (r : Nat) (x : List Completion) :
    (setHold m r x).shadow = m.shadow := rfl
@[simp] theorem setHold_cmd_windows (m : Mach) (r : Nat) (x : List Completion) :
    (setHold m r x).cmd.windows = m.cmd.windows := rfl
@[simp] theorem setHold_cmd_queues (m : Mach) (r : Nat) (x : List Completion) :
    (setHold m r x).cmd.queues = m.cmd.queues := rfl
@[simp] theorem setHold_cmd_rings (m : Mach) (r : Nat) (x : List Completion) :
    (setHold m r x).cmd.rings = m.cmd.rings := rfl
@[simp] theorem setHold_cmd_running (m : Mach) (r : Nat) (x : List Completion) :
    (setHold m r x).cmd.running = m.cmd.running := rfl
@[simp] theorem setHold_cmd_events (m : Mach) (r : Nat) (x : List Completion) :
    (setHold m r x).cmd.events = m.cmd.events := rfl
@[simp] theorem setHold_cmd_nextAcc (m : Mach) (r : Nat) (x : List Completion) :
    (setHold m r x).cmd.nextAcc = m.cmd.nextAcc := rfl
@[simp] theorem setHold_cmd_batches (m : Mach) (r : Nat) (x : List Completion) :
    (setHold m r x).cmd.batches = m.cmd.batches := rfl
@[simp] theorem setHold_cmd_writes (m : Mach) (r : Nat) (x : List Completion) :
    (setHold m r x).cmd.writes = m.cmd.writes := rfl
@[simp] theorem setHold_cmd_writeSeq (m : Mach) (r : Nat) (x : List Completion) :
    (setHold m r x).cmd.writeSeq = m.cmd.writeSeq := rfl
@[simp] theorem setHold_mem (m : Mach) (r : Nat) (x : List Completion) :
    (setHold m r x).mem = m.mem := rfl
@[simp] theorem setHold_run (m : Mach) (r : Nat) (x : List Completion) :
    (setHold m r x).run = m.run := rfl
@[simp] theorem setHold_net (m : Mach) (r : Nat) (x : List Completion) :
    (setHold m r x).net = m.net := rfl
@[simp] theorem setHold_coll (m : Mach) (r : Nat) (x : List Completion) :
    (setHold m r x).coll = m.coll := rfl
@[simp] theorem setHold_fab (m : Mach) (r : Nat) (x : List Completion) :
    (setHold m r x).fab = m.fab := rfl
@[simp] theorem setHold_tick (m : Mach) (r : Nat) (x : List Completion) :
    (setHold m r x).tick = m.tick := rfl
@[simp] theorem setHold_sec (m : Mach) (r : Nat) (x : List Completion) :
    (setHold m r x).sec = m.sec := rfl
@[simp] theorem setHold_log (m : Mach) (r : Nat) (x : List Completion) :
    (setHold m r x).log = m.log := rfl
@[simp] theorem setHold_out (m : Mach) (r : Nat) (x : List Completion) :
    (setHold m r x).out = m.out := rfl
@[simp] theorem setHold_free (m : Mach) (r : Nat) (x : List Completion) :
    (setHold m r x).free = m.free := rfl

/-! ### pushHold -/
@[simp] theorem pushHold_regs (m : Mach) (w : Nat) (x : Completion) :
    (pushHold m w x).regs = m.regs := rfl
@[simp] theorem pushHold_shadow (m : Mach) (w : Nat) (x : Completion) :
    (pushHold m w x).shadow = m.shadow := rfl
@[simp] theorem pushHold_cmd_windows (m : Mach) (w : Nat) (x : Completion) :
    (pushHold m w x).cmd.windows = m.cmd.windows := rfl
@[simp] theorem pushHold_cmd_queues (m : Mach) (w : Nat) (x : Completion) :
    (pushHold m w x).cmd.queues = m.cmd.queues := rfl
@[simp] theorem pushHold_cmd_rings (m : Mach) (w : Nat) (x : Completion) :
    (pushHold m w x).cmd.rings = m.cmd.rings := rfl
@[simp] theorem pushHold_cmd_running (m : Mach) (w : Nat) (x : Completion) :
    (pushHold m w x).cmd.running = m.cmd.running := rfl
@[simp] theorem pushHold_cmd_events (m : Mach) (w : Nat) (x : Completion) :
    (pushHold m w x).cmd.events = m.cmd.events := rfl
@[simp] theorem pushHold_cmd_nextAcc (m : Mach) (w : Nat) (x : Completion) :
    (pushHold m w x).cmd.nextAcc = m.cmd.nextAcc := rfl
@[simp] theorem pushHold_cmd_batches (m : Mach) (w : Nat) (x : Completion) :
    (pushHold m w x).cmd.batches = m.cmd.batches := rfl
@[simp] theorem pushHold_cmd_writes (m : Mach) (w : Nat) (x : Completion) :
    (pushHold m w x).cmd.writes = m.cmd.writes := rfl
@[simp] theorem pushHold_cmd_writeSeq (m : Mach) (w : Nat) (x : Completion) :
    (pushHold m w x).cmd.writeSeq = m.cmd.writeSeq := rfl
@[simp] theorem pushHold_mem (m : Mach) (w : Nat) (x : Completion) :
    (pushHold m w x).mem = m.mem := rfl
@[simp] theorem pushHold_run (m : Mach) (w : Nat) (x : Completion) :
    (pushHold m w x).run = m.run := rfl
@[simp] theorem pushHold_net (m : Mach) (w : Nat) (x : Completion) :
    (pushHold m w x).net = m.net := rfl
@[simp] theorem pushHold_coll (m : Mach) (w : Nat) (x : Completion) :
    (pushHold m w x).coll = m.coll := rfl
@[simp] theorem pushHold_fab (m : Mach) (w : Nat) (x : Completion) :
    (pushHold m w x).fab = m.fab := rfl
@[simp] theorem pushHold_tick (m : Mach) (w : Nat) (x : Completion) :
    (pushHold m w x).tick = m.tick := rfl
@[simp] theorem pushHold_sec (m : Mach) (w : Nat) (x : Completion) :
    (pushHold m w x).sec = m.sec := rfl
@[simp] theorem pushHold_log (m : Mach) (w : Nat) (x : Completion) :
    (pushHold m w x).log = m.log := rfl
@[simp] theorem pushHold_out (m : Mach) (w : Nat) (x : Completion) :
    (pushHold m w x).out = m.out := rfl
@[simp] theorem pushHold_free (m : Mach) (w : Nat) (x : Completion) :
    (pushHold m w x).free = m.free := rfl

/-! ### setEvtCnt -/
@[simp] theorem setEvtCnt_regs (m : Mach) (e v : Nat) :
    (setEvtCnt m e v).regs = m.regs := rfl
@[simp] theorem setEvtCnt_shadow (m : Mach) (e v : Nat) :
    (setEvtCnt m e v).shadow = m.shadow := rfl
@[simp] theorem setEvtCnt_cmd_windows (m : Mach) (e v : Nat) :
    (setEvtCnt m e v).cmd.windows = m.cmd.windows := rfl
@[simp] theorem setEvtCnt_cmd_queues (m : Mach) (e v : Nat) :
    (setEvtCnt m e v).cmd.queues = m.cmd.queues := rfl
@[simp] theorem setEvtCnt_cmd_rings (m : Mach) (e v : Nat) :
    (setEvtCnt m e v).cmd.rings = m.cmd.rings := rfl
@[simp] theorem setEvtCnt_cmd_running (m : Mach) (e v : Nat) :
    (setEvtCnt m e v).cmd.running = m.cmd.running := rfl
@[simp] theorem setEvtCnt_cmd_holds (m : Mach) (e v : Nat) :
    (setEvtCnt m e v).cmd.holds = m.cmd.holds := rfl
@[simp] theorem setEvtCnt_cmd_nextAcc (m : Mach) (e v : Nat) :
    (setEvtCnt m e v).cmd.nextAcc = m.cmd.nextAcc := rfl
@[simp] theorem setEvtCnt_cmd_batches (m : Mach) (e v : Nat) :
    (setEvtCnt m e v).cmd.batches = m.cmd.batches := rfl
@[simp] theorem setEvtCnt_cmd_writes (m : Mach) (e v : Nat) :
    (setEvtCnt m e v).cmd.writes = m.cmd.writes := rfl
@[simp] theorem setEvtCnt_cmd_writeSeq (m : Mach) (e v : Nat) :
    (setEvtCnt m e v).cmd.writeSeq = m.cmd.writeSeq := rfl
@[simp] theorem setEvtCnt_mem (m : Mach) (e v : Nat) :
    (setEvtCnt m e v).mem = m.mem := rfl
@[simp] theorem setEvtCnt_run (m : Mach) (e v : Nat) :
    (setEvtCnt m e v).run = m.run := rfl
@[simp] theorem setEvtCnt_net (m : Mach) (e v : Nat) :
    (setEvtCnt m e v).net = m.net := rfl
@[simp] theorem setEvtCnt_coll (m : Mach) (e v : Nat) :
    (setEvtCnt m e v).coll = m.coll := rfl
@[simp] theorem setEvtCnt_fab (m : Mach) (e v : Nat) :
    (setEvtCnt m e v).fab = m.fab := rfl
@[simp] theorem setEvtCnt_tick (m : Mach) (e v : Nat) :
    (setEvtCnt m e v).tick = m.tick := rfl
@[simp] theorem setEvtCnt_sec (m : Mach) (e v : Nat) :
    (setEvtCnt m e v).sec = m.sec := rfl
@[simp] theorem setEvtCnt_log (m : Mach) (e v : Nat) :
    (setEvtCnt m e v).log = m.log := rfl
@[simp] theorem setEvtCnt_out (m : Mach) (e v : Nat) :
    (setEvtCnt m e v).out = m.out := rfl
@[simp] theorem setEvtCnt_free (m : Mach) (e v : Nat) :
    (setEvtCnt m e v).free = m.free := rfl

/-! ### addEvt -/
@[simp] theorem addEvt_regs (m : Mach) (e n : Nat) :
    (addEvt m e n).regs = m.regs := rfl
@[simp] theorem addEvt_shadow (m : Mach) (e n : Nat) :
    (addEvt m e n).shadow = m.shadow := rfl
@[simp] theorem addEvt_cmd_windows (m : Mach) (e n : Nat) :
    (addEvt m e n).cmd.windows = m.cmd.windows := rfl
@[simp] theorem addEvt_cmd_queues (m : Mach) (e n : Nat) :
    (addEvt m e n).cmd.queues = m.cmd.queues := rfl
@[simp] theorem addEvt_cmd_rings (m : Mach) (e n : Nat) :
    (addEvt m e n).cmd.rings = m.cmd.rings := rfl
@[simp] theorem addEvt_cmd_running (m : Mach) (e n : Nat) :
    (addEvt m e n).cmd.running = m.cmd.running := rfl
@[simp] theorem addEvt_cmd_holds (m : Mach) (e n : Nat) :
    (addEvt m e n).cmd.holds = m.cmd.holds := rfl
@[simp] theorem addEvt_cmd_nextAcc (m : Mach) (e n : Nat) :
    (addEvt m e n).cmd.nextAcc = m.cmd.nextAcc := rfl
@[simp] theorem addEvt_cmd_batches (m : Mach) (e n : Nat) :
    (addEvt m e n).cmd.batches = m.cmd.batches := rfl
@[simp] theorem addEvt_cmd_writes (m : Mach) (e n : Nat) :
    (addEvt m e n).cmd.writes = m.cmd.writes := rfl
@[simp] theorem addEvt_cmd_writeSeq (m : Mach) (e n : Nat) :
    (addEvt m e n).cmd.writeSeq = m.cmd.writeSeq := rfl
@[simp] theorem addEvt_mem (m : Mach) (e n : Nat) :
    (addEvt m e n).mem = m.mem := rfl
@[simp] theorem addEvt_run (m : Mach) (e n : Nat) :
    (addEvt m e n).run = m.run := rfl
@[simp] theorem addEvt_net (m : Mach) (e n : Nat) :
    (addEvt m e n).net = m.net := rfl
@[simp] theorem addEvt_coll (m : Mach) (e n : Nat) :
    (addEvt m e n).coll = m.coll := rfl
@[simp] theorem addEvt_fab (m : Mach) (e n : Nat) :
    (addEvt m e n).fab = m.fab := rfl
@[simp] theorem addEvt_tick (m : Mach) (e n : Nat) :
    (addEvt m e n).tick = m.tick := rfl
@[simp] theorem addEvt_sec (m : Mach) (e n : Nat) :
    (addEvt m e n).sec = m.sec := rfl
@[simp] theorem addEvt_log (m : Mach) (e n : Nat) :
    (addEvt m e n).log = m.log := rfl
@[simp] theorem addEvt_out (m : Mach) (e n : Nat) :
    (addEvt m e n).out = m.out := rfl
@[simp] theorem addEvt_free (m : Mach) (e n : Nat) :
    (addEvt m e n).free = m.free := rfl

/-! ### setRunning -/
@[simp] theorem setRunning_regs (m : Mach) (r : Running) :
    (setRunning m r).regs = m.regs := rfl
@[simp] theorem setRunning_shadow (m : Mach) (r : Running) :
    (setRunning m r).shadow = m.shadow := rfl
@[simp] theorem setRunning_cmd_windows (m : Mach) (r : Running) :
    (setRunning m r).cmd.windows = m.cmd.windows := rfl
@[simp] theorem setRunning_cmd_queues (m : Mach) (r : Running) :
    (setRunning m r).cmd.queues = m.cmd.queues := rfl
@[simp] theorem setRunning_cmd_rings (m : Mach) (r : Running) :
    (setRunning m r).cmd.rings = m.cmd.rings := rfl
@[simp] theorem setRunning_cmd_holds (m : Mach) (r : Running) :
    (setRunning m r).cmd.holds = m.cmd.holds := rfl
@[simp] theorem setRunning_cmd_events (m : Mach) (r : Running) :
    (setRunning m r).cmd.events = m.cmd.events := rfl
@[simp] theorem setRunning_cmd_nextAcc (m : Mach) (r : Running) :
    (setRunning m r).cmd.nextAcc = m.cmd.nextAcc := rfl
@[simp] theorem setRunning_cmd_batches (m : Mach) (r : Running) :
    (setRunning m r).cmd.batches = m.cmd.batches := rfl
@[simp] theorem setRunning_cmd_writes (m : Mach) (r : Running) :
    (setRunning m r).cmd.writes = m.cmd.writes := rfl
@[simp] theorem setRunning_cmd_writeSeq (m : Mach) (r : Running) :
    (setRunning m r).cmd.writeSeq = m.cmd.writeSeq := rfl
@[simp] theorem setRunning_mem (m : Mach) (r : Running) :
    (setRunning m r).mem = m.mem := rfl
@[simp] theorem setRunning_run (m : Mach) (r : Running) :
    (setRunning m r).run = m.run := rfl
@[simp] theorem setRunning_net (m : Mach) (r : Running) :
    (setRunning m r).net = m.net := rfl
@[simp] theorem setRunning_coll (m : Mach) (r : Running) :
    (setRunning m r).coll = m.coll := rfl
@[simp] theorem setRunning_fab (m : Mach) (r : Running) :
    (setRunning m r).fab = m.fab := rfl
@[simp] theorem setRunning_tick (m : Mach) (r : Running) :
    (setRunning m r).tick = m.tick := rfl
@[simp] theorem setRunning_sec (m : Mach) (r : Running) :
    (setRunning m r).sec = m.sec := rfl
@[simp] theorem setRunning_log (m : Mach) (r : Running) :
    (setRunning m r).log = m.log := rfl
@[simp] theorem setRunning_out (m : Mach) (r : Running) :
    (setRunning m r).out = m.out := rfl
@[simp] theorem setRunning_free (m : Mach) (r : Running) :
    (setRunning m r).free = m.free := rfl

/-! ### dropRunning -/
@[simp] theorem dropRunning_regs (m : Mach) (acc : Nat) :
    (dropRunning m acc).regs = m.regs := rfl
@[simp] theorem dropRunning_shadow (m : Mach) (acc : Nat) :
    (dropRunning m acc).shadow = m.shadow := rfl
@[simp] theorem dropRunning_cmd_windows (m : Mach) (acc : Nat) :
    (dropRunning m acc).cmd.windows = m.cmd.windows := rfl
@[simp] theorem dropRunning_cmd_queues (m : Mach) (acc : Nat) :
    (dropRunning m acc).cmd.queues = m.cmd.queues := rfl
@[simp] theorem dropRunning_cmd_rings (m : Mach) (acc : Nat) :
    (dropRunning m acc).cmd.rings = m.cmd.rings := rfl
@[simp] theorem dropRunning_cmd_holds (m : Mach) (acc : Nat) :
    (dropRunning m acc).cmd.holds = m.cmd.holds := rfl
@[simp] theorem dropRunning_cmd_events (m : Mach) (acc : Nat) :
    (dropRunning m acc).cmd.events = m.cmd.events := rfl
@[simp] theorem dropRunning_cmd_nextAcc (m : Mach) (acc : Nat) :
    (dropRunning m acc).cmd.nextAcc = m.cmd.nextAcc := rfl
@[simp] theorem dropRunning_cmd_batches (m : Mach) (acc : Nat) :
    (dropRunning m acc).cmd.batches = m.cmd.batches := rfl
@[simp] theorem dropRunning_cmd_writes (m : Mach) (acc : Nat) :
    (dropRunning m acc).cmd.writes = m.cmd.writes := rfl
@[simp] theorem dropRunning_cmd_writeSeq (m : Mach) (acc : Nat) :
    (dropRunning m acc).cmd.writeSeq = m.cmd.writeSeq := rfl
@[simp] theorem dropRunning_mem_host (m : Mach) (acc : Nat) :
    (dropRunning m acc).mem.host = m.mem.host := rfl
@[simp] theorem dropRunning_mem_kiln (m : Mach) (acc : Nat) :
    (dropRunning m acc).mem.kiln = m.mem.kiln := rfl
@[simp] theorem dropRunning_mem_ember (m : Mach) (acc : Nat) :
    (dropRunning m acc).mem.ember = m.mem.ember := rfl
@[simp] theorem dropRunning_mem_nextTxn (m : Mach) (acc : Nat) :
    (dropRunning m acc).mem.nextTxn = m.mem.nextTxn := rfl
@[simp] theorem dropRunning_mem_rr (m : Mach) (acc : Nat) :
    (dropRunning m acc).mem.rr = m.mem.rr := rfl
@[simp] theorem dropRunning_run (m : Mach) (acc : Nat) :
    (dropRunning m acc).run = m.run := rfl
@[simp] theorem dropRunning_net (m : Mach) (acc : Nat) :
    (dropRunning m acc).net = m.net := rfl
@[simp] theorem dropRunning_coll (m : Mach) (acc : Nat) :
    (dropRunning m acc).coll = m.coll := rfl
@[simp] theorem dropRunning_fab (m : Mach) (acc : Nat) :
    (dropRunning m acc).fab = m.fab := rfl
@[simp] theorem dropRunning_tick (m : Mach) (acc : Nat) :
    (dropRunning m acc).tick = m.tick := rfl
@[simp] theorem dropRunning_sec (m : Mach) (acc : Nat) :
    (dropRunning m acc).sec = m.sec := rfl
@[simp] theorem dropRunning_log (m : Mach) (acc : Nat) :
    (dropRunning m acc).log = m.log := rfl
@[simp] theorem dropRunning_out (m : Mach) (acc : Nat) :
    (dropRunning m acc).out = m.out := rfl
@[simp] theorem dropRunning_free (m : Mach) (acc : Nat) :
    (dropRunning m acc).free = m.free := rfl

/-! ### dropTxns -/
@[simp] theorem dropTxns_regs (m : Mach) (keep : TxnUse → Bool) :
    (dropTxns m keep).regs = m.regs := rfl
@[simp] theorem dropTxns_shadow (m : Mach) (keep : TxnUse → Bool) :
    (dropTxns m keep).shadow = m.shadow := rfl
@[simp] theorem dropTxns_cmd (m : Mach) (keep : TxnUse → Bool) :
    (dropTxns m keep).cmd = m.cmd := rfl
@[simp] theorem dropTxns_mem_host (m : Mach) (keep : TxnUse → Bool) :
    (dropTxns m keep).mem.host = m.mem.host := rfl
@[simp] theorem dropTxns_mem_kiln (m : Mach) (keep : TxnUse → Bool) :
    (dropTxns m keep).mem.kiln = m.mem.kiln := rfl
@[simp] theorem dropTxns_mem_ember (m : Mach) (keep : TxnUse → Bool) :
    (dropTxns m keep).mem.ember = m.mem.ember := rfl
@[simp] theorem dropTxns_mem_nextTxn (m : Mach) (keep : TxnUse → Bool) :
    (dropTxns m keep).mem.nextTxn = m.mem.nextTxn := rfl
@[simp] theorem dropTxns_mem_rr (m : Mach) (keep : TxnUse → Bool) :
    (dropTxns m keep).mem.rr = m.mem.rr := rfl
@[simp] theorem dropTxns_run (m : Mach) (keep : TxnUse → Bool) :
    (dropTxns m keep).run = m.run := rfl
@[simp] theorem dropTxns_net (m : Mach) (keep : TxnUse → Bool) :
    (dropTxns m keep).net = m.net := rfl
@[simp] theorem dropTxns_coll (m : Mach) (keep : TxnUse → Bool) :
    (dropTxns m keep).coll = m.coll := rfl
@[simp] theorem dropTxns_fab (m : Mach) (keep : TxnUse → Bool) :
    (dropTxns m keep).fab = m.fab := rfl
@[simp] theorem dropTxns_tick (m : Mach) (keep : TxnUse → Bool) :
    (dropTxns m keep).tick = m.tick := rfl
@[simp] theorem dropTxns_sec (m : Mach) (keep : TxnUse → Bool) :
    (dropTxns m keep).sec = m.sec := rfl
@[simp] theorem dropTxns_log (m : Mach) (keep : TxnUse → Bool) :
    (dropTxns m keep).log = m.log := rfl
@[simp] theorem dropTxns_out (m : Mach) (keep : TxnUse → Bool) :
    (dropTxns m keep).out = m.out := rfl
@[simp] theorem dropTxns_free (m : Mach) (keep : TxnUse → Bool) :
    (dropTxns m keep).free = m.free := rfl

/-! ### putHost -/
@[simp] theorem putHost_regs (m : Mach) (a : Nat) (bs : List Byte) :
    (putHost m a bs).regs = m.regs := rfl
@[simp] theorem putHost_shadow (m : Mach) (a : Nat) (bs : List Byte) :
    (putHost m a bs).shadow = m.shadow := rfl
@[simp] theorem putHost_cmd (m : Mach) (a : Nat) (bs : List Byte) :
    (putHost m a bs).cmd = m.cmd := rfl
@[simp] theorem putHost_mem_kiln (m : Mach) (a : Nat) (bs : List Byte) :
    (putHost m a bs).mem.kiln = m.mem.kiln := rfl
@[simp] theorem putHost_mem_ember (m : Mach) (a : Nat) (bs : List Byte) :
    (putHost m a bs).mem.ember = m.mem.ember := rfl
@[simp] theorem putHost_mem_txns (m : Mach) (a : Nat) (bs : List Byte) :
    (putHost m a bs).mem.txns = m.mem.txns := rfl
@[simp] theorem putHost_mem_waiting (m : Mach) (a : Nat) (bs : List Byte) :
    (putHost m a bs).mem.waiting = m.mem.waiting := rfl
@[simp] theorem putHost_mem_nextTxn (m : Mach) (a : Nat) (bs : List Byte) :
    (putHost m a bs).mem.nextTxn = m.mem.nextTxn := rfl
@[simp] theorem putHost_mem_rr (m : Mach) (a : Nat) (bs : List Byte) :
    (putHost m a bs).mem.rr = m.mem.rr := rfl
@[simp] theorem putHost_mem_ports (m : Mach) (a : Nat) (bs : List Byte) :
    (putHost m a bs).mem.ports = m.mem.ports := rfl
@[simp] theorem putHost_run (m : Mach) (a : Nat) (bs : List Byte) :
    (putHost m a bs).run = m.run := rfl
@[simp] theorem putHost_net (m : Mach) (a : Nat) (bs : List Byte) :
    (putHost m a bs).net = m.net := rfl
@[simp] theorem putHost_coll (m : Mach) (a : Nat) (bs : List Byte) :
    (putHost m a bs).coll = m.coll := rfl
@[simp] theorem putHost_fab (m : Mach) (a : Nat) (bs : List Byte) :
    (putHost m a bs).fab = m.fab := rfl
@[simp] theorem putHost_tick (m : Mach) (a : Nat) (bs : List Byte) :
    (putHost m a bs).tick = m.tick := rfl
@[simp] theorem putHost_sec (m : Mach) (a : Nat) (bs : List Byte) :
    (putHost m a bs).sec = m.sec := rfl
@[simp] theorem putHost_log (m : Mach) (a : Nat) (bs : List Byte) :
    (putHost m a bs).log = m.log := rfl
@[simp] theorem putHost_out (m : Mach) (a : Nat) (bs : List Byte) :
    (putHost m a bs).out = m.out := rfl
@[simp] theorem putHost_free (m : Mach) (a : Nat) (bs : List Byte) :
    (putHost m a bs).free = m.free := rfl

/-! ### putKiln -/
@[simp] theorem putKiln_regs (m : Mach) (a : Nat) (bs : List Byte) :
    (putKiln m a bs).regs = m.regs := rfl
@[simp] theorem putKiln_shadow (m : Mach) (a : Nat) (bs : List Byte) :
    (putKiln m a bs).shadow = m.shadow := rfl
@[simp] theorem putKiln_cmd (m : Mach) (a : Nat) (bs : List Byte) :
    (putKiln m a bs).cmd = m.cmd := rfl
@[simp] theorem putKiln_mem_host (m : Mach) (a : Nat) (bs : List Byte) :
    (putKiln m a bs).mem.host = m.mem.host := rfl
@[simp] theorem putKiln_mem_ember (m : Mach) (a : Nat) (bs : List Byte) :
    (putKiln m a bs).mem.ember = m.mem.ember := rfl
@[simp] theorem putKiln_mem_txns (m : Mach) (a : Nat) (bs : List Byte) :
    (putKiln m a bs).mem.txns = m.mem.txns := rfl
@[simp] theorem putKiln_mem_waiting (m : Mach) (a : Nat) (bs : List Byte) :
    (putKiln m a bs).mem.waiting = m.mem.waiting := rfl
@[simp] theorem putKiln_mem_nextTxn (m : Mach) (a : Nat) (bs : List Byte) :
    (putKiln m a bs).mem.nextTxn = m.mem.nextTxn := rfl
@[simp] theorem putKiln_mem_rr (m : Mach) (a : Nat) (bs : List Byte) :
    (putKiln m a bs).mem.rr = m.mem.rr := rfl
@[simp] theorem putKiln_mem_ports (m : Mach) (a : Nat) (bs : List Byte) :
    (putKiln m a bs).mem.ports = m.mem.ports := rfl
@[simp] theorem putKiln_run_ctxs (m : Mach) (a : Nat) (bs : List Byte) :
    (putKiln m a bs).run.ctxs = m.run.ctxs := rfl
@[simp] theorem putKiln_run_step (m : Mach) (a : Nat) (bs : List Byte) :
    (putKiln m a bs).run.step = m.run.step := rfl
@[simp] theorem putKiln_run_parked (m : Mach) (a : Nat) (bs : List Byte) :
    (putKiln m a bs).run.parked = m.run.parked := rfl
@[simp] theorem putKiln_run_ports (m : Mach) (a : Nat) (bs : List Byte) :
    (putKiln m a bs).run.ports = m.run.ports := rfl
@[simp] theorem putKiln_run_hearths (m : Mach) (a : Nat) (bs : List Byte) :
    (putKiln m a bs).run.hearths = m.run.hearths := rfl
@[simp] theorem putKiln_run_placed (m : Mach) (a : Nat) (bs : List Byte) :
    (putKiln m a bs).run.placed = m.run.placed := rfl
@[simp] theorem putKiln_run_charges (m : Mach) (a : Nat) (bs : List Byte) :
    (putKiln m a bs).run.charges = m.run.charges := rfl
@[simp] theorem putKiln_run_carried (m : Mach) (a : Nat) (bs : List Byte) :
    (putKiln m a bs).run.carried = m.run.carried := rfl
@[simp] theorem putKiln_run_outWait (m : Mach) (a : Nat) (bs : List Byte) :
    (putKiln m a bs).run.outWait = m.run.outWait := rfl
@[simp] theorem putKiln_run_outNo (m : Mach) (a : Nat) (bs : List Byte) :
    (putKiln m a bs).run.outNo = m.run.outNo := rfl
@[simp] theorem putKiln_run_loopBillets (m : Mach) (a : Nat) (bs : List Byte) :
    (putKiln m a bs).run.loopBillets = m.run.loopBillets := rfl
@[simp] theorem putKiln_run_loopTiles (m : Mach) (a : Nat) (bs : List Byte) :
    (putKiln m a bs).run.loopTiles = m.run.loopTiles := rfl
@[simp] theorem putKiln_run_adviceGiven (m : Mach) (a : Nat) (bs : List Byte) :
    (putKiln m a bs).run.adviceGiven = m.run.adviceGiven := rfl
@[simp] theorem putKiln_run_adviceSince (m : Mach) (a : Nat) (bs : List Byte) :
    (putKiln m a bs).run.adviceSince = m.run.adviceSince := rfl
@[simp] theorem putKiln_run_autoSwap (m : Mach) (a : Nat) (bs : List Byte) :
    (putKiln m a bs).run.autoSwap = m.run.autoSwap := rfl
@[simp] theorem putKiln_net (m : Mach) (a : Nat) (bs : List Byte) :
    (putKiln m a bs).net = m.net := rfl
@[simp] theorem putKiln_coll (m : Mach) (a : Nat) (bs : List Byte) :
    (putKiln m a bs).coll = m.coll := rfl
@[simp] theorem putKiln_fab (m : Mach) (a : Nat) (bs : List Byte) :
    (putKiln m a bs).fab = m.fab := rfl
@[simp] theorem putKiln_tick (m : Mach) (a : Nat) (bs : List Byte) :
    (putKiln m a bs).tick = m.tick := rfl
@[simp] theorem putKiln_sec (m : Mach) (a : Nat) (bs : List Byte) :
    (putKiln m a bs).sec = m.sec := rfl
@[simp] theorem putKiln_log (m : Mach) (a : Nat) (bs : List Byte) :
    (putKiln m a bs).log = m.log := rfl
@[simp] theorem putKiln_out (m : Mach) (a : Nat) (bs : List Byte) :
    (putKiln m a bs).out = m.out := rfl
@[simp] theorem putKiln_free (m : Mach) (a : Nat) (bs : List Byte) :
    (putKiln m a bs).free = m.free := rfl

/-! ### setMemPort -/
@[simp] theorem setMemPort_regs (m : Mach) (i : Nat) (x : MemPort) :
    (setMemPort m i x).regs = m.regs := rfl
@[simp] theorem setMemPort_shadow (m : Mach) (i : Nat) (x : MemPort) :
    (setMemPort m i x).shadow = m.shadow := rfl
@[simp] theorem setMemPort_cmd (m : Mach) (i : Nat) (x : MemPort) :
    (setMemPort m i x).cmd = m.cmd := rfl
@[simp] theorem setMemPort_mem_host (m : Mach) (i : Nat) (x : MemPort) :
    (setMemPort m i x).mem.host = m.mem.host := rfl
@[simp] theorem setMemPort_mem_kiln (m : Mach) (i : Nat) (x : MemPort) :
    (setMemPort m i x).mem.kiln = m.mem.kiln := rfl
@[simp] theorem setMemPort_mem_ember (m : Mach) (i : Nat) (x : MemPort) :
    (setMemPort m i x).mem.ember = m.mem.ember := rfl
@[simp] theorem setMemPort_mem_txns (m : Mach) (i : Nat) (x : MemPort) :
    (setMemPort m i x).mem.txns = m.mem.txns := rfl
@[simp] theorem setMemPort_mem_waiting (m : Mach) (i : Nat) (x : MemPort) :
    (setMemPort m i x).mem.waiting = m.mem.waiting := rfl
@[simp] theorem setMemPort_mem_nextTxn (m : Mach) (i : Nat) (x : MemPort) :
    (setMemPort m i x).mem.nextTxn = m.mem.nextTxn := rfl
@[simp] theorem setMemPort_mem_rr (m : Mach) (i : Nat) (x : MemPort) :
    (setMemPort m i x).mem.rr = m.mem.rr := rfl
@[simp] theorem setMemPort_run (m : Mach) (i : Nat) (x : MemPort) :
    (setMemPort m i x).run = m.run := rfl
@[simp] theorem setMemPort_net (m : Mach) (i : Nat) (x : MemPort) :
    (setMemPort m i x).net = m.net := rfl
@[simp] theorem setMemPort_coll (m : Mach) (i : Nat) (x : MemPort) :
    (setMemPort m i x).coll = m.coll := rfl
@[simp] theorem setMemPort_fab (m : Mach) (i : Nat) (x : MemPort) :
    (setMemPort m i x).fab = m.fab := rfl
@[simp] theorem setMemPort_tick (m : Mach) (i : Nat) (x : MemPort) :
    (setMemPort m i x).tick = m.tick := rfl
@[simp] theorem setMemPort_sec (m : Mach) (i : Nat) (x : MemPort) :
    (setMemPort m i x).sec = m.sec := rfl
@[simp] theorem setMemPort_log (m : Mach) (i : Nat) (x : MemPort) :
    (setMemPort m i x).log = m.log := rfl
@[simp] theorem setMemPort_out (m : Mach) (i : Nat) (x : MemPort) :
    (setMemPort m i x).out = m.out := rfl
@[simp] theorem setMemPort_free (m : Mach) (i : Nat) (x : MemPort) :
    (setMemPort m i x).free = m.free := rfl

/-! ### removeTxn -/
@[simp] theorem removeTxn_regs (m : Mach) (id : Nat) :
    (removeTxn m id).regs = m.regs := rfl
@[simp] theorem removeTxn_shadow (m : Mach) (id : Nat) :
    (removeTxn m id).shadow = m.shadow := rfl
@[simp] theorem removeTxn_cmd (m : Mach) (id : Nat) :
    (removeTxn m id).cmd = m.cmd := rfl
@[simp] theorem removeTxn_mem_host (m : Mach) (id : Nat) :
    (removeTxn m id).mem.host = m.mem.host := rfl
@[simp] theorem removeTxn_mem_kiln (m : Mach) (id : Nat) :
    (removeTxn m id).mem.kiln = m.mem.kiln := rfl
@[simp] theorem removeTxn_mem_ember (m : Mach) (id : Nat) :
    (removeTxn m id).mem.ember = m.mem.ember := rfl
@[simp] theorem removeTxn_mem_waiting (m : Mach) (id : Nat) :
    (removeTxn m id).mem.waiting = m.mem.waiting := rfl
@[simp] theorem removeTxn_mem_nextTxn (m : Mach) (id : Nat) :
    (removeTxn m id).mem.nextTxn = m.mem.nextTxn := rfl
@[simp] theorem removeTxn_mem_rr (m : Mach) (id : Nat) :
    (removeTxn m id).mem.rr = m.mem.rr := rfl
@[simp] theorem removeTxn_mem_ports (m : Mach) (id : Nat) :
    (removeTxn m id).mem.ports = m.mem.ports := rfl
@[simp] theorem removeTxn_run (m : Mach) (id : Nat) :
    (removeTxn m id).run = m.run := rfl
@[simp] theorem removeTxn_net (m : Mach) (id : Nat) :
    (removeTxn m id).net = m.net := rfl
@[simp] theorem removeTxn_coll (m : Mach) (id : Nat) :
    (removeTxn m id).coll = m.coll := rfl
@[simp] theorem removeTxn_fab (m : Mach) (id : Nat) :
    (removeTxn m id).fab = m.fab := rfl
@[simp] theorem removeTxn_tick (m : Mach) (id : Nat) :
    (removeTxn m id).tick = m.tick := rfl
@[simp] theorem removeTxn_sec (m : Mach) (id : Nat) :
    (removeTxn m id).sec = m.sec := rfl
@[simp] theorem removeTxn_log (m : Mach) (id : Nat) :
    (removeTxn m id).log = m.log := rfl
@[simp] theorem removeTxn_out (m : Mach) (id : Nat) :
    (removeTxn m id).out = m.out := rfl
@[simp] theorem removeTxn_free (m : Mach) (id : Nat) :
    (removeTxn m id).free = m.free := rfl

/-! ### setLink -/
@[simp] theorem setLink_regs (m : Mach) (l : Nat) (x : Link) :
    (setLink m l x).regs = m.regs := rfl
@[simp] theorem setLink_shadow (m : Mach) (l : Nat) (x : Link) :
    (setLink m l x).shadow = m.shadow := rfl
@[simp] theorem setLink_cmd (m : Mach) (l : Nat) (x : Link) :
    (setLink m l x).cmd = m.cmd := rfl
@[simp] theorem setLink_mem (m : Mach) (l : Nat) (x : Link) :
    (setLink m l x).mem = m.mem := rfl
@[simp] theorem setLink_run (m : Mach) (l : Nat) (x : Link) :
    (setLink m l x).run = m.run := rfl
@[simp] theorem setLink_net_routes (m : Mach) (l : Nat) (x : Link) :
    (setLink m l x).net.routes = m.net.routes := rfl
@[simp] theorem setLink_net_spread (m : Mach) (l : Nat) (x : Link) :
    (setLink m l x).net.spread = m.net.spread := rfl
@[simp] theorem setLink_net_spreadT (m : Mach) (l : Nat) (x : Link) :
    (setLink m l x).net.spreadT = m.net.spreadT := rfl
@[simp] theorem setLink_net_ownWait (m : Mach) (l : Nat) (x : Link) :
    (setLink m l x).net.ownWait = m.net.ownWait := rfl
@[simp] theorem setLink_net_transitWait (m : Mach) (l : Nat) (x : Link) :
    (setLink m l x).net.transitWait = m.net.transitWait := rfl
@[simp] theorem setLink_net_vc0Out (m : Mach) (l : Nat) (x : Link) :
    (setLink m l x).net.vc0Out = m.net.vc0Out := rfl
@[simp] theorem setLink_net_vc0In (m : Mach) (l : Nat) (x : Link) :
    (setLink m l x).net.vc0In = m.net.vc0In := rfl
@[simp] theorem setLink_net_rx (m : Mach) (l : Nat) (x : Link) :
    (setLink m l x).net.rx = m.net.rx := rfl
@[simp] theorem setLink_net_flows (m : Mach) (l : Nat) (x : Link) :
    (setLink m l x).net.flows = m.net.flows := rfl
@[simp] theorem setLink_net_outst (m : Mach) (l : Nat) (x : Link) :
    (setLink m l x).net.outst = m.net.outst := rfl
@[simp] theorem setLink_net_filters (m : Mach) (l : Nat) (x : Link) :
    (setLink m l x).net.filters = m.net.filters := rfl
@[simp] theorem setLink_net_ptags (m : Mach) (l : Nat) (x : Link) :
    (setLink m l x).net.ptags = m.net.ptags := rfl
@[simp] theorem setLink_net_dropped (m : Mach) (l : Nat) (x : Link) :
    (setLink m l x).net.dropped = m.net.dropped := rfl
@[simp] theorem setLink_coll (m : Mach) (l : Nat) (x : Link) :
    (setLink m l x).coll = m.coll := rfl
@[simp] theorem setLink_fab (m : Mach) (l : Nat) (x : Link) :
    (setLink m l x).fab = m.fab := rfl
@[simp] theorem setLink_tick (m : Mach) (l : Nat) (x : Link) :
    (setLink m l x).tick = m.tick := rfl
@[simp] theorem setLink_sec (m : Mach) (l : Nat) (x : Link) :
    (setLink m l x).sec = m.sec := rfl
@[simp] theorem setLink_log (m : Mach) (l : Nat) (x : Link) :
    (setLink m l x).log = m.log := rfl
@[simp] theorem setLink_out (m : Mach) (l : Nat) (x : Link) :
    (setLink m l x).out = m.out := rfl
@[simp] theorem setLink_free (m : Mach) (l : Nat) (x : Link) :
    (setLink m l x).free = m.free := rfl

/-! ### setFlow -/
@[simp] theorem setFlow_regs (m : Mach) (d vc : Nat) (x : Flow) :
    (setFlow m d vc x).regs = m.regs := rfl
@[simp] theorem setFlow_shadow (m : Mach) (d vc : Nat) (x : Flow) :
    (setFlow m d vc x).shadow = m.shadow := rfl
@[simp] theorem setFlow_cmd (m : Mach) (d vc : Nat) (x : Flow) :
    (setFlow m d vc x).cmd = m.cmd := rfl
@[simp] theorem setFlow_mem (m : Mach) (d vc : Nat) (x : Flow) :
    (setFlow m d vc x).mem = m.mem := rfl
@[simp] theorem setFlow_run (m : Mach) (d vc : Nat) (x : Flow) :
    (setFlow m d vc x).run = m.run := rfl
@[simp] theorem setFlow_net_links (m : Mach) (d vc : Nat) (x : Flow) :
    (setFlow m d vc x).net.links = m.net.links := rfl
@[simp] theorem setFlow_net_routes (m : Mach) (d vc : Nat) (x : Flow) :
    (setFlow m d vc x).net.routes = m.net.routes := rfl
@[simp] theorem setFlow_net_spread (m : Mach) (d vc : Nat) (x : Flow) :
    (setFlow m d vc x).net.spread = m.net.spread := rfl
@[simp] theorem setFlow_net_spreadT (m : Mach) (d vc : Nat) (x : Flow) :
    (setFlow m d vc x).net.spreadT = m.net.spreadT := rfl
@[simp] theorem setFlow_net_ownWait (m : Mach) (d vc : Nat) (x : Flow) :
    (setFlow m d vc x).net.ownWait = m.net.ownWait := rfl
@[simp] theorem setFlow_net_transitWait (m : Mach) (d vc : Nat) (x : Flow) :
    (setFlow m d vc x).net.transitWait = m.net.transitWait := rfl
@[simp] theorem setFlow_net_vc0Out (m : Mach) (d vc : Nat) (x : Flow) :
    (setFlow m d vc x).net.vc0Out = m.net.vc0Out := rfl
@[simp] theorem setFlow_net_vc0In (m : Mach) (d vc : Nat) (x : Flow) :
    (setFlow m d vc x).net.vc0In = m.net.vc0In := rfl
@[simp] theorem setFlow_net_rx (m : Mach) (d vc : Nat) (x : Flow) :
    (setFlow m d vc x).net.rx = m.net.rx := rfl
@[simp] theorem setFlow_net_outst (m : Mach) (d vc : Nat) (x : Flow) :
    (setFlow m d vc x).net.outst = m.net.outst := rfl
@[simp] theorem setFlow_net_filters (m : Mach) (d vc : Nat) (x : Flow) :
    (setFlow m d vc x).net.filters = m.net.filters := rfl
@[simp] theorem setFlow_net_ptags (m : Mach) (d vc : Nat) (x : Flow) :
    (setFlow m d vc x).net.ptags = m.net.ptags := rfl
@[simp] theorem setFlow_net_dropped (m : Mach) (d vc : Nat) (x : Flow) :
    (setFlow m d vc x).net.dropped = m.net.dropped := rfl
@[simp] theorem setFlow_coll (m : Mach) (d vc : Nat) (x : Flow) :
    (setFlow m d vc x).coll = m.coll := rfl
@[simp] theorem setFlow_fab (m : Mach) (d vc : Nat) (x : Flow) :
    (setFlow m d vc x).fab = m.fab := rfl
@[simp] theorem setFlow_tick (m : Mach) (d vc : Nat) (x : Flow) :
    (setFlow m d vc x).tick = m.tick := rfl
@[simp] theorem setFlow_sec (m : Mach) (d vc : Nat) (x : Flow) :
    (setFlow m d vc x).sec = m.sec := rfl
@[simp] theorem setFlow_log (m : Mach) (d vc : Nat) (x : Flow) :
    (setFlow m d vc x).log = m.log := rfl
@[simp] theorem setFlow_out (m : Mach) (d vc : Nat) (x : Flow) :
    (setFlow m d vc x).out = m.out := rfl
@[simp] theorem setFlow_free (m : Mach) (d vc : Nat) (x : Flow) :
    (setFlow m d vc x).free = m.free := rfl

/-! ### setFilter -/
@[simp] theorem setFilter_regs (m : Mach) (d vc : Nat) (x : Filter) :
    (setFilter m d vc x).regs = m.regs := rfl
@[simp] theorem setFilter_shadow (m : Mach) (d vc : Nat) (x : Filter) :
    (setFilter m d vc x).shadow = m.shadow := rfl
@[simp] theorem setFilter_cmd (m : Mach) (d vc : Nat) (x : Filter) :
    (setFilter m d vc x).cmd = m.cmd := rfl
@[simp] theorem setFilter_mem (m : Mach) (d vc : Nat) (x : Filter) :
    (setFilter m d vc x).mem = m.mem := rfl
@[simp] theorem setFilter_run (m : Mach) (d vc : Nat) (x : Filter) :
    (setFilter m d vc x).run = m.run := rfl
@[simp] theorem setFilter_net_links (m : Mach) (d vc : Nat) (x : Filter) :
    (setFilter m d vc x).net.links = m.net.links := rfl
@[simp] theorem setFilter_net_routes (m : Mach) (d vc : Nat) (x : Filter) :
    (setFilter m d vc x).net.routes = m.net.routes := rfl
@[simp] theorem setFilter_net_spread (m : Mach) (d vc : Nat) (x : Filter) :
    (setFilter m d vc x).net.spread = m.net.spread := rfl
@[simp] theorem setFilter_net_spreadT (m : Mach) (d vc : Nat) (x : Filter) :
    (setFilter m d vc x).net.spreadT = m.net.spreadT := rfl
@[simp] theorem setFilter_net_ownWait (m : Mach) (d vc : Nat) (x : Filter) :
    (setFilter m d vc x).net.ownWait = m.net.ownWait := rfl
@[simp] theorem setFilter_net_transitWait (m : Mach) (d vc : Nat) (x : Filter) :
    (setFilter m d vc x).net.transitWait = m.net.transitWait := rfl
@[simp] theorem setFilter_net_vc0Out (m : Mach) (d vc : Nat) (x : Filter) :
    (setFilter m d vc x).net.vc0Out = m.net.vc0Out := rfl
@[simp] theorem setFilter_net_vc0In (m : Mach) (d vc : Nat) (x : Filter) :
    (setFilter m d vc x).net.vc0In = m.net.vc0In := rfl
@[simp] theorem setFilter_net_rx (m : Mach) (d vc : Nat) (x : Filter) :
    (setFilter m d vc x).net.rx = m.net.rx := rfl
@[simp] theorem setFilter_net_flows (m : Mach) (d vc : Nat) (x : Filter) :
    (setFilter m d vc x).net.flows = m.net.flows := rfl
@[simp] theorem setFilter_net_outst (m : Mach) (d vc : Nat) (x : Filter) :
    (setFilter m d vc x).net.outst = m.net.outst := rfl
@[simp] theorem setFilter_net_ptags (m : Mach) (d vc : Nat) (x : Filter) :
    (setFilter m d vc x).net.ptags = m.net.ptags := rfl
@[simp] theorem setFilter_net_dropped (m : Mach) (d vc : Nat) (x : Filter) :
    (setFilter m d vc x).net.dropped = m.net.dropped := rfl
@[simp] theorem setFilter_coll (m : Mach) (d vc : Nat) (x : Filter) :
    (setFilter m d vc x).coll = m.coll := rfl
@[simp] theorem setFilter_fab (m : Mach) (d vc : Nat) (x : Filter) :
    (setFilter m d vc x).fab = m.fab := rfl
@[simp] theorem setFilter_tick (m : Mach) (d vc : Nat) (x : Filter) :
    (setFilter m d vc x).tick = m.tick := rfl
@[simp] theorem setFilter_sec (m : Mach) (d vc : Nat) (x : Filter) :
    (setFilter m d vc x).sec = m.sec := rfl
@[simp] theorem setFilter_log (m : Mach) (d vc : Nat) (x : Filter) :
    (setFilter m d vc x).log = m.log := rfl
@[simp] theorem setFilter_out (m : Mach) (d vc : Nat) (x : Filter) :
    (setFilter m d vc x).out = m.out := rfl
@[simp] theorem setFilter_free (m : Mach) (d vc : Nat) (x : Filter) :
    (setFilter m d vc x).free = m.free := rfl

/-! ### freeCredit -/
@[simp] theorem freeCredit_regs (m : Mach) (l vc : Nat) :
    (freeCredit m l vc).regs = m.regs := by
  unfold freeCredit; dsimp only; split <;> rfl
@[simp] theorem freeCredit_shadow (m : Mach) (l vc : Nat) :
    (freeCredit m l vc).shadow = m.shadow := by
  unfold freeCredit; dsimp only; split <;> rfl
@[simp] theorem freeCredit_cmd (m : Mach) (l vc : Nat) :
    (freeCredit m l vc).cmd = m.cmd := by
  unfold freeCredit; dsimp only; split <;> rfl
@[simp] theorem freeCredit_mem (m : Mach) (l vc : Nat) :
    (freeCredit m l vc).mem = m.mem := by
  unfold freeCredit; dsimp only; split <;> rfl
@[simp] theorem freeCredit_run (m : Mach) (l vc : Nat) :
    (freeCredit m l vc).run = m.run := by
  unfold freeCredit; dsimp only; split <;> rfl
@[simp] theorem freeCredit_net_routes (m : Mach) (l vc : Nat) :
    (freeCredit m l vc).net.routes = m.net.routes := by
  unfold freeCredit; dsimp only; split <;> rfl
@[simp] theorem freeCredit_net_spread (m : Mach) (l vc : Nat) :
    (freeCredit m l vc).net.spread = m.net.spread := by
  unfold freeCredit; dsimp only; split <;> rfl
@[simp] theorem freeCredit_net_spreadT (m : Mach) (l vc : Nat) :
    (freeCredit m l vc).net.spreadT = m.net.spreadT := by
  unfold freeCredit; dsimp only; split <;> rfl
@[simp] theorem freeCredit_net_ownWait (m : Mach) (l vc : Nat) :
    (freeCredit m l vc).net.ownWait = m.net.ownWait := by
  unfold freeCredit; dsimp only; split <;> rfl
@[simp] theorem freeCredit_net_transitWait (m : Mach) (l vc : Nat) :
    (freeCredit m l vc).net.transitWait = m.net.transitWait := by
  unfold freeCredit; dsimp only; split <;> rfl
@[simp] theorem freeCredit_net_vc0Out (m : Mach) (l vc : Nat) :
    (freeCredit m l vc).net.vc0Out = m.net.vc0Out := by
  unfold freeCredit; dsimp only; split <;> rfl
@[simp] theorem freeCredit_net_vc0In (m : Mach) (l vc : Nat) :
    (freeCredit m l vc).net.vc0In = m.net.vc0In := by
  unfold freeCredit; dsimp only; split <;> rfl
@[simp] theorem freeCredit_net_rx (m : Mach) (l vc : Nat) :
    (freeCredit m l vc).net.rx = m.net.rx := by
  unfold freeCredit; dsimp only; split <;> rfl
@[simp] theorem freeCredit_net_flows (m : Mach) (l vc : Nat) :
    (freeCredit m l vc).net.flows = m.net.flows := by
  unfold freeCredit; dsimp only; split <;> rfl
@[simp] theorem freeCredit_net_outst (m : Mach) (l vc : Nat) :
    (freeCredit m l vc).net.outst = m.net.outst := by
  unfold freeCredit; dsimp only; split <;> rfl
@[simp] theorem freeCredit_net_filters (m : Mach) (l vc : Nat) :
    (freeCredit m l vc).net.filters = m.net.filters := by
  unfold freeCredit; dsimp only; split <;> rfl
@[simp] theorem freeCredit_net_ptags (m : Mach) (l vc : Nat) :
    (freeCredit m l vc).net.ptags = m.net.ptags := by
  unfold freeCredit; dsimp only; split <;> rfl
@[simp] theorem freeCredit_net_dropped (m : Mach) (l vc : Nat) :
    (freeCredit m l vc).net.dropped = m.net.dropped := by
  unfold freeCredit; dsimp only; split <;> rfl
@[simp] theorem freeCredit_coll (m : Mach) (l vc : Nat) :
    (freeCredit m l vc).coll = m.coll := by
  unfold freeCredit; dsimp only; split <;> rfl
@[simp] theorem freeCredit_fab (m : Mach) (l vc : Nat) :
    (freeCredit m l vc).fab = m.fab := by
  unfold freeCredit; dsimp only; split <;> rfl
@[simp] theorem freeCredit_tick (m : Mach) (l vc : Nat) :
    (freeCredit m l vc).tick = m.tick := by
  unfold freeCredit; dsimp only; split <;> rfl
@[simp] theorem freeCredit_sec (m : Mach) (l vc : Nat) :
    (freeCredit m l vc).sec = m.sec := by
  unfold freeCredit; dsimp only; split <;> rfl
@[simp] theorem freeCredit_log (m : Mach) (l vc : Nat) :
    (freeCredit m l vc).log = m.log := by
  unfold freeCredit; dsimp only; split <;> rfl
@[simp] theorem freeCredit_out (m : Mach) (l vc : Nat) :
    (freeCredit m l vc).out = m.out := by
  unfold freeCredit; dsimp only; split <;> rfl
@[simp] theorem freeCredit_free (m : Mach) (l vc : Nat) :
    (freeCredit m l vc).free = m.free := by
  unfold freeCredit; dsimp only; split <;> rfl

/-! ### creditOut -/
@[simp] theorem creditOut_regs (m : Mach) (qs : List (Nat × Nat)) :
    (creditOut m qs).regs = m.regs := by
  induction qs generalizing m with
  | nil => rfl
  | cons q qs ih => exact (ih _).trans (freeCredit_regs ..)
@[simp] theorem creditOut_shadow (m : Mach) (qs : List (Nat × Nat)) :
    (creditOut m qs).shadow = m.shadow := by
  induction qs generalizing m with
  | nil => rfl
  | cons q qs ih => exact (ih _).trans (freeCredit_shadow ..)
@[simp] theorem creditOut_cmd (m : Mach) (qs : List (Nat × Nat)) :
    (creditOut m qs).cmd = m.cmd := by
  induction qs generalizing m with
  | nil => rfl
  | cons q qs ih => exact (ih _).trans (freeCredit_cmd ..)
@[simp] theorem creditOut_mem (m : Mach) (qs : List (Nat × Nat)) :
    (creditOut m qs).mem = m.mem := by
  induction qs generalizing m with
  | nil => rfl
  | cons q qs ih => exact (ih _).trans (freeCredit_mem ..)
@[simp] theorem creditOut_run (m : Mach) (qs : List (Nat × Nat)) :
    (creditOut m qs).run = m.run := by
  induction qs generalizing m with
  | nil => rfl
  | cons q qs ih => exact (ih _).trans (freeCredit_run ..)
@[simp] theorem creditOut_net_routes (m : Mach) (qs : List (Nat × Nat)) :
    (creditOut m qs).net.routes = m.net.routes := by
  induction qs generalizing m with
  | nil => rfl
  | cons q qs ih => exact (ih _).trans (freeCredit_net_routes ..)
@[simp] theorem creditOut_net_spread (m : Mach) (qs : List (Nat × Nat)) :
    (creditOut m qs).net.spread = m.net.spread := by
  induction qs generalizing m with
  | nil => rfl
  | cons q qs ih => exact (ih _).trans (freeCredit_net_spread ..)
@[simp] theorem creditOut_net_spreadT (m : Mach) (qs : List (Nat × Nat)) :
    (creditOut m qs).net.spreadT = m.net.spreadT := by
  induction qs generalizing m with
  | nil => rfl
  | cons q qs ih => exact (ih _).trans (freeCredit_net_spreadT ..)
@[simp] theorem creditOut_net_ownWait (m : Mach) (qs : List (Nat × Nat)) :
    (creditOut m qs).net.ownWait = m.net.ownWait := by
  induction qs generalizing m with
  | nil => rfl
  | cons q qs ih => exact (ih _).trans (freeCredit_net_ownWait ..)
@[simp] theorem creditOut_net_transitWait (m : Mach) (qs : List (Nat × Nat)) :
    (creditOut m qs).net.transitWait = m.net.transitWait := by
  induction qs generalizing m with
  | nil => rfl
  | cons q qs ih => exact (ih _).trans (freeCredit_net_transitWait ..)
@[simp] theorem creditOut_net_vc0Out (m : Mach) (qs : List (Nat × Nat)) :
    (creditOut m qs).net.vc0Out = m.net.vc0Out := by
  induction qs generalizing m with
  | nil => rfl
  | cons q qs ih => exact (ih _).trans (freeCredit_net_vc0Out ..)
@[simp] theorem creditOut_net_vc0In (m : Mach) (qs : List (Nat × Nat)) :
    (creditOut m qs).net.vc0In = m.net.vc0In := by
  induction qs generalizing m with
  | nil => rfl
  | cons q qs ih => exact (ih _).trans (freeCredit_net_vc0In ..)
@[simp] theorem creditOut_net_rx (m : Mach) (qs : List (Nat × Nat)) :
    (creditOut m qs).net.rx = m.net.rx := by
  induction qs generalizing m with
  | nil => rfl
  | cons q qs ih => exact (ih _).trans (freeCredit_net_rx ..)
@[simp] theorem creditOut_net_flows (m : Mach) (qs : List (Nat × Nat)) :
    (creditOut m qs).net.flows = m.net.flows := by
  induction qs generalizing m with
  | nil => rfl
  | cons q qs ih => exact (ih _).trans (freeCredit_net_flows ..)
@[simp] theorem creditOut_net_outst (m : Mach) (qs : List (Nat × Nat)) :
    (creditOut m qs).net.outst = m.net.outst := by
  induction qs generalizing m with
  | nil => rfl
  | cons q qs ih => exact (ih _).trans (freeCredit_net_outst ..)
@[simp] theorem creditOut_net_filters (m : Mach) (qs : List (Nat × Nat)) :
    (creditOut m qs).net.filters = m.net.filters := by
  induction qs generalizing m with
  | nil => rfl
  | cons q qs ih => exact (ih _).trans (freeCredit_net_filters ..)
@[simp] theorem creditOut_net_ptags (m : Mach) (qs : List (Nat × Nat)) :
    (creditOut m qs).net.ptags = m.net.ptags := by
  induction qs generalizing m with
  | nil => rfl
  | cons q qs ih => exact (ih _).trans (freeCredit_net_ptags ..)
@[simp] theorem creditOut_net_dropped (m : Mach) (qs : List (Nat × Nat)) :
    (creditOut m qs).net.dropped = m.net.dropped := by
  induction qs generalizing m with
  | nil => rfl
  | cons q qs ih => exact (ih _).trans (freeCredit_net_dropped ..)
@[simp] theorem creditOut_coll (m : Mach) (qs : List (Nat × Nat)) :
    (creditOut m qs).coll = m.coll := by
  induction qs generalizing m with
  | nil => rfl
  | cons q qs ih => exact (ih _).trans (freeCredit_coll ..)
@[simp] theorem creditOut_fab (m : Mach) (qs : List (Nat × Nat)) :
    (creditOut m qs).fab = m.fab := by
  induction qs generalizing m with
  | nil => rfl
  | cons q qs ih => exact (ih _).trans (freeCredit_fab ..)
@[simp] theorem creditOut_tick (m : Mach) (qs : List (Nat × Nat)) :
    (creditOut m qs).tick = m.tick := by
  induction qs generalizing m with
  | nil => rfl
  | cons q qs ih => exact (ih _).trans (freeCredit_tick ..)
@[simp] theorem creditOut_sec (m : Mach) (qs : List (Nat × Nat)) :
    (creditOut m qs).sec = m.sec := by
  induction qs generalizing m with
  | nil => rfl
  | cons q qs ih => exact (ih _).trans (freeCredit_sec ..)
@[simp] theorem creditOut_log (m : Mach) (qs : List (Nat × Nat)) :
    (creditOut m qs).log = m.log := by
  induction qs generalizing m with
  | nil => rfl
  | cons q qs ih => exact (ih _).trans (freeCredit_log ..)
@[simp] theorem creditOut_out (m : Mach) (qs : List (Nat × Nat)) :
    (creditOut m qs).out = m.out := by
  induction qs generalizing m with
  | nil => rfl
  | cons q qs ih => exact (ih _).trans (freeCredit_out ..)
@[simp] theorem creditOut_free (m : Mach) (qs : List (Nat × Nat)) :
    (creditOut m qs).free = m.free := by
  induction qs generalizing m with
  | nil => rfl
  | cons q qs ih => exact (ih _).trans (freeCredit_free ..)

/-! ### dropRx -/
@[simp] theorem dropRx_regs (m : Mach) (x : RxPkt) :
    (dropRx m x).regs = m.regs := creditOut_regs ..
@[simp] theorem dropRx_shadow (m : Mach) (x : RxPkt) :
    (dropRx m x).shadow = m.shadow := creditOut_shadow ..
@[simp] theorem dropRx_cmd (m : Mach) (x : RxPkt) :
    (dropRx m x).cmd = m.cmd := creditOut_cmd ..
@[simp] theorem dropRx_mem (m : Mach) (x : RxPkt) :
    (dropRx m x).mem = m.mem := creditOut_mem ..
@[simp] theorem dropRx_run (m : Mach) (x : RxPkt) :
    (dropRx m x).run = m.run := creditOut_run ..
@[simp] theorem dropRx_net_routes (m : Mach) (x : RxPkt) :
    (dropRx m x).net.routes = m.net.routes := creditOut_net_routes ..
@[simp] theorem dropRx_net_spread (m : Mach) (x : RxPkt) :
    (dropRx m x).net.spread = m.net.spread := creditOut_net_spread ..
@[simp] theorem dropRx_net_spreadT (m : Mach) (x : RxPkt) :
    (dropRx m x).net.spreadT = m.net.spreadT := creditOut_net_spreadT ..
@[simp] theorem dropRx_net_ownWait (m : Mach) (x : RxPkt) :
    (dropRx m x).net.ownWait = m.net.ownWait := creditOut_net_ownWait ..
@[simp] theorem dropRx_net_transitWait (m : Mach) (x : RxPkt) :
    (dropRx m x).net.transitWait = m.net.transitWait := creditOut_net_transitWait ..
@[simp] theorem dropRx_net_vc0Out (m : Mach) (x : RxPkt) :
    (dropRx m x).net.vc0Out = m.net.vc0Out := creditOut_net_vc0Out ..
@[simp] theorem dropRx_net_vc0In (m : Mach) (x : RxPkt) :
    (dropRx m x).net.vc0In = m.net.vc0In := creditOut_net_vc0In ..
@[simp] theorem dropRx_net_flows (m : Mach) (x : RxPkt) :
    (dropRx m x).net.flows = m.net.flows := creditOut_net_flows ..
@[simp] theorem dropRx_net_outst (m : Mach) (x : RxPkt) :
    (dropRx m x).net.outst = m.net.outst := creditOut_net_outst ..
@[simp] theorem dropRx_net_filters (m : Mach) (x : RxPkt) :
    (dropRx m x).net.filters = m.net.filters := creditOut_net_filters ..
@[simp] theorem dropRx_net_ptags (m : Mach) (x : RxPkt) :
    (dropRx m x).net.ptags = m.net.ptags := creditOut_net_ptags ..
@[simp] theorem dropRx_net_dropped (m : Mach) (x : RxPkt) :
    (dropRx m x).net.dropped = m.net.dropped := creditOut_net_dropped ..
@[simp] theorem dropRx_coll (m : Mach) (x : RxPkt) :
    (dropRx m x).coll = m.coll := creditOut_coll ..
@[simp] theorem dropRx_fab (m : Mach) (x : RxPkt) :
    (dropRx m x).fab = m.fab := creditOut_fab ..
@[simp] theorem dropRx_tick (m : Mach) (x : RxPkt) :
    (dropRx m x).tick = m.tick := creditOut_tick ..
@[simp] theorem dropRx_sec (m : Mach) (x : RxPkt) :
    (dropRx m x).sec = m.sec := creditOut_sec ..
@[simp] theorem dropRx_log (m : Mach) (x : RxPkt) :
    (dropRx m x).log = m.log := creditOut_log ..
@[simp] theorem dropRx_out (m : Mach) (x : RxPkt) :
    (dropRx m x).out = m.out := creditOut_out ..
@[simp] theorem dropRx_free (m : Mach) (x : RxPkt) :
    (dropRx m x).free = m.free := creditOut_free ..

/-! ### putRx -/
@[simp] theorem putRx_regs (m : Mach) (x y : RxPkt) :
    (putRx m x y).regs = m.regs := rfl
@[simp] theorem putRx_shadow (m : Mach) (x y : RxPkt) :
    (putRx m x y).shadow = m.shadow := rfl
@[simp] theorem putRx_cmd (m : Mach) (x y : RxPkt) :
    (putRx m x y).cmd = m.cmd := rfl
@[simp] theorem putRx_mem (m : Mach) (x y : RxPkt) :
    (putRx m x y).mem = m.mem := rfl
@[simp] theorem putRx_run (m : Mach) (x y : RxPkt) :
    (putRx m x y).run = m.run := rfl
@[simp] theorem putRx_net_links (m : Mach) (x y : RxPkt) :
    (putRx m x y).net.links = m.net.links := rfl
@[simp] theorem putRx_net_routes (m : Mach) (x y : RxPkt) :
    (putRx m x y).net.routes = m.net.routes := rfl
@[simp] theorem putRx_net_spread (m : Mach) (x y : RxPkt) :
    (putRx m x y).net.spread = m.net.spread := rfl
@[simp] theorem putRx_net_spreadT (m : Mach) (x y : RxPkt) :
    (putRx m x y).net.spreadT = m.net.spreadT := rfl
@[simp] theorem putRx_net_ownWait (m : Mach) (x y : RxPkt) :
    (putRx m x y).net.ownWait = m.net.ownWait := rfl
@[simp] theorem putRx_net_transitWait (m : Mach) (x y : RxPkt) :
    (putRx m x y).net.transitWait = m.net.transitWait := rfl
@[simp] theorem putRx_net_vc0Out (m : Mach) (x y : RxPkt) :
    (putRx m x y).net.vc0Out = m.net.vc0Out := rfl
@[simp] theorem putRx_net_vc0In (m : Mach) (x y : RxPkt) :
    (putRx m x y).net.vc0In = m.net.vc0In := rfl
@[simp] theorem putRx_net_flows (m : Mach) (x y : RxPkt) :
    (putRx m x y).net.flows = m.net.flows := rfl
@[simp] theorem putRx_net_outst (m : Mach) (x y : RxPkt) :
    (putRx m x y).net.outst = m.net.outst := rfl
@[simp] theorem putRx_net_filters (m : Mach) (x y : RxPkt) :
    (putRx m x y).net.filters = m.net.filters := rfl
@[simp] theorem putRx_net_ptags (m : Mach) (x y : RxPkt) :
    (putRx m x y).net.ptags = m.net.ptags := rfl
@[simp] theorem putRx_net_dropped (m : Mach) (x y : RxPkt) :
    (putRx m x y).net.dropped = m.net.dropped := rfl
@[simp] theorem putRx_coll (m : Mach) (x y : RxPkt) :
    (putRx m x y).coll = m.coll := rfl
@[simp] theorem putRx_fab (m : Mach) (x y : RxPkt) :
    (putRx m x y).fab = m.fab := rfl
@[simp] theorem putRx_tick (m : Mach) (x y : RxPkt) :
    (putRx m x y).tick = m.tick := rfl
@[simp] theorem putRx_sec (m : Mach) (x y : RxPkt) :
    (putRx m x y).sec = m.sec := rfl
@[simp] theorem putRx_log (m : Mach) (x y : RxPkt) :
    (putRx m x y).log = m.log := rfl
@[simp] theorem putRx_out (m : Mach) (x y : RxPkt) :
    (putRx m x y).out = m.out := rfl
@[simp] theorem putRx_free (m : Mach) (x y : RxPkt) :
    (putRx m x y).free = m.free := rfl

/-! ### markFilter -/
@[simp] theorem markFilter_regs (m : Mach) (src vc fsn : Nat) :
    (markFilter m src vc fsn).regs = m.regs := rfl
@[simp] theorem markFilter_shadow (m : Mach) (src vc fsn : Nat) :
    (markFilter m src vc fsn).shadow = m.shadow := rfl
@[simp] theorem markFilter_cmd (m : Mach) (src vc fsn : Nat) :
    (markFilter m src vc fsn).cmd = m.cmd := rfl
@[simp] theorem markFilter_mem (m : Mach) (src vc fsn : Nat) :
    (markFilter m src vc fsn).mem = m.mem := rfl
@[simp] theorem markFilter_run (m : Mach) (src vc fsn : Nat) :
    (markFilter m src vc fsn).run = m.run := rfl
@[simp] theorem markFilter_net_links (m : Mach) (src vc fsn : Nat) :
    (markFilter m src vc fsn).net.links = m.net.links := rfl
@[simp] theorem markFilter_net_routes (m : Mach) (src vc fsn : Nat) :
    (markFilter m src vc fsn).net.routes = m.net.routes := rfl
@[simp] theorem markFilter_net_spread (m : Mach) (src vc fsn : Nat) :
    (markFilter m src vc fsn).net.spread = m.net.spread := rfl
@[simp] theorem markFilter_net_spreadT (m : Mach) (src vc fsn : Nat) :
    (markFilter m src vc fsn).net.spreadT = m.net.spreadT := rfl
@[simp] theorem markFilter_net_ownWait (m : Mach) (src vc fsn : Nat) :
    (markFilter m src vc fsn).net.ownWait = m.net.ownWait := rfl
@[simp] theorem markFilter_net_transitWait (m : Mach) (src vc fsn : Nat) :
    (markFilter m src vc fsn).net.transitWait = m.net.transitWait := rfl
@[simp] theorem markFilter_net_vc0Out (m : Mach) (src vc fsn : Nat) :
    (markFilter m src vc fsn).net.vc0Out = m.net.vc0Out := rfl
@[simp] theorem markFilter_net_vc0In (m : Mach) (src vc fsn : Nat) :
    (markFilter m src vc fsn).net.vc0In = m.net.vc0In := rfl
@[simp] theorem markFilter_net_rx (m : Mach) (src vc fsn : Nat) :
    (markFilter m src vc fsn).net.rx = m.net.rx := rfl
@[simp] theorem markFilter_net_flows (m : Mach) (src vc fsn : Nat) :
    (markFilter m src vc fsn).net.flows = m.net.flows := rfl
@[simp] theorem markFilter_net_outst (m : Mach) (src vc fsn : Nat) :
    (markFilter m src vc fsn).net.outst = m.net.outst := rfl
@[simp] theorem markFilter_net_ptags (m : Mach) (src vc fsn : Nat) :
    (markFilter m src vc fsn).net.ptags = m.net.ptags := rfl
@[simp] theorem markFilter_net_dropped (m : Mach) (src vc fsn : Nat) :
    (markFilter m src vc fsn).net.dropped = m.net.dropped := rfl
@[simp] theorem markFilter_coll (m : Mach) (src vc fsn : Nat) :
    (markFilter m src vc fsn).coll = m.coll := rfl
@[simp] theorem markFilter_fab (m : Mach) (src vc fsn : Nat) :
    (markFilter m src vc fsn).fab = m.fab := rfl
@[simp] theorem markFilter_tick (m : Mach) (src vc fsn : Nat) :
    (markFilter m src vc fsn).tick = m.tick := rfl
@[simp] theorem markFilter_sec (m : Mach) (src vc fsn : Nat) :
    (markFilter m src vc fsn).sec = m.sec := rfl
@[simp] theorem markFilter_log (m : Mach) (src vc fsn : Nat) :
    (markFilter m src vc fsn).log = m.log := rfl
@[simp] theorem markFilter_out (m : Mach) (src vc fsn : Nat) :
    (markFilter m src vc fsn).out = m.out := rfl
@[simp] theorem markFilter_free (m : Mach) (src vc fsn : Nat) :
    (markFilter m src vc fsn).free = m.free := rfl

/-! ### setGroup -/
@[simp] theorem setGroup_regs (m : Mach) (h : Nat) (x : Group) :
    (setGroup m h x).regs = m.regs := rfl
@[simp] theorem setGroup_shadow (m : Mach) (h : Nat) (x : Group) :
    (setGroup m h x).shadow = m.shadow := rfl
@[simp] theorem setGroup_cmd (m : Mach) (h : Nat) (x : Group) :
    (setGroup m h x).cmd = m.cmd := rfl
@[simp] theorem setGroup_mem (m : Mach) (h : Nat) (x : Group) :
    (setGroup m h x).mem = m.mem := rfl
@[simp] theorem setGroup_run (m : Mach) (h : Nat) (x : Group) :
    (setGroup m h x).run = m.run := rfl
@[simp] theorem setGroup_net (m : Mach) (h : Nat) (x : Group) :
    (setGroup m h x).net = m.net := rfl
@[simp] theorem setGroup_coll_redResv (m : Mach) (h : Nat) (x : Group) :
    (setGroup m h x).coll.redResv = m.coll.redResv := rfl
@[simp] theorem setGroup_coll_redSlots (m : Mach) (h : Nat) (x : Group) :
    (setGroup m h x).coll.redSlots = m.coll.redSlots := rfl
@[simp] theorem setGroup_coll_badCrc (m : Mach) (h : Nat) (x : Group) :
    (setGroup m h x).coll.badCrc = m.coll.badCrc := rfl
@[simp] theorem setGroup_fab (m : Mach) (h : Nat) (x : Group) :
    (setGroup m h x).fab = m.fab := rfl
@[simp] theorem setGroup_tick (m : Mach) (h : Nat) (x : Group) :
    (setGroup m h x).tick = m.tick := rfl
@[simp] theorem setGroup_sec (m : Mach) (h : Nat) (x : Group) :
    (setGroup m h x).sec = m.sec := rfl
@[simp] theorem setGroup_log (m : Mach) (h : Nat) (x : Group) :
    (setGroup m h x).log = m.log := rfl
@[simp] theorem setGroup_out (m : Mach) (h : Nat) (x : Group) :
    (setGroup m h x).out = m.out := rfl
@[simp] theorem setGroup_free (m : Mach) (h : Nat) (x : Group) :
    (setGroup m h x).free = m.free := rfl

/-! ### dropGroup -/
@[simp] theorem dropGroup_regs (m : Mach) (h : Nat) :
    (dropGroup m h).regs = m.regs := rfl
@[simp] theorem dropGroup_shadow (m : Mach) (h : Nat) :
    (dropGroup m h).shadow = m.shadow := rfl
@[simp] theorem dropGroup_cmd (m : Mach) (h : Nat) :
    (dropGroup m h).cmd = m.cmd := rfl
@[simp] theorem dropGroup_mem (m : Mach) (h : Nat) :
    (dropGroup m h).mem = m.mem := rfl
@[simp] theorem dropGroup_run (m : Mach) (h : Nat) :
    (dropGroup m h).run = m.run := rfl
@[simp] theorem dropGroup_net (m : Mach) (h : Nat) :
    (dropGroup m h).net = m.net := rfl
@[simp] theorem dropGroup_coll_redResv (m : Mach) (h : Nat) :
    (dropGroup m h).coll.redResv = m.coll.redResv := rfl
@[simp] theorem dropGroup_coll_redSlots (m : Mach) (h : Nat) :
    (dropGroup m h).coll.redSlots = m.coll.redSlots := rfl
@[simp] theorem dropGroup_coll_badCrc (m : Mach) (h : Nat) :
    (dropGroup m h).coll.badCrc = m.coll.badCrc := rfl
@[simp] theorem dropGroup_fab (m : Mach) (h : Nat) :
    (dropGroup m h).fab = m.fab := rfl
@[simp] theorem dropGroup_tick (m : Mach) (h : Nat) :
    (dropGroup m h).tick = m.tick := rfl
@[simp] theorem dropGroup_sec (m : Mach) (h : Nat) :
    (dropGroup m h).sec = m.sec := rfl
@[simp] theorem dropGroup_log (m : Mach) (h : Nat) :
    (dropGroup m h).log = m.log := rfl
@[simp] theorem dropGroup_out (m : Mach) (h : Nat) :
    (dropGroup m h).out = m.out := rfl
@[simp] theorem dropGroup_free (m : Mach) (h : Nat) :
    (dropGroup m h).free = m.free := rfl

/-! ### setSlot -/
@[simp] theorem setSlot_regs (m : Mach) (n : Nat) (x : RedSlot) :
    (setSlot m n x).regs = m.regs := rfl
@[simp] theorem setSlot_shadow (m : Mach) (n : Nat) (x : RedSlot) :
    (setSlot m n x).shadow = m.shadow := rfl
@[simp] theorem setSlot_cmd (m : Mach) (n : Nat) (x : RedSlot) :
    (setSlot m n x).cmd = m.cmd := rfl
@[simp] theorem setSlot_mem (m : Mach) (n : Nat) (x : RedSlot) :
    (setSlot m n x).mem = m.mem := rfl
@[simp] theorem setSlot_run (m : Mach) (n : Nat) (x : RedSlot) :
    (setSlot m n x).run = m.run := rfl
@[simp] theorem setSlot_net (m : Mach) (n : Nat) (x : RedSlot) :
    (setSlot m n x).net = m.net := rfl
@[simp] theorem setSlot_coll_groups (m : Mach) (n : Nat) (x : RedSlot) :
    (setSlot m n x).coll.groups = m.coll.groups := rfl
@[simp] theorem setSlot_coll_redResv (m : Mach) (n : Nat) (x : RedSlot) :
    (setSlot m n x).coll.redResv = m.coll.redResv := rfl
@[simp] theorem setSlot_coll_badCrc (m : Mach) (n : Nat) (x : RedSlot) :
    (setSlot m n x).coll.badCrc = m.coll.badCrc := rfl
@[simp] theorem setSlot_fab (m : Mach) (n : Nat) (x : RedSlot) :
    (setSlot m n x).fab = m.fab := rfl
@[simp] theorem setSlot_tick (m : Mach) (n : Nat) (x : RedSlot) :
    (setSlot m n x).tick = m.tick := rfl
@[simp] theorem setSlot_sec (m : Mach) (n : Nat) (x : RedSlot) :
    (setSlot m n x).sec = m.sec := rfl
@[simp] theorem setSlot_log (m : Mach) (n : Nat) (x : RedSlot) :
    (setSlot m n x).log = m.log := rfl
@[simp] theorem setSlot_out (m : Mach) (n : Nat) (x : RedSlot) :
    (setSlot m n x).out = m.out := rfl
@[simp] theorem setSlot_free (m : Mach) (n : Nat) (x : RedSlot) :
    (setSlot m n x).free = m.free := rfl

/-! ### setRegion -/
@[simp] theorem setRegion_regs (m : Mach) (r : Nat) (x : Region) :
    (setRegion m r x).regs = m.regs := rfl
@[simp] theorem setRegion_shadow (m : Mach) (r : Nat) (x : Region) :
    (setRegion m r x).shadow = m.shadow := rfl
@[simp] theorem setRegion_cmd (m : Mach) (r : Nat) (x : Region) :
    (setRegion m r x).cmd = m.cmd := rfl
@[simp] theorem setRegion_mem (m : Mach) (r : Nat) (x : Region) :
    (setRegion m r x).mem = m.mem := rfl
@[simp] theorem setRegion_run (m : Mach) (r : Nat) (x : Region) :
    (setRegion m r x).run = m.run := rfl
@[simp] theorem setRegion_net (m : Mach) (r : Nat) (x : Region) :
    (setRegion m r x).net = m.net := rfl
@[simp] theorem setRegion_coll (m : Mach) (r : Nat) (x : Region) :
    (setRegion m r x).coll = m.coll := rfl
@[simp] theorem setRegion_fab_subsHome (m : Mach) (r : Nat) (x : Region) :
    (setRegion m r x).fab.subsHome = m.fab.subsHome := rfl
@[simp] theorem setRegion_fab_subsOwn (m : Mach) (r : Nat) (x : Region) :
    (setRegion m r x).fab.subsOwn = m.fab.subsOwn := rfl
@[simp] theorem setRegion_fab_cache (m : Mach) (r : Nat) (x : Region) :
    (setRegion m r x).fab.cache = m.fab.cache := rfl
@[simp] theorem setRegion_fab_locks (m : Mach) (r : Nat) (x : Region) :
    (setRegion m r x).fab.locks = m.fab.locks := rfl
@[simp] theorem setRegion_fab_waiters (m : Mach) (r : Nat) (x : Region) :
    (setRegion m r x).fab.waiters = m.fab.waiters := rfl
@[simp] theorem setRegion_fab_pubs (m : Mach) (r : Nat) (x : Region) :
    (setRegion m r x).fab.pubs = m.fab.pubs := rfl
@[simp] theorem setRegion_fab_nextPub (m : Mach) (r : Nat) (x : Region) :
    (setRegion m r x).fab.nextPub = m.fab.nextPub := rfl
@[simp] theorem setRegion_fab_nextServe (m : Mach) (r : Nat) (x : Region) :
    (setRegion m r x).fab.nextServe = m.fab.nextServe := rfl
@[simp] theorem setRegion_fab_serveFails (m : Mach) (r : Nat) (x : Region) :
    (setRegion m r x).fab.serveFails = m.fab.serveFails := rfl
@[simp] theorem setRegion_fab_iring (m : Mach) (r : Nat) (x : Region) :
    (setRegion m r x).fab.iring = m.fab.iring := rfl
@[simp] theorem setRegion_tick (m : Mach) (r : Nat) (x : Region) :
    (setRegion m r x).tick = m.tick := rfl
@[simp] theorem setRegion_sec (m : Mach) (r : Nat) (x : Region) :
    (setRegion m r x).sec = m.sec := rfl
@[simp] theorem setRegion_log (m : Mach) (r : Nat) (x : Region) :
    (setRegion m r x).log = m.log := rfl
@[simp] theorem setRegion_out (m : Mach) (r : Nat) (x : Region) :
    (setRegion m r x).out = m.out := rfl
@[simp] theorem setRegion_free (m : Mach) (r : Nat) (x : Region) :
    (setRegion m r x).free = m.free := rfl

/-! ### setLock -/
@[simp] theorem setLock_regs (m : Mach) (n : Nat) (x : LockRec) :
    (setLock m n x).regs = m.regs := rfl
@[simp] theorem setLock_shadow (m : Mach) (n : Nat) (x : LockRec) :
    (setLock m n x).shadow = m.shadow := rfl
@[simp] theorem setLock_cmd (m : Mach) (n : Nat) (x : LockRec) :
    (setLock m n x).cmd = m.cmd := rfl
@[simp] theorem setLock_mem (m : Mach) (n : Nat) (x : LockRec) :
    (setLock m n x).mem = m.mem := rfl
@[simp] theorem setLock_run (m : Mach) (n : Nat) (x : LockRec) :
    (setLock m n x).run = m.run := rfl
@[simp] theorem setLock_net (m : Mach) (n : Nat) (x : LockRec) :
    (setLock m n x).net = m.net := rfl
@[simp] theorem setLock_coll (m : Mach) (n : Nat) (x : LockRec) :
    (setLock m n x).coll = m.coll := rfl
@[simp] theorem setLock_fab_regions (m : Mach) (n : Nat) (x : LockRec) :
    (setLock m n x).fab.regions = m.fab.regions := rfl
@[simp] theorem setLock_fab_subsHome (m : Mach) (n : Nat) (x : LockRec) :
    (setLock m n x).fab.subsHome = m.fab.subsHome := rfl
@[simp] theorem setLock_fab_subsOwn (m : Mach) (n : Nat) (x : LockRec) :
    (setLock m n x).fab.subsOwn = m.fab.subsOwn := rfl
@[simp] theorem setLock_fab_cache (m : Mach) (n : Nat) (x : LockRec) :
    (setLock m n x).fab.cache = m.fab.cache := rfl
@[simp] theorem setLock_fab_waiters (m : Mach) (n : Nat) (x : LockRec) :
    (setLock m n x).fab.waiters = m.fab.waiters := rfl
@[simp] theorem setLock_fab_pubs (m : Mach) (n : Nat) (x : LockRec) :
    (setLock m n x).fab.pubs = m.fab.pubs := rfl
@[simp] theorem setLock_fab_nextPub (m : Mach) (n : Nat) (x : LockRec) :
    (setLock m n x).fab.nextPub = m.fab.nextPub := rfl
@[simp] theorem setLock_fab_nextServe (m : Mach) (n : Nat) (x : LockRec) :
    (setLock m n x).fab.nextServe = m.fab.nextServe := rfl
@[simp] theorem setLock_fab_serveFails (m : Mach) (n : Nat) (x : LockRec) :
    (setLock m n x).fab.serveFails = m.fab.serveFails := rfl
@[simp] theorem setLock_fab_iring (m : Mach) (n : Nat) (x : LockRec) :
    (setLock m n x).fab.iring = m.fab.iring := rfl
@[simp] theorem setLock_tick (m : Mach) (n : Nat) (x : LockRec) :
    (setLock m n x).tick = m.tick := rfl
@[simp] theorem setLock_sec (m : Mach) (n : Nat) (x : LockRec) :
    (setLock m n x).sec = m.sec := rfl
@[simp] theorem setLock_log (m : Mach) (n : Nat) (x : LockRec) :
    (setLock m n x).log = m.log := rfl
@[simp] theorem setLock_out (m : Mach) (n : Nat) (x : LockRec) :
    (setLock m n x).out = m.out := rfl
@[simp] theorem setLock_free (m : Mach) (n : Nat) (x : LockRec) :
    (setLock m n x).free = m.free := rfl

end Sys2Proof.Machine
end

