-- ==== Sys2Proof/Laws/Tables.lean ====
section
/-! SUPPORT. Read after write for tables, registers and the numbered parts of the state. -/

namespace Sys2Proof.Machine

/-! ### Tables -/

@[simp] theorem Assoc.find_set_eq {α : Type} (t : Assoc α) (k : Nat) (v : α) :
    Assoc.find? (Assoc.set t k v) k = some v := by
  induction t with
  | nil => simp [Assoc.set, Assoc.find?]
  | cons q r ih =>
    unfold Assoc.set
    split
    · simp [Assoc.find?]
    · split
      · simp [Assoc.find?]
      · rename_i h; simp [Assoc.find?, ih, Ne.symm h]

theorem Assoc.find_set_ne {α : Type} (t : Assoc α) {k j : Nat} (v : α) (h : j ≠ k) :
    Assoc.find? (Assoc.set t k v) j = Assoc.find? t j := by
  induction t with
  | nil => simp [Assoc.set, Assoc.find?, Ne.symm h]
  | cons q r ih =>
    unfold Assoc.set
    split
    · simp [Assoc.find?, Ne.symm h]
    · split
      · subst_vars; simp [Assoc.find?, Ne.symm h]
      · simp [Assoc.find?, ih]

@[simp] theorem Assoc.find_erase_eq {α : Type} (t : Assoc α) (k : Nat) :
    Assoc.find? (Assoc.erase t k) k = none := by
  induction t with
  | nil => rfl
  | cons q r ih =>
    unfold Assoc.erase at *
    by_cases hq : q.1 = k
    · simp [hq, ih]
    · simp [hq, Assoc.find?, ih]

theorem Assoc.find_erase_ne {α : Type} (t : Assoc α) {k j : Nat} (h : j ≠ k) :
    Assoc.find? (Assoc.erase t k) j = Assoc.find? t j := by
  induction t with
  | nil => rfl
  | cons q r ih =>
    unfold Assoc.erase at *
    by_cases hq : q.1 = k
    · subst hq; simp [ih, Assoc.find?, Ne.symm h]
    · simp [hq, Assoc.find?, ih]

@[simp] theorem Assoc.get_set_eq {α : Type} (d : α) (t : Assoc α) (k : Nat) (v : α) :
    Assoc.get d (Assoc.set t k v) k = v := by simp [Assoc.get]

theorem Assoc.get_set_ne {α : Type} (d : α) (t : Assoc α) {k j : Nat} (v : α) (h : j ≠ k) :
    Assoc.get d (Assoc.set t k v) j = Assoc.get d t j := by
  simp [Assoc.get, Assoc.find_set_ne t v h]

@[simp] theorem Sparse.get_set_eq {α : Type} [DecidableEq α] (d : Nat → α) (t : Assoc α) (k : Nat)
    (v : α) : Sparse.get d (Sparse.set d t k v) k = v := by
  unfold Sparse.get Sparse.set
  split <;> simp [*]

theorem Sparse.get_set_ne {α : Type} [DecidableEq α] (d : Nat → α) (t : Assoc α) {k j : Nat}
    (v : α) (h : j ≠ k) : Sparse.get d (Sparse.set d t k v) j = Sparse.get d t j := by
  unfold Sparse.get Sparse.set
  split
  · rw [Assoc.find_erase_ne t h]
  · rw [Assoc.find_set_ne t v h]

/-! ### The canonical form -/

/-- Every key of the table is above k. -/
def Assoc.above {α : Type} (t : Assoc α) (k : Nat) : Prop := ∀ q ∈ t, k < q.1

theorem Assoc.sorted_cons {α : Type} (q : Nat × α) (r : Assoc α) :
    Assoc.sorted (q :: r) = true ↔ Assoc.above r q.1 ∧ Assoc.sorted r = true := by
  induction r generalizing q with
  | nil => simp [Assoc.sorted, Assoc.above]
  | cons x r ih =>
    simp only [Assoc.sorted, Bool.and_eq_true, decide_eq_true_eq]
    constructor
    · intro ⟨h, hs⟩
      refine ⟨?_, hs⟩
      intro y hy
      rcases List.mem_cons.mp hy with rfl | hy
      · exact h
      · exact Nat.lt_trans h (((ih x).mp hs).1 y hy)
    · intro ⟨h, hs⟩
      exact ⟨h x (by simp), hs⟩

theorem Assoc.mem_set {α : Type} {t : Assoc α} {k : Nat} {v : α} {q : Nat × α}
    (h : q ∈ Assoc.set t k v) : q = (k, v) ∨ q ∈ t := by
  induction t with
  | nil => simpa [Assoc.set] using h
  | cons x r ih =>
    unfold Assoc.set at h
    split at h
    · simpa using h
    · split at h
      · rcases List.mem_cons.mp h with h | h
        · exact .inl h
        · exact .inr (by simp [h])
      · rcases List.mem_cons.mp h with h | h
        · exact .inr (by simp [h])
        · rcases ih h with h | h
          · exact .inl h
          · exact .inr (by simp [h])

theorem Assoc.set_sorted {α : Type} {t : Assoc α} (k : Nat) (v : α)
    (h : Assoc.sorted t = true) : Assoc.sorted (Assoc.set t k v) = true := by
  induction t with
  | nil => rfl
  | cons x r ih =>
    obtain ⟨ha, hs⟩ := (Assoc.sorted_cons x r).mp h
    unfold Assoc.set
    split
    · rename_i hk
      refine (Assoc.sorted_cons _ _).mpr ⟨?_, h⟩
      intro q hq
      rcases List.mem_cons.mp hq with rfl | hq
      · exact hk
      · exact Nat.lt_trans hk (ha q hq)
    · split
      · rename_i hk
        refine (Assoc.sorted_cons _ _).mpr ⟨?_, hs⟩
        intro q hq
        simpa [hk] using ha q hq
      · rename_i h1 h2
        refine (Assoc.sorted_cons _ _).mpr ⟨?_, ih hs⟩
        intro q hq
        rcases Assoc.mem_set hq with rfl | hq
        · simp only; omega
        · exact ha q hq

theorem Assoc.filter_sorted {α : Type} {t : Assoc α} (f : Nat × α → Bool)
    (h : Assoc.sorted t = true) : Assoc.sorted (t.filter f) = true := by
  induction t with
  | nil => rfl
  | cons x r ih =>
    obtain ⟨ha, hs⟩ := (Assoc.sorted_cons x r).mp h
    by_cases hf : f x = true
    · rw [List.filter_cons_of_pos hf]
      exact (Assoc.sorted_cons _ _).mpr
        ⟨fun q hq => ha q (List.mem_filter.mp hq).1, ih hs⟩
    · rw [List.filter_cons_of_neg hf]
      exact ih hs

/-- A filter keeps the canonical form. -/
theorem Sparse.filter_wf {α : Type} [DecidableEq α] {d : Nat → α} {t : Assoc α}
    (f : Nat × α → Bool) (h : Sparse.wf d t = true) : Sparse.wf d (t.filter f) = true := by
  simp only [Sparse.wf, Bool.and_eq_true, List.all_eq_true] at h ⊢
  exact ⟨Assoc.filter_sorted f h.1, fun q hq => h.2 q (List.mem_filter.mp hq).1⟩

/-- A write keeps the canonical form. -/
theorem Sparse.set_wf {α : Type} [DecidableEq α] {d : Nat → α} {t : Assoc α} (k : Nat) (v : α)
    (h : Sparse.wf d t = true) : Sparse.wf d (Sparse.set d t k v) = true := by
  unfold Sparse.set
  split
  · exact Sparse.filter_wf _ h
  · rename_i hv
    simp only [Sparse.wf, Bool.and_eq_true, List.all_eq_true] at h ⊢
    refine ⟨Assoc.set_sorted k v h.1, fun q hq => ?_⟩
    rcases Assoc.mem_set hq with rfl | hq
    · simpa using hv
    · exact h.2 q hq

/-! ### Registers -/

@[simp] theorem rd_wr_eq (p : Part) (m : Mach) (a : Nat) (v : Word) : rd p (wr p m a v) a = v :=
  Sparse.get_set_eq ..

theorem rd_wr_ne (p : Part) (m : Mach) {a b : Nat} (v : Word) (h : b ≠ a) :
    rd p (wr p m a v) b = rd p m b := Sparse.get_set_ne _ _ v h

@[simp] theorem rd_orReg_eq (p : Part) (m : Mach) (a k : Nat) :
    rd p (orReg p m a k) a = rd p m a ||| BitVec.ofNat 64 k := rd_wr_eq ..

theorem rd_orReg_ne (p : Part) (m : Mach) {a b : Nat} (k : Nat) (h : b ≠ a) :
    rd p (orReg p m a k) b = rd p m b := rd_wr_ne p m _ h

@[simp] theorem rd_clrReg_eq (p : Part) (m : Mach) (a k : Nat) :
    rd p (clrReg p m a k) a = rd p m a &&& ~~~ (BitVec.ofNat 64 k) := rd_wr_eq ..

theorem rd_clrReg_ne (p : Part) (m : Mach) {a b : Nat} (k : Nat) (h : b ≠ a) :
    rd p (clrReg p m a k) b = rd p m b := rd_wr_ne p m _ h

theorem rd_wrF_ne (p : Part) (m : Mach) {a b : Nat} (hi lo v : Nat) (h : b ≠ a) :
    rd p (wrF p m a hi lo v) b = rd p m b := rd_wr_ne p m _ h

@[simp] theorem rd_bump_eq (p : Part) (m : Mach) (a n : Nat) :
    rd p (bump p m a n) a = rd p m a + BitVec.ofNat 64 n := by
  unfold bump; split
  · simp [*]
  · exact rd_wr_eq ..

theorem rd_bump_ne (p : Part) (m : Mach) {a b : Nat} (n : Nat) (h : b ≠ a) :
    rd p (bump p m a n) b = rd p m b := by
  unfold bump; split
  · rfl
  · exact rd_wr_ne p m _ h

/-- A counter's increment is at most a register write. -/
theorem bump_cases (p : Part) (m : Mach) (a n : Nat) :
    bump p m a n = m ∨ bump p m a n = wr p m a (rd p m a + BitVec.ofNat 64 n) := by
  unfold bump; split <;> simp

/-- A read of the registers looks at `regs` only. -/
theorem rd_congr {p : Part} {m n : Mach} (h : m.regs = n.regs) (a : Nat) : rd p m a = rd p n a := by
  unfold rd; rw [h]

/-! ### Contexts, queues, holds, events -/

@[simp] theorem ctxOf_setCtx_eq (m : Mach) (c : Nat) (x : Ctx) : ctxOf (setCtx m c x) c = x :=
  Assoc.get_set_eq ..

theorem ctxOf_setCtx_ne (m : Mach) {c e : Nat} (x : Ctx) (h : e ≠ c) :
    ctxOf (setCtx m c x) e = ctxOf m e := Assoc.get_set_ne _ _ x h

@[simp] theorem pqOf_setPq_eq (m : Mach) (q : Nat) (x : PQueue) : pqOf (setPq m q x) q = x :=
  Assoc.get_set_eq ..

theorem pqOf_setPq_ne (m : Mach) {q e : Nat} (x : PQueue) (h : e ≠ q) :
    pqOf (setPq m q x) e = pqOf m e := Assoc.get_set_ne _ _ x h

@[simp] theorem ringOf_setRing_eq (m : Mach) (r : Nat) (x : BogRing) :
    ringOf (setRing m r x) r = x := Assoc.get_set_eq ..

theorem ringOf_setRing_ne (m : Mach) {r e : Nat} (x : BogRing) (h : e ≠ r) :
    ringOf (setRing m r x) e = ringOf m e := Assoc.get_set_ne _ _ x h

@[simp] theorem holdOf_setHold_eq (m : Mach) (r : Nat) (x : List Completion) :
    holdOf (setHold m r x) r = x := Assoc.get_set_eq ..

theorem holdOf_setHold_ne (m : Mach) {r e : Nat} (x : List Completion) (h : e ≠ r) :
    holdOf (setHold m r x) e = holdOf m e := Assoc.get_set_ne _ _ x h

/-- A completion goes to the end of its ring's hold. -/
@[simp] theorem holdOf_pushHold_eq (m : Mach) (w : Nat) (x : Completion) :
    holdOf (pushHold m w x) w = holdOf m w ++ [x] := holdOf_setHold_eq ..

theorem holdOf_pushHold_ne (m : Mach) {w e : Nat} (x : Completion) (h : e ≠ w) :
    holdOf (pushHold m w x) e = holdOf m e := holdOf_setHold_ne m _ h

@[simp] theorem evtOf_setEvtCnt_eq (m : Mach) (e v : Nat) : evtOf (setEvtCnt m e v) e = v :=
  Sparse.get_set_eq ..

theorem evtOf_setEvtCnt_ne (m : Mach) {e f : Nat} (v : Nat) (h : f ≠ e) :
    evtOf (setEvtCnt m e v) f = evtOf m f := Sparse.get_set_ne _ _ v h

/-- A raised event counter never passes its largest value. -/
theorem evtOf_addEvt_le (m : Mach) (e n : Nat) : evtOf (addEvt m e n) e ≤ evtMax := by
  unfold addEvt; rw [evtOf_setEvtCnt_eq]; exact Nat.min_le_left ..

theorem evtOf_addEvt_ne (m : Mach) {e f : Nat} (n : Nat) (h : f ≠ e) :
    evtOf (addEvt m e n) f = evtOf m f := evtOf_setEvtCnt_ne m _ h

/-! ### Links, flows, filters, groups, regions, ports -/

@[simp] theorem linkOf_setLink_eq (m : Mach) (l : Nat) (x : Link) : linkOf (setLink m l x) l = x :=
  Assoc.get_set_eq ..

theorem linkOf_setLink_ne (m : Mach) {l e : Nat} (x : Link) (h : e ≠ l) :
    linkOf (setLink m l x) e = linkOf m e := Assoc.get_set_ne _ _ x h

@[simp] theorem flowOf_setFlow_eq (m : Mach) (d vc : Nat) (x : Flow) :
    flowOf (setFlow m d vc x) d vc = x := Assoc.get_set_eq ..

@[simp] theorem filterOf_setFilter_eq (m : Mach) (d vc : Nat) (x : Filter) :
    filterOf (setFilter m d vc x) d vc = x := Assoc.get_set_eq ..

@[simp] theorem groupOf_setGroup_eq (m : Mach) (h : Nat) (g : Group) :
    groupOf (setGroup m h g) h = some g := Assoc.find_set_eq ..

theorem groupOf_setGroup_ne (m : Mach) {h e : Nat} (g : Group) (hh : e ≠ h) :
    groupOf (setGroup m h g) e = groupOf m e := Assoc.find_set_ne _ g hh

@[simp] theorem groupOf_dropGroup_eq (m : Mach) (h : Nat) : groupOf (dropGroup m h) h = none :=
  Assoc.find_erase_eq ..

theorem groupOf_dropGroup_ne (m : Mach) {h e : Nat} (hh : e ≠ h) :
    groupOf (dropGroup m h) e = groupOf m e := Assoc.find_erase_ne _ hh

@[simp] theorem regionOf_setRegion_eq (m : Mach) (r : Nat) (x : Region) :
    regionOf (setRegion m r x) r = x := Assoc.get_set_eq ..

theorem regionOf_setRegion_ne (m : Mach) {r e : Nat} (x : Region) (h : e ≠ r) :
    regionOf (setRegion m r x) e = regionOf m e := Assoc.get_set_ne _ _ x h

@[simp] theorem lockOf_setLock_eq (m : Mach) (n : Nat) (x : LockRec) :
    lockOf (setLock m n x) n = x := Assoc.get_set_eq ..

theorem lockOf_setLock_ne (m : Mach) {n e : Nat} (x : LockRec) (h : e ≠ n) :
    lockOf (setLock m n x) e = lockOf m e := Assoc.get_set_ne _ _ x h

@[simp] theorem strmOf_setStrm_eq (m : Mach) (q : Nat) (x : StrmPort) :
    strmOf (setStrm m q x) q = x := Assoc.get_set_eq ..

theorem strmOf_setStrm_ne (m : Mach) {q e : Nat} (x : StrmPort) (h : e ≠ q) :
    strmOf (setStrm m q x) e = strmOf m e := Assoc.get_set_ne _ _ x h

@[simp] theorem hearthOf_setHearth_eq (m : Mach) (h : Nat) (x : Hearth) :
    hearthOf (setHearth m h x) h = x := Assoc.get_set_eq ..

theorem hearthOf_setHearth_ne (m : Mach) {h e : Nat} (x : Hearth) (hh : e ≠ h) :
    hearthOf (setHearth m h x) e = hearthOf m e := Assoc.get_set_ne _ _ x hh

@[simp] theorem memPortOf_setMemPort_eq (m : Mach) (i : Nat) (x : MemPort) :
    memPortOf (setMemPort m i x) i = x := Assoc.get_set_eq ..

theorem memPortOf_setMemPort_ne (m : Mach) {i e : Nat} (x : MemPort) (h : e ≠ i) :
    memPortOf (setMemPort m i x) e = memPortOf m e := Assoc.get_set_ne _ _ x h

@[simp] theorem semOf_setSem_eq (m : Mach) (c i v : Nat) : semOf (setSem m c i v) c i = v := by
  unfold semOf setSem; rw [ctxOf_setCtx_eq]; exact Sparse.get_set_eq ..

end Sys2Proof.Machine
end

