-- ==== Sys2Proof/Laws/Access.lean ====
section
/-! SUPPORT. What a register write, a due command, a taken record, an allocation and a completion can
do, once each. -/

namespace Sys2Proof.Machine

/-! ### Register writes (R494, R504, R532) -/

theorem gated_pass {p : Part} {m : Mach} {src : Src} {a : Nat} (f : Mach → Mach)
    (h : writeGate p m src a = .pass) : gated p m src a f = f m := by
  unfold gated; rw [h]

theorem gated_closed {p : Part} {m : Mach} {src : Src} {a : Nat} (f : Mach → Mach)
    (h : writeGate p m src a = .closed) : gated p m src a f = m := by
  unfold gated; rw [h]

theorem gated_refuse {p : Part} {m : Mach} {src : Src} {a k : Nat} (f : Mach → Mach)
    (h : writeGate p m src a = .refuse k) : gated p m src a f = accErr p m src a k := by
  unfold gated; rw [h]

/-- A gated write does the register's own effect, nothing, or the record of a refusal. -/
theorem gated_cases (p : Part) (m : Mach) (src : Src) (a : Nat) (f : Mach → Mach) :
    (writeGate p m src a = .pass ∧ gated p m src a f = f m) ∨ gated p m src a f = m ∨
      ∃ k, gated p m src a f = accErr p m src a k := by
  cases h : writeGate p m src a with
  | pass => exact .inl ⟨rfl, gated_pass f h⟩
  | closed => exact .inr (.inl (gated_closed f h))
  | refuse k => exact .inr (.inr ⟨k, gated_refuse f h⟩)

/-- A property that a register's effect and the record of a refusal keep, a gated write keeps. -/
theorem gated_keeps {p : Part} {m : Mach} {src : Src} {a : Nat} {f : Mach → Mach} (P : Mach → Prop)
    (h : P m) (hf : P (f m)) (hr : ∀ k, P (accErr p m src a k)) : P (gated p m src a f) := by
  rcases gated_cases p m src a f with ⟨-, e⟩ | e | ⟨k, e⟩ <;> rw [e]
  · exact hf
  · exact h
  · exact hr k

/-- A refusal's record writes ACC_ERR and the event bits of page GLB and no other register. -/
theorem rd_accErr_ne (p : Part) (m : Mach) (src : Src) (addr k : Nat) {a : Nat}
    (h1 : a ≠ Reg.glbAccErr) (h2 : a ≠ Reg.evtStat Reg.glbPage) :
    rd p (accErr p m src addr k) a = rd p m a := by
  unfold accErr setEvt
  rw [rd_orReg_ne _ _ _ h2, rd_wr_ne _ _ _ h1]

theorem rd_ignored_ne (p : Part) (m : Mach) (src : Src) (addr : Nat) {a : Nat}
    (h1 : a ≠ Reg.glbAccErr) (h2 : a ≠ Reg.evtStat Reg.glbPage) :
    rd p (ignored p m src addr) a = rd p m a := rd_accErr_ne p m src addr 2 h1 h2

/-- A write of an aligned address with every byte enabled goes to its register. -/
theorem regWrite_whole {src : Src} {a : Nat} (v : Word) (p : Part) (m : Mach)
    (h : alignAddr a = a) : regWrite src a 0xFF v p m = routeWrite src a v p m := by
  unfold regWrite; simp [h]

/-! ### Running commands (R384, R462, R499) -/

/-- A due command runs in the window it names under the number it names, carries the opcode, and the
engine is up and not in FATAL. -/
theorem dueCmd_some {p : Part} {m : Mach} {w seq op : Nat} {r : Running}
    (h : dueCmd p m w seq op = some r) :
    engineUp m = true ∧ isFatal p m = false ∧ startedCmd m w seq op = some r := by
  unfold dueCmd at h
  split at h
  · rename_i hu; simp at hu; exact ⟨hu.1, hu.2, h⟩
  · cases h

theorem dueCmd_eq {p : Part} {m : Mach} {w seq op : Nat} (h1 : engineUp m = true)
    (h2 : isFatal p m = false) : dueCmd p m w seq op = startedCmd m w seq op := by
  unfold dueCmd; simp [h1, h2]

/-- A command that completes with a status leaves the list of running commands. -/
theorem dropRunning_running (m : Mach) (acc : Nat) :
    (dropRunning m acc).cmd.running = m.cmd.running.filter fun x => x.acc ≠ acc := rfl

theorem findAcc_dropRunning (m : Mach) (acc : Nat) : findAcc (dropRunning m acc) acc = none := by
  unfold findAcc
  rw [dropRunning_running]
  simp [List.find?_eq_none]

/-- A completion's record goes into its window's hold: sequence number, opcode, status, DETAIL. -/
theorem complete_hold (m : Mach) (r : Running) (st detail : Nat) :
    holdOf (complete m r st detail) r.win = holdOf (signalOf (dropRunning m r.acc) r.line st) r.win ++
      [{ hseq := r.hseq, opcode := recOp r.line, status := st, step := none, attempt := 0,
         detail := detail, irq := recFlag r.line 4 }] := holdOf_pushHold_eq ..

/-- A signal changes event counters alone. -/
theorem signalOf_cases (m : Mach) (l : Line) (st : Nat) :
    signalOf m l st = m ∨ signalOf m l st = addEvt m (recSigEvt l) 1 := by
  unfold signalOf; split <;> simp

/-- Completing a command writes no register. -/
@[simp] theorem complete_regs (m : Mach) (r : Running) (st detail : Nat) :
    (complete m r st detail).regs = m.regs := by
  unfold complete completeLine
  rcases signalOf_cases (dropRunning m r.acc) r.line st with h | h <;> simp [h]

@[simp] theorem complete_sec (m : Mach) (r : Running) (st detail : Nat) :
    (complete m r st detail).sec = m.sec := by
  unfold complete completeLine
  rcases signalOf_cases (dropRunning m r.acc) r.line st with h | h <;> simp [h]

@[simp] theorem complete_net (m : Mach) (r : Running) (st detail : Nat) :
    (complete m r st detail).net = m.net := by
  unfold complete completeLine
  rcases signalOf_cases (dropRunning m r.acc) r.line st with h | h <;> simp [h]

/-! ### Records and transactions -/

/-- A taken record is a received one of the kind; the others stay, in their order. -/
theorem takeRecord_some {m n : Mach} {kind : Nat} {r : In0} (h : takeRecord m kind = some (r, n)) :
    r ∈ m.net.vc0In ∧ recordKind r.bytes = kind ∧
      n = { m with net := { m.net with vc0In := m.net.vc0In.erase r } } := by
  unfold takeRecord at h
  split at h
  · rename_i x hx
    cases h
    exact ⟨List.mem_of_find?_eq_some hx, by simpa using List.find?_some hx, rfl⟩
  · cases h

/-- A transaction goes out on one port with a tag of its own, its strided access counted, or waits; nothing else of the
machine changes. -/
theorem issueTxn_cases (p : Part) (m : Mach) (t : Txn) :
    (∃ i tag n, n = countStrided p m t.strided ∧ issueTxn p m t = { n with
      mem := { n.mem with
        txns := n.mem.txns ++ [{ t with port := i, tag := tag, since := n.tick.time, strided := none }], rr := i },
      out := n.out ++ requestOuts { t with port := i, tag := tag, since := n.tick.time, strided := none } }) ∨
    issueTxn p m t = { m with mem := { m.mem with waiting := m.mem.waiting ++ [t] } } := by
  unfold issueTxn
  split
  · exact .inl ⟨_, _, _, rfl, rfl⟩
  · exact .inr rfl

/-- A granted buffer lies within quota and class and is held with one reference (R230 to R232). -/
theorem allocBuf_some {p : Part} {m n : Mach} {c cls k : Nat} {r : Requester}
    (h : allocBuf p m c cls r = some (k, n)) :
    quotaAdmits p m c cls r = true ∧ k ∈ freeBufs p m c cls ∧
      Assoc.find? (ctxOf n c).bufs (bufKey cls k) = some (1, r.code) := by
  unfold allocBuf at h
  split at h
  · rename_i hq
    split at h
    · rename_i x hx
      cases h
      refine ⟨hq, List.mem_of_mem_head? hx, ?_⟩
      rw [ctxOf_setCtx_eq]
      exact Assoc.find_set_eq ..
    · cases h
  · cases h

end Sys2Proof.Machine
end

