-- ==== Sys2Proof/Laws/Memory.lean ====
section
/-! SUPPORT. The memories: every operation keeps the canonical form, a byte written is the byte
read, and the others are left alone (R214, R545). -/

namespace Sys2Proof.Machine

theorem Memory.wf_nil : Memory.wf [] = true := rfl

theorem putByte_wf {mem : List Host.Cell} (a : Nat) (b : Byte) (h : Memory.wf mem = true) :
    Memory.wf (putByte mem a b) = true := Sparse.set_wf a b h

theorem writeBytes_wf {mem : List Host.Cell} (a : Nat) (bs : List Byte)
    (h : Memory.wf mem = true) : Memory.wf (writeBytes mem a bs) = true := by
  induction bs generalizing mem a with
  | nil => exact h
  | cons b r ih => exact ih (a + 1) (putByte_wf a b h)

theorem clearBytes_wf {mem : List Host.Cell} (lo n : Nat) (h : Memory.wf mem = true) :
    Memory.wf (clearBytes mem lo n) = true := Sparse.filter_wf _ h

theorem putHost_wf {m : Mach} (a : Nat) (bs : List Byte) (h : Memory.wf m.mem.host = true) :
    Memory.wf (putHost m a bs).mem.host = true := writeBytes_wf a bs h

theorem putKiln_wf {m : Mach} (a : Nat) (bs : List Byte) (h : Memory.wf m.mem.kiln = true) :
    Memory.wf (putKiln m a bs).mem.kiln = true := writeBytes_wf a bs h

/-- After reset every memory has the canonical form. -/
theorem reset_memories_wf : Memory.wf State.reset.m.mem.host = true ∧
    Memory.wf State.reset.m.mem.kiln = true ∧ Memory.wf State.reset.m.mem.ember = true :=
  ⟨rfl, rfl, rfl⟩

@[simp] theorem byteAt_putByte_eq (mem : List Host.Cell) (a : Nat) (b : Byte) :
    byteAt (putByte mem a b) a = b := Sparse.get_set_eq ..

theorem byteAt_putByte_ne (mem : List Host.Cell) {a e : Nat} (b : Byte) (h : e ≠ a) :
    byteAt (putByte mem a b) e = byteAt mem e := Sparse.get_set_ne _ _ b h

@[simp] theorem readBytes_length (mem : List Host.Cell) (a n : Nat) :
    (readBytes mem a n).length = n := by
  induction n generalizing a with
  | zero => rfl
  | succ n ih => simp [readBytes, ih]

end Sys2Proof.Machine
end

