-- ==== Sys2Proof/Safety.lean ====
section
/-! DEFINITION. What a safe run is: one that stops neither at a fault nor at a refusal. -/

namespace Sys2Proof.Machine

/-- The outcome is a next state. -/
def completes (o : Host.Outcome State Fault Refusal) : Bool :=
  match o with
  | .next _ => true
  | .fault _ => false
  | .refused _ => false

/-- The step from a state neither faults nor refuses. -/
def stepSafe (s : State) : Bool := completes (step s)

end Sys2Proof.Machine
end

