-- ==== Sys2Proof/Tests/Slice0.lean ====
section
/-! SUPPORT. Tests of the model: ill-formed commands refused, values that the manual gives, and for each clause of
the statements a concrete state and operands that meet its hypotheses. -/

namespace Sys2Proof.Tests

open Sys2Proof Sys2Proof.Machine

set_option Elab.async false

/-! ### Small states -/

def p0 : Part := {}
def m0 : Mach := Mach.reset
/-- The state with a machine and the reset part. -/
def st (m : Mach) : State := { pending := [], part := p0, m := m }
/-- A machine after register writes. -/
def regs (rs : List (Nat × Word)) (m : Mach := m0) : Mach := wrAll p0 m rs
/-- A record: bytes by place, each place with its value. -/
def rec (opc : Nat) (fs : List (Nat × Nat) := []) : Line :=
  BitVec.ofNat 512 (opc * 2 ^ 32 + (fs.map fun f => f.2 * 2 ^ (8 * f.1)).sum)
/-- A running command of window w with sequence number 0. -/
def run (opc : Nat) (fs : List (Nat × Nat) := []) (w : Nat := 0) : Running :=
  { win := w, pq := 0, acc := 0, hseq := 0, line := rec opc fs }
/-- A machine in which one command runs. -/
def withRun (r : Running) (m : Mach := m0) : Mach := { m with cmd := { m.cmd with running := [r] } }
/-- What exec answers, where it answers a next state. -/
def after (c : Instr) (s : State) : Option Mach :=
  match exec c s with
  | .next t => some t.m
  | _ => none
/-- A register after a command. -/
def readAfter (c : Instr) (s : State) (a : Nat) : Option Word := (after c s).map fun m => readReg s.part m .host a

/-! ### Ill-formed commands are refused -/

theorem test_wf_window : (Instr.cmdSeqWrite .host 9 0).wf = false := by decide
theorem test_wf_word : (Instr.commandStage .host 8 7 0).wf = false := by decide
theorem test_wf_address : (Instr.registerWrite .host 0x1004 0xFF 0).wf = false := by decide
theorem test_wf_address_high : (Instr.rwsWrite .host 0x100000 0).wf = false := by decide
theorem test_wf_queue : (Instr.commandStart 5 .clean).wf = false := by decide
theorem test_wf_reads : (Instr.commandStart 0 .filter).wf = false ∧ (Instr.eventSignal 0 0 (.line 0 true)).wf = false ∧
    (Instr.transitFlit 0 1 .control).wf = false ∧ (Instr.fabAtomic (.line (2 ^ 20) false)).wf = false ∧
    (Instr.bundleComplete (.word 0 true)).wf = false ∧ (Instr.billetReceive true .filter).wf = false ∧
    (Instr.fabRead (.line 0 true)).wf = false ∧ (Instr.semAcq 9 0 .clean).wf = false := by decide
theorem test_wf_ring : (Instr.ringWrite .host 9 0).wf = false := by decide
theorem test_wf_seq : (Instr.nop 0 (2 ^ 32)).wf = false := by decide
theorem test_wf_lane : (Instr.xform (.lane (2 ^ 14)) .clean).wf = false := by decide
theorem test_wf_context : (Instr.ctlWrite .host 8 0).wf = false := by decide
theorem test_wf_slot : (Instr.scoreRecord 0 8 .clean).wf = false := by decide
theorem test_wf_port : (Instr.combOutAccepted 8).wf = false := by decide
theorem test_wf_link : (Instr.phyLock 36).wf = false := by decide
theorem test_wf_lane_of_link : (Instr.phyLockLoss 0 2 true).wf = false := by decide
theorem test_wf_position : (Instr.flitReceive 0 8 ([], [])).wf = false := by decide
theorem test_wf_page : (Instr.quiesce .host 256 0).wf = false := by decide
theorem test_wf_line : (Instr.scrubRead (2 ^ 20) .clean).wf = false := by decide
theorem test_wf_hearth : (Instr.hearthFault 16 .coder 1 .none).wf = false := by decide
theorem test_wf_no_try : (Instr.hearthFault 0 .coder 0 .none).wf = false := by decide
theorem test_wf_unit : (Instr.bistTestEnd true 32 true).wf = false := by decide
theorem test_wf_sensor : (Instr.tempSample 4 0).wf = false := by decide
theorem test_wf_monitor : (Instr.droop 4).wf = false := by decide
theorem test_wf_confirmation : (Instr.lcScrap (2 ^ 16)).wf = false := by decide
theorem test_wf_level : (Instr.dbgReq .host 4).wf = false := by decide
theorem test_wf_state : (Instr.powerAck 4).wf = false := by decide
theorem test_wf_rick : (Instr.rickEnd 256).wf = false := by decide
theorem test_wf_channel : (Instr.e2eTimeout 0 6 0).wf = false := by decide
theorem test_wf_tag : (Instr.reassemblyTimeout 0 3 (2 ^ 16)).wf = false := by decide
theorem test_wf_node : (Instr.ask 4096).wf = false := by decide

/-! ### The block -/

theorem test_no_word_spells_a_command : decodeTableWord 16 0x1234 = none := by decide
theorem wit_StepRunsFront : ({ st m0 with pending := [.hostLost, .tickEdge] } : State).pending
    = Instr.hostLost :: [Instr.tickEdge] := by decide
/-- R503: the boot status of a completed power-on sequence, cause 0x01. -/
theorem test_reset_bootStat : readReg p0 m0 .host Reg.glbBootStat = 0x0100000000000601 := by decide +kernel
theorem wit_IdleStepIsOneCycle : let m := regs [(Reg.glbFaultStat, 8)]
    (st m).pending = [] ∧ coreRuns m = true ∧ m.sec.zeroing = none ∧ isFatal p0 m = true ∧ m.run.placed = [] ∧
    m.sec.memRead = false ∧ m.sec.memWrite = false ∧ m.sec.memHeld = false ∧ m.sec.attest = none := by decide +kernel
theorem wit_TablesStayCanonical : Canonical State.reset ∧ step State.reset = .next (st (idleCycle p0 m0)) :=
  ⟨by unfold Canonical; decide +kernel, rfl⟩
theorem wit_ResetLeaves : Reg.glbAccErr ≠ Reg.glbBootStat ∧ Reg.glbAccErr ≠ Reg.logHead := by decide
/-- R431 at 1,000 MHz: a core cycle is one nanosecond. -/
theorem test_idle_cycle_is_1ns : (idleCycle p0 (regs [(Reg.glbCoreFreq, 1000)])).tick.time = 1000000 := by
  decide +kernel
theorem wit_CommandsAnswer_line : kilnLines p0 - 1 < kilnLines p0 ∧ kilnLines p0 ≤ kilnLines p0 := by decide +kernel
theorem wit_FusesOnlyBlow : fusesKept {} (st m0).part ∧ step (st m0) = .next (st (idleCycle p0 m0)) := by
  refine ⟨⟨fun _ _ h => h, fun _ _ _ _ => rfl, fun _ _ => rfl⟩, rfl⟩
theorem wit_FusesOnlyBlow_key : keyFused (burnKey p0 5) = true ∧ fusesKept (burnKey p0 5) (burnKey p0 5) :=
  ⟨by decide +kernel, fun _ _ h => h, fun _ _ _ _ => rfl, fun _ _ => rfl⟩
theorem wit_PartAndStrapsStay : step { st m0 with pending := [.powerAck 0] } = .next (st (powerAck 0 p0 m0)) := rfl
theorem wit_PartAndStrapsStay_reset : (∃ t, step { st m0 with pending := [.powerOnReset true true {}] } = .next t) :=
  ⟨_, rfl⟩
theorem wit_HaltedCommandsStay : recordRow (.nop 0 0) = true ∧ isFatal p0 (regs [(Reg.glbFaultStat, 8)]) = true := by
  decide +kernel
theorem wit_HaltedCommandsStay_down : recordRow (.nop 0 0) = true ∧
    engineUp { m0 with sec := { m0.sec with debug := 3 } } = false := by decide +kernel
theorem wit_ClosedPortIgnoresWrites : regTarget (.hostKick .host 1) = some (.host, Reg.glbHostKick) ∧
    { m0 with sec := { m0.sec with booted := false } }.sec.booted = false ∧
    { m0 with sec := { m0.sec with held := true } }.sec.held = true ∧
    { m0 with sec := { m0.sec with power := .off } }.sec.power = .off := by decide +kernel
/-- R532: a write that comes before DONE is recorded. -/
theorem test_closed_write_recorded : (after (.hostKick .host 1) (st { m0 with sec := { m0.sec with booted := false } })).map
    (fun m => rdF p0 m Reg.glbAccErr 19 0) = some Reg.glbHostKick := by decide +kernel
/-- A part whose first key word alone differs. -/
theorem wit_NoReadShowsKey : ∀ w, w = 0 ∨ 9 < w → fuseWord { p0 with fuses := [(1, 5)] } w = fuseWord p0 w := by
  intro w h
  have h : w ≠ 1 := by omega
  simp [fuseWord, Assoc.get, Assoc.find?, p0, Ne.symm h]
theorem wit_ErrCapHoldsLatestFault : (3 : Nat) < 4 ∧ 2 ≤ (Sev.transient).code := by decide
/-- R466: the last bytes of an entry. -/
theorem test_errCap3 : rd p0 (report p0 m0 { code := 0x20, page := 0xB0, sev := .permanent, detail := [7] })
    (Reg.errCap0 0xB0 + 24) = wordOf (bitsOf (entryOf p0 m0 { code := 0x20, page := 0xB0, sev := .permanent, detail := [7] }) 255 192) := by
  decide +kernel
theorem wit_MemoryReadsBack : 1 < [1, (2 : Byte)].length ∧ byteAt (writeBytes [] 5 [1, 2]) 6 = 2 := by decide +kernel
theorem wit_SignalRowsFrame : signalRow (.nop 0 0) = true ∧ exec (.nop 0 0) (st (withRun (run 0x7F)))
    = .next (st (nop 0 0 p0 (withRun (run 0x7F)))) := ⟨rfl, rfl⟩
theorem wit_RegisterRowsFrame : regRowWrites .refPps = some [Reg.tickPpsTime] ∧
    exec .refPps (st m0) = .next (st (refPps p0 m0)) := ⟨rfl, rfl⟩

/-! ### Register rules -/

theorem wit_CoreFreqTakesRange : Reaches (st m0) .host Reg.glbCoreFreq ∧ bitsOf (599 : Word) 10 0 < 600 ∧
    600 ≤ bitsOf (600 : Word) 10 0 ∧ bitsOf (1100 : Word) 10 0 ≤ 1100 ∧ tickRuns p0 m0 = false := by decide +kernel
theorem wit_CoreFreqTakesRange_runs : Reaches (st (regs [(Reg.tickCtrl, 1)])) .host Reg.glbCoreFreq ∧
    tickRuns p0 (regs [(Reg.tickCtrl, 1)]) = true := by decide +kernel
theorem test_coreFreq_low : readAfter (.coreFreqWrite .host 599) (st m0) Reg.glbCoreFreq
    = some (readReg p0 m0 .host Reg.glbCoreFreq) := by decide +kernel
theorem test_coreFreq_high : readAfter (.coreFreqWrite .host 1100) (st m0) Reg.glbCoreFreq = some 1100 := by
  decide +kernel
theorem wit_CellShiftTakesUpTo12 : Reaches (st m0) .host Reg.exmapCell ∧ 12 < bitsOf (13 : Word) 3 0 ∧ bitsOf (12 : Word) 3 0 ≤ 12 := by
  decide +kernel
theorem wit_AdmitCtrlTakesRange : 7 < 8 ∧ Reaches (st m0) .host (Reg.ctxAdmitCtrl 7) ∧
    65536 < bitsOf (0x01010001 : Word) 16 0 ∧ bitsOf (0x00000001 : Word) 31 24 = 0 := by decide +kernel
theorem wit_TickRegistersRefuse : Reaches (st m0) .host Reg.tickCtrl ∧ bitOf (8 : Word) 3 = true ∧ p0.tref = false ∧
    Reaches (st m0) .host Reg.tickPeriod ∧ bitsOf (7999 : Word) 23 0 < 8000 ∧ 8400000 < bitsOf (8400001 : Word) 23 0 ∧
    Reaches (st m0) .host Reg.tickSlip ∧ bitsOf (63 : Word) 15 0 < 64 ∧ Reaches (st m0) .host Reg.tickBarrier ∧
    bitsOf (0x70000 : Word) 15 0 = 0 := by decide +kernel
theorem wit_TickRegistersRefuse_runs : let m := regs [(Reg.tickCtrl, 1)]
    Reaches (st m) .host Reg.tickCtrl ∧ tickRuns p0 m = true ∧ bitsOf (5 : Word) 2 2 ≠ rdF p0 m Reg.tickCtrl 2 2 ∧
    Reaches (st m) .host Reg.tickStep ∧ Reaches (st m) .host Reg.tickMasterId := by decide +kernel
theorem wit_EvtForceNeedsInvasive : Reaches (st m0) .host (Reg.evtForce 0) ∧ m0.sec.debug < 2 := by decide +kernel
theorem wit_EvtForceNeedsInvasive_level : let m := { m0 with sec := { m0.sec with debug := 2 } }
    Reaches (st m) .ieee1500 (Reg.evtForce 0) ∧ 2 ≤ m.sec.debug := by decide +kernel
theorem test_evtForce : (after (.evtForce .host 0 0xFFFFFFFFFFFFFFFF)
    (st { m0 with sec := { m0.sec with debug := 2 } })).map (fun m => rd p0 m (Reg.evtStat 0))
    = some (wordOf (eventMask .glb)) := by decide +kernel
theorem wit_CmdSeqNeedsIdleWindow : 8 ≤ 8 ∧ Reaches (st m0) .host (winSeq 8) ∧ windowIdle m0 8 = true ∧
    windowIdle (withRun (run 0x7F [] 8)) 8 = false := by decide +kernel
theorem wit_WindowStagesAndSubmits : 8 ≤ 8 ∧ 6 < 7 ∧ Reaches (st m0) .host (winAddr 8 6) ∧
    Reaches (st m0) .host (winAddr 8 7) := by decide +kernel
/-- R376: W1 holds record bytes 8 to 15. -/
theorem test_stage_then_read : bytesOf (stagedRecord (stageWord m0 0 1 0xAB00) 0 0x11) 9 9 = 0xAB := by decide +kernel
/-- A machine whose CMD window takes records: NEXT 5. -/
def mCmd : Mach := regs [(winSeq 8, 5)]
theorem wit_SubmissionAccepts : 8 ≤ 8 ∧ Reaches (st mCmd) .host (winAddr 8 7) ∧ isFatal p0 mCmd = false ∧
    windowFull p0 (clearStaged mCmd 8) 8 = false ∧
    recSeq (stagedRecord (stageWord mCmd 8 0 0x7F00000005) 8 0) = 5 ∧ rdF p0 mCmd (winSeq 8) 31 0 = 5 ∧
    recSeq (stagedRecord mCmd 8 0) ≠ rdF p0 mCmd (winSeq 8) 31 0 ∧
    ((holdOf mCmd 8).filter fun c => c.gap).length < 32 ∧ (holdOf mCmd 8).length < 64 := by decide +kernel
theorem wit_SubmissionRefused : Reaches (st m0) .host (winAddr 0 7) ∧ ctxDefined p0 m0 0 = false := by decide +kernel
theorem wit_LayerRunNeedsPrivilege : dueCmd p0 (withRun (run 0x02)) 0 0 0x02 = some (run 0x02) ∧
    (run 0x02).phase = .started ∧ rdB p0 (withRun (run 0x02)) (Reg.ctxCtl 0) 30 = false := by decide +kernel
theorem wit_LayerRunNeedsPrivilege_has : let m := withRun (run 0x02) (regs [(Reg.ctxCtl 0, 0xC0000000)])
    dueCmd p0 m 0 0 0x02 = some (run 0x02) ∧ rdB p0 m (Reg.ctxCtl 0) 30 = true := by decide +kernel
/-- A machine whose burn to RETURN is under way. -/
def mBurn : Mach := { m0 with sec := { m0.sec with burning := some 4 } }
theorem wit_KeyKillIsForGood : mBurn.sec.burning = some 4 ∧ 4 ≤ 4 ∧ mBurn.sec.scrapDue = false ∧
    mBurn.sec.thenCold = false ∧ mBurn.sec.held = false ∧ (∃ t, exec .lcBurnDone (st mBurn) = .next t) := ⟨rfl, by decide, rfl, rfl, rfl, _, rfl⟩
theorem wit_KeyKillIsForGood_after : ∃ s t : State, keyKilled s.part = true ∧ step s = .next t :=
  ⟨{ st m0 with part := { p0 with fuses := [(0, 2 ^ 16)] } }, _, by decide +kernel, rfl⟩
/-- R475, R552: RETURN is bit 3 of copy A and bit 11 of copy B, and KEY_KILL bits 16 and 17. -/
theorem test_keyKill_blown : (match exec .lcBurnDone (st mBurn) with
    | .next t => fuseWord t.part 0 == 0x30808
    | _ => false) = true := by decide +kernel

/-! ### Selection and the link's code -/

/-- R70: T[128]. -/
theorem test_expTab_half : expTab 128 = 0x3FB504F3 := by decide +kernel
theorem wit_ExpTableIsNearest : (255 : Nat) < 256 := by decide
theorem wit_LocalQuotasSumToCapacity_formula : (7 : Nat) < 8 := by decide
theorem wit_LocalQuotasSumToCapacity : shareSum (fun _ => 1) 8 ≠ 0 := by decide +kernel
theorem wit_ReplicaIsNearest : ∃ r ∈ [({ valid := true, node := 3, slot := 1 } : Replica)], r.valid = true := by decide
theorem wit_FlitRoundTrip : (7 : Nat) < 8 ∧ flitFits { fkind := 3, lseq := 1023 } { vc := 5, src := 4095, dst := 0 } := by
  unfold flitFits; decide
theorem wit_OneByteErrorIsCorrected : (List.replicate 128 (0 : Byte)).length = 128 ∧ 131 < 132 ∧ (0xFF : Byte) ≠ 0 := by
  decide +kernel
/-- A last check byte changed is corrected. -/
theorem test_check_byte_corrected : let d := List.replicate 128 (0x5A : Byte)
    rsDecode ((d ++ rsCheck d).set 131 ((d ++ rsCheck d).getD 131 0 ^^^ 0xFF)) = .corrected (d ++ rsCheck d) := by
  decide +kernel
/-- R291: the CRC-32C of the digits 1 to 9. -/
theorem test_crc32c : crc32c [0x31, 0x32, 0x33, 0x34, 0x35, 0x36, 0x37, 0x38, 0x39] = 0xE3069283 := by decide +kernel

/-! ### Resets, power, life cycle, debug -/

def withSec (f : SecSt → SecSt) (m : Mach := m0) : Mach := { m with sec := f m.sec }
theorem wit_ResetsAnswer_powerOn : (st m0).m.sec.burning = none := rfl
theorem test_powerOn_boots : ((after (.powerOnReset false false {}) (st m0)).map fun m =>
    rd p0 (idleCycle p0 m) Reg.glbBootStat) = some 0x0100000000000601 := by decide +kernel
theorem wit_ResetsAnswer_warm : m0.sec.power = .lit ∧ m0.sec.held = false ∧ powerOnRuns m0 = none ∧
    m0.sec.wakeCold = false := by decide
theorem wit_ResetsAnswer_warmDue : (withSec fun x => { x with warmDue := some 0 }).sec.warmDue = some 0 ∧
    0 ≤ m0.tick.cycle := by decide
theorem wit_ResetsAnswer_ctrl : Reaches (st m0) .host Reg.glbResetCtrl ∧ bitOf (1 : Word) 0 = true := by decide +kernel
theorem wit_ResetsAnswer_zeroFail : (withSec fun x => { x with zeroing := some (.raise 2) }).sec.zeroing = some (.raise 2) :=
  rfl
theorem wit_PowerAnswers_banked : Reaches (st m0) .host Reg.pwrCtrl ∧ bitsOf (1 : Word) 1 0 = 1 ∧ m0.sec.power = .lit ∧
    bankedCheck p0 (wr p0 m0 Reg.pwrCtrl 1) = 0 ∧ pcIdle m0 = true ∧ m0.sec.thenCold = false ∧
    m0.sec.zeroing ≠ some .cold := by decide +kernel
theorem wit_PowerAnswers_refused : let m := withSec fun x => { x with debug := 2 }
    Reaches (st m) .host Reg.pwrCtrl ∧ bankedCheck p0 (wr p0 m Reg.pwrCtrl 1) ≠ 0 := by decide +kernel
theorem wit_PowerAnswers_cold : Reaches (st m0) .host Reg.pwrCtrl ∧ bitsOf (2 : Word) 1 0 = 2 ∧ m0.sec.power = .lit ∧
    m0.sec.debug < 2 ∧ m0.sec.zeroing ≠ some .cold ∧ m0.sec.thenCold = false ∧ m0.sec.pcReq ≠ 2 ∧ m0.sec.burning = none ∧ pcIdle m0 = true ∧
    (loseLinks (discardAll p0 (wr p0 m0 Reg.pwrCtrl 2))).sec.power = .lit := by decide +kernel
theorem wit_PowerAnswers_lit : let m := withSec fun x => { x with power := .banked, pcReq := 1, pcAck := 1 }
    Reaches (st m) .host Reg.pwrCtrl ∧ bitsOf (0 : Word) 1 0 = 0 ∧ m.sec.power ≠ .lit ∧ pcIdle m = true := by
  decide +kernel
theorem wit_PowerAnswers_ack : let m := withSec fun x => { x with pcReq := 1 }
    m.sec.power = .lit ∧ pcIdle m = false ∧ m.sec.pcReq = 1 ∧ m.sec.scrapDue = false ∧ m.sec.thenCold = false ∧ m.sec.held = false := by
  decide
theorem wit_PowerAnswers_ackCold : let m := withSec fun x => { x with pcReq := 2 }
    m.sec.power = .lit ∧ pcIdle m = false ∧ m.sec.pcReq = 2 ∧ m.sec.scrapDue = false ∧ m.sec.held = false := by decide
theorem wit_PowerAnswers_ackLit : let m := withSec fun x => { x with power := .banked, pcReq := 0, pcAck := 1 }
    m.sec.power = .banked ∧ pcIdle m = false ∧ m.sec.pcReq = 0 := by decide
theorem wit_LifeCycleAnswers_advance : Reaches (st m0) .host Reg.lcsAdvance ∧ bitsOf (0x5EA10001 : Word) 31 16 = 0x5EA1 ∧
    lcMay p0 m0.sec.lcState (bitsOf (0x5EA10001 : Word) 2 0) = true ∧ m0.sec.burning = none ∧
    bitsOf (0x10001 : Word) 31 16 ≠ 0x5EA1 := by decide +kernel
theorem wit_LifeCycleAnswers_key : let m := withSec fun x => { x with lcState := 1 }
    Reaches (st m) .host Reg.lcsKeyCommit ∧ m.sec.lcState = 1 ∧ keyFused p0 = false ∧
    bitOf (1 : Word) 0 = true := by decide +kernel
theorem wit_LifeCycleAnswers_keyRefused : Reaches (st m0) .host Reg.lcsKeyCommit ∧ m0.sec.lcState ≠ 1 := by
  decide +kernel
theorem wit_LifeCycleAnswers_keyFused : bitOf (1 : Word) 0 = true ∧ keyFused (burnKey p0 1) = true ∧ (7 : Nat) < 8 := by
  decide +kernel
theorem wit_LifeCycleAnswers_scrap : m0.sec.power = .lit ∧ m0.sec.burning = none := by decide
theorem wit_DebugAnswers_level : 1 < 4 ∧ portUp m0 = true ∧ m0.sec.power = .lit ∧ debugRefused m0 1 = false ∧
    Reaches (st m0) .host Reg.dbgCtrl := by decide +kernel
theorem wit_DebugAnswers_raise : 3 < 4 ∧ portUp m0 = true ∧ m0.sec.power = .lit ∧ debugRefused m0 3 = false ∧
    2 ≤ 3 ∧ m0.sec.debug < 3 := by decide +kernel
theorem wit_DebugAnswers_window : let m := regs [(Reg.dbgMemAddr, 0x1000000000000007)] (withSec fun x => { x with debug := 2 })
    Reaches (st m) .host Reg.dbgMemCtrl ∧ 2 ≤ m.sec.debug ∧ bitOf (2 : Word) 0 = false ∧ bitOf (2 : Word) 1 = true ∧
    bitOf (1 : Word) 0 = true ∧ bitOf (1 : Word) 1 = false ∧ bitOf (3 : Word) 0 = true ∧ bitOf (3 : Word) 1 = true ∧
    m.sec.memRead = false ∧ m.sec.memWrite = false ∧ copyBusy m (64 * rdF p0 m Reg.dbgMemAddr 19 0) = false ∧
    rdF p0 m Reg.dbgMemAddr 63 60 = 1 ∧ rdF p0 m Reg.dbgMemAddr 19 0 < kilnLines p0 := by decide +kernel
theorem wit_DebugAnswers_windowRefused : Reaches (st m0) .host Reg.dbgMemCtrl ∧ m0.sec.debug < 2 := by decide +kernel
theorem wit_DebugAnswers_windowBusy : (withSec fun x => { x with memRead := true }).sec.memRead = true ∧
    (withSec fun x => { x with memWrite := true }).sec.memWrite = true ∧
    Reaches (st (withSec fun x => { x with memRead := true })) .host Reg.dbgMemCtrl := by decide +kernel
theorem wit_DebugAnswers_attest : Reaches (st m0) .host Reg.secAttestCtrl ∧ bitOf (1 : Word) 0 = true := by
  decide +kernel
theorem wit_DebugAnswers_attestEnds : let m := withSec fun x => { x with attest := some [1] }
    m0.sec.attest = none ∧ m.sec.attest = some [1] ∧ portUp m = true ∧ m.sec.power = .lit ∧ m.sec.memHeld = false := by
  decide +kernel
/-- A management entry at PQ4's head: kind k, register address GLB.BOOT_STAT. -/
def mMg (k : Nat) : Mach := { m0 with cmd := { m0.cmd with queues := [(4, { head :=
  [{ line := BitVec.ofNat 512 (k + 2 ^ 8 + 0x1A8 * 2 ^ 32), win := 8, acc := 0, hseq := 0, kind := .mgmt, src := 3 }] })] } }
theorem wit_WrapperAndManagementAnswer : [0x70, 0x71, 0x73, 0x74].all (fun k =>
    engineUp (takeMgmt p0 (mMg k)) && !isFatal p0 (takeMgmt p0 (mMg k)) &&
    match mgmtHead (takeMgmt p0 (mMg k)) with
    | some (_, bs) => mgKind bs == k &&
        (k == 0x74 || mgRefusal p0 (popMgmt (takeMgmt p0 (mMg k)) bs) bs == stDone)
    | none => false) = true := by decide +kernel
theorem wit_WrapperAndManagementAnswer_wrap : m0.sec.power ≠ .off ∧ m0.sec.held = false ∧ portUp m0 = true ∧
    (withSec fun x => { x with debug := 2 }).sec.debug = 2 ∧
    (0xFF : BitVec 8) ∉ [0x00, 0x01, 0x02, 0x10, 0x11, 0x12, 0x13] := by decide +kernel
/-- R556: Ihlan-36 of stepping 1 by the manufacturer 0x123 shifts out its code. -/
theorem test_idcode : (after (.wrapReg false 0 0 (.shift 0x01 0 0x123)) (st m0)).map (fun m => m.out.getLast?)
    = some (some (.testData 0x01 32 (wordOf (2 ^ 28 + 4096 * partNumber p0.conf + 0x247)))) := by decide +kernel
theorem wit_HostWatchAnswers_kick : Reaches (st m0) .host Reg.glbHostKick ∧ bitOf (1 : Word) 0 = true := by decide +kernel
/-- A machine whose watchdog period of 1 ms has passed. -/
def mDog : Mach := { regs [(Reg.glbHostWdog, 0x10001)] with tick := { m0.tick with time := 10 ^ 15 } }
theorem wit_HostWatchAnswers_lost : engineUp mDog = true ∧ wdogDue p0 mDog = true ∧ p0.relay = false ∧
    isFatal p0 (report p0 (orReg p0 { mDog with sec := { mDog.sec with kicked := mDog.tick.time } }
      Reg.glbFaultStat 4) { code := 0xF0, page := Reg.glbPage, sev := .transient }) = false := by decide +kernel
theorem wit_HostWatchAnswers_relay : engineUp mDog = true ∧ wdogDue { p0 with relay := true } mDog = true := by
  decide +kernel
theorem wit_HostWatchAnswers_sensors : 3 < 4 ∧ engineUp m0 = true := by decide +kernel
theorem wit_HostWatchAnswers_droop : let m := regs [(Reg.caluDroopThr 3, 5)]
    3 < 4 ∧ m.sec.power = .lit ∧ portUp m = true ∧ 0 < effective p0 m (itemDroop 3) := by decide +kernel
theorem wit_HostWatchAnswers_droopEnd : let m := { (withSec fun x => { x with droop := some 0 }) with
      tick := { m0.tick with time := 10000000000 } }
    m.sec.droop = some 0 ∧ (0 : Int) + 10000000000 ≤ m.tick.time := by decide

/-! ### Registers, command records, steps -/

theorem wit_RegisterWritesAnswer_evtEn : 0x63 < 256 ∧ hasHeader (pageKind p0.conf 0x63).1 = true ∧
    Reaches (st m0) .host (Reg.evtEn 0x63) ∧ Reaches (st m0) .host (alignAddr (Reg.evtEn 0x63)) ∧
    (0x7F : BitVec 8) ≠ 0xFF := by decide +kernel
theorem wit_RegisterWritesAnswer_evtStat : Reaches (st m0) .host (Reg.evtStat 0) ∧ hasHeader (pageKind p0.conf 0).1 = true := by
  decide +kernel
theorem wit_RegisterWritesAnswer_read : m0.sec.held = false ∧ m0.sec.power ≠ .off := by decide
/-- R547: the host's read is answered with the doubleword. -/
theorem test_read_answered : (after (.registerWrite .host Reg.glbBootStat 0 0 true) (st m0)).map (fun m => m.out)
    = some [.response (some 0x0100000000000601)] := by decide +kernel
theorem wit_RegisterWritesAnswer_pageCtrl : Reaches (st m0) .host (Reg.pageCtrl 0x20) ∧
    (pageKind p0.conf 0x20).1 ≠ .link ∧ pageCtrlIgnored (st m0) 0x20 2 = false ∧ pageCtrlIgnored (st m0) 0x20 4 = false ∧
    Reaches (st m0) .host (Reg.pageCtrl 0) ∧ pageCtrlIgnored (st m0) 0 8 = false ∧ pageCtrlIgnored (st m0) 0 2 = true := by
  decide +kernel
theorem test_quiesce : readAfter (.quiesce .host 0x20 2) (st m0) (Reg.pageCtrl 0x20) = some 2 := by decide +kernel
theorem test_softReset : readAfter (.softReset .host 0 8) (st (regs [(Reg.evtStat 0, 3)])) (Reg.evtStat 0) = some 0 := by
  decide +kernel
/-- A node with a number. -/
def mNode : Mach := regs [(Reg.routeNodeId, 3)]
theorem wit_RegisterWritesAnswer_link : 35 < linkCount p0.conf ∧ Reaches (st mNode) .host (Reg.pageCtrl (Reg.linkPage 35)) ∧
    pageKind p0.conf (Reg.linkPage 35) = (.link, 35) ∧ nodeId p0 mNode ≠ 0xFFF ∧
    pageCtrlIgnored (st mNode) (Reg.linkPage 35) 1 = false ∧ Reaches (st mNode) .host (Reg.linkCtrl 35) := by decide +kernel
theorem wit_RegisterWritesAnswer_noNode : Reaches (st m0) .host (Reg.pageCtrl (Reg.linkPage 35)) ∧ bitOf (1 : Word) 0 = true ∧
    nodeId p0 m0 = 0xFFF := by decide +kernel
theorem wit_CommandEngineAnswers_evtVal : Reaches (st m0) .host Reg.cmdEvtVal := by decide +kernel
/-- A NOP record and a record of no opcode at the head of PQ4. -/
def mHead (opc : Nat) : Mach := { m0 with cmd := { m0.cmd with queues := [(4, { head :=
  [{ line := rec opc, win := 8, acc := 0, hseq := 0 }] })] } }
theorem wit_CommandEngineAnswers_start : r406Pick p0 (mHead 0x7F) = some 4 ∧
    (headEntry (mHead 0x7F) 4).isSome = true ∧ winOfQueue (mHead 0x7F) 4 = some 8 ∧
    systemCopies p0 (mHead 0x7F) = false ∧ checkRecord p0 (mHead 0x7F) 8 (rec 0x7F) = none := by decide +kernel
theorem wit_CommandEngineAnswers_bad : r406Pick p0 (mHead 0x3F) = some 4 ∧
    checkRecord p0 (mHead 0x3F) 8 (rec 0x3F) = some stFormat := by decide +kernel
theorem wit_CommandEngineAnswers_lost : let m := kilnUe p0 (mHead 0x7F) 0 (some 5)
    engineUp (mHead 0x7F) = true ∧ isFatal p0 (mHead 0x7F) = false ∧ (headEntry m 4).isSome = true ∧
    (headEntry m 4).map (fun e => e.kind) = some .command ∧ winOfQueue m 4 = some 8 ∧ windowMayStart p0 m 8 = true := by
  decide +kernel
/-- R222: the entry completes with ERR_UNCORRECTABLE under its host sequence number. -/
theorem test_lost_entry : ((after (.commandStart 4 (.line 0 false)) (st (mHead 0x7F))).map
    fun m => (holdOf m 8).map fun c => (c.hseq, c.status)) = some [(0, stUncorrectable)] := by decide +kernel
/-- R461: a parity error of the control state is FATAL with cause 0x04. -/
theorem test_control_fatal : (after (.commandStart 4 .control) (st m0)).map (fun m => rdF p0 m Reg.glbFaultStat 63 56) = some 4 := by
  decide +kernel
/-- A held completion of the CMD window, its ring enabled with 16 entries. -/
def mHold : Mach := setHold (regs [(Reg.cplRingCtrl 8, 0x104), (Reg.cplRingBase 8, 0x10000)]) 8
  [{ hseq := 1, opcode := 0x7F, status := 0 }]
theorem wit_CommandEngineAnswers_completion : 8 ≤ 8 ∧ (holdOf mHold 8).length = 1 ∧ engineUp mHold = true ∧
    isFatal p0 mHold = false ∧ ringOpen p0 mHold 8 = true ∧ recordOut mHold 8 = false := by decide +kernel
theorem wit_CommandEngineAnswers_written : ({ id := 0, port := 0, write := true, addr := 0, len := 28, use := .cplBody 8 0 1 } : Txn).use
    = .cplBody 8 0 1 ∧ isFatal p0 mHold = false ∧ holdOf mHold 8 = [{ hseq := 1, opcode := 0x7F, status := 0 }] := by decide +kernel
/-- R394: HEAD is the sequence number of the last record written. -/
theorem test_completion_counts : rdF p0 (recordDone p0 mHold 8 0x10010 1) (Reg.cplRingHead 8) 31 0 = 1 := by
  decide +kernel
theorem wit_CommandEngineAnswers_rings : 8 ≤ 8 ∧ Reaches (st m0) .host (Reg.cplRingTail 8) ∧
    Reaches (st m0) .host (Reg.kilnRing 8) ∧ (ringOf m0 8).blocks = [] ∧
    (ringOf (setRing m0 8 { blocks := [{ place := 0, entries := [] }] }) 8).blocks ≠ [] := by decide +kernel
def anEntry (a : Nat) : Entry := { line := rec 0x7F, win := 8, acc := a, hseq := a }
/-- A block is due to spill. -/
def mSpill : Mach := setPq (regs [(Reg.kilnRing 8, 0x100000100)]) 4
  { head := (List.range 1024).map anEntry, tail := (List.range 16).map fun i => anEntry (32 + i) }
theorem wit_QueueCommandsAnswer_spill : winOfQueue mSpill 4 = some 8 ∧ engineUp mSpill = true ∧
    systemCopies p0 mSpill = false ∧ spillDue p0 mSpill 4 8 = true := by decide +kernel
def mFill : Mach := setRing m0 8 { blocks := [{ place := 0, entries := (List.range 16).map anEntry }] }
theorem wit_QueueCommandsAnswer_fill : winOfQueue mFill 4 = some 8 ∧
    (ringOf mFill 8).blocks = [{ place := 0, entries := (List.range 16).map anEntry }] ∧ engineUp mFill = true ∧
    systemCopies p0 mFill = false ∧ (ringOf mFill 8).blocks.all (fun b => !b.filling) = true ∧ queueGone mFill 8 = false ∧
    (pqOf mFill 4).head.length + 16 ≤ storeSize ∧ txnsOut mFill (.spill 8 0) = false := by decide +kernel
def rFlush : Running := run 0x68 [(16, 4)] 8
theorem wit_QueueCommandsAnswer_flush : dueCmd p0 (withRun rFlush) 8 0 0x68 = some rFlush ∧
    winOfQueue (withRun rFlush) (bytesOf rFlush.line 16 16) = some 8 := by decide +kernel
theorem wit_QueueCommandsAnswer_nop : dueCmd p0 (withRun (run 0x7F)) 0 0 0x7F = some (run 0x7F) := by decide +kernel
/-- A LAYER template of two experts, on nodes 0 and 1. -/
def aTmpl : Line := BitVec.ofNat 512 (1 + 1 * 2 ^ 24 + 2 * 2 ^ 80 + 0 * 2 ^ 96 + 4 * 2 ^ 160 + 2 * 2 ^ 208 + 128 * 2 ^ 224)
def aProg : Program := { bundles := [BitVec.ofNat 512 (16 * 2 ^ 44 + 2 ^ 43 + 2 ^ 104)], templates := [aTmpl] }
def aCtx : Ctx := { resident := true, program := some aProg }
def withCtx (x : Ctx) (m : Mach := m0) : Mach := { m with run := { m.run with ctxs := Assoc.set m.run.ctxs 0 x } }
def rHint : Running := run 0x48
theorem wit_QueueCommandsAnswer_hint : let m := withRun rHint (withCtx aCtx)
    dueCmd p0 m 0 0 0x48 = some rHint ∧ rHint.phase = .started ∧ 0 < 8 ∧ rHint.memFail = false ∧
    txnsOut m (.cmdRead rHint.acc) = false ∧ (ctxOf m 0).program = some aProg ∧
    (layerTmpl aProg (bytesOf rHint.line 26 27 % 16384)).isSome = true ∧
    (findAcc (kindleList p0 (setRunning m { rHint with phase := .waiting, n := 0 }) 0 ⟨0, 0, 0⟩ [0, 1] [] (some 0)) 0).isSome
      = true := by decide +kernel
theorem wit_EventsAndSemaphoresAnswer_signal : dueCmd p0 (withRun (run 0x50 [(18, 1)])) 0 0 0x50 = some (run 0x50 [(18, 1)]) ∧
    bytesOf (run 0x50 [(18, 1)]).line 18 18 = 1 ∧ bytesOf (run 0x50).line 18 18 ≠ 1 := by decide +kernel
theorem test_signal_sets : ((after (.eventSignal 0 0 .clean) (st (withRun (run 0x50 [(16, 9), (18, 1), (20, 77)])))).map
    fun m => evtOf m 9) = some 77 := by decide +kernel
theorem wit_EventsAndSemaphoresAnswer_lost : let m := regs [(Reg.ctxEvtRange 0, 0)]
    (List.range 8).all (fun c => !evtInRange p0 m c 9) = true ∧
    dueCmd p0 (withRun (run 0x52)) 0 0 0x52 = some (run 0x52) ∧ dueCmd p0 (withRun (run 0x53)) 0 0 0x53 = some (run 0x53) := by
  decide +kernel
/-- R461: a semaphore that cannot be read tears its context down. -/
theorem test_semaphore_lost : (after (.semAcq 0 0 (.word 0 false)) (st (withRun (run 0x52 [(20, 3)])))).map
    (fun m => (ctxOf m 0).faulted) = some true := by decide +kernel
theorem wit_EventsAndSemaphoresAnswer_wait : dueCmd p0 (withRun (run 0x51 [(20, 1)])) 0 0 0x51 = some (run 0x51 [(20, 1)]) ∧
    evtOf (withRun (run 0x51 [(20, 1)])) 0 < bytesOf (run 0x51 [(20, 1)]).line 20 23 % 2 ^ 28 ∧
    bytesOf (run 0x51).line 20 23 % 2 ^ 28 ≤ evtOf (withRun (run 0x51)) 0 := by decide +kernel
theorem wit_EventsAndSemaphoresAnswer_sem : let r := run 0x52 [(20, 3)]
    dueCmd p0 (withRun r) 0 0 0x52 = some r ∧ semOf (withRun r) r.win (semIdx r.line) < semCount r.line ∧
    semCount (run 0x52).line ≤ semOf (withRun (run 0x52)) 0 0 ∧ dueCmd p0 (withRun (run 0x53)) 0 0 0x53 = some (run 0x53) := by
  decide +kernel
/-- A step of context 0 in its only bundle, its seven layer lanes open at layer 0. -/
def aStep : StepRun :=
  { ctx := 0, acc := 0, step := 0, att := 0, prog := aProg,
    lanes := (List.range 7).map fun i => (i, { op := 1, tmpl := 0, layer := 0, bound := [(0, 0)] }) }
def withStep (s : StepRun) (m : Mach := m0) : Mach :=
  let m := withCtx aCtx (regs [(Reg.ctxCtl 0, 0x80000005)] m)
  { m with run := { m.run with step := some s } }
theorem wit_StepsAnswer_run : dueCmd p0 (withRun (run 0x01)) 0 0 0x01 = some (run 0x01) ∧ (run 0x01).phase = .started := by
  decide +kernel
/-- The tick runs at the master and its edge has come. -/
def mEdge : Mach := { regs [(Reg.tickCtrl, 5), (Reg.tickPeriod, 8000)] with tick := { m0.tick with edge := some 0 } }
theorem wit_StepsAnswer_edge : edgeDue p0 mEdge = some 0 ∧ rdB p0 mEdge Reg.perfPerfCtrl 0 = false := by decide +kernel
def lateTick (m : Mach) (c : Nat) : Mach := { m with tick := { m.tick with cycle := c } }
theorem wit_StepsAnswer_bundle : let m := lateTick (withStep { aStep with lanes := [] }) 16
    (liveStep m).isSome = true ∧ engineUp m = true ∧ isFatal p0 m = false ∧
    bundleDone p0 m { aStep with lanes := [] } = true := by decide +kernel
theorem wit_StepsAnswer_programLost : let m := kilnUe p0 (withStep aStep) 0 (some (if groupUse p0 (0 / 32768) = .system then 2 else 1))
    (liveStep (withStep aStep)).isSome = true ∧ engineUp (withStep aStep) = true ∧ isFatal p0 (withStep aStep) = false ∧
    (liveStep m).map (fun s => s.ended) = some false ∧ isFatal p0 m = false := by decide +kernel
def mSlip : Mach := lateTick (withStep aStep mEdge) 10000000
theorem wit_StepsAnswer_slip : (liveStep mSlip).isSome = true ∧ engineUp mSlip = true ∧ isFatal p0 mSlip = false ∧
    slipDue p0 mSlip aStep = true ∧ aStep.slips + 1 ≤ rdF p0 mSlip Reg.tickSlip 23 16 ∧
    slipDue p0 { mSlip with tick := { mSlip.tick with time := 1 } } { aStep with slips := 255 } = true ∧
    rdF p0 mSlip Reg.tickSlip 23 16 < 255 + 1 := by decide +kernel
theorem wit_StepsAnswer_stretch : let m := lateTick (withStep aStep (regs [(Reg.ctxStretchLimit 0, 10)])) 1000
    bundleDone p0 m aStep = false ∧ aStep.ended = false ∧ aStep.stalled = false ∧
    aStep.bundleCycle + bunDur (curBundle aStep) + rdF p0 m (Reg.ctxStretchLimit 0) 31 0 < m.tick.cycle := by decide +kernel
/-- A VC0 record of a kind: bytes by place. -/
def in0 (kind : Nat) (fs : List (Nat × Nat) := []) : In0 :=
  { src := 1, link := 0, at10 := 0, bytes := mkRecord (leBytes 11 ((fs.map fun f => f.2 * 2 ^ (8 * f.1)).sum)) kind
      (leBytes 4 ((fs.map fun f => if 12 ≤ f.1 then f.2 * 2 ^ (8 * (f.1 - 12)) else 0).sum)) }
def withIn (r : In0) (m : Mach := m0) : Mach := { m with net := { m.net with vc0In := [r] } }
theorem wit_StepHelpersAnswer_abort : let m := withIn (in0 0x41 [(7, 5)]) (withStep aStep)
    (match takeRecord m 0x41 with
    | some (r, m) => ctxOfJob p0 m (bytesOf r.bytes 7 7) == some 0 &&
        (stepOfCtx (dropFor m 0 r.src (bytesOf r.bytes 0 5) (bytesOf r.bytes 6 6 % 16)) 0).isSome &&
        bytesOf r.bytes 0 5 == 0 && bytesOf r.bytes 6 6 % 16 == 0
    | none => false) = true := by decide +kernel
theorem wit_StepHelpersAnswer_registers : Reaches (st m0) .host Reg.perfPerfCtrl ∧ bitOf (3 : Word) 0 = true ∧
    bitOf (3 : Word) 1 = true ∧ 7 < 8 ∧ Reaches (st m0) .host (Reg.ctxSeedCtrl 7) ∧ (ctxOf m0 7).seedPending = false ∧
    Reaches (st m0) .host (Reg.ctxReplayTail 7) ∧ replayMode p0 (wr p0 m0 (Reg.ctxReplayTail 7) 0) 7 ≠ 3 := by
  decide +kernel
theorem wit_StepHelpersAnswer_check : let m := regs [(Reg.ctxReplayCtrl 7, 0x70C)]
    replayMode p0 (wr p0 m (Reg.ctxReplayTail 7) 64) 7 = 3 ∧
    (ctxOf (withCtx { aCtx with seedPending := true }) 0).seedPending = true := by decide +kernel
theorem wit_StepHelpersAnswer_entropy : engineUp m0 = true ∧ drbgNeeds m0 = true ∧ m0.sec.entropy.length < 11 ∧
    (withSec fun x => { x with entropy := List.replicate 11 0 }).sec.entropy.length = 11 ∧
    m0.sec.entropyAt + 1000000 * fsPerNs ≤ ({ m0 with tick := { m0.tick with time := 10 ^ 15 } } : Mach).tick.time := by decide +kernel

/-! ### Layout, tables, collectives -/

theorem wit_LayoutOperationsAnswer_due : [opXform, opGather, opScatter].all (fun c =>
    (dueOp p0 (withRun (run c)) (.cmd 0 0) c).isSome) = true := by decide +kernel
/-- An XFORM of one access of 4 bytes, from window 0 to window 1 of 4 KiB each, destination offset d. -/
def aMove (d : Nat) : OpCtx :=
  { owner := .cmd 0, ctx := 0, opc := opXform, stage := 2, memFail := false, bufs := [],
    line := BitVec.ofNat 512 (2 + opXform * 2 ^ 8 + 2 * 2 ^ (8 * 10) + 4 * 2 ^ (8 * 11) + 2 ^ (8 * 12) + 2 ^ (8 * 14) +
      2 ^ (8 * 16) + 2 ^ (8 * 18) + d * 2 ^ (8 * 58)),
    wins := [0x8000000000010000, 1, 0x8000000000020000, 1] }
theorem wit_LayoutOperationsAnswer_format : (aMove 0).memFail = false ∧ txnsOut m0 (aMove 0).useR = false ∧
    txnsOut m0 (aMove 0).useW = false ∧ bytesOf { aMove 0 with line := 0 }.line 0 0 ≠ 2 := by decide +kernel
theorem wit_LayoutOperationsAnswer_early : bytesOf (aMove 0).line 0 0 = 2 ∧ bytesOf (aMove 0).line 1 1 = (aMove 0).opc ∧
    (checkEarly m0 { aMove 0 with wins := [] }).isSome = true := by decide +kernel
theorem wit_LayoutOperationsAnswer_late : (match opParts m0 (aMove 4096) with
    | some (sw, dw, iw, idx) => (listBad m0 (aMove 4096) iw).isNone &&
        (checkLate (aMove 4096) sw dw iw idx).any fun e => !byBitmap (aMove 4096) e idx
    | none => false) = true := by decide +kernel
/-- A SCATTER of two rows of two elements by the list in window 2. -/
def rScat (a : Nat) : Running :=
  { run opScatter with
    acc := a, hseq := a, stage := 1, wins := [0x8000000000010000, 1, 0x8000000000020000, 1, 0x8000000000030000, 1]
    desc := some (BitVec.ofNat 512 (2 + opScatter * 2 ^ 8 + 2 * 2 ^ (8 * 10) + 0x24 * 2 ^ (8 * 11) + 2 * 2 ^ (8 * 12) +
      2 * 2 ^ (8 * 16) + 2 * 2 ^ (8 * 20) + 2 * 2 ^ (8 * 24))) }
/-- Context 0 runs two of them; the list is of equal entries, or of 0 and 1. -/
def mScat (equal : Bool) : Mach :=
  let m := { withRun (rScat 0) with
    cmd := { m0.cmd with running := [rScat 0, rScat 1] }
    run := { m0.run with ctxs := [(0, { resident := true, groups := [16], tblUnits := 1, carve := [64, 8, 8, 8, 8, 1, 1, 2] })] } }
  if equal then m else putHost m 0x30004 [1]
/-- R230: the class-7 buffers of both SCATTERs are asked for in one cycle, and the older goes first. -/
theorem wit_LayoutOperationsAnswer_turn : [0, 1].map (fun h => (dueOp p0 (mScat false) (.cmd 0 h) opScatter).map fun x =>
    goesNow p0 (mScat false) (layoutStages p0 x.ctx x.owner 4 (readFinds p0 (mScat false) .clean))) = [some true, some false] := by
  decide +kernel
theorem wit_LayoutOperationsAnswer_bitmap : (dueOp p0 (mScat true) (.cmd 0 0) opScatter).any (fun o =>
    match opParts (mScat true) o with
    | some (sw, dw, iw, idx) => (listBad (mScat true) o iw).isNone && ((checkLate o sw dw iw idx).any fun e => byBitmap o e idx) &&
        (allocAll p0 o.ctx .cmd (List.replicate (stageBuffers o (shapeOf o) idx) 7) (mScat true)).isSome
    | none => false) = true := by decide +kernel
/-- A GATHER of one row by the list in kiln window 2, whose first line does not decode. -/
def aGather : OpCtx :=
  { aMove 0 with
    opc := opGather, stage := 1, wins := [0x8000000000010000, 1, 0x8000000000020000, 1, 0xC000000000000000, 1],
    line := BitVec.ofNat 512 (2 + opGather * 2 ^ 8 + 2 * 2 ^ (8 * 10) + 0x24 * 2 ^ (8 * 11) + 2 ^ (8 * 12) + 2 ^ (8 * 16)) }
/-- Context 0 holds group 9, whose first line does not decode. -/
def mBad : Mach :=
  let m := withCtx { aCtx with groups := [9] }
  { m with run := { m.run with kilnSt := { badLines := [9 * 32768] } } }
theorem wit_LayoutOperationsAnswer_listBad : (match opParts mBad aGather with
    | some (_, _, iw, _) => (listBad mBad aGather iw).isSome
    | none => false) = true ∧ txnsOut mBad aGather.useR = false := by decide +kernel
theorem wit_LayoutOperationsAnswer_check : (match opParts m0 { aMove 0 with stage := 1 } with
    | some (sw, dw, iw, idx) =>
      let o := { aMove 0 with stage := 1 }
      (listBad m0 o iw).isNone && (checkLate o sw dw iw idx).isNone &&
        (allocAll p0 o.ctx .cmd (List.replicate (stageBuffers o (shapeOf o) idx) 7) m0).isSome
    | none => false) = true := by decide +kernel
theorem wit_LayoutOperationsAnswer_readBad : let o := { aMove 0 with wins := [0xC000000000000000, 1, 0x8000000000020000, 1] }
    (match opParts mBad o with
     | some (sw, dw, _, idx) => (readBad mBad o sw dw idx).isSome
     | none => false) = true := by decide +kernel
theorem wit_LayoutOperationsAnswer_move : [(0, false, true), (16 * 2 ^ 72, false, false), (2 ^ 64, true, true)].all (fun (n, acc, same) =>
    let o := { aMove 0 with line := (aMove 0).line + BitVec.ofNat 512 n }
    match opParts m0 o with
    | some (sw, dw, _, idx) => (readBad m0 o sw dw idx).isNone && (shapeOf o).acc == acc &&
        ((shapeOf o).sfmt == (shapeOf o).dfmt) == same
    | none => false) = true ∧ (placement p0 m0 .coder).isSome = true ∧ (placement p0 m0 .combine).isSome = true := by
  decide +kernel
theorem wit_LayoutOperationsAnswer_ends : { aMove 0 with stage := 3 }.stage = 3 ∧
    { aMove 0 with memFail := true }.memFail = true := ⟨rfl, rfl⟩
def rTable : Running := run 0x40 [(16, 3), (24, 0x4000), (32, 4096)]
theorem wit_TableLoadsAnswer_table : let m := withRun rTable (withCtx { aCtx with tblUnits := 1, groups := [9] })
    dueCmd p0 m 0 0 0x40 = some rTable ∧ 1 ≤ bytesOf rTable.line 16 16 ∧ bytesOf rTable.line 16 16 ≤ 3 ∧
    rTable.memFail = false ∧ txnsOut m (.cmdRead rTable.acc) = false ∧ groupCopies m 0 = false ∧
    (match checkImage (ctxOf m 0) 0 3 (List.replicate 4096 0) with
     | .ok _ => true
     | .error _ => false) = true ∧
    (match checkImage (ctxOf m 0) 0 3 (List.replicate 64 0) with
     | .ok _ => false
     | .error _ => true) = true := by decide +kernel
def rRoute : Running := run 0x40 [(16, 4), (24, 0x4000), (32, 96)] 8
theorem wit_TableLoadsAnswer_route : dueCmd p0 (withRun rRoute) 8 0 0x40 = some rRoute ∧
    (match checkRoutes p0 ([0, 0, 1, 0] ++ List.replicate 92 0) with
     | .ok _ => true
     | .error _ => false) = true ∧
    (match checkRoutes p0 (List.replicate 96 0) with
     | .ok _ => false
     | .error _ => true) = true := by decide +kernel
def rProg : Running := run 0x41 [(16, 0x4000), (24, 1), (28, 0)]
/-- Host memory holds one END bundle of one cycle at 0x4000. -/
def mProg : Mach := putHost (withRun rProg (withCtx { resident := true })) 0x4000
  (leBytes 64 (2 ^ 60 + 2 ^ 44 + 2 ^ 34))
theorem wit_TableLoadsAnswer_program : dueCmd p0 mProg 0 0 0x41 = some rProg ∧
    storeRoom p0 mProg (bytesOf rProg.line 24 27) (bytesOf rProg.line 28 31) = true ∧
    programFault p0 mProg (partitionSize (ctxOf mProg 0)) (imageLines mProg 0x4000 1) [] = (0, 0) ∧
    (programFault p0 mProg (partitionSize (ctxOf mProg 0)) (imageLines mProg 0x8000 1) []).1 ≠ 0 ∧
    useMoves p0 mProg [.program, .system] = false ∧ storeRoom p0 mProg 10000000 0 = false := by decide +kernel
def rBias : Running := run 0x42 [(16, 4)]
theorem wit_TableLoadsAnswer_bias : dueCmd p0 (withRun rBias) 0 0 0x42 = some rBias ∧
    txnsOut (withRun rBias) (.cmdWrite 0) = false ∧ rBias.phase = .started ∧
    (bytesOf rBias.line 16 16).testBit 0 = false ∧ { rBias with phase := .waiting }.phase = .waiting ∧
    (match checkUpdate (ctxOf (withRun rBias) 0) rBias [] with
     | .ok _ => true
     | .error _ => false) = true := by decide +kernel
def aGroup : Group := { ctx := 0, job := 5, epoch := 1, members := [⟨0, 0, 0⟩, ⟨1, 0, 0⟩] }
/-- Node 0 holds group 2 of context 0. -/
def withGroup (g : Group) (m : Mach := m0) : Mach :=
  { wr p0 (withCtx aCtx m) Reg.routeNodeId 0 with coll := { m.coll with groups := [(2, g)] } }
def rColl (opc : Nat) : Running :=
  { run opc with desc := some (BitVec.ofNat 512 (2 + opc * 2 ^ 8 + 2 * 2 ^ 64)), wins := [] }
theorem wit_CollectivesAnswer : [opA2a, opA2av, opReduce, opBarrier].all (fun c =>
    let m := withRun (rColl c) (withGroup aGroup)
    match dueOp p0 m (.cmd 0 0) c with
    | some x => x.stage == 0 && !txnsOut m x.useR && collTurn m x && !x.memFail && !winsMove m x &&
        ((findOp (collCheck p0 m x) x.ctx x.owner).isNone ||
          (findOp (collCheck p0 m x) x.ctx x.owner).any fun y => y.stage == 1)
    | none => false) = true := by decide +kernel
theorem wit_CollectivesAnswer_later : [opA2a, opA2av, opReduce, opBarrier].all (fun c =>
    (dueOp p0 (withRun { rColl c with stage := 2 } (withGroup aGroup)) (.cmd 0 0) c).any fun x => x.stage == 2) = true := by
  decide +kernel
theorem wit_CollectivesAnswer_start : let m := withRun (rColl opBarrier) (withGroup aGroup)
    (match dueOp p0 m (.cmd 0 0) opBarrier with
     | some x =>
       let y := { x with stage := 1 }
       !txnsOut m y.useR && collTurn m y && !y.memFail && (collLate m y (heldGroup m y)).isNone &&
         !winsMove m y && (heldGroup m y).any fun g => !groupLacks y g && (countsBad m y g).isNone
     | none => false) = true := by decide +kernel
def rForm (opc : Nat) : Running := { run opc [(16, 0x4000)] with stage := 1 }
/-- A group image: handle 2, job 5, epoch 7, members 0 and 1. -/
def mForm (opc flags : Nat) (m : Mach) : Mach := putHost (withRun (rForm opc) (regs [(Reg.ctxCtl 0, 0x80000005)] m)) 0x4000
  (leBytes 72 (2 + 5 * 2 ^ 16 + flags * 2 ^ 24 + 7 * 2 ^ 32 + 2 * 2 ^ 64 + 2 ^ (8 * 68)))
theorem wit_GroupFormationAnswers_form : let m := mForm 0x14 0 (withGroup aGroup { m0 with coll := {} } |> fun m => { m with coll := {} })
    dueCmd p0 m 0 0 0x14 = some (rForm 0x14) ∧ (rForm 0x14).stage = 1 ∧
    imageFault p0 m 0 false (readImage (hostBytes m 0x4000 72)) = none ∧
    formable m (readImage (hostBytes m 0x4000 72)).handle = true ∧
    (imageFault p0 m 1 false (readImage (hostBytes m 0x4000 72))).isSome = true := by decide +kernel
theorem wit_GroupFormationAnswers_dissolve : let m := mForm 0x15 2 (withGroup aGroup)
    dueCmd p0 m 0 0 0x15 = some (rForm 0x15) ∧
    imageFault p0 m 0 true (readImage (hostBytes m 0x4000 72)) = none ∧
    (readImage (hostBytes m 0x4000 72)).dissolve = true := by decide +kernel
/-- A whole packet of one flit: header bytes by place. -/
def pkt (vc : Nat) (fs : List (Nat × Nat)) (mgmt : Bool := false) : RxPkt :=
  { src := 1, vc := vc, ptag := 0, mgmt := mgmt, fsn := 0, link := 0, firstAt := 0, lastPos := some 0,
    parts := [(0, BitVec.ofNat 1920 (fs.map fun f => f.2 * 2 ^ (8 * f.1)).sum)] }
def withRx (x : RxPkt) (m : Mach := m0) : Mach := { m with net := { m.net with rx := [x] } }
def gForming : Group := { aGroup with forming := some { acc := 0, crc := 0 } }
theorem wit_GroupFormationAnswers_join : let x := pkt 3 [(0, 2), (3, kindJoin), (4, 1), (22, 4), (18, 0x48674BC7)]
    let m := withRx x (withGroup gForming)
    findColl m kindJoin (formPick m) = some x ∧ isDuplicate m x = false ∧ pkCrcOk (rxBytes x) = true ∧
    groupOf (crcPass (acceptAck p0 m x) x.src) (pk (rxBytes x) 0 1) = some gForming ∧ pk (rxBytes x) 4 7 = gForming.epoch ∧
    pk (pkData (rxBytes x)) 0 3 = 0 := by decide +kernel
theorem wit_GroupFormationAnswers_ack : let x := pkt 3 [(0, 2), (3, kindAck), (4, 1)]
    let m := withRx x (withGroup gForming)
    findColl m kindAck (formPick m) = some x ∧ isDuplicate m x = false ∧ pkCrcOk (rxBytes x) = true ∧ pk (rxBytes x) 3 3 ≠ kindNak ∧
    groupOf (crcPass (acceptAck p0 m x) x.src) (pk (rxBytes x) 0 1) = some gForming ∧ pk (rxBytes x) 4 7 = gForming.epoch := by
  decide +kernel
def pRelay : Part := { relay := true }
theorem wit_GroupFormationAnswers_tree : let x := pkt 3 [(0, 2), (3, kindSet), (4, 1)]
    let y := pkt 3 [(0, 2), (3, kindFree), (4, 1)]
    pRelay.relay = true ∧ findColl (withRx x) kindSet (fun _ => true) = some x ∧ isDuplicate (withRx x) x = false ∧
    pkCrcOk (rxBytes x) = true ∧ (withRx x).coll.redResv = [] ∧
    (crcPass (acceptAck pRelay (withRx x) x) x.src).coll.redResv = [] ∧
    findColl (withRx y) kindFree (fun _ => true) = some y ∧ isDuplicate (withRx y) y = false ∧
    pkCrcOk (rxBytes y) = true := by decide +kernel
theorem wit_BarriersAndAbortsAnswer_arrive : let m := withIn (in0 0x62 [(0, 2), (4, 1)]) (withGroup aGroup)
    (match takeRecord m 0x62 with
     | some (r, m) => groupOf m (bytesOf r.bytes 0 1) == some aGroup && aGroup.rank r.src == some 1 &&
         bytesOf r.bytes 4 7 == aGroup.epoch && myRank p0 m aGroup == 0 && bitsOf r.bytes 83 64 == aGroup.bar.bseq
     | none => false) = true := by decide +kernel
def gHere : Group := { aGroup with bar := { here := some 0, releaseAt := some 0 } }
theorem wit_BarriersAndAbortsAnswer_release : let m := withIn (in0 0x63 [(0, 2), (4, 1)]) (withGroup gHere)
    (match takeRecord m 0x63 with
     | some (r, m) => groupOf m (bytesOf r.bytes 0 1) == some gHere && bytesOf r.bytes 4 7 == gHere.epoch &&
         bitsOf r.bytes 83 64 == gHere.bar.bseq && gHere.bar.here == some (bitsOf r.bytes 87 84)
     | none => false) = true ∧ groupOf m 2 = some gHere ∧ gHere.bar.releaseAt = some 0 ∧ 0 ≤ m.tick.time ∧ gHere.bar.here ≠ none := by
  decide +kernel
def gOp (opc : Nat) : Group := { aGroup with op := some { owner := .cmd 0, opc := opc, opseq := 0, att := 0, sentN := 1 } }
theorem wit_BarriersAndAbortsAnswer_abort : let m := withIn (in0 0x40 [(0, 2), (3, 4), (4, 1)]) (withGroup (gOp opA2a))
    (match takeRecord m 0x40 with
     | some (r, n) =>
       let m := setEvt p0 (bump p0 n Reg.collAbortRx 1) Reg.collPage 0
       groupOf m (bytesOf r.bytes 0 1) == some (gOp opA2a) && bytesOf r.bytes 4 7 == 1 && bytesOf r.bytes 12 15 == 0 &&
         !isRerun (bytesOf r.bytes 3 3) && bitsOf r.bytes 19 16 == 0
     | none => false) = true := by decide +kernel
theorem wit_BarriersAndAbortsAnswer_stall : let m := { withGroup (gOp opA2a) (withCtx { aCtx with phase := 1 }) with
      tick := { m0.tick with time := 10 ^ 15 } }
    let m := withCtx { aCtx with phase := 1 } m
    (groupOf m 2 == some (gOp opA2a) && (gOp opA2a).op.any fun o => !o.suspended && !o.entered &&
      decide (o.lastAt + 1000 * fsPerNs * rdF p0 m Reg.collTmo 31 16 ≤ m.tick.time)) = true ∧
    (ctxOf m 0).phase = 1 ∧ (ctxOf m 0).saveAt + 1000 * fsPerNs * rdF p0 m Reg.collTmo 15 0 ≤ m.tick.time := by
  decide +kernel
/-- A collective packet of a kind for the operation that group 2 runs, of n data bytes. -/
def cPkt (kind opc : Nat) (n : Nat := 0) : RxPkt := pkt 3 [(0, 2), (3, kind), (4, 1), (22, n), (36, opc)]
/-- Context 0 runs the operation of group 2 with windows 0 and 1; a reduction is of 8 elements. -/
def mColl (kind opc : Nat) (n : Nat := 0) : Mach :=
  let r : Running := { rColl opc with
    wins := [0x8000000000010000, 1, 0x8000000000020000, 1], stage := 2
    desc := some (BitVec.ofNat 512 (2 + opc * 2 ^ 8 + 2 * 2 ^ 64 + (if opc = opReduce then 8 * 2 ^ 96 else 0))) }
  withRx (cPkt kind opc n) (withRun r (withGroup (gOp opc)))
/-- `collTaken` and `dstReady` as a test, and what the operation has to be. -/
def taken (kind opc : Nat) (f : Mach → RxPkt → OpCtx → CollOp → Bool) : Bool :=
  let m := mColl kind opc
  let x := cPkt kind opc
  m.net.rx.head? == some x && x.vc == 3 && !x.mgmt && rxStarted x && rxWhole x && pk (rxBytes x) 3 3 == kind &&
    decide (collVerdict m x = .take) && groupOf m (pk (rxBytes x) 0 1) == some (gOp opc) &&
    match findOp m 0 (.cmd 0), (gOp opc).op with
    | some o, some op => !txnsOut m o.useW && !dstMoves m o && f m x o op
    | _, _ => false
theorem wit_CollectiveDataAnswers_data : taken kindData opA2a (fun m x o _ =>
    dstHolds m o (o.cDst + pk (rxBytes x) 24 31) (pkLen (rxBytes x))) = true := by decide +kernel
theorem wit_CollectiveDataAnswers_down : p0.relay = false ∧ taken kindRedDown opReduce (fun _ x o _ =>
    decide ((gOp opReduce).c0 ≤ pk (rxBytes x) 8 11) && decide (pk (rxBytes x) 8 11 - (gOp opReduce).c0 < o.chunks)) = true := by
  decide +kernel
theorem wit_CollectiveDataAnswers_ag : taken kindAg opReduce (fun _ x o _ => decide (pk (rxBytes x) 8 11 < o.chunks)) = true := by
  decide +kernel
theorem wit_CollectiveDataAnswers_counts : taken kindCounts opA2av (fun _ _ _ _ => true) = true := by decide +kernel
/-- A packet of data is being written; one of none has been. -/
theorem wit_CollectiveDataAnswers_write : [(16, true), (0, false)].all (fun (n, out) =>
    let x := cPkt kindData opA2a n
    let m := mColl kindData opA2a n
    match findOp m 0 (.cmd 0) with
    | some o =>
      let q := putFlits p0 m x o 0
      !opFailed q.1 o && txnsOut q.1 o.useW == out && (out || rxWhole (freeFlits q.1 q.2 q.2.put.contains).2)
    | none => false) = true := by decide +kernel
def aResv : RedResv := { handle := 2, epoch := 1, base := 0, w := 4, parent := none, children := [1] }
/-- A relay that holds a slot of two children, with their contributions or without. -/
def mRed (x : RxPkt) (z : List (Nat × RedSlot) := []) : Mach :=
  { withRx x with coll := { m0.coll with redResv := [{ aResv with children := [1, 5] }], redSlots := z } }
def aRed (folded : Nat) : RedSlot := { epoch := 1, att := 0, chunk := 0, fmt := 0, elems := 0, folded := folded }
theorem wit_CollectiveDataAnswers_relay : [(kindRedUp, 0), (kindRedUp, 1), (kindRedDown, 0)].all (fun (k, child) =>
    let x := pkt 3 [(0, 2), (3, k), (4, 1), (14, child)]
    !isDuplicate (mRed x) x && (resvOf (mRed x) 0).isSome && findRed pRelay (mRed x) k == some x &&
      pk (rxBytes x) 14 14 == child && decide (redCase (mRed x) x = .fresh)) = true := by decide +kernel
/-- A further contribution of child 1 where none or one is folded, and one of child 0 that comes again. -/
theorem wit_CollectiveDataAnswers_more : [(kindRedUp, 0, 0), (kindRedUp, 1, 1), (kindRedUp, 0, 1), (kindRedDown, 0, 0)].all
    (fun (k, child, folded) =>
    let x := pkt 3 [(0, 2), (3, k), (4, 1), (14, child)]
    let m := mRed x [(0, aRed folded)]
    findRed pRelay m k == some x && decide (redCase m x = .more) && (slotOf m 0).any fun z =>
      z.folded == folded && z.downOut.isNone) = true := by decide +kernel
theorem wit_CollectiveDataAnswers_complete : (placement pRelay m0 .combine).isSome = true ∧
    (aRed 1).folded = aResv.children.length ∧ (aRed 1).downOut = none ∧ aResv.parent = none ∧
    { aResv with parent := some 4 }.parent = some 4 := by decide +kernel
theorem wit_CollectiveDataAnswers_ring : taken kindRs opReduce (fun m x o op =>
    partialReady p0 m o op (rxBytes x) &&
      let n := crcPassed m 2 x.src
      let src := chunkSrc o op 2 (myRank p0 n (gOp opReduce)) (pk (rxBytes x) 8 11)
      match xfWin m o (o.winNo 0), xfWin n o (o.winNo 0) with
      | some w, some v => w == v && (winBad n o.ctx w src.1 src.2).isNone && (placement p0 n .combine).isSome &&
          (partialOps p0 m).all fun a => !opBefore p0 m a o
      | _, _ => false) = true := by decide +kernel
theorem wit_CollectiveDataAnswers_filter : [(opA2a, kindData, [kindData]), (opA2av, kindCounts, [kindCounts]),
    (opReduce, kindAg, [kindAg]), (opReduce, kindRedDown, [kindRedDown]), (opReduce, kindJoin, [kindJoin]),
    (opReduce, kindAck, [kindAck, kindNak]), (opReduce, kindSet, [kindSet]), (opReduce, kindFree, [kindFree])].all
    (fun (opc, k, kinds) => oldestColl (mColl k opc) kinds == some (cPkt k opc) && storesUp p0 (mColl k opc) &&
      !(cPkt k opc).taken) = true := by decide +kernel

/-! ### Fabric memory, swaps, self-tests -/

def rBatch : Running := run 0x20 [(32, 1)]
theorem wit_FabricCommandsAnswer_batch : groupCopies (withRun rBatch) 0 = false ∧ dueCmd p0 (withRun rBatch) 0 0 0x20 = some rBatch ∧ rBatch.stage = 0 ∧
    rBatch.memFail = false ∧ txnsOut (withRun rBatch) (.cmdRead rBatch.acc) = false ∧ { rBatch with stage := 1 }.stage = 1 := by
  decide +kernel
/-- A FENCE over one WRITE that has failed, or not yet. -/
def mFence (f : Option Nat) : Mach :=
  let r : Running := { run 0x21 with n := 1 }
  let m := withRun r
  { m with cmd := { m.cmd with writes := [{ ctx := 0, node := 0, acc := 0, idx := 0, pkt := 0, order := 0, failed := f }] } }
theorem wit_FabricCommandsAnswer_fence : dueCmd p0 (mFence none) 0 0 0x21 = some { run 0x21 with n := 1 } ∧
    (mFence none).cmd.writes.length = 1 ∧ (∃ k ∈ (mFence none).cmd.writes, k.failed = none) ∧
    ∀ k ∈ (mFence (some 0x33)).cmd.writes, k.failed ≠ none := by
  refine ⟨by decide +kernel, rfl, ⟨_, List.mem_singleton_self _, rfl⟩, ?_⟩
  intro k hk
  rw [List.mem_singleton.mp hk]
  simp
theorem wit_FabricCommandsAnswer_requests : [0x22, 0x23, 0x24, 0x25].all (fun c =>
    dueCmd p0 (withRun (run c)) 0 0 c == some (run c) && (run c).stage == 0 &&
      decide ((withRun (run c)).fab.subsOwn.length + subscribing (withRun (run c)) < 4096)) = true := by decide +kernel
/-- A region of 4 KiB at 0x10000 that all may use, in force. -/
def aRegion (owner : Option Nat := none) : Region :=
  { ctrl := 0xBC00000000000000, base := 0x10000, len := 4096, key := 1, owner := owner }
def mFab (x : RxPkt) (owner : Option Nat := none) : Mach := setRegion (withRx x (withStep aStep)) 2 (aRegion owner)
def fPkt (kind op len : Nat) : RxPkt := pkt 4 [(0, 2), (2, kind), (3, op), (4, 5), (8, 1), (24, len)]
theorem wit_FabricServiceAnswers_seen : (fPkt kWrite 2 64).seen = none := rfl
theorem wit_FabricServiceAnswers_begin : (let x := fPkt kWrite 2 64
    let z := seeRx p0 (mFab x) x
    findServe (mFab x) kWrite == some x && !x.taken && !isDuplicate (mFab x) x && (seenOf p0 z.1 z.2).reason == 0 &&
      !lineHeld z.1 z.2) = true ∧ (let x := fPkt kRead 1 64
    findOther (mFab x) kRead == some x && !x.taken && (fabSee p0 (mFab x) x).reason == 0) = true := by decide +kernel
theorem wit_FabricServiceAnswers_end : [(kWrite, none), (kWrite, some 7), (kRead, none), (kAtomic, none)].all (fun (k, e) =>
    let x := { fPkt k (if k = kWrite then 2 else 1) 0 with taken := true, seen := some ⟨0, stDone, 0x10000, e, true⟩ }
    (if k = kRead then findOther (mFab x) k else findServe (mFab x) k) == some x && !serveFailed (mFab x) x &&
      (seenOf p0 (mFab x) x).evt == e) = true ∧ systemCopies p0 (mFab (fPkt kAtomic 1 0)) = false := by decide +kernel
theorem wit_FabricServiceAnswers_lost : (let x := fPkt kWrite 2 64
    engineUp (mFab x) && !isFatal p0 (mFab x) && readsEntry p0 (mFab x) x && findServe (mFab x) kWrite == some x &&
      !isDuplicate (mFab x) x) = true ∧ [(kRead, 1, 64), (kSub, 0, 64), (kPub, 0, 64), (kOwnReq, 0, 0), (kOwnRel, 0, 0)].all (fun (k, op, len) =>
    let x := fPkt k op len
    readsEntry p0 (mFab x) x && findOther (mFab x) k == some x) = true ∧ (let x := fPkt kAtomic 0x11 0
    readsEntry p0 (mFab x) x && !systemCopies p0 (mFab x) && findServe (mFab x) kAtomic == some x &&
      atomicChecks (mFab x) x) = true := by decide +kernel
theorem wit_FabricServiceAnswers_reply : let x := fPkt kAtomic 1 0
    let m := setFilter (mFab x) x.src x.vc (filterFsn (filterOf (mFab x) x.src x.vc) x.fsn).2
    let z := seeRx p0 (replyLost p0 m x.src x.fsn 0) x
    engineUp m = true ∧ isFatal p0 m = false ∧ systemCopies p0 m = false ∧
    findServe m kAtomic = some x ∧ x.taken = false ∧ isDuplicate m x = true ∧ p0.relay = false ∧
    findServe (replyLost p0 m x.src x.fsn 0) kAtomic = some x ∧ lineHeld z.1 z.2 = false := by decide +kernel
theorem wit_FabricServiceAnswers_subscriptions :
    [(kSub, 0), (kSub, 1), (kPub, 0)].all (fun (k, op) =>
      let x := fPkt k op 64
      findOther (mFab x) k == some x && fabCheck p0 (mFab x) x.src (rxBytes x) == (0, stDone) &&
        (mFab x).fab.subsHome.length == 0) = true := by decide +kernel
theorem wit_OwnershipAndAnswers_inval : let x := fPkt kInval 0 64
    let y := { x with taken := true }
    findOther (mFab x) kInval = some x ∧ x.taken = false ∧ isDuplicate (mFab x) x = false ∧
    (readFab (rxBytes x)).op % 2 = 0 ∧ findOther (mFab y) kInval = some y ∧ y.taken = true := by decide +kernel
theorem wit_OwnershipAndAnswers_request : let x := fPkt kOwnReq 0 0
    findOther (mFab x) kOwnReq = some x ∧ fabCheck p0 (mFab x) x.src (rxBytes x) = (0, stDone) ∧
    (regionOf (mFab x) 2).owner = none ∧ (regionOf (mFab x (some 9)) 2).owner = some 9 ∧ 9 ≠ x.src ∧
    (mFab x (some 9)).fab.waiters = [] := by decide +kernel
theorem wit_OwnershipAndAnswers_release : let x := fPkt kOwnRel 0 0
    findOther (mFab x) kOwnRel = some x ∧ fabCheck p0 (mFab x) x.src (rxBytes x) = (0, stDone) ∧
    (regionOf (mFab x (some 1)) 2).owner = some x.src ∧ (regionOf (mFab x) 2).owner ≠ some x.src := by decide +kernel
theorem wit_OwnershipAndAnswers_grant : let x := fPkt kOwnGrant 0 0
    let m := withRun { run 0x24 [(16, 1), (18, 2)] with stage := 1 } (mFab x)
    m.net.rx.find? (fun x => isFab x kOwnGrant) = some x ∧ isDuplicate m x = false ∧
    (acquiring (acceptAck p0 m x) x.src (readFab (rxBytes x)).region).length = 1 := by decide +kernel
def outPkt (use : FlowUse) (vc : Nat := 4) (resends : Nat := 0) : Outst :=
  { dest := 1, vc := vc, fsn := 0, body := [], ctx := 0, use := use, sentAt := 0, resends := resends }
theorem wit_OwnershipAndAnswers_resp : let x := fPkt kResp 0 0
    [FlowUse.cmd 0 0, .verb 0 0 0 0].all (fun u =>
      let m := { mFab x with net := { (mFab x).net with outst := [outPkt u] } }
      m.net.rx.find? (fun x => isFab x kResp) == some x &&
        !groupCopies m 0 && (findOut m x.src 4 (readFab (rxBytes x)).rfsn).any fun o => o.use == u) = true := by decide +kernel
theorem wit_FabricRegistersAnswer_lock : let m := { regs [(Reg.fabLockCtrl, 0x100000000)] with
      fab := { m0.fab with locks := [(9, { locked := true })] }, tick := { m0.tick with time := 10 ^ 12 } }
    (lockOf m 9).locked = true ∧ rdF p0 m Reg.fabLockCtrl 47 32 ≠ 0 ∧
    (lockOf m 9).start + 1000000000000 * rdF p0 m Reg.fabLockCtrl 47 32 ≤ m.tick.time ∧
    Reaches (st m) .host Reg.fabLockClr ∧ bitOf (0x1000 : Word) 12 = true ∧ bitOf (9 : Word) 12 = false ∧
    bitsOf (9 : Word) 11 0 = 9 := by decide +kernel
theorem wit_FabricRegistersAnswer_force : Reaches (st (mFab (fPkt 0 0 0) (some 9))) .host Reg.fabDuxForce ∧
    (regionOf (mFab (fPkt 0 0 0) (some 9)) (bitsOf (2 : Word) 15 0)).owner ≠ none := by decide +kernel
/-- Region 2 of the window, its register k. -/
def regAddr (k : Nat) : Nat := 0xC0040 + 8 * k
theorem wit_FabricRegistersAnswer_entry : [0, 1, 2, 3].all (fun k =>
    inRegionWin (regAddr k) && decide (Reaches (st m0) .host (regAddr k)) && regionAt p0 m0 (regAddr k) == (2, k)) = true ∧
    ctrlRefused (regionOf m0 2) 0 = false ∧ bitOf (0 : Word) 57 = false ∧ bitOf (0x200000000000000 : Word) 57 = true ∧
    ctrlRefused (regionOf m0 2) 0x200000000000000 = false ∧ regAddr 0 % 32 = 0 ∧
    ctrlRefused (regionOf m0 2) 0x8000000000000000 = true ∧ (regionOf m0 2).v = false := by decide +kernel
theorem wit_FabricRegistersAnswer_tail : 7 < 8 ∧ Reaches (st m0) .host (Reg.ctxFabIringTail 7) := by decide +kernel
def rSave (stage : Nat) : Running := { run 0x60 [(16, 0), (24, 0x10000)] 8 with stage := stage }
theorem wit_SwapsAnswer_save : let m := withRun (rSave 0) (withStep aStep)
    dueCmd p0 m 8 0 0x60 = some (rSave 0) ∧ ctxDefined p0 m (swapCtx (rSave 0).line) = true ∧
    (ctxOf m 0).resident = true ∧ (ctxOf m 0).phase = 0 ∧ (ctxOf (withRun (rSave 0)) 0).resident = false := by decide +kernel
theorem wit_SwapsAnswer_phases : [(2, false), (2, true), (3, false), (3, true), (4, false)].all (fun (ph, fails) =>
    let r := { rSave 2 with memFail := fails }
    let m := withCtx { aCtx with phase := ph } (withRun r)
    dueCmd p0 m 8 0 0x60 == some r && r.stage == 2 && !groupCopies m 0 && !txnsOut m (.cmdWrite r.acc) &&
      (ctxOf m 0).phase == ph && !spillsOut m 0 &&
      (ph != 2 || fails || !(imageOut p0 m 0 (swapArea r.line) (.cmdWrite r.acc)).1)) = true := by decide +kernel
theorem wit_SwapsAnswer_drain : let m := withCtx { aCtx with phase := 1 } (withRun (rSave 1))
    engineUp m = true ∧ isFatal p0 m = false ∧ (ctxOf m 0).phase = 1 ∧ drained m 0 = true ∧
    queueFits p0 m (ctxOf m 0).slot 0 = true ∧ savingCmd m 0 = some (rSave 1) := by decide +kernel
/-- Context 0 defined, with a partition of group 16 and 64 buffers of class 0. -/
def mDef : Mach := regs [(Reg.ctxCtl 0, 0x80010005), (Reg.kilnPart 0, 0x100010000), (Reg.kilnCarveLo 0, 0x40)]
theorem wit_SwapsAnswer_restore : let r := run 0x61 [] 8
    dueCmd p0 (withRun r mDef) 8 0 0x61 = some r ∧ r.stage = 0 ∧ (ctxOf mDef (swapCtx r.line)).phase ≠ 5 ∧
    swapArea r.line = 0 ∧ partCopies p0 (withRun r mDef) 0 = false ∧ restoreCheck p0 (withRun r mDef) 0 none = 0 ∧ restoreCheck p0 (withRun r) 0 none ≠ 0 := by
  decide +kernel
theorem wit_SwapsAnswer_restoreImage : let r : Running := { run 0x61 [(24, 0x10000)] 8 with stage := 1 }
    dueCmd p0 (withRun r mDef) 8 0 0x61 = some r ∧ swapArea r.line ≠ 0 ∧
    partCopies p0 (withRun r mDef) 0 = false ∧ txnsOut (withRun r mDef) (.cmdRead r.acc) = false := by decide +kernel
theorem wit_SwapsAnswer_kill : let r := run 0x62 [] 8
    let q : Running := { r with stage := 2 }
    let z : Running := { r with stage := 1 }
    dueCmd p0 (withRun z mDef) 8 0 0x62 = some z ∧ writeBackRuns (withRun z mDef) 0 = false ∧
    dueCmd p0 (withRun r mDef) 8 0 0x62 = some r ∧ ctxDefined p0 (withRun r mDef) 0 = true ∧
    (withRun r mDef).run.autoSwap = none ∧ (ctxOf (withRun r mDef) 0).phase < 2 ∧
    dueCmd p0 (withRun q mDef) 8 0 0x62 = some q ∧ headReached p0 (withRun q mDef) 0 q.n = true := by decide +kernel
theorem wit_SwapsAnswer_ctl : 7 < 8 ∧ Reaches (st m0) .host (Reg.ctxCtl 7) ∧ ctlRefused p0 m0 7 0x80000005 = true ∧
    ctlRefused p0 m0 7 0x80010005 = false ∧ bitOf (0x80010005 : Word) 28 = false ∧
    ctlRefused p0 mDef 0 0x90010005 = false ∧ bitOf (0x90010005 : Word) 28 = true ∧ ctxDefined p0 mDef 0 = true := by
  decide +kernel
/-- Contexts 0 to 3 resident and waiting, context 4 runnable, for the hold time. -/
def mAdvice : Mach :=
  let m := regs (((List.range 5).map fun c => (Reg.ctxCtl c, wordOf (0xA0010005 + c))) ++ [(Reg.schedCtrl, 0x100)])
  { m with
    run := { m.run with
      ctxs := ((List.range 4).map fun i => (i, { resident := true, slot := i })) ++ [(4, { image := true, staging := [anEntry 0] })],
      adviceSince := some 0 },
    tick := { m.tick with time := 10 ^ 12 } }
theorem wit_SwapsAnswer_advice : let m := trackAdvice p0 mAdvice
    m.run.adviceSince = some 0 ∧ m.run.adviceGiven = false ∧ engineUp m = true ∧ isFatal p0 m = false ∧
    0 + 1000000000 * rdF p0 m Reg.schedCtrl 23 8 ≤ m.tick.time := by decide +kernel
def rBist (u i : Nat) : Running := run 0x70 [(16, u), (17, i)] 8
theorem wit_SelfTestsAnswer_hearth : dueCmd p0 (withRun (rBist 1 0)) 8 0 0x70 = some (rBist 1 0) ∧ (rBist 1 0).stage = 0 ∧
    bistUnit (rBist 1 0).line = 1 ∧ bistHearthCheck p0 (withRun (rBist 1 0)) (bistIndex (rBist 1 0).line) = none ∧
    (∀ i < hearthCount p0.conf, (hearthOf (withRun (rBist 1 0)) i).bist = false) ∧
    (bistHearthCheck p0 (withRun (rBist 1 200)) 200).isSome = true := by decide +kernel
theorem wit_SelfTestsAnswer_kiln : dueCmd p0 (withRun (rBist 2 9)) 8 0 0x70 = some (rBist 2 9) ∧
    bistUnit (rBist 2 9).line = 2 ∧ bistKilnCheck p0 (withRun (rBist 2 9)) (bistIndex (rBist 2 9).line) = none ∧
    (withRun (rBist 2 9)).run.kilnSt.bist = none := by decide +kernel
theorem wit_SelfTestsAnswer_ends : let m := lateTick (setHearth m0 3 { bist := true, bistAt := 5 }) 150000
    engineUp m = true ∧ (hearthOf m 3).bist = true ∧ (hearthOf m 3).bistAt + 512 + 147456 + 512 ≤ m.tick.cycle := by
  decide +kernel
theorem wit_SelfTestsAnswer_kilnEnds : let m := lateTick { m0 with run := { m0.run with kilnSt := { bist := some 9 } } } 57344
    engineUp m = true ∧ m.run.kilnSt.bist = some 9 ∧ m.run.kilnSt.bistAt + 4096 + 49152 + 4096 ≤ m.tick.cycle := by
  decide +kernel
theorem wit_SelfTestsAnswer_cal : let r := run 0x71 [(24, 1)] 8
    dueCmd p0 (withRun r) 8 0 0x71 = some r ∧ r.stage = 0 ∧
    ∀ l ∈ maskList (bytesOf r.line 24 31 % 2 ^ 36) 36, (linkOf (withRun r) l).meas = none := by decide +kernel
theorem wit_SelfTestsAnswer_snapshot : let r := run 0x78 [(16, 0x4000)] 8
    let q : Running := { r with stage := 1 }
    dueCmd p0 (withRun r) 8 0 0x78 = some r ∧ dueCmd p0 (withRun q) 8 0 0x78 = some q ∧ q.memFail = false ∧
    txnsOut (withRun q) (.cmdWrite q.acc) = false := by decide +kernel

/-! ### Scoring, dispatch, experts, combining -/

/-- A context with a map of two experts, on nodes 0 and 1, and a partition with buffers of every class. -/
def rich : Ctx :=
  { aCtx with
    tables := { maps := [(0, { experts := 2, entries := [[⟨true, 0, 0⟩], [⟨true, 1, 0⟩]] })] },
    groups := [16], tblUnits := 1, carve := [64, 8, 8, 8, 8, 1, 1, 1] }
/-- Node 0 runs a step of that context, its layer phase 0 as given. -/
def mRun (x : LayerPhase := {}) (c : Ctx := rich) (t : Line := aTmpl) : Mach :=
  let m := regs ([(Reg.ctxCtl 0, 0x80000005), (Reg.routeNodeId, 0), (Reg.ctxEmberQuota 0, 100), (Reg.ctxDispCtrl 0, 0x108)] ++
    (List.range 7).map fun i => (Reg.ctxQuota 0 i, (1000 : Word)))
  withCtx c { m with run := { m.run with step := some { aStep with
    prog := { aProg with templates := [t] }, phases := [(0, x)] } } }
/-- A record of a kind stands at slot 0 of port 0. -/
def withRec (kind : Nat) (h : Word) (m : Mach := mRun) : Mach :=
  setSlotAt m 0 0 { ready := [{ header := h, beats := [0], need := 1, ctx := 0, kind := kind }] }
/-- What a test says of the record that can be taken there. -/
def takes (m : Mach) (kind : Nat) (f : StepRun → InRec → LayerT → LayerPhase → Bool) : Bool :=
  match takeable p0 m 0 0 kind with
  | some (s, r, l) => f s r l (phaseOf s (headLayer kind r.header))
  | none => false
theorem wit_ScoresAndAdmissionAnswer_score : let m := withRec chScore 0x200000000
    takes m chScore (fun s r l x => !groupCopies m s.ctx && (seatScore p0 m s.ctx 0 (scToken r.header) l.experts).isSome &&
      !x.eob && !scEob r.header && r.fail.isNone && r.code == 0 && scoreReason l x.lastTok r.header == 0 &&
      inputRoom p0 m s.ctx (512 * r.beats.length) && (scoreTables p0 m s l x).isNone &&
      (newGranules p0 m s.ctx (slotGranules l)).isSome) = true := by decide +kernel
theorem wit_ScoresAndAdmissionAnswer_failed : takes (setSlotAt mRun 0 0 { ready :=
    [{ header := 0x200000000, beats := [0], need := 1, ctx := 0, kind := chScore, fail := some stFormat }] }) chScore
    (fun _ r _ x => !x.eob && !scEob r.header && r.fail.isSome) = true := by decide +kernel
theorem wit_ScoresAndAdmissionAnswer_eob : let m := withRec chScore 0x80000000
    takes m chScore (fun s r l x => !x.eob && scEob r.header && inputRoom p0 m s.ctx 512 && r.fail.isNone && r.code == 0 &&
      scoreReason l none r.header == 0) = true := by decide +kernel
/-- A packet of VC1 for layer phase 0: KIND, and MASK. -/
def vc1 (kind : Nat) (dest : Nat := 0) : RxPkt := pkt 1 [(0, 1), (38, 5), (42, dest), (48, kind)]
theorem wit_ScoresAndAdmissionAnswer_flit : let m := withRx (vc1 4) (mRun { admitBound := true })
    (findAdmit p0 m == some (vc1 4) && match arrivalOf p0 (dropRx m (vc1 4)) (lineOf (rxBytes (vc1 4))) with
      | .fits c s => c == 0 && (boundTmpl s laneScore 0).isSome
      | _ => false) = true := by decide +kernel
/-- The template with CAP_MODE GLOBAL_ADMIT, of one node. -/
def admitTmpl : Line := aTmpl + BitVec.ofNat 512 (2 * 2 ^ 32) - BitVec.ofNat 512 (2 ^ 208)
theorem wit_ScoresAndAdmissionAnswer_verdicts : let x : LayerPhase :=
      { admitBound := true, closes := [{ node := 0, pkey := 0, expert := 0, kind := adClose, phase := adOffers }] }
    let m := mRun x rich admitTmpl
    (match liveStep m with
     | some s => (boundTmpl s laneScore 0).any fun l => usesAdmit l && (phaseOf s 0).admitBound &&
         !(phaseOf s 0).verdictsSent && allClosed (phaseOf s 0) l adOffers (phaseOf s 0).gotOffers
     | none => false) = true ∧ engineUp m = true ∧ isFatal p0 m = false := by decide +kernel
theorem wit_ScoresAndAdmissionAnswer_grant : let m := withIn (in0 0x14 [(7, 5)]) mRun
    (match takeRecord m 0x14 with
     | some (r, m) => (creditTarget p0 m r.bytes).isSome && match stepOfCtx m 0 with
       | some s => !(keyOfStep s (recKey r.bytes) && admitClosed (phaseOf s (recKey r.bytes).layer) r.src)
       | none => true
     | none => false) = true := by decide +kernel
def aTok : Tok := { token := 0, decided := true, ranks := [{ expert := 0, rkey := 0, weight := 0 }] }
theorem wit_PackAndSendAnswer_token : let m := withRec chToken (128 * 2 ^ 32) (mRun { toks := [aTok] })
    takes m chToken (fun s r l x => !groupCopies m s.ctx &&
      let area := (beatBytes r.beats).take (areaLen (tkFmt r.header) l.hidden 64)
      (x.toks[x.paired]?).isSome && aTok.decided && r.fail.isNone && tokenCheck l aTok r area == 0 &&
        inputRoom p0 m s.ctx (512 * r.beats.length) && (landStage p0 m r area.length).isSome)
      = true := by decide +kernel
theorem wit_PackAndSendAnswer_encode : let t : Tok := { aTok with final := true, landed := some (128 * 2 ^ 32, List.replicate 512 0) }
    let m := mRun { toks := [t] }
    (match liveStep m with
     | some s => (boundTmpl s lanePack 0).any fun l => laneOpenAt s lanePack 0 &&
         (((phaseOf s 0).toks.filter fun t => t.decided && t.final && !t.packed).findSome? (packItem p0 m s 0 l .clean)).isSome
     | none => false) = true ∧ engineUp m = true ∧ isFatal p0 m = false := by decide +kernel
theorem wit_PackAndSendAnswer_close : let m := mRun { eob := true }
    (match liveStep m with
     | some s => (boundTmpl s laneSend (laneOf s laneSend).layer).any fun l => laneOpenAt s laneSend 0 && l.nodes.contains 1 &&
         packFinished (phaseOf s 0) && (headBillet (phaseOf s 0) 1).isNone && !(phaseOf s 0).closeSent.contains 1 &&
         !(phaseOf s 0).unreach.contains 1
     | none => false) = true ∧ engineUp m = true ∧ isFatal p0 m = false := by decide +kernel
def aBillet : Billet := { header := BitVec.ofNat 512 (1 + 5 * 2 ^ 304 + 2 ^ 336), token := 0, dest := 1, cls := 0, code := [], buf := none }
theorem wit_PackAndSendAnswer_ask : let m := mRun { sendQ := [aBillet] }
    (match liveStep m with
     | some s => askPhase p0 m s 1 == some (0, aBillet) && (bestCredit (ctxOf m 0) (keyOf s 0) 1 0).isNone &&
         !(ctxOf m 0).asked.contains (1, keyOf s 0)
     | none => false) = true := by decide +kernel
theorem wit_PackAndSendAnswer_credit : [0x11, 0x12, 0x13].all (fun k =>
    match takeRecord (withIn (in0 k [(7, 5)]) mRun) k with
    | some (r, m) => creditTarget p0 m r.bytes == some 0
    | none => false) = true := by decide +kernel
theorem wit_ExpertsAnswer_billet : [false, true].all (fun t =>
    let x := { vc1 0 with taken := t }
    let m := withRx x mRun
    m.net.rx.find? (billetDue p0 m) == some x && (t || match recvCase p0 m (rxHeader x) with
      | .item c _ => !groupCopies m c.ctx && (placement p0 m .packer).isSome
      | _ => false)) = true := by decide +kernel
theorem wit_ExpertsAnswer_loop : let m := mRun
    let b : Billet := { aBillet with dest := 0 }
    let m := { m with run := { m.run with loopBillets := [(0, b)] } }
    (m.run.loopBillets.find? (fun b => (recvCase p0 m b.2.header).due) == some (0, b) && match recvCase p0 m b.header with
      | .item c _ => !groupCopies m c.ctx && (placement p0 m .packer).isSome
      | _ => false) = true := by decide +kernel
theorem wit_ExpertsAnswer_marker : let m := withRx (vc1 2) mRun
    m.net.rx.find? (fun x => x.vc == 1 && rxWhole x && bhKind (lineOf (rxBytes x)) == 2 &&
      (x.src == nodeId p0 m) == false && (recvCase p0 m (lineOf (rxBytes x))).due) = some (vc1 2) := by decide +kernel
theorem wit_ExpertsAnswer_bitmapLost : billetItem p0 (withRx (vc1 0) mRun) false = some (0, 0) ∧
    groupCopies (withRx (vc1 0) mRun) 0 = false := by decide +kernel
def aRow : RecvBillet := { header := 1, home := 1, token := 0, cls := 0, buf := 0, arrival := 0, code := [] }
/-- A binding of slot 4 of port 0 to context 0 for ricks. -/
def bound (kind : Nat) (m : Mach) : Mach := setSlotAt m 0 4 { bind := wordOf (0x80 + kind) }
theorem wit_ExpertsAnswer_row : let m := bound chRick (mRun { billets := [aRow] })
    (match feedAt p0 m with
     | some (s, l, layer) => (nextRows (phaseOf s layer) l 0).any (fun r => r.1.length == 1) && rickMay p0 m s l layer 0 &&
         !copyBusy m (bufAddr (ctxOf m s.ctx) 0 0) && (placement p0 m .coder).isSome &&
         let z := placeItem p0 m .coder s.ctx (.step layer laneFeed 1 0 0) (feedCycles l [aRow])
         !(kilnRead p0 z (bufAddr (ctxOf z s.ctx) 0 0) .clean (some 0)).1
     | none => false) = true ∧ goesNow p0 m (rickRowDeliver 0 .clean p0 m) = true := by decide +kernel
/-- R11: with one coder left a row waits for the expert's output that wants the same coder. -/
theorem wit_ExpertsAnswer_rowWaits : let x : LayerPhase := { billets := [aRow], rows := [{ slot := 0, home := 1, token := 0 }] }
    let m := (List.range 15).foldl (fun m i => placeItem p0 m .coder 0 (.step 0 laneTake 9 i 0) 9)
      (bound chRick (withRec chExpout (2 ^ 50) (mRun x)))
    goesNow p0 m (expertOutputRecord 0 0 p0 m) = true ∧ goesNow p0 m (rickRowDeliver 0 .clean p0 m) = false := by decide +kernel
theorem wit_ExpertsAnswer_rickEnd : let m := bound chRick (mRun { closedAt := [(0, 1), (1, 2)] })
    (match feedAt p0 m with
     | some (s, l, layer) => (rowsLeft (phaseOf s layer) 0).isEmpty && recvFinished (phaseOf s layer) l &&
         rickMay p0 m s l layer 0
     | none => false) = true := by decide +kernel
theorem wit_ExpertsAnswer_output : let m := withRec chExpout (2 ^ 50) (mRun { rows := [{ slot := 0, home := 1, token := 0 }] })
    takes m chExpout (fun s r l x => !groupCopies m s.ctx && (placement p0 m .coder).isSome && r.fail.isNone && r.code == 0 && takeReason x l r.header == 0 &&
      inputRoom p0 m s.ctx (512 * r.beats.length) && match allocAll p0 s.ctx .take [2] m with
        | some ([(c, _)], _) => c == 2
        | _ => false) = true := by decide +kernel
theorem wit_ExpertsAnswer_tile : let m := withRx (pkt 2 []) mRun
    engineUp m = true ∧ isFatal p0 m = false ∧ m.net.rx.find? (fun x => x.vc == 2 && rxWhole x) = some (pkt 2 []) ∧
    ctxOfJob p0 m (readTile (BitVec.ofNat 256 (leNat ((rxBytes (pkt 2 [])).take 32)))).job = none := by
  decide +kernel
/-- An ember slot of token 0, with one rank whose tile is present or folded. -/
def aSlot (mode next : Nat) : EmberSlot :=
  { granules := [0], key := ⟨0, 0, 0⟩, job := 5, token := 0, mode := mode, nt := 1, hidden := 128, outFormat := 0, wready := true,
    next := [(0, next)],
    ranks := [{ expert := 0, status := rkLive, node := 0, slot := 0, weight := 0, rkey := 0, stage := [(2, 0)],
                tiles := [(0, List.replicate 128 0)] }] }
theorem wit_ExpertsAnswer_fold : let m := mRun {} { rich with embers := [aSlot modeExpert 0] }
    (match meldAt p0 m 0 0 with
     | some (s, layer, e) => e.mode != modeKv && !tileComplete e 0 && match e.ranks[Assoc.get 0 e.next 0]? with
         | some r =>
           let z := placeItem p0 m .combine s.ctx (.step layer laneMeld (nodeId p0 m) 0 0) (foldCount e 0 * foldCycles 128)
           let k := kilnRead p0 z (tileAddr z s.ctx e r 0) .clean (some 0)
           (placement p0 m .combine).isSome && (Assoc.find? r.tiles 0).isSome && !copyBusy m (tileAddr m s.ctx e r 0) &&
             !k.1 && !(emberRead p0 k.2 e.granules .clean).1
         | none => false
     | none => false) = true := by decide +kernel
theorem wit_ExpertsAnswer_stream : (meldAt p0 (mRun {} { rich with embers := [aSlot modeExpert 1] }) 0 0).any (fun q =>
    q.2.2.mode != modeKv && tileComplete q.2.2 0) = true := by decide +kernel
/-- The merge of one live part, and of none. -/
theorem wit_ExpertsAnswer_merge : [rkLive, rkLive + 1].all (fun status =>
    let e := aSlot modeKv 0
    let m := mRun {} { rich with embers := [{ e with ranks := e.ranks.map fun r => { r with status := status } }] }
    (meldAt p0 m 0 0).any (fun (s, layer, e) => e.mode == modeKv && (placement p0 m .combine).isSome &&
      let live := e.ranks.filter fun r => r.status == rkLive
      let z := placeItem p0 m .combine s.ctx (.step layer laneMeld (nodeId p0 m) 0 0) (8 + live.length * foldCycles 128)
      let k := kilnRead p0 z ((live.head?.map fun r => tileAddr m s.ctx e r 0).getD 0) .clean (some 0)
      (live.filterMap (mergePart 0 128)).length == live.length && live.all (fun r => !copyBusy m (tileAddr m s.ctx e r 0)) &&
        (if live.isEmpty then !(emberRead p0 z e.granules .clean).1 else !k.1 && !(emberRead p0 k.2 e.granules .clean).1))) = true := by
  decide +kernel
theorem wit_ExpertsAnswer_accepted : (strmOf (setStrm m0 0 { unaccepted := [.comb 0 ⟨0, 0, 0⟩ 0 0] }) 0).unaccepted
    = [.comb 0 ⟨0, 0, 0⟩ 0 0] := by decide +kernel

/-! ### Ports, memory, faults and the log -/

theorem wit_PortsAnswer_beat : p0.relay = false ∧ 0 < streamCount p0.conf ∧ 3 < 4 ∧ (strmOf m0 0).retired = false ∧
    engineUp m0 = true ∧ bindEn (slotAt m0 0 3).bind = false ∧ bindEn (slotAt (setSlotAt m0 0 3 { bind := 0x81 }) 0 3).bind = true ∧
    bindEn (slotAt (endDropped (setSlotAt m0 0 3 { bind := 0x81 }) 0 3) 0 3).bind = true ∧
    bindEn (slotAt (endDropped m0 0 3) 0 3).bind = false := by decide +kernel
/-- R544: bit 0 of the parity is even over the sideband's, here one bit of the data's first 64. -/
theorem test_beat_parity : beatParity 0 1 ≠ beatParity 0 0 ∧ beatParity 0 3 = beatParity 0 0 := by decide +kernel
theorem wit_PortsAnswer_credit : 0 < streamCount p0.conf ∧ 4 ≤ 7 ∧ 7 < 8 ∧ (strmOf m0 0).retired = false ∧
    engineUp m0 = true := by decide +kernel
def aTxn (write : Bool) : Txn := { id := 0, port := 3, write := write, addr := 0, len := 64, use := .other }
def withTxn (t : Txn) : Mach := { m0 with mem := { m0.mem with txns := [t] } }
/-- A read of 256 bytes: two beats. -/
def aRead (got : Nat) : Txn := { id := 0, port := 3, write := false, addr := 0, len := 256, use := .other, got := got }
theorem wit_PortsAnswer_memory : 3 < memPortCount p0.conf ∧ (memPortOf m0 3).retired = false ∧ m0.sec.power = .lit ∧
    portUp m0 = true ∧ txnOfTag m0 3 0 = none ∧ Assoc.find? (memPortOf m0 3).stale 0 = none ∧
    txnOfTag (withTxn (aTxn true)) 3 0 = some (aTxn true) ∧ (aTxn true).write = true ∧
    txnOfTag (withTxn (aRead 0)) 3 0 = some (aRead 0) ∧ (aRead 0).write = false ∧ (aRead 0).got + 1 < respBeats (aRead 0) ∧
    txnOfTag (withTxn (aRead 1)) 3 0 = some (aRead 1) ∧ respBeats (aRead 1) ≤ (aRead 1).got + 1 := by decide +kernel
theorem wit_PortsAnswer_stale : let m := setMemPort m0 3 { memPortOf m0 3 with stale := [(7, 2)] }
    txnOfTag m 3 7 = none ∧ Assoc.find? (memPortOf m 3).stale 7 = some 2 ∧ portUp m = true ∧ m.sec.power = .lit := by
  decide +kernel
theorem wit_PortsAnswer_timeout : let m := { withTxn (aTxn true) with tick := { m0.tick with time := 10 ^ 15 } }
    m.mem.txns.find? (fun t => t.id == 0) = some (aTxn true) ∧
    (aTxn true).since + 1000 * fsPerNs * rdF p0 m (Reg.mempThresh (aTxn true).port) 31 16 ≤ m.tick.time := by decide +kernel
theorem wit_PortsAnswer_scrub : let m := regs [(Reg.kilnScrub, 0x10000)]
    kilnLines p0 - 1 < kilnLines p0 ∧ engineUp m = true ∧ rdB p0 m Reg.kilnScrub 16 = true ∧
    copyBusy m (64 * (kilnLines p0 - 1)) = false ∧ kilnLines p0 ≤ kilnLines p0 := by decide +kernel
theorem wit_PortsAnswer_copy : let m := { m0 with
      run := { m0.run with kilnSt := { copying := some 0 } }, tick := { m0.tick with cycle := 4096 } }
    m.run.kilnSt.copying = some 0 ∧ 0 + 4096 ≤ m.tick.cycle := by decide
theorem wit_PortsAnswer_hearth : let m := placeItem p0 m0 .coder 0 (.step 0 0 0 0 0) 5
    (usableHearths p0 m).any (fun h => worksOn m h .coder (.step 0 0 0 0 0)) = true ∧ 3 ≤ 3 ∧ SubUnit.coder ≠ .itemState := by
  decide +kernel
theorem wit_PortsAnswer_log : ({ m0 with log := { m0.log with buf := [(0, resetEntry)] } } : Mach).log.buf = [(0, resetEntry)] ∧
    Reaches (st m0) .host Reg.logCtrl ∧ isFatal p0 m0 = false := by decide +kernel

/-! ### Links, flows and the tick -/

def withLink (x : Link) (m : Mach := m0) : Mach := setLink m 35 x
theorem wit_LinkTrainingAnswers_down : 35 < linkCount p0.conf ∧ (linkOf (withLink { phase := .down }) 35).phase = .down := by
  decide +kernel
theorem wit_GivesLinked : linksUp m0 = true ∧ linksUp { m0 with sec := { m0.sec with held := true } } = false := by decide +kernel
theorem wit_LinkTrainingAnswers_loss : (linkOf (withLink { phase := .active }) 35).phase ≠ .disabled ∧ 1 ≤ 1 := by
  decide +kernel
theorem wit_LinkTrainingAnswers_adapt : (linkOf (withLink { phase := .retrain, adaptUp := true }) 35).phase = .retrain ∧
    (linkOf (withLink { phase := .retrain, adaptUp := true }) 35).adaptUp = true := by decide +kernel
theorem wit_LinkTrainingAnswers_slots : [LinkPhase.align, .config, .ready, .retrain].all (fun ph =>
    (linkOf (withLink { phase := ph }) 35).phase == ph) = true ∧
    (linkOf (withLink { phase := .down }) 35).phase = .down ∧ lanesUp (linkOf (withLink { phase := .down }) 35) = false ∧
    lanesUp (linkOf (withLink { phase := .down, txLock := 3, rxLock := 3 }) 35) = true ∧
    33 - 1 ≤ 32 ∧ 1 ≤ 1 ∧ 4095 < 4096 ∧ 63 < 64 := by decide +kernel
/-- The training words of a lane from FPOS on, the stream cut at bit `off`. -/
def heard (lane fpos n : Nat) (off : Nat := 3) : List (BitVec 256) :=
  let s := ((List.range n).map fun i => (trainWord ((fpos + i) % 33) lane false 1 0).toNat * 2 ^ (256 * i)).sum * 2 ^ off
  (List.range n).map fun i => BitVec.ofNat 256 (s / 2 ^ (256 * i))
theorem wit_LinkTrainingAnswers_align : let x : Link := { phase := .align, rxLock := 3 }
    (linkOf (withLink x) 35).phase = .align ∧ (linkOf (withLink x) 35).rxLock = 3 ∧
    (match laneFind (heard 0 20 6), laneFind (heard 1 18 6), laneFind (heard 1 4 6 131) with
     | some a, some b, some c => a.lane + b.lane == 1 && decide (skewBits a b ≤ 16 * 256) && decide (16 * 256 < skewBits a c)
     | _, _, _ => false) = true := by decide +kernel
/-- Wire flits at place 7: what `encodeFlit` makes of a flit of VC1 from node 1 to node 0, of kind TS and of kind DATA. -/
def wireTs : BitVec 2112 :=
  0xfa55a0aaa0bcda17b788a02a2a5a005fa0a000aa016db7a0028a2a0005a05fff077f70fff0e2b71c6c4cf03f3f77007070f000ff01db6c7003cf3f0007707000f5ff5555438f42f407e2de2db8de72187e72b27f1f05df1d8ff51d8a554275a00f00ffffe248e38e0413b13b64b14b14414beb4090873093480f934f7fe34f70bd20f5feeab2bd4f55d485ed0af7f57485470b9a42d487cd219a4774d832d465e3b08f01f86c8ffc7f3ec71b8f8c0fcec7e48e5763bec42bb15764ceb42bbe5712219bbd969115c345902e4f67db3be29c3078dee4ff13c56554b1bd6665d8749b3156635dd99f22e7583968d436a613d22844b196809a27d7fee963d557340e4443e9a2d2dc1197
def wireData : BitVec 2112 :=
  0xfa55a0aaa0bcda17b788a02a2a5a005fa0a000aa016db7a0028a2a0005a05fff077f70fff0e2b71c6c4cf03f3f77007070f000ff01db6c7003cf3f0007707000f5ff5555438f42f407e2de2db8de72187e72b27f1f05df1d8ff51d8a554275a00f00ffffe248e38e0413b13b64b14b14414beb4090873093480f934f7fe34f70bd20f5fe6787ec8655d485ed0af7f57485470b9a42d487cd219a4774d832d465e3b08f01f86c8ffc7f3ec71b8f8c0fcec7e48e5763bec42bb15764ceb42bbe5712219bbd969115c345902e4f67db3be29c3078dee4ff13c56554b1bd6665d8749b3156635dd99f22e7583968d436a613d22844b196809a27d7fee963d557340e4443e982d2dc1197
/-- The lane words over which a wire flit at place 7 stands, lanes not crossed. -/
def laneOf7 (w : BitVec 2112) (i : Nat) : List (BitVec 256) :=
  let bs := List.replicate 56 0 ++ wireBytes w
  (List.range 6).map fun k => BitVec.ofNat 256 (leNat ((bs.drop (64 * k + 32 * i)).take 32))
/-- A flit of those words as a link hears it. -/
def hears (x : Link) (a b : List (BitVec 256)) : Decoded :=
  decodeFlit (7 % 8) (gatherFlit x.laneSwap (7 % 8) (laneBits x.laneOffs.1 a) (laneBits x.laneOffs.2 b))
theorem wit_LinkTrainingAnswers_flit : let x : Link := { phase := .config, rxLock := 3 }
    framed (linkOf (withLink x) 35) = true ∧ (linkOf (withLink x) 35).rxLock = 3 ∧
    (let d := hears (linkOf (withLink x) 35) (laneOf7 wireTs 0) (laneOf7 wireTs 1)
     !d.bad0 && !d.bad1 && !badCodes d.link d.flit && d.link.fkind == fkTs) = true := by decide +kernel
theorem wit_LinkTrainingAnswers_timeout : let m := { withLink { phase := .align } with tick := { m0.tick with time := 10 ^ 15 } }
    (linkOf m 35).phase = .align ∧
    (linkOf m 35).runStart + 1000 * fsPerNs * rdF p0 m (Reg.linkTimers 35) 15 0 ≤ m.tick.time := by decide +kernel
theorem wit_LinkTrainingAnswers_ready : (linkOf (withLink { phase := .ready, readyGot := true }) 35).phase = .ready ∧
    (linkOf (withLink { phase := .ready, readyGot := true }) 35).readyGot = true ∧
    7 ≤ (linkOf (withLink { phase := .ready, readyGot := true, readySent := 7 }) 35).readySent := by decide +kernel
theorem wit_LinkDataAnswers_flit : let x : Link := { phase := .active, rxLock := 3 }
    let d := hears (linkOf (withLink x) 35) (laneOf7 wireData 0) (laneOf7 wireData 1)
    (linkOf (withLink x) 35).phase = .active ∧ (linkOf (withLink x) 35).rxLock = 3 ∧
    (!d.bad0 && !d.bad1 && !badCodes d.link d.flit && d.link.fkind != fkTs) = true ∧
    (linkOf (countCodewords p0 (withLink x) 35 d) 35).phase = .active := by decide +kernel
theorem wit_LinkDataAnswers_bad : (hears {} [0x7070707] [0x7070707]).bad0 = true := by decide +kernel
def aHeld : Held := { lseq := 0, own := { flit := { vc := 1, src := 1, dst := 0 } }, sentAt := 0 }
theorem wit_LinkDataAnswers_replay : let x : Link :=
      { phase := .active, sinceActive := 20, held := [aHeld], meas := some { acc := 0, want := 1 }, partner := some (1, 0, false) }
    let m := { withLink x with tick := { m0.tick with time := 10 ^ 15 } }
    (linkOf m 35).phase = .active ∧ (linkOf m 35).nakSeq = none ∧ (linkOf m 35).held = [aHeld] ∧
    aHeld.sentAt + replayTmo p0 m 35 ≤ m.tick.time ∧ (linkOf m 35).meas = some { acc := 0, want := 1 } ∧
    (linkOf m 35).tokenAt + 20 ≤ (linkOf m 35).sinceActive ∧ probeDue m { acc := 0, want := 1 } = true ∧
    (linkOf m 35).partner = some (1, 0, false) := by decide +kernel
theorem wit_LinkDataAnswers_down : [LinkPhase.retired, .active].all (fun ph =>
    match takeRecord (withIn (in0 0x21 [(3, 35)]) (withLink { phase := ph })) 0x21 with
    | some (r, m) => decide (bytesOf r.bytes 3 3 < linkCount p0.conf) && (linkOf m (bytesOf r.bytes 3 3)).phase == ph
    | none => false) = true := by decide +kernel
theorem wit_LinkDataAnswers_drop : let m := { withLink { phase := .retired } with tick := { m0.tick with time := 10 ^ 15 } }
    (linkOf m 35).phase = .retired ∧ (linkOf m 35).retiredAt + 100000 * fsPerNs ≤ m.tick.time := by decide +kernel
def withOut (o : Outst) (m : Mach := m0) : Mach := { m with net := { m.net with outst := [o] } }
theorem wit_LinkDataAnswers_ack : (match takeRecord (withIn (in0 0x20 [(4, 3)]) (withOut (outPkt .none 3))) 0x20 with
    | some (r, m) => (findOut m r.src (bytesOf r.bytes 4 4) (bytesOf r.bytes 0 3)).isSome
    | none => false) = true := by decide +kernel
theorem wit_LinkDataAnswers_timeout : [0, 15].all (fun n =>
    let m := { withOut (outPkt .none 3 n) with tick := { m0.tick with time := 10 ^ 15 } }
    findOut m 1 3 0 == some (outPkt .none 3 n) && decide (0 + e2eTmo p0 m ≤ m.tick.time) &&
      (if n = 0 then decide (0 < rdF p0 m Reg.routeE2eCtrl 19 16) else decide (rdF p0 m Reg.routeE2eCtrl 19 16 ≤ n))) = true := by
  decide +kernel
theorem wit_LinkDataAnswers_partial : 3 ≤ 3 ∧ 5 ≤ 5 := by decide
theorem wit_LinkDataAnswers_probe : (takeRecord (withIn (in0 0x22)) 0x22).isSome = true := by decide +kernel
theorem wit_LinkDataAnswers_echo : [(1, false), (2, false), (2, true)].all (fun (n, again) =>
    let x : Link := { meas := some { acc := 0, want := n, out := [(0, 0)] } }
    match takeRecord (withIn { in0 0x23 with replayed := again } (setLink m0 0 x)) 0x23 with
    | some (r, m) => (linkOf m r.link).meas == x.meas && r.replayed == again &&
        ([(0, (0 : Int))].find? fun q => q.1 == bytesOf r.bytes 4 5).isSome
    | none => false) = true := by decide +kernel
def aTransit : TransitFlit := { inLink := 35, flit := { vc := 1, src := 1, dst := 9 } }
theorem wit_LinkDataAnswers_transit : let m := withLink { waiting := [aTransit] } (regs [(Reg.routeNodeId, 0)])
    let n := setLink m 35 { linkOf m 35 with waiting := [] }
    (linkOf m 35).waiting.find? (fun t => t.flit.vc == 1) = some aTransit ∧ isFatal p0 m = false ∧
    transitCopies p0 m = false ∧ aTransit.routed = false ∧ aTransit.flit.dst ≠ nodeId p0 m ∧
    (transitDrop p0 n 35 aTransit).isSome = true := by decide +kernel
/-- Node 9 can be reached over link 34. -/
def mRoute : Mach :=
  let m := setLink (withLink { waiting := [{ aTransit with flit := { vc := 1, src := 1, dst := 9, ttl := 5 } }] }
    (regs [(Reg.routeNodeId, 0)])) 34 { phase := .active, partner := some (9, 0, false) }
  { m with net := { m.net with routes := [(9, { valid := true, primary := 2 ^ 34 })] } }
theorem wit_LinkDataAnswers_forward : let t : TransitFlit := { aTransit with flit := { vc := 1, src := 1, dst := 9, ttl := 5 } }
    let m := setLink mRoute 35 { linkOf mRoute 35 with waiting := [] }
    (linkOf mRoute 35).waiting.find? (fun t => t.flit.vc == 1) = some t ∧ transitDrop p0 m 35 t = none ∧
    usableSet p0 mRoute t.flit.dst ≠ .wait ∧ slotFree p0 mRoute 35 1 = true := by decide +kernel
theorem wit_LinkDataAnswers_transitLost : let m := kilnUe p0 (withLink { waiting := [aTransit] } (regs [(Reg.routeNodeId, 0)])) 0 (some 3)
    engineUp m = true ∧ isFatal p0 m = false ∧ transitCopies p0 m = false ∧ aTransit.routed = false ∧
    (linkOf m 35).waiting.find? (fun t => t.flit.vc == 1) = some aTransit ∧ aTransit.flit.dst ≠ nodeId p0 m := by decide +kernel
theorem wit_TickMessagesAnswer_record : (match takeRecord (withIn (in0 0x60)) 0x60 with
    | some (r, m) => !isMaster p0 m && r.link == uplink p0 m
    | none => false) = true ∧ (match takeRecord (withIn (in0 0x60) (regs [(Reg.tickCtrl, 4)])) 0x60 with
    | some (_, m) => isMaster p0 m
    | none => false) = true := by decide +kernel
theorem wit_TickMessagesAnswer_sync : let m := { mEdge with tick := { mEdge.tick with time := 10 ^ 15 } }
    engineUp m = true ∧ tickRuns p0 m = true ∧ isMaster p0 m = true ∧ m.tick.lastSync + syncFs p0 m ≤ m.tick.time := by
  decide +kernel
theorem wit_TickMessagesAnswer_lost : let m := { m0 with tick := { m0.tick with lastRec := some 0, time := 10 ^ 15 } }
    m.tick.lastRec = some 0 ∧ engineUp m = true ∧ isMaster p0 m = false ∧ 10000 * 0 + 4 * syncFs p0 m ≤ m.tick.time := by
  decide +kernel
theorem wit_TickMessagesAnswer_pps : let m := regs [(Reg.tickCtrl, 12)]
    engineUp m = true ∧ isMaster p0 m = true ∧ rdB p0 m Reg.tickCtrl 3 = true := by decide +kernel
theorem wit_TickMessagesAnswer_run : Reaches (st m0) .host Reg.tickCtrl ∧ tickCtrlRefused p0 m0 0x6400000001 = false ∧
    tickRuns p0 m0 = false ∧ bitOf (0x6400000001 : Word) 0 = true ∧ Reaches (st mEdge) .host Reg.tickCtrl ∧
    tickCtrlRefused p0 mEdge 0x6400000004 = false ∧ tickRuns p0 mEdge = true ∧ bitOf (0x6400000004 : Word) 0 = false ∧
    tickRuns p0 mEdge = bitOf (0x6400000005 : Word) 0 := by decide +kernel
/-- A request for the step in force, one for the step just over, and one that raises nothing. -/
theorem wit_TickMessagesAnswer_slip : [(6, true, 0), (6, false, 0), (6, false, 2)].all (fun (now, fits, had) =>
    let m := { mEdge with tick := { mEdge.tick with grants := [(5 + (if fits then 1 else 0), had)] } }
    let m := regs [(Reg.tickStep, wordOf now), (Reg.tickStat, 1)] m
    match takeRecord (withIn (in0 0x61 [(0, 5 + (if fits then 1 else 0)), (6, 2)]) m) 0x61 with
    | some (r, m) =>
      let i := bytesOf r.bytes 0 5
      let q := min (rdF p0 m Reg.tickSlip 23 16) (bytesOf r.bytes 6 6)
      engineUp m && tickRuns p0 m && isMaster p0 m &&
        (if had = 0 then decide (grantOf m i < q) else decide (q ≤ grantOf m i)) &&
        (if fits then decide (stepNow p0 m ≤ i) else had != 0 || (decide (i + 1 = stepNow p0 m) && edgesTaken p0 m))
    | none => false) = true := by decide +kernel

/-! ### Values the manual gives -/

/-- R294: 64 samples of mean 2,003 and spread 6. -/
theorem test_dly_meas : measResult (2000 :: 2006 :: List.replicate 62 2003) = 0x01004000060007D3 := by decide +kernel
/-- R513: factory 214 and user 2,003. -/
theorem test_link_dly : readReg { p0 with fuses := [(46, 0x800000D6)] } (regs [(Reg.caluLinkDly 30, 2003)]) .host
    (Reg.caluLinkDly 30) = 0x000008A9000007D3 := by decide +kernel
/-- R552: word 46 of 214 with its parity bit, and copy B of LC_FUSE; R515: without the parity bit F is 0. -/
def fuses46 (w : BitVec 32) : Part := { p0 with fuses := [(0, 0xF00), (46, w)] }
theorem test_fuse_words : lcFuse (fuses46 0x800000D6) = 15 ∧ factory (fuses46 0x800000D6) 30 = 214 ∧
    fuseStat (fuses46 0xD6) ≠ 0 ∧ factory (fuses46 0xD6) 30 = 0 := by decide +kernel
/-- R99: capacity 7 among 16 sources of share 1, step 100, expert 77. -/
theorem test_local_quota : (List.range 16).map (localQuota 7 (fun _ => 1) 16 100 77)
    = [0, 1, 1, 1, 1, 1, 1, 1, 0, 0, 0, 0, 0, 0, 0, 0] := by decide +kernel
/-- R180: HOME 3, TOKEN 5, LAYER 0, SLOT 13, ROW 3. -/
theorem test_rick_sideband : rowHead false false 3 5 0 13 3 = 0x000C0014000D0003 := by decide +kernel
/-- R229: class-6 buffer 29 of a partition of groups 0 to 11 begins at line 0x2_B200. -/
theorem test_buffer_address : bufAddr { groups := List.range 12, tblUnits := 4, carve := [64, 32, 64, 16, 16, 16, 32, 16] } 6 29
    = 64 * 0x2B200 := by decide +kernel
/-- FIPS 180-4: the digest of "abc" begins with 0xBA7816BF. -/
theorem test_sha256 : (sha256 [0x61, 0x62, 0x63]).take 4 = [0xBA, 0x78, 0x16, 0xBF] := by decide +kernel
/-- R503, R507: logical group 7 and hearth 11 fail at power-on. -/
theorem test_boot_spare : ((after (.powerOnReset false false { hearths := 2 ^ 11, groups := 2 ^ 7 }) (st m0)).map fun m =>
    let m := idleCycle p0 m
    [Reg.kilnSpare, Reg.bistBoot, Reg.hrthStat 11].map (readReg p0 m .host)) = some [0x27, 0x0800000000000080, 0x2] := by
  decide +kernel
/-- R484: a command submission of two entries is a request of kind 0x72. -/
theorem wit_WrapperAndManagementAnswer_cmd :
    let e : Entry :=
      { line := BitVec.ofNat 512 (0x72 + 2 * 2 ^ 8), win := 8, acc := 0, hseq := 0, kind := .mgmt, src := 3 }
    let m := { m0 with cmd := { m0.cmd with queues := [(4, { head := [e, { e with line := 0, kind := .cont }] })] } }
    (match mgmtHead (takeMgmt p0 m) with
     | some (_, bs) => mgKind bs == 0x72 && mgRefusal p0 (popMgmt (takeMgmt p0 m) bs) bs == stDone
     | none => false) = true := by decide +kernel

end Sys2Proof.Tests
end

section
/-! The register commands: what they may change (O13, R532, R547), and CORE_FREQ (O14, R16, R431). -/

namespace Sys2Proof.Machine

/-! ### The register port's answer (R547) -/

/-- The register port's answer changes the outputs alone. -/
theorem responded_eq_out (before : Mach) (src : Src) (data : Option Word) (m : Mach) :
    responded before src data m = { m with out := (responded before src data m).out } := by
  unfold responded; split <;> rfl

theorem responded_out_congr (before : Mach) (src : Src) (data : Option Word) {m n : Mach} (h : n.out = m.out) :
    (responded before src data n).out = (responded before src data m).out := by
  unfold responded; split <;> simp [h]

/-! ### The frame of a register command -/

/-- The machine without what a register command may change. -/
def rowRest (m : Mach) : Mach :=
  { m with
    regs := []
    cmd := { m.cmd with windows := [] }
    fab := { m.fab with locks := [] }
    sec := { m.sec with warmDue := none, burning := none, droop := none, kicked := 0 } }

@[simp] theorem rowRest_wr (p : Part) (m : Mach) (a : Nat) (v : Word) : rowRest (wr p m a v) = rowRest m := by
  simp [rowRest]

@[simp] theorem rowRest_accErr (p : Part) (m : Mach) (src : Src) (a k : Nat) :
    rowRest (accErr p m src a k) = rowRest m := by
  simp [rowRest]

/-- What `rowRest` leaves out is all in which two machines with the same rest can differ. -/
theorem eq_of_rowRest_eq {m n : Mach} (h : rowRest n = rowRest m) :
    n = { m with
      regs := n.regs
      cmd := { m.cmd with windows := n.cmd.windows }
      fab := { m.fab with locks := n.fab.locks }
      sec := { m.sec with warmDue := n.sec.warmDue, burning := n.sec.burning, droop := n.sec.droop,
                          kicked := n.sec.kicked } } :=
  calc n = { rowRest n with
      regs := n.regs
      cmd := { (rowRest n).cmd with windows := n.cmd.windows }
      fab := { (rowRest n).fab with locks := n.fab.locks }
      sec := { (rowRest n).sec with warmDue := n.sec.warmDue, burning := n.sec.burning, droop := n.sec.droop,
                                    kicked := n.sec.kicked } } := rfl
    _ = _ := by rw [h]; rfl

/-- From m to n only registers of ws, ACC_ERR, GLB EVT_STAT and what `rowRest` leaves out may have changed. -/
structure RegRowFrame (p : Part) (ws : List Nat) (m n : Mach) : Prop where
  regs : ∀ a, a ≠ Reg.glbAccErr → a ≠ Reg.evtStat Reg.glbPage → a ∉ ws → rd p n a = rd p m a
  rest : rowRest n = rowRest m

namespace RegRowFrame

variable {p : Part} {ws : List Nat} {m n : Mach}

/-- A change of none of the registers. -/
theorem of_regs_eq (hregs : n.regs = m.regs) (hrest : rowRest n = rowRest m) : RegRowFrame p ws m n :=
  ⟨fun a _ _ _ => rd_congr hregs a, hrest⟩

theorem refl : RegRowFrame p ws m m := of_regs_eq rfl rfl

/-- One more write, of a register that is named. -/
theorem wr (h : RegRowFrame p ws m n) {a : Nat} {v : Word} (ha : a ∈ ws) :
    RegRowFrame p ws m (wr p n a v) where
  regs b h1 h2 hb := by
    have hne : b ≠ a := fun e => hb (e ▸ ha)
    rw [rd_wr_ne p n v hne, h.regs b h1 h2 hb]
  rest := (rowRest_wr p n a v).trans h.rest

/-- A refusal's record. -/
theorem accErr (src : Src) (a k : Nat) : RegRowFrame p ws m (accErr p m src a k) where
  regs _ h1 h2 _ := rd_accErr_ne p m src a k h1 h2
  rest := rowRest_accErr p m src a k

theorem ignored (src : Src) (a : Nat) : RegRowFrame p ws m (ignored p m src a) := accErr src a 2

/-- A choice between two changes. -/
theorem ite {c : Prop} [Decidable c] {n' : Mach} (h : RegRowFrame p ws m n) (h' : RegRowFrame p ws m n') :
    RegRowFrame p ws m (if c then n else n') := by
  split
  · exact h
  · exact h'

/-- The gate keeps the frame of the register's own effect. -/
theorem gated {src : Src} {a : Nat} {f : Mach → Mach} (h : RegRowFrame p ws m (f m)) :
    RegRowFrame p ws m (gated p m src a f) :=
  gated_keeps _ refl h (accErr src a)

end RegRowFrame

/-! ### The frame of each register command's effect -/

theorem resetCtrlWarm_frame (src : Src) (v : Word) (p : Part) (m : Mach) :
    RegRowFrame p [] m (resetCtrlWarm src v p m) :=
  .gated (.ite (.of_regs_eq rfl rfl) .refl)

theorem hostKick_frame (src : Src) (v : Word) (p : Part) (m : Mach) :
    RegRowFrame p [] m (hostKick src v p m) :=
  .gated (.ite (.of_regs_eq rfl rfl) .refl)

theorem coreFreqWrite_frame (src : Src) (v : Word) (p : Part) (m : Mach) :
    RegRowFrame p [Reg.glbCoreFreq] m (coreFreqWrite src v p m) :=
  .gated (.ite (.ignored ..) (.wr .refl (by simp)))

theorem cmdSeqWrite_frame (src : Src) (w : Nat) (v : Word) (p : Part) (m : Mach) :
    RegRowFrame p [winSeq w] m (cmdSeqWrite src w v p m) :=
  .ite (.gated (.ite (.wr .refl (by simp)) (.ignored ..))) .refl

theorem commandStage_frame (src : Src) (w k : Nat) (v : Word) (p : Part) (m : Mach) :
    RegRowFrame p [] m (commandStage src w k v p m) :=
  .ite (.gated (.of_regs_eq rfl rfl)) .refl

theorem evtForce_frame (src : Src) (g : Nat) (v : Word) (p : Part) (m : Mach) :
    RegRowFrame p [Reg.evtStat g] m (evtForce src g v p m) :=
  .gated (.ite (.ignored ..) (.wr .refl (by simp)))

theorem logClear_frame (src : Src) (v : Word) (p : Part) (m : Mach) :
    RegRowFrame p [Reg.logCtrl, Reg.logTail, Reg.logLost] m (logClear src v p m) :=
  have hctrl : RegRowFrame p [Reg.logCtrl, Reg.logTail, Reg.logLost] m (wr p m Reg.logCtrl (v &&& 7)) :=
    .wr .refl (by simp)
  .gated (.ite (.ignored ..) (.ite (.wr (.wr hctrl (by simp)) (by simp)) hctrl))

theorem lockClr_frame (src : Src) (v : Word) (p : Part) (m : Mach) :
    RegRowFrame p [] m (lockClr src v p m) :=
  .gated (.ite (.of_regs_eq rfl rfl) (.ite (.of_regs_eq rfl rfl) .refl))

theorem lcAdvance_frame (src : Src) (v : Word) (p : Part) (m : Mach) :
    RegRowFrame p [Reg.evtStat Reg.lcsPage] m (lcAdvance src v p m) :=
  .gated (.ite (.of_regs_eq rfl rfl) (.wr (.ignored ..) (by simp)))

theorem tempSample_frame (n : Nat) (raw : Word) (p : Part) (m : Mach) :
    RegRowFrame p [Reg.caluTemp n] m (tempSample n raw p m) :=
  .ite (.wr .refl (by simp)) .refl

theorem droop_frame (n : Nat) (p : Part) (m : Mach) :
    RegRowFrame p [Reg.evtStat Reg.pwrPage] m (droop n p m) :=
  have hdroop : RegRowFrame p [Reg.evtStat Reg.pwrPage] m { m with sec := { m.sec with droop := some m.tick.time } } :=
    .of_regs_eq rfl rfl
  .ite (.wr hdroop (by simp)) .refl

theorem refPps_frame (p : Part) (m : Mach) : RegRowFrame p [Reg.tickPpsTime] m (refPps p m) :=
  .ite (.wr .refl (by simp)) .refl

theorem entropyStall_frame (p : Part) (m : Mach) :
    RegRowFrame p [Reg.evtStat Reg.secPage] m (entropyStall p m) :=
  .ite (.wr .refl (by simp)) .refl

/-! ### The register commands -/

/-- The machine n that a register command's effect leaves, with the port's answer where the command is a write. -/
def portAnswered (c : Instr) (m n : Mach) : Mach := (regTarget c).elim n fun q => responded m q.1 none n

/-- The port's answer adds to the outputs what it adds with no effect at all, and nothing else. -/
theorem portAnswered_eq_out (c : Instr) {m n : Mach} (h : n.out = m.out) :
    portAnswered c m n = { n with out := (portAnswered c m m).out } := by
  unfold portAnswered
  cases regTarget c with
  | none => simp [← h]
  | some q =>
    simp only [Option.elim_some]
    rw [responded_eq_out, responded_out_congr m q.1 none h]

/-- The machine that a register command leaves, where its effect keeps to the frame. -/
theorem RegRowFrame.portAnswered_eq {p : Part} {ws : List Nat} {m n : Mach} (h : RegRowFrame p ws m n) (c : Instr) :
    portAnswered c m n = { m with
      regs := n.regs
      cmd := { m.cmd with windows := n.cmd.windows }
      fab := { m.fab with locks := n.fab.locks }
      sec := { m.sec with warmDue := n.sec.warmDue, burning := n.sec.burning, droop := n.sec.droop,
                          kicked := n.sec.kicked }
      out := (portAnswered c m m).out } := by
  have hn := eq_of_rowRest_eq h.rest
  have hout : n.out = m.out := (congrArg Mach.out h.rest :)
  rw [portAnswered_eq_out c hout]
  exact congrArg (fun x : Mach => { x with out := (portAnswered c m m).out }) hn

/-- The effect of each register command, the port's answer apart, keeps to the frame of the registers named for it. -/
theorem exec_regRow {c : Instr} {ws : List Nat} (h : regRowWrites c = some ws) (s : State) :
    ∃ n, exec c s = .next { s with m := portAnswered c s.m n } ∧ RegRowFrame s.part ws s.m n := by
  unfold regRowWrites at h
  split at h <;> cases h
  case h_1 src v => exact ⟨_, rfl, resetCtrlWarm_frame src v _ _⟩
  case h_2 src v => exact ⟨_, rfl, hostKick_frame src v _ _⟩
  case h_3 src v => exact ⟨_, rfl, coreFreqWrite_frame src v _ _⟩
  case h_4 src w v => exact ⟨_, rfl, cmdSeqWrite_frame src w v _ _⟩
  case h_5 src w k v => exact ⟨_, rfl, commandStage_frame src w k v _ _⟩
  case h_6 src g v => exact ⟨_, rfl, evtForce_frame src g v _ _⟩
  case h_7 src v => exact ⟨_, rfl, logClear_frame src v _ _⟩
  case h_8 src v => exact ⟨_, rfl, lockClr_frame src v _ _⟩
  case h_9 src v => exact ⟨_, rfl, lcAdvance_frame src v _ _⟩
  case h_10 n raw => exact ⟨_, rfl, tempSample_frame n raw _ _⟩
  case h_11 n => exact ⟨_, rfl, droop_frame n _ _⟩
  case h_12 => exact ⟨_, rfl, refPps_frame _ _⟩
  case h_13 => exact ⟨_, rfl, entropyStall_frame _ _⟩

/-- Settles O13: each register command answers its effect, which keeps to the frame, and the port's answer. -/
theorem registerRowsFrame : Obligations.RegisterRowsFrame := by
  intro c s t ws hws ht
  obtain ⟨n, hexec, hframe⟩ := exec_regRow hws s
  cases hexec.symm.trans ht
  have hm := hframe.portAnswered_eq c
  refine ⟨rfl, rfl, fun a h1 h2 ha => ?_, ?_⟩
  · have hregs : (portAnswered c s.m n).regs = n.regs := by rw [hm]
    rw [rd_congr hregs, hframe.regs a h1 h2 ha]
  · dsimp only
    rw [hm]
    rfl

/-! ### CORE_FREQ (R16, R431) -/

theorem bitsOf_lt {w : Nat} (x : BitVec w) (hi lo : Nat) : bitsOf x hi lo < 2 ^ (hi + 1 - lo) :=
  Nat.mod_lt _ (Nat.two_pow_pos _)

/-- The low bits of a word of a number that fits in them are the number. -/
theorem bitsOf_wordOf_low {v hi : Nat} (hv : v < 2 ^ (hi + 1)) (hhi : hi < 64) : bitsOf (wordOf v) hi 0 = v := by
  have hw : v < 2 ^ 64 := Nat.lt_of_lt_of_le hv (Nat.pow_le_pow_right (by decide) hhi)
  unfold bitsOf wordOf
  rw [BitVec.toNat_ofNat, Nat.mod_eq_of_lt hw, Nat.shiftRight_zero, Nat.sub_zero, Nat.mod_eq_of_lt hv]

/-- CORE_FREQ_WRITE answers its effect and the port's answer. -/
theorem givesW_coreFreqWrite (src : Src) (v : Word) (s : State) :
    GivesW src (.coreFreqWrite src v) s (coreFreqWrite src v s.part s.m) := rfl

section
variable {p : Part} {m : Mach} {src : Src} {v : Word} (hpass : writeGate p m src Reg.glbCoreFreq = .pass)
include hpass

theorem coreFreqWrite_ignored (h : bitsOf v 10 0 < 600 ∨ 1100 < bitsOf v 10 0 ∨ tickRuns p m = true) :
    coreFreqWrite src v p m = ignored p m src Reg.glbCoreFreq := by
  unfold coreFreqWrite
  rw [gated_pass _ hpass]
  exact if_pos h

theorem coreFreqWrite_taken (hlo : 600 ≤ bitsOf v 10 0) (hhi : bitsOf v 10 0 ≤ 1100) (ht : tickRuns p m = false) :
    coreFreqWrite src v p m = wr p m Reg.glbCoreFreq (wordOf (bitsOf v 10 0)) := by
  have hin : ¬(bitsOf v 10 0 < 600 ∨ 1100 < bitsOf v 10 0 ∨ tickRuns p m = true) := by
    simp [ht]; omega
  unfold coreFreqWrite
  rw [gated_pass _ hpass]
  exact if_neg hin

end

/-- The core clock is the value that CORE_FREQ was given. -/
theorem coreMhz_wr_coreFreq (p : Part) (m : Mach) (v : Word) :
    coreMhz p (wr p m Reg.glbCoreFreq (wordOf (bitsOf v 10 0))) = bitsOf v 10 0 := by
  unfold coreMhz rdF
  rw [rd_wr_eq]
  exact bitsOf_wordOf_low (bitsOf_lt v 10 0) (by decide)

/-- Settles O14: behind the gate the write is ignored out of range or while the tick runs, and else taken. -/
theorem coreFreqTakesRange : Obligations.CoreFreqTakesRange := by
  intro s src v hreach
  have hgives := givesW_coreFreqWrite src v s
  refine ⟨fun hout => ?_, fun hlo hhi ht => ⟨?_, coreMhz_wr_coreFreq ..⟩⟩
  · rwa [coreFreqWrite_ignored hreach hout] at hgives
  · rwa [coreFreqWrite_taken hreach hlo hhi ht] at hgives

end Sys2Proof.Machine
end

section
/-! LAYER_RUN and its privilege (O22, R58, R404). -/

namespace Sys2Proof.Machine

section
variable {p : Part} {m : Mach} {w q : Nat} {r : Running}

/-- R25: the hand-off of a command that has just started. -/
theorem handOff_started (h : r.phase = .started) :
    handOff p m r = settleStopped p (setRunning m { r with phase := .handed m.tick.cycle }) := if_pos h

/-- A due LAYER_RUN is handed off where its context is privileged or the hand-off is past, and is else refused. -/
theorem layerRun_due (hdue : dueCmd p m w q 0x02 = some r) :
    layerRun w q p m =
      if rdB p m (Reg.ctxCtl w) 30 || r.phase ≠ .started then handOff p m r else complete m r stFormat := by
  unfold layerRun
  rw [hdue]

theorem layerRun_unprivileged (hdue : dueCmd p m w q 0x02 = some r) (hphase : r.phase = .started)
    (hpriv : rdB p m (Reg.ctxCtl w) 30 = false) : layerRun w q p m = complete m r stFormat := by
  rw [layerRun_due hdue]
  exact if_neg (by simp [hpriv, hphase])

theorem layerRun_privileged (hdue : dueCmd p m w q 0x02 = some r) (hphase : r.phase = .started)
    (hpriv : rdB p m (Reg.ctxCtl w) 30 = true) :
    layerRun w q p m = settleStopped p (setRunning m { r with phase := .handed m.tick.cycle }) := by
  rw [layerRun_due hdue, ← handOff_started hphase]
  exact if_pos (by simp [hpriv])

end

/-- LAYER_RUN answers its effect on the machine. -/
theorem gives_layerRun (w q : Nat) (s : State) : Gives (.layerRun w q) s (layerRun w q s.part s.m) := rfl

/-- Settles O22: by the context's CTL.PRIV, a started LAYER_RUN is refused with ERR_FORMAT or handed off. -/
theorem layerRunNeedsPrivilege : Obligations.LayerRunNeedsPrivilege := by
  intro s w q r hdue hphase
  have hgives := gives_layerRun w q s
  refine ⟨fun hpriv => ?_, fun hpriv => ?_⟩
  · rwa [layerRun_unprivileged hdue hphase hpriv] at hgives
  · rwa [layerRun_privileged hdue hphase hpriv] at hgives

end Sys2Proof.Machine
end

section
/-! The table T of the exp function (O24, R70). -/

namespace Sys2Proof.Machine

/-! ### The bisection -/

/-- The bisection keeps q where the comparison holds and q + 2^k where it fails, and so ends at the last q where it
holds. -/
theorem expSearch_last {i k q : Nat} (hlow : (2 * q - 1) ^ 256 ≤ 2 ^ (6144 + i))
    (hhigh : 2 ^ (6144 + i) < (2 * (q + 2 ^ k) - 1) ^ 256) :
    q ≤ expSearch i k q ∧ expSearch i k q < q + 2 ^ k ∧
      (2 * expSearch i k q - 1) ^ 256 ≤ 2 ^ (6144 + i) ∧ 2 ^ (6144 + i) < (2 * expSearch i k q + 1) ^ 256 := by
  induction k generalizing q with
  | zero => exact ⟨Nat.le_refl q, Nat.lt_succ_self q, hlow, hhigh⟩
  | succ k ih =>
    have hhalves : q + 2 ^ (k + 1) = q + 2 ^ k + 2 ^ k := by rw [Nat.pow_succ, Nat.mul_two, Nat.add_assoc]
    rw [hhalves] at hhigh ⊢
    rw [expSearch]
    by_cases hmid : (2 * (q + 2 ^ k) - 1) ^ 256 ≤ 2 ^ (6144 + i)
    · rw [if_pos hmid]
      obtain ⟨hge, hlt, hends⟩ := ih hmid hhigh
      exact ⟨Nat.le_trans (Nat.le_add_right q _) hge, hlt, hends⟩
    · rw [if_neg hmid]
      obtain ⟨hge, hlt, hends⟩ := ih hlow (Nat.lt_of_not_le hmid)
      exact ⟨hge, Nat.lt_of_lt_of_le hlt (Nat.le_add_right _ _), hends⟩

/-- The compared power of 2 is 2^24, raised to the 256th power, times 2^i. -/
theorem two_pow_6144_add (i : Nat) : 2 ^ (6144 + i) = (2 ^ 24) ^ 256 * 2 ^ i := by
  rw [show 6144 = 24 * 256 from rfl, Nat.pow_add, Nat.pow_mul 2 24 256]

/-- 2^(i/256) · 2^24 is at least 2^24. -/
theorem expSearch_start (i : Nat) : (2 * 2 ^ 23 - 1) ^ 256 ≤ 2 ^ (6144 + i) :=
  calc (2 * 2 ^ 23 - 1) ^ 256 ≤ (2 ^ 24) ^ 256 := Nat.pow_le_pow_left (by decide) 256
    _ ≤ (2 ^ 24) ^ 256 * 2 ^ i := Nat.le_mul_of_pos_right _ (Nat.two_pow_pos i)
    _ = 2 ^ (6144 + i) := (two_pow_6144_add i).symm

/-- 2^(i/256) · 2^24 stays below 2^25 - 1 for i up to 255. -/
theorem expSearch_stop {i : Nat} (hi : i < 256) : 2 ^ (6144 + i) < (2 * (2 ^ 23 + 2 ^ 23) - 1) ^ 256 :=
  calc 2 ^ (6144 + i) = (2 ^ 24) ^ 256 * 2 ^ i := two_pow_6144_add i
    _ ≤ (2 ^ 24) ^ 256 * 2 ^ 255 := Nat.mul_le_mul_left _ (Nat.pow_le_pow_right (by decide) (Nat.le_of_lt_succ hi))
    _ < (2 * (2 ^ 23 + 2 ^ 23) - 1) ^ 256 := by norm_num

/-- No odd number above 1 is, raised to the 256th power, a power of 2. -/
theorem odd_pow_ne_two_pow {n i : Nat} (hn : 1 ≤ n) : (2 * n - 1) ^ 256 ≠ 2 ^ (6144 + i) := by
  intro heq
  have hodd : Odd ((2 * n - 1) ^ 256) := Odd.pow ⟨n - 1, by omega⟩
  have heven : Even (2 ^ (6144 + i)) := (even_two).pow_of_ne_zero (by omega)
  rw [heq] at hodd
  exact (Nat.not_even_iff_odd.mpr hodd) heven

/-- The significand of T[i] has 24 bits, and 2^(i/256) · 2^24 lies strictly between its odd neighbours. -/
theorem expTabMan_nearest {i : Nat} (hi : i < 256) :
    2 ^ 23 ≤ expTabMan i ∧ expTabMan i < 2 ^ 24 ∧
      (2 * expTabMan i - 1) ^ 256 < 2 ^ (6144 + i) ∧ 2 ^ (6144 + i) < (2 * expTabMan i + 1) ^ 256 := by
  obtain ⟨hge, hlt, hlow, hhigh⟩ := expSearch_last (expSearch_start i) (expSearch_stop hi)
  exact ⟨hge, hlt, lt_of_le_of_ne hlow (odd_pow_ne_two_pow (Nat.le_trans (by decide) hge)), hhigh⟩

/-! ### The pattern -/

theorem bitLen_of_24 {q : Nat} (hge : 2 ^ 23 ≤ q) (hlt : q < 2 ^ 24) : bitLen q = 24 := by
  have hq : q ≠ 0 := by omega
  unfold bitLen
  rw [if_neg hq, (Nat.log2_eq_iff hq).mpr ⟨hge, hlt⟩]

/-- A significand of 24 bits at the exponent -23 packs to a pattern of the binade of 1. -/
theorem pack32_toNat_of_24 {q : Nat} (hge : 2 ^ 23 ≤ q) (hlt : q < 2 ^ 24) :
    (pack32 false q (-23)).toNat = 0x3F800000 + (q - 2 ^ 23) := by
  have hzero : q ≠ 0 := by omega
  have hnormal : ¬q < 2 ^ 23 := by omega
  have hcarry : q ≠ 2 ^ 24 := by omega
  have hfits : 0x3F800000 + (q - 2 ^ 23) < 2 ^ 32 := by omega
  unfold pack32
  simp only [hzero, hnormal, hcarry, bitLen_of_24 hge hlt, if_false]
  exact (BitVec.toNat_ofNat _ 32).trans (Nat.mod_eq_of_lt hfits)

/-- Settles O24: the bisection ends at the nearest significand, which T[i] holds. -/
theorem expTableIsNearest : Obligations.ExpTableIsNearest := by
  refine ⟨fun i hi => ?_, by decide +kernel, by decide +kernel⟩
  obtain ⟨hge, hlt, hlow, hhigh⟩ := expTabMan_nearest hi
  rw [Nat.add_comm i]
  exact ⟨expTabMan i, hge, hlt, pack32_toNat_of_24 hge hlt, hlow, hhigh⟩

end Sys2Proof.Machine
end

section
/-! Score records, the end of a batch, and the admission exchange (O54, R62 to R66, R81, R105, R107). -/

namespace Sys2Proof.Machine

/-! ### Score records (R62 to R66, R81) -/

section
variable {p : Part} {m : Mach} {q k : Nat} {s : StepRun} {r : InRec} {l : LayerT}
  (htake : takeable p m q k chScore = some (s, r, l))
include htake

/-- A selection whose reads find nothing amiss decides as if it made none. -/
theorem scoreRead_clean (hcopies : groupCopies m s.ctx = false) : scoreRead q k .clean p m = scoreRecord q k p m := by
  unfold scoreRead
  simp only [htake, hcopies]
  exact ite_self _

/-- A record whose beats failed fails its item, and its token is not decided. -/
theorem scoreRecord_failed {e : Nat} (hrec : scEob r.header = false)
    (hopen : (phaseOf s (headLayer chScore r.header)).eob = false) (hfail : r.fail = some e) :
    scoreRecord q k p m =
      takeRec p (scoreFails m s (headLayer chScore r.header) (nodeId p m) (scToken r.header) e) q k := by
  unfold scoreRecord
  simp [htake, hrec, hopen, hfail]

/-- A record that passes its checks is decided where its granules and its selection unit can be had. -/
theorem scoreRecord_decided {gs : List Nat} {n : Mach} (hrec : scEob r.header = false)
    (hopen : (phaseOf s (headLayer chScore r.header)).eob = false) (hfail : r.fail = none) (hcode : r.code = 0)
    (hreason : scoreReason l (phaseOf s (headLayer chScore r.header)).lastTok r.header = 0)
    (hroom : inputRoom p m s.ctx (512 * r.beats.length) = true)
    (htables : scoreTables p m s l (phaseOf s (headLayer chScore r.header)) = none)
    (hgranules : newGranules p m s.ctx (slotGranules l) = some gs)
    (hseat : seatScore p m s.ctx (headLayer chScore r.header) (scToken r.header) l.experts = some n) :
    scoreRecord q k p m =
      takeRec p (recordInput p (decideRecord p n s r l gs) s.ctx (headLayer chScore r.header) r) q k := by
  unfold scoreRecord
  simp [htake, hrec, hopen, hfail, hcode, hreason, hroom, htables, hgranules, hseat]

/-- R64: a marker that passes its checks is recorded, and ends the batch. -/
theorem eobMarker_ends (hmark : scEob r.header = true)
    (hopen : (phaseOf s (headLayer chScore r.header)).eob = false) (hroom : inputRoom p m s.ctx 512 = true)
    (hfail : r.fail = none) (hcode : r.code = 0) (hreason : scoreReason l none r.header = 0) :
    eobMarker q k p m =
      takeRec p (endBatch p (recordInput p m s.ctx (headLayer chScore r.header) r) s (headLayer chScore r.header) l)
        q k := by
  unfold eobMarker
  simp [htake, hmark, hopen, hroom, hfail, hcode, hreason]

end

/-! ### The admission exchange (R105, R107) -/

/-- A flit of the running step enters its records, gives its buffer's credit back, and cancels what its source's closes
end. -/
theorem admitFlitReceive_fits {p : Part} {m : Mach} {x : RxPkt} {c : Nat} {s : StepRun} {l : LayerT}
    (hfind : findAdmit p m = some x) (hfits : arrivalOf p (dropRx m x) (lineOf (rxBytes x)) = .fits c s)
    (htmpl : boundTmpl s laneScore (bhLayer (lineOf (rxBytes x))) = some l) :
    admitFlitReceive false p m =
      let layer := bhLayer (lineOf (rxBytes x))
      let n := enterAdmits p (dropRx m x) c layer l s (flitAdmits x.src (rxBytes x))
      cancelAdmit (sendRecord p n x.src (creditRecord p n c (keyOf s layer) 0 0x14 1 0)) c layer x.src := by
  unfold admitFlitReceive
  simp [hfind, hfits, htmpl]

/-- The CLOSE records that end an admitter's verdicts, one for each node of the set, with the verdicts sent to it. -/
def verdictCloses (l : LayerT) (vs : List Admit) : List Admit :=
  l.nodes.map fun n =>
    { node := n, pkey := (vs.filter fun a => a.node == n).length, expert := 0, kind := adClose, phase := adVerdicts }

/-- With every node's offers held, the verdicts and the closes are queued, in descending key order. -/
theorem admitVerdicts_sent {p : Part} {m : Mach} {layer : Nat} {s : StepRun} {l : LayerT} (hlive : liveStep m = some s)
    (htmpl : boundTmpl s laneScore layer = some l) (hup : engineUp m = true) (hfatal : isFatal p m = false)
    (huses : usesAdmit l = true) (hbound : (phaseOf s layer).admitBound = true)
    (hunsent : (phaseOf s layer).verdictsSent = false)
    (hheld : allClosed (phaseOf s layer) l adOffers (phaseOf s layer).gotOffers = true) :
    admitVerdicts layer p m =
      let vs := sortBy (fun (a b : Admit) => decide (b.pkey < a.pkey))
        (verdictsOf (stepTables m s) l (phaseOf s layer).offers)
      queueAdmits p (updPhase m s.ctx (keyOf s layer) fun x => { x with verdictsSent := true })
        s.ctx (keyOf s layer) (vs ++ verdictCloses l vs) := by
  unfold admitVerdicts
  simp [hlive, htmpl, hup, hfatal, huses, hbound, hunsent, hheld, verdictCloses]

/-- A grant adds to its source's credit, and what waited goes, unless all that this node sends to the source has gone. -/
theorem agrantReceive_open {p : Part} {m n : Mach} {r : In0} {c : Nat} (htake : takeRecord m 0x14 = some (r, n))
    (htarget : creditTarget p n r.bytes = some c)
    (hopen : ∀ s, stepOfCtx n c = some s → keyOfStep s (recKey r.bytes) = true →
      admitClosed (phaseOf s (recKey r.bytes).layer) r.src = false) :
    agrantReceive p m = pumpAdmit p (setAdmitCredit n c (recKey r.bytes) r.src
      (admitCreditOf (ctxOf n c) (recKey r.bytes) r.src + bytesOf r.bytes 12 13)) c (recKey r.bytes).layer := by
  unfold agrantReceive
  simp only [htake, htarget]
  apply if_neg
  cases hstep : stepOfCtx n c with
  | none => exact Bool.false_ne_true
  | some s => simpa using hopen s hstep

/-! ### The commands -/

theorem gives_scoreRecord (q k : Nat) (f : StoreRead) (s : State) :
    Gives (.scoreRecord q k f) s (scoreRead q k f s.part s.m) := rfl

theorem gives_eobMarker (q k : Nat) (s : State) : Gives (.eobMarker q k) s (eobMarker q k s.part s.m) := rfl

theorem gives_admitFlitReceive (loop : Bool) (s : State) :
    Gives (.admitFlitReceive loop) s (admitFlitReceive loop s.part s.m) := rfl

theorem gives_admitVerdicts (layer : Nat) (s : State) :
    Gives (.admitVerdicts layer) s (admitVerdicts layer s.part s.m) := rfl

theorem gives_agrantReceive (s : State) : Gives .agrantReceive s (agrantReceive s.part s.m) := rfl

/-- Settles O54: each command answers its meaning, which takes the branch that the clause's conditions name. -/
theorem scoresAndAdmissionAnswer : Obligations.ScoresAndAdmissionAnswer := by
  refine ⟨fun s q k st r l htake hcopies hopen => ⟨?score, ?failed, ?eob⟩, ?flit, ?loop, ?verdicts, ?grant⟩
  case score =>
    intro gs m hrec hfail hcode hreason hroom htables hgranules hseat
    have hgives := gives_scoreRecord q k .clean s
    rw [scoreRead_clean htake hcopies] at hgives
    rwa [scoreRecord_decided htake hrec hopen hfail hcode hreason hroom htables hgranules hseat] at hgives
  case failed =>
    intro e hrec hfail
    have hgives := gives_scoreRecord q k .clean s
    rwa [scoreRead_clean htake hcopies, scoreRecord_failed htake hrec hopen hfail] at hgives
  case eob =>
    intro hmark hroom hfail hcode hreason
    have hgives := gives_eobMarker q k s
    rwa [eobMarker_ends htake hmark hopen hroom hfail hcode hreason] at hgives
  case flit =>
    intro s x c st l hfind _ _ _ hfits htmpl
    have hgives := gives_admitFlitReceive false s
    rwa [admitFlitReceive_fits hfind hfits htmpl] at hgives
  case loop => exact fun s => gives_admitFlitReceive true s
  case verdicts =>
    intro s layer st l hlive htmpl hup hfatal _ huses hbound hunsent hheld
    have hgives := gives_admitVerdicts layer s
    rwa [admitVerdicts_sent hlive htmpl hup hfatal huses hbound hunsent hheld] at hgives
  case grant =>
    intro s r m c htake htarget hopen
    have hgives := gives_agrantReceive s
    rwa [agrantReceive_open htake htarget hopen] at hgives

end Sys2Proof.Machine
end

section
/-! Whole writes of EXMAP.CELL and CTXn.ADMIT_CTRL (O15, O16, R125, R126, R509, R537). -/

namespace Sys2Proof.Machine

/-- A write that leaves a machine leaves what that machine is equal to. -/
theorem GivesW.trans_eq {src : Src} {c : Instr} {s : State} {m n : Mach} (h : GivesW src c s m) (heq : m = n) :
    GivesW src c s n := heq ▸ h

/-! ### Whole writes of a register with RWS fields (R531, R532, R537) -/

section
variable {s : State} {src : Src} {a : Nat} {v : Word}

/-- A plain write that a rule of its register ignores. -/
theorem plainWrite_refused {p : Part} {m : Mach} (hpass : writeGate p m src a = .pass)
    (href : writeRefused p m a v = true) : plainWrite src a v p m = ignored p m src a := by
  unfold plainWrite
  rw [gated_pass _ hpass]
  exact if_pos href

/-- A register with RWS fields has a row, which holds their mask. -/
theorem regRow_of_rwsMask_ne_zero {p : Part} (hmask : rwsMask p a ≠ 0) :
    ∃ r, regRow (pageKind p.conf (addrPage a)).1 (addrOff a) = some r ∧ r.rws ≠ 0 := by
  unfold rwsMask at hmask
  cases hrow : regRow (pageKind p.conf (addrPage a)).1 (addrOff a) with
  | none =>
    rw [hrow] at hmask
    exact absurd rfl hmask
  | some r =>
    rw [hrow] at hmask
    exact ⟨r, rfl, hmask⟩

/-- R537: a plain write that is not ignored stores the register's RWS fields, where it has some. -/
theorem plainWrite_rws {p : Part} {m : Mach} (hpass : writeGate p m src a = .pass)
    (href : writeRefused p m a v = false) (hmask : rwsMask p a ≠ 0) :
    plainWrite src a v p m = storeRws p m a v := by
  obtain ⟨r, hrow, hrws⟩ := regRow_of_rwsMask_ne_zero hmask
  unfold plainWrite
  rw [gated_pass _ hpass]
  simp only [href, hrow, Bool.false_eq_true, if_false]
  exact if_pos hrws

variable (halign : alignAddr a = a)
  (hroute : routeWrite src a v s.part s.m = (s.part, plainWrite src a v s.part s.m))
  (hmask : rwsMask s.part a ≠ 0)
include halign hroute hmask

/-- Both commands that write a whole register do its plain write, where its address goes there. -/
theorem givesW_wholeWrites {c : Instr} (hc : c ∈ wholeWrites src a v) :
    GivesW src c s (plainWrite src a v s.part s.m) := by
  rcases List.mem_pair.mp hc with rfl | rfl
  · change Host.Outcome.next _ = _
    rw [regWrite_whole v _ _ halign, hroute]
  · have hrws : rwsWrite src a v s.part s.m = plainWrite src a v s.part s.m := by
      unfold rwsWrite
      rw [halign]
      exact if_neg hmask
    change Host.Outcome.next _ = _
    rw [hrws]

variable (hpass : writeGate s.part s.m src a = .pass)
include hpass

theorem refuses_wholeWrites (href : writeRefused s.part s.m a v = true) {c : Instr}
    (hc : c ∈ wholeWrites src a v) : Refuses c s src a :=
  (givesW_wholeWrites halign hroute hmask hc).trans_eq (plainWrite_refused hpass href)

theorem givesW_wholeWrites_rws (href : writeRefused s.part s.m a v = false) {c : Instr}
    (hc : c ∈ wholeWrites src a v) : GivesW src c s (storeRws s.part s.m a v) :=
  (givesW_wholeWrites halign hroute hmask hc).trans_eq (plainWrite_rws hpass href hmask)

end

/-! ### EXMAP.CELL (R126) -/

theorem rwsMask_exmapCell (p : Part) : rwsMask p Reg.exmapCell = 0xF := rfl

theorem rwsMask_exmapCell_ne_zero (p : Part) : rwsMask p Reg.exmapCell ≠ 0 := by
  rw [rwsMask_exmapCell]
  decide

/-- EXMAP belongs to no context, so no parked step holds its shadow. -/
theorem shadowHeld_exmapCell (p : Part) (m : Mach) : shadowHeld p m Reg.exmapCell = false := rfl

theorem storeRws_exmapCell (p : Part) (m : Mach) (v : Word) :
    storeRws p m Reg.exmapCell v =
      if tickRuns p m then
        { m with shadow := Assoc.set m.shadow Reg.exmapCell (shadowWritten m Reg.exmapCell (v &&& 0xF)) }
      else wr p m Reg.exmapCell ((rd p m Reg.exmapCell &&& ~~~0xF) ||| (v &&& 0xF)) := by
  unfold storeRws
  rw [shadowHeld_exmapCell, Bool.or_false]
  rfl

/-- R126: a cell is 16 nodes where SHIFT is 4. -/
theorem shiftRight_four_eq_iff (node c : Nat) : node >>> 4 = c ↔ 16 * c ≤ node ∧ node ≤ 16 * c + 15 := by
  rw [Nat.shiftRight_eq_div_pow]
  omega

/-- Settles O15: behind the gate a whole write stores its RWS field, or is ignored where SHIFT is above 12. -/
theorem cellShiftTakesUpTo12 : Obligations.CellShiftTakesUpTo12 := by
  refine ⟨fun s src v hreach => ⟨fun hhigh c hc => ⟨?ignored, ?keeps⟩, fun hlow c hc => ?stored⟩, rfl,
    shiftRight_four_eq_iff⟩
  case ignored =>
    have href : writeRefused s.part s.m Reg.exmapCell v = true := decide_eq_true hhigh
    exact refuses_wholeWrites rfl rfl (rwsMask_exmapCell_ne_zero s.part) hreach href hc
  case keeps => exact rd_ignored_ne s.part s.m src Reg.exmapCell (by decide) (by decide)
  case stored =>
    have href : writeRefused s.part s.m Reg.exmapCell v = false := decide_eq_false (Nat.not_lt.mpr hlow)
    rw [← storeRws_exmapCell]
    exact givesW_wholeWrites_rws rfl rfl (rwsMask_exmapCell_ne_zero s.part) hreach href hc

/-! ### CTXn.ADMIT_CTRL (R125) -/

theorem addrPage_ctxAdmitCtrl (c : Nat) : addrPage (Reg.ctxAdmitCtrl c) = Reg.ctxPage c := by
  unfold addrPage Reg.ctxAdmitCtrl pg
  omega

theorem addrOff_ctxAdmitCtrl (c : Nat) : addrOff (Reg.ctxAdmitCtrl c) = 0x2C0 := by
  unfold addrOff Reg.ctxAdmitCtrl pg
  omega

theorem ctxAdmitCtrl_ne {c a : Nat} (ha : a < 65536) : Reg.ctxAdmitCtrl c ≠ a := by
  unfold Reg.ctxAdmitCtrl Reg.ctxPage pg
  omega

section
variable {c : Nat} (hc : c < 8)
include hc

theorem alignAddr_ctxAdmitCtrl : alignAddr (Reg.ctxAdmitCtrl c) = Reg.ctxAdmitCtrl c := by
  unfold alignAddr Reg.ctxAdmitCtrl Reg.ctxPage pg
  omega

theorem pageKind_ctxPage (conf : Conf) : pageKind conf (Reg.ctxPage c) = (.ctx, c) := by
  interval_cases c <;> rfl

theorem pageKind_ctxAdmitCtrl (conf : Conf) : pageKind conf (addrPage (Reg.ctxAdmitCtrl c)) = (.ctx, c) := by
  rw [addrPage_ctxAdmitCtrl, pageKind_ctxPage hc]

theorem rwsMask_ctxAdmitCtrl (p : Part) : rwsMask p (Reg.ctxAdmitCtrl c) = 0xFF01FFFF := by
  unfold rwsMask
  rw [pageKind_ctxAdmitCtrl hc, addrOff_ctxAdmitCtrl]
  rfl

theorem writeRefused_ctxAdmitCtrl (p : Part) (m : Mach) (v : Word) :
    writeRefused p m (Reg.ctxAdmitCtrl c) v = (decide (65536 < bitsOf v 16 0) || bitsOf v 31 24 == 0) := by
  unfold writeRefused
  rw [pageKind_ctxAdmitCtrl hc, addrOff_ctxAdmitCtrl]
  rfl

theorem blockWrite_ctxAdmitCtrl (src : Src) (v : Word) (p : Part) (m : Mach) :
    blockWrite src (Reg.ctxAdmitCtrl c) v p m = plainWrite src (Reg.ctxAdmitCtrl c) v p m := by
  unfold blockWrite
  rw [pageKind_ctxAdmitCtrl hc, addrOff_ctxAdmitCtrl]
  unfold ctxPageWrite
  dsimp only
  rw [addrOff_ctxAdmitCtrl]
  rfl

theorem routeWrite_ctxAdmitCtrl (src : Src) (v : Word) (p : Part) (m : Mach) :
    routeWrite src (Reg.ctxAdmitCtrl c) v p m = (p, plainWrite src (Reg.ctxAdmitCtrl c) v p m) := by
  unfold routeWrite
  rw [if_neg (ctxAdmitCtrl_ne (by decide)), addrOff_ctxAdmitCtrl, blockWrite_ctxAdmitCtrl hc]
  exact if_neg fun h => absurd h.2 (by decide)

end

/-- Settles O16: behind the gate a whole write of a value out of range is ignored, and writes two other registers. -/
theorem admitCtrlTakesRange : Obligations.AdmitCtrlTakesRange := by
  intro s src c v hc hreach hout i hi
  have href : writeRefused s.part s.m (Reg.ctxAdmitCtrl c) v = true := by
    rw [writeRefused_ctxAdmitCtrl hc]
    simpa using hout
  have hmask : rwsMask s.part (Reg.ctxAdmitCtrl c) ≠ 0 := by
    rw [rwsMask_ctxAdmitCtrl hc]
    decide
  refine ⟨?_, rd_ignored_ne s.part s.m src _ (ctxAdmitCtrl_ne (by decide)) (ctxAdmitCtrl_ne (by decide))⟩
  exact refuses_wholeWrites (alignAddr_ctxAdmitCtrl hc) (routeWrite_ctxAdmitCtrl hc ..) hmask hreach href hi

end Sys2Proof.Machine
end

section
/-! The LOCAL_SHARE quotas (O26, R99, R100). -/

namespace Sys2Proof.Machine

/-! ### Sorting by a number -/

theorem insertBy_key_eq_orderedInsert {α : Type} (key : α → Nat) (x : α) (l : List α) :
    insertBy (fun a b => decide (key a < key b)) x l = l.orderedInsert (fun a b => key a ≤ key b) x := by
  induction l with
  | nil => rfl
  | cons y ys ih =>
    rw [insertBy, List.orderedInsert_cons, ih]
    by_cases h : key y < key x
    · simp [h]
    · simp [h, Nat.not_lt.mp h]

/-- The model's sort by a number is the library's insertion sort. -/
theorem sortBy_key_eq_insertionSort {α : Type} (key : α → Nat) (l : List α) :
    sortBy (fun a b => decide (key a < key b)) l = l.insertionSort (fun a b => key a ≤ key b) := by
  induction l with
  | nil => rfl
  | cons x xs ih => rw [sortBy, ih, insertBy_key_eq_orderedInsert, List.insertionSort_cons]

/-- Among numbers of different keys the insertion sort by key rises strictly. -/
theorem insertionSort_key_strict {key : Nat → Nat} {l : List Nat} (hnodup : l.Nodup)
    (hinj : ∀ a ∈ l, ∀ b ∈ l, key a = key b → a = b) :
    (l.insertionSort fun a b => key a ≤ key b).Pairwise fun a b => key a < key b := by
  have : Std.Total fun a b => key a ≤ key b := ⟨fun a b => Nat.le_total (key a) (key b)⟩
  have : IsTrans Nat fun a b => key a ≤ key b := ⟨fun _ _ _ => Nat.le_trans⟩
  have hle := List.pairwise_insertionSort (fun a b => key a ≤ key b) l
  have hne := (List.perm_insertionSort (fun a b => key a ≤ key b) l).nodup_iff.mpr hnodup
  refine (hle.and hne).imp_of_mem fun {a b} ha hb ⟨hab, hdiff⟩ => lt_of_le_of_ne hab fun heq => hdiff ?_
  exact hinj a ((List.mem_insertionSort _).mp ha) b ((List.mem_insertionSort _).mp hb) heq

/-- The first k of a strictly rising list are those with fewer than k before them. -/
theorem mem_take_iff_of_strict {key : Nat → Nat} {l : List Nat} (hrise : l.Pairwise fun a b => key a < key b)
    {x : Nat} (hx : x ∈ l) (k : Nat) :
    x ∈ l.take k ↔ (l.filter fun a => decide (key a < key x)).length < k := by
  induction l generalizing k with
  | nil => cases hx
  | cons y ys ih =>
    obtain ⟨hfirst, hrest⟩ := List.pairwise_cons.mp hrise
    cases k with
    | zero => simp
    | succ k =>
      rcases List.mem_cons.mp hx with rfl | hys
      · have hnone : (x :: ys).filter (fun a => decide (key a < key x)) = [] := by
          simpa [List.filter_eq_nil_iff] using fun a ha => (hfirst a ha).le
        simp [hnone]
      · have hlt := hfirst x hys
        have hne : x ≠ y := fun heq => absurd hlt (heq ▸ Nat.lt_irrefl _)
        simp [hlt, hne, ih hrest hys]

/-! ### The source rank -/

/-- Sources of one set have different ranks. -/
theorem sourceRank_inj {step e n i j : Nat} (hi : i < n) (hj : j < n)
    (h : sourceRank step e n i = sourceRank step e n j) : i = j := by
  have hn : (n : Int) ≠ 0 := by omega
  unfold sourceRank at h
  have hmod : ((i : Int) - (step % n : Nat) - e) % n = ((j : Int) - (step % n : Nat) - e) % n := by
    have hi0 := Int.emod_nonneg ((i : Int) - (step % n : Nat) - e) hn
    have hj0 := Int.emod_nonneg ((j : Int) - (step % n : Nat) - e) hn
    omega
  have hdvd : (n : Int) ∣ i - j := by
    rw [Int.emod_eq_emod_iff_emod_sub_eq_zero] at hmod
    have := Int.dvd_of_emod_eq_zero hmod
    rwa [show ((i : Int) - (step % n : Nat) - e) - ((j : Int) - (step % n : Nat) - e) = i - j by ring] at this
  have hzero := Int.eq_zero_of_abs_lt_dvd hdvd (by rw [abs_lt]; omega)
  omega

/-! ### The sources that get one more -/

/-- The sources of the set with a share. -/
def sharers (share : Nat → Nat) (n : Nat) : List Nat := (List.range n).filter fun j => decide (0 < share j)

/-- The floor shares in all. -/
def floorSum (cap : Nat) (share : Nat → Nat) (n : Nat) : Nat :=
  ((List.range n).map fun j => cap * share j / shareSum share n).sum

/-- The sources with a share, by source rank. -/
def sharersByRank (share : Nat → Nat) (n step e : Nat) : List Nat :=
  (sharers share n).insertionSort fun a b => sourceRank step e n a ≤ sourceRank step e n b

/-- The sources that get one more: as many, by source rank, as the floor shares leave over. -/
def toppedUp (cap : Nat) (share : Nat → Nat) (n step e : Nat) : List Nat :=
  (sharersByRank share n step e).take (cap - floorSum cap share n)

section
variable (cap : Nat) (share : Nat → Nat) (n step e : Nat)

theorem localQuota_zero {i : Nat} (hzero : shareSum share n = 0) : localQuota cap share n step e i = 0 :=
  if_pos hzero

/-- R99: the floor share, and one more for the sources topped up. -/
theorem localQuota_eq {i : Nat} (hsum : shareSum share n ≠ 0) : localQuota cap share n step e i =
    cap * share i / shareSum share n + if i ∈ toppedUp cap share n step e then 1 else 0 := by
  have hsort : (((sharers share n).map fun j => (sourceRank step e n j, j)).insertionSort fun a b => a.1 ≤ b.1) =
      (sharersByRank share n step e).map fun j => (sourceRank step e n j, j) :=
    (List.map_insertionSort _ _ (fun j => (sourceRank step e n j, j)) _ fun _ _ _ _ => Iff.rfl).symm
  have hfloor : (List.range n).foldl (fun a j => a + cap * share j / shareSum share n) 0 = floorSum cap share n := by
    rw [floorSum, List.sum_eq_foldl, List.foldl_map]
  unfold localQuota
  simp only [if_neg hsum, hfloor]
  rw [sortBy_key_eq_insertionSort Prod.fst, ← sharers, hsort, ← List.map_take, List.map_map, ← toppedUp]
  simp [Function.comp_def]

theorem mem_sharers {share : Nat → Nat} {n j : Nat} : j ∈ sharers share n ↔ j < n ∧ 0 < share j := by
  simp [sharers]

theorem nodup_sharers : (sharers share n).Nodup := List.nodup_range.filter _

theorem sharersByRank_perm : (sharersByRank share n step e).Perm (sharers share n) := List.perm_insertionSort _ _

theorem sharersByRank_strict :
    (sharersByRank share n step e).Pairwise fun a b => sourceRank step e n a < sourceRank step e n b :=
  insertionSort_key_strict (nodup_sharers share n) fun _ ha _ hb =>
    sourceRank_inj (mem_sharers.mp ha).1 (mem_sharers.mp hb).1

theorem mem_sharers_of_mem_toppedUp {cap : Nat} {share : Nat → Nat} {n step e i : Nat}
    (hi : i ∈ toppedUp cap share n step e) : i ∈ sharers share n :=
  (sharersByRank_perm share n step e).mem_iff.mp (List.mem_of_mem_take hi)

theorem nodup_toppedUp : (toppedUp cap share n step e).Nodup :=
  ((sharersByRank_perm share n step e).nodup_iff.mpr (nodup_sharers share n)).sublist (List.take_sublist _ _)

/-- A source is topped up where it has a share and fewer with a share come before it than are topped up. -/
theorem mem_toppedUp {i : Nat} (hi : i < n) : i ∈ toppedUp cap share n step e ↔ 0 < share i ∧
    ((List.range n).filter fun j => decide (0 < share j) &&
      decide (sourceRank step e n j < sourceRank step e n i)).length < cap - floorSum cap share n := by
  have hcount : ((sharersByRank share n step e).filter
        fun j => decide (sourceRank step e n j < sourceRank step e n i)).length =
      ((List.range n).filter fun j => decide (0 < share j) &&
        decide (sourceRank step e n j < sourceRank step e n i)).length := by
    rw [((sharersByRank_perm share n step e).filter _).length_eq, sharers, List.filter_filter]
    simp only [Bool.and_comm]
  by_cases hshare : 0 < share i
  · have hmem : i ∈ sharersByRank share n step e :=
      (sharersByRank_perm share n step e).mem_iff.mpr (mem_sharers.mpr ⟨hi, hshare⟩)
    rw [toppedUp, mem_take_iff_of_strict (sharersByRank_strict share n step e) hmem, hcount, and_iff_right hshare]
  · have hout : i ∉ toppedUp cap share n step e := fun h => hshare (mem_sharers.mp (mem_sharers_of_mem_toppedUp h)).2
    exact iff_of_false hout fun h => hshare h.1

/-! ### What the quotas hand out -/

theorem shareSum_eq_sum : shareSum share n = ∑ j ∈ Finset.range n, share j := by
  change _ = ((List.range n).map share).sum
  rw [shareSum, List.sum_eq_foldl, List.foldl_map]

theorem floorSum_eq_sum : floorSum cap share n = ∑ j ∈ Finset.range n, cap * share j / shareSum share n := rfl

/-- The members of a list without repetitions among the sources number its length. -/
theorem sum_ite_mem_eq_length {T : List Nat} (hT : T.Nodup) (hlt : ∀ i ∈ T, i < n) :
    (∑ i ∈ Finset.range n, if i ∈ T then 1 else 0) = T.length := by
  have hfilter : (Finset.range n).filter (· ∈ T) = T.toFinset := by
    ext i
    simpa using hlt i
  rw [← Finset.card_filter, hfilter, List.toFinset_card_of_nodup hT]

variable (hsum : shareSum share n ≠ 0)
include hsum

/-- Rounded down, the shares do not pass the capacity. -/
theorem floorSum_le : floorSum cap share n ≤ cap := by
  refine Nat.le_of_mul_le_mul_left ?_ (Nat.pos_of_ne_zero hsum)
  calc shareSum share n * floorSum cap share n
      = ∑ j ∈ Finset.range n, shareSum share n * (cap * share j / shareSum share n) := by
        rw [floorSum_eq_sum, Finset.mul_sum]
    _ ≤ ∑ j ∈ Finset.range n, cap * share j := Finset.sum_le_sum fun j _ => Nat.mul_div_le _ _
    _ = shareSum share n * cap := by rw [← Finset.mul_sum, ← shareSum_eq_sum, Nat.mul_comm]

/-- Each source with a share loses less than one by the rounding, so there are enough of them for what is left over. -/
theorem le_floorSum_add_sharers : cap ≤ floorSum cap share n + (sharers share n).length := by
  have hround : ∀ j ∈ Finset.range n, cap * share j ≤
      shareSum share n * (cap * share j / shareSum share n + if j ∈ sharers share n then 1 else 0) := by
    intro j hj
    by_cases hmem : j ∈ sharers share n
    · rw [if_pos hmem]
      exact (Nat.lt_mul_div_succ _ (Nat.pos_of_ne_zero hsum)).le
    · have hshare : share j = 0 := by simpa [mem_sharers, Finset.mem_range.mp hj] using hmem
      simp [hshare]
  refine Nat.le_of_mul_le_mul_left ?_ (Nat.pos_of_ne_zero hsum)
  calc shareSum share n * cap
      = ∑ j ∈ Finset.range n, cap * share j := by rw [← Finset.mul_sum, ← shareSum_eq_sum, Nat.mul_comm]
    _ ≤ ∑ j ∈ Finset.range n,
          shareSum share n * (cap * share j / shareSum share n + if j ∈ sharers share n then 1 else 0) :=
        Finset.sum_le_sum hround
    _ = shareSum share n * (floorSum cap share n + (sharers share n).length) := by
        rw [← Finset.mul_sum, Finset.sum_add_distrib, ← floorSum_eq_sum,
          sum_ite_mem_eq_length n (nodup_sharers share n) fun i hi => (mem_sharers.mp hi).1]

theorem toppedUp_length : (toppedUp cap share n step e).length = cap - floorSum cap share n := by
  have hle := le_floorSum_add_sharers cap share n hsum
  rw [toppedUp, List.length_take, (sharersByRank_perm share n step e).length_eq]
  omega

/-- R100: the floor shares and the sources topped up make the capacity. -/
theorem sum_localQuota : (∑ i ∈ Finset.range n, localQuota cap share n step e i) = cap := by
  have htop : (∑ i ∈ Finset.range n, if i ∈ toppedUp cap share n step e then 1 else 0) =
      cap - floorSum cap share n := by
    rw [sum_ite_mem_eq_length n (nodup_toppedUp cap share n step e) fun i hi =>
      (mem_sharers.mp (mem_sharers_of_mem_toppedUp hi)).1, toppedUp_length cap share n step e hsum]
  simp only [localQuota_eq cap share n step e hsum]
  rw [Finset.sum_add_distrib, htop, ← floorSum_eq_sum]
  exact Nat.add_sub_of_le (floorSum_le cap share n hsum)

end

/-- Settles O26: the sources topped up are those of the formula, and their number is what the floor shares leave. -/
theorem localQuotasSumToCapacity : Obligations.LocalQuotasSumToCapacity := by
  refine ⟨fun cap share n step e i hi => ?_, fun cap share n step e hsum => sum_localQuota cap share n step e hsum⟩
  by_cases hsum : shareSum share n = 0
  · rw [localQuota_zero cap share n step e hsum, if_pos hsum]
  · rw [localQuota_eq cap share n step e hsum, if_neg hsum]
    simp only [mem_toppedUp cap share n step e hi, floorSum]

end Sys2Proof.Machine
end

section
/-! Replica choice (O27, R115). -/

namespace Sys2Proof.Machine

/-! ### The nearest replicas -/

/-- The least distance from home of the replicas' nodes, 2 where there is none. -/
def leastDist (shift home : Nat) (vs : List Replica) : Nat :=
  vs.foldl (fun a w => min a (replicaDist shift home w.node)) 2

/-- The replicas among which the choice is made: those at the least distance. -/
def nearestReplicas (shift home : Nat) (vs : List Replica) : List Replica :=
  vs.filter fun w => replicaDist shift home w.node = leastDist shift home vs

theorem replicaDist_le_two (shift home node : Nat) : replicaDist shift home node ≤ 2 := by
  unfold replicaDist
  split
  · exact Nat.zero_le 2
  · split <;> decide

/-- The least distance is one of the distances or 2, and none of these undercuts it. -/
theorem leastDist_isLeast (shift home : Nat) (vs : List Replica) :
    leastDist shift home vs ∈ 2 :: vs.map (fun w => replicaDist shift home w.node) ∧
      ∀ d ∈ 2 :: vs.map (fun w => replicaDist shift home w.node), leastDist shift home vs ≤ d := by
  rw [← List.min?_eq_some_iff, List.min?_cons', List.foldl_map]
  rfl

theorem leastDist_le {vs : List Replica} {x : Replica} (shift home : Nat) (hx : x ∈ vs) :
    leastDist shift home vs ≤ replicaDist shift home x.node :=
  (leastDist_isLeast shift home vs).2 _ (List.mem_cons_of_mem _ (List.mem_map_of_mem hx))

theorem mem_nearestReplicas {shift home : Nat} {vs : List Replica} {r : Replica} :
    r ∈ nearestReplicas shift home vs ↔ r ∈ vs ∧ replicaDist shift home r.node = leastDist shift home vs := by
  simp [nearestReplicas]

/-- No distance passes 2, so the fold's start stands for a replica wherever there is one. -/
theorem nearestReplicas_ne_nil {shift home : Nat} {vs : List Replica} (hvs : vs ≠ []) :
    nearestReplicas shift home vs ≠ [] := by
  obtain ⟨hmem, -⟩ := leastDist_isLeast shift home vs
  rcases List.mem_cons.mp hmem with htwo | hdist
  · obtain ⟨x, hx⟩ := List.exists_mem_of_ne_nil vs hvs
    have hge : 2 ≤ replicaDist shift home x.node := htwo ▸ leastDist_le shift home hx
    have hle := replicaDist_le_two shift home x.node
    exact List.ne_nil_of_mem (mem_nearestReplicas.mpr ⟨hx, by omega⟩)
  · obtain ⟨x, hx, heq⟩ := List.mem_map.mp hdist
    exact List.ne_nil_of_mem (mem_nearestReplicas.mpr ⟨hx, heq⟩)

/-! ### The choice -/

/-- A 64-bit fraction of a length is an index below it. -/
theorem scaled_lt {n : Nat} (h : Word) (hn : 0 < n) : (h.toNat * n) >>> 64 < n := by
  rw [Nat.shiftRight_eq_div_pow]
  exact Nat.div_lt_of_lt_mul (Nat.mul_lt_mul_of_pos_right h.isLt hn)

section
variable (reps : List Replica) (shift : Nat) (seed salt step : Word) (layer home token rank : Nat)

/-- R115: a lone nearest valid replica is taken, and among several the generator's number picks the place. -/
theorem pickReplica_eq : pickReplica reps shift seed salt step layer home token rank =
    let near := nearestReplicas shift home (reps.filter Replica.valid)
    if near.length ≤ 1 then near.head?
    else near[((gen seed salt step 1 layer home token rank).toNat * near.length) >>> 64]? := rfl

theorem pickReplica_mem {r : Replica} (h : pickReplica reps shift seed salt step layer home token rank = some r) :
    r ∈ nearestReplicas shift home (reps.filter Replica.valid) := by
  simp only [pickReplica_eq] at h
  split at h
  · exact List.mem_of_mem_head? h
  · exact List.mem_of_getElem? h

theorem pickReplica_ne_none (h : reps.filter Replica.valid ≠ []) :
    pickReplica reps shift seed salt step layer home token rank ≠ none := by
  have hnear := nearestReplicas_ne_nil (shift := shift) (home := home) h
  simp only [pickReplica_eq]
  split
  · exact fun hnone => hnear (List.head?_eq_none_iff.mp hnone)
  · rw [Ne, List.getElem?_eq_none_iff, Nat.not_le]
    exact scaled_lt _ (List.length_pos_of_ne_nil hnear)

end

/-- Settles O27: the choice is one of the nearest valid replicas, of which there is one wherever a valid one is. -/
theorem replicaIsNearest : Obligations.ReplicaIsNearest := by
  intro reps shift seed salt step layer home token rank
  refine ⟨fun r hpick => ?_, fun ⟨x, hx, hvalid⟩ => ?_⟩
  · have hnear := pickReplica_mem reps shift seed salt step layer home token rank hpick
    obtain ⟨hmem, hdist⟩ := mem_nearestReplicas.mp hnear
    obtain ⟨hreps, hvalid⟩ := List.mem_filter.mp hmem
    refine ⟨hreps, hvalid, fun x hx hxv => ?_⟩
    exact hdist.le.trans (leastDist_le shift home (List.mem_filter.mpr ⟨hx, hxv⟩))
  · have hsome : reps.filter Replica.valid ≠ [] := List.ne_nil_of_mem (List.mem_filter.mpr ⟨hx, hvalid⟩)
    exact pickReplica_ne_none reps shift seed salt step layer home token rank hsome

end Sys2Proof.Machine
end

section
/-! TABLE_LOAD, PROG_LOAD and BIAS_UPDATE (O43, R43 to R46, R112, R122, R123, R306, R509). -/

namespace Sys2Proof.Machine

/-! ### TABLE_LOAD of a map, bias or share image (R122, R123) -/

section
variable {p : Part} {m : Mach} {w q : Nat} {r : Running} (hdue : dueCmd p m w q 0x40 = some r)
  (hopen : ¬(w = 8 ∨ groupCopies m w = true)) (hkind : ¬(bytesOf r.line 16 16 = 0 ∨ 3 < bytesOf r.line 16 16))
  (hmem : r.memFail = false) (htxns : txnsOut m (.cmdRead r.acc) = false)
include hdue hopen hkind hmem htxns

/-- An image that passes its checks waits with the context's pending tables, behind the completion, and the waiting
images come into force where nothing holds them back. -/
theorem tableLoad_passes {t : PendTable}
    (hcheck : checkImage (ctxOf m w) r.acc (bytesOf r.line 16 16)
      (hostBytes m (bytesOf r.line 24 31 % 2 ^ 42) (bytesOf r.line 32 35)) = .ok t) :
    tableLoad w q p m =
      let n := tableEnd p (setCtx m w { ctxOf m w with pend := (ctxOf m w).pend ++ [t] }) r 0 0 true
      if atOnce p n w then applyTables p n w (fun q => !q.isUpdate) else n := by
  unfold tableLoad
  simp only [hdue, if_neg hopen, if_neg hkind, hmem, htxns, hcheck, Bool.false_eq_true, if_false]

/-- An image that fails a check ends the command with the reason and the offset. -/
theorem tableLoad_fails {e off : Nat}
    (hcheck : checkImage (ctxOf m w) r.acc (bytesOf r.line 16 16)
      (hostBytes m (bytesOf r.line 24 31 % 2 ^ 42) (bytesOf r.line 32 35)) = .error (e, off)) :
    tableLoad w q p m = tableEnd p m r e off true := by
  unfold tableLoad
  simp only [hdue, if_neg hopen, if_neg hkind, hmem, htxns, hcheck, Bool.false_eq_true, if_false]

end

/-! ### TABLE_LOAD of routes (R306, R307) -/

section
variable {p : Part} {m : Mach} {q : Nat} {r : Running} (hdue : dueCmd p m 8 q 0x40 = some r)
  (hmem : r.memFail = false) (htxns : txnsOut m (.cmdRead r.acc) = false)
include hdue hmem htxns

/-- Routes that pass their checks are in force at once. -/
theorem tableLoadRoute_passes {es : List (Nat × Route)}
    (hcheck : checkRoutes p (hostBytes m (bytesOf r.line 24 31 % 2 ^ 42) (bytesOf r.line 32 35)) = .ok es) :
    tableLoadRoute 8 q p m = routeEnd p (installRoutes p m es) r 0 0 := by
  unfold tableLoadRoute
  simp only [hdue, hmem, htxns, hcheck, ne_eq, not_true_eq_false, Bool.false_eq_true, if_false]

/-- A route image that fails a check ends the command with the reason and the destination. -/
theorem tableLoadRoute_fails {e d : Nat}
    (hcheck : checkRoutes p (hostBytes m (bytesOf r.line 24 31 % 2 ^ 42) (bytesOf r.line 32 35)) = .error (e, d)) :
    tableLoadRoute 8 q p m = routeEnd p m r e d := by
  unfold tableLoadRoute
  simp only [hdue, hmem, htxns, hcheck, ne_eq, not_true_eq_false, Bool.false_eq_true, if_false]

end

/-! ### PROG_LOAD (R43 to R46) -/

section
variable {p : Part} {m : Mach} {w q : Nat} {r : Running} (hdue : dueCmd p m w q 0x41 = some r)
include hdue

/-- R45: a program for which the stores have no room ends with NO_SPACE, before its image counts. -/
theorem progLoad_noSpace (hroom : storeRoom p m (bytesOf r.line 24 27) (bytesOf r.line 28 31) = false) :
    progLoad w q p m = progLoadEnd p m r 0x0B 0 := by
  unfold progLoad
  simp [hdue, hroom]

variable (hmem : r.memFail = false) (htxns : txnsOut m (.cmdRead r.acc) = false)
  (hroom : storeRoom p m (bytesOf r.line 24 27) (bytesOf r.line 28 31) = true)
  (hmoves : useMoves p m [.program, .system] = false)
include hmem htxns hroom hmoves

/-- A program that passes its checks waits for the step boundary, or is taken where no tick and no parked step holds it
back. -/
theorem progLoad_passes {bs ts : List Line}
    (hbs : bs = imageLines m (bytesOf r.line 16 23 % 2 ^ 42) (bytesOf r.line 24 27))
    (hts : ts = imageLines m (bytesOf r.line 16 23 % 2 ^ 42 + 64 * bytesOf r.line 24 27) (bytesOf r.line 28 31))
    (hfault : programFault p m (partitionSize (ctxOf m w)) bs ts = (0, 0)) :
    progLoad w q p m =
      let n := setCtx m w { ctxOf m w with newProgram := some (r.acc, ⟨bs, ts⟩) }
      progLoadEnd p (if tickRuns p n || hasParked n w then n else takeNewProgram p n w) r 0 0 := by
  subst hbs hts
  unfold progLoad
  simp only [hdue, hmem, htxns, hroom, hmoves, hfault, Bool.not_true, Bool.or_self, ne_eq, not_true_eq_false,
    Bool.false_eq_true, if_false]

/-- A program that fails a check ends the command with the reason and the index. -/
theorem progLoad_fails {bs ts : List Line} {e i : Nat}
    (hbs : bs = imageLines m (bytesOf r.line 16 23 % 2 ^ 42) (bytesOf r.line 24 27))
    (hts : ts = imageLines m (bytesOf r.line 16 23 % 2 ^ 42 + 64 * bytesOf r.line 24 27) (bytesOf r.line 28 31))
    (hfault : programFault p m (partitionSize (ctxOf m w)) bs ts = (e, i)) (he : e ≠ 0) :
    progLoad w q p m = progLoadEnd p m r e i := by
  subst hbs hts
  unfold progLoad
  simp only [hdue, hmem, htxns, hroom, hmoves, hfault, Bool.not_true, Bool.or_self, Bool.false_eq_true, if_false,
    if_pos he]

end

/-! ### BIAS_UPDATE (R112) -/

theorem ctxOf_setRunning (m : Mach) (r : Running) (c : Nat) : ctxOf (setRunning m r) c = ctxOf m c := rfl

section
variable {p : Part} {m : Mach} {w q : Nat} {r : Running} (hdue : dueCmd p m w q 0x42 = some r)
  (hmem : r.memFail = false) (hcopies : groupCopies m w = false)
  (hreads : txnsOut m (.cmdRead r.acc) = false) (hwrites : txnsOut m (.cmdWrite r.acc) = false)
include hdue hmem hcopies hreads hwrites

/-- An update that has acted completes once its dump's writes are over. -/
theorem biasUpdate_completes (hphase : r.phase = .waiting) : biasUpdate w q p m = complete m r stDone := by
  unfold biasUpdate
  simp only [hdue, hmem, hcopies, hreads, hwrites, hphase, Bool.or_self, Bool.false_eq_true, if_false, if_true]

/-- An update without LOAD, which reads no image, waits for the edge, or acts where nothing holds it back. -/
theorem biasUpdate_waits {t : PendTable} (hphase : r.phase = .started)
    (hload : (bytesOf r.line 16 16).testBit 0 = false)
    (hcheck : checkUpdate (ctxOf m w) r (hostBytes m (bytesOf r.line 24 31 % 2 ^ 42) r.stage) = .ok t) :
    biasUpdate w q p m =
      let n := setRunning m { r with phase := .atEdge }
      let n := setCtx n w { ctxOf n w with pend := (ctxOf n w).pend ++ [t] }
      if atOnce p n w then applyTables p n w PendTable.isUpdate else n := by
  unfold biasUpdate
  simp only [hdue, hmem, hcopies, hreads, hwrites, hphase, hload, hcheck, ctxOf_setRunning, Bool.or_self,
    Bool.false_eq_true, reduceCtorEq, if_false]

end

/-! ### The commands -/

/-- A command that gives a machine gives what that machine is equal to. -/
theorem Gives.trans_eq {c : Instr} {s : State} {m n : Mach} (h : Gives c s m) (heq : m = n) : Gives c s n := heq ▸ h

theorem gives_tableLoad (w q : Nat) (s : State) : Gives (.tableLoad w q) s (tableLoad w q s.part s.m) := rfl

theorem gives_tableLoadRoute (w q : Nat) (s : State) :
    Gives (.tableLoadRoute w q) s (tableLoadRoute w q s.part s.m) := rfl

theorem gives_progLoad (w q : Nat) (s : State) : Gives (.progLoad w q) s (progLoad w q s.part s.m) := rfl

theorem gives_biasUpdate (w q : Nat) (s : State) : Gives (.biasUpdate w q) s (biasUpdate w q s.part s.m) := rfl

/-- Settles O43: each command answers its meaning, which takes the branch that the image's checks choose. -/
theorem tableLoadsAnswer : Obligations.TableLoadsAnswer := by
  refine ⟨?table, ?route, ?program, ?noSpace, ?bias⟩
  case table =>
    intro s w q r hdue hw hcopies hlo hhi hmem htxns
    have hopen : ¬(w = 8 ∨ groupCopies s.m w = true) := by simp [hcopies]; omega
    have hkind : ¬(bytesOf r.line 16 16 = 0 ∨ 3 < bytesOf r.line 16 16) := by omega
    refine ⟨fun t hcheck => ?_, fun e off hcheck => ?_⟩
    · exact (gives_tableLoad w q s).trans_eq (tableLoad_passes hdue hopen hkind hmem htxns hcheck)
    · exact (gives_tableLoad w q s).trans_eq (tableLoad_fails hdue hopen hkind hmem htxns hcheck)
  case route =>
    intro s q r hdue hmem htxns
    refine ⟨fun es hcheck => ?_, fun e d hcheck => ?_⟩
    · exact (gives_tableLoadRoute 8 q s).trans_eq (tableLoadRoute_passes hdue hmem htxns hcheck)
    · exact (gives_tableLoadRoute 8 q s).trans_eq (tableLoadRoute_fails hdue hmem htxns hcheck)
  case program =>
    intro s w q r hdue hmem htxns hroom hmoves
    refine ⟨fun hfault => ?_, fun e i hfault he => ?_⟩
    · exact (gives_progLoad w q s).trans_eq (progLoad_passes hdue hmem htxns hroom hmoves rfl rfl hfault)
    · exact (gives_progLoad w q s).trans_eq (progLoad_fails hdue hmem htxns hroom hmoves rfl rfl hfault he)
  case noSpace =>
    intro s w q r hdue hroom
    exact (gives_progLoad w q s).trans_eq (progLoad_noSpace hdue hroom)
  case bias =>
    intro s w q r hdue hmem hcopies hreads hwrites
    refine ⟨fun hphase => ?_, fun t hphase hload hcheck => ?_⟩
    · exact (gives_biasUpdate w q s).trans_eq (biasUpdate_completes hdue hmem hcopies hreads hwrites hphase)
    · exact (gives_biasUpdate w q s).trans_eq (biasUpdate_waits hdue hmem hcopies hreads hwrites hphase hload hcheck)

end Sys2Proof.Machine
end

section
/-! Token records, packing, close markers, and the credit that billets spend (O55, R133, R147, R157 to R161, R167). -/

namespace Sys2Proof.Machine

/-! ### Token records (R133, R559) -/

/-- A record pairs with the next token of its batch, and with that token decided and its checks passed it lands in its
stage buffers. -/
theorem tokenRecord_lands {p : Part} {m n : Mach} {q k : Nat} {s : StepRun} {r : InRec} {l : LayerT} {tok : Tok}
    {area : List Byte} {bufs : List (Nat × Nat)} (htake : takeable p m q k chToken = some (s, r, l))
    (hcopies : groupCopies m s.ctx = false)
    (htok : (phaseOf s (headLayer chToken r.header)).toks[(phaseOf s (headLayer chToken r.header)).paired]? = some tok)
    (harea : area = (beatBytes r.beats).take (areaLen (tkFmt r.header) l.hidden 64)) (hdecided : tok.decided = true)
    (hfail : r.fail = none) (hcheck : tokenCheck l tok r area = 0)
    (hroom : inputRoom p m s.ctx (512 * r.beats.length) = true) (hland : landStage p m r area.length = some (bufs, n)) :
    tokenRecord q k p m =
      let layer := headLayer chToken r.header
      let landed := setTok (putStage n s.ctx bufs area) s.ctx (keyOf s layer)
        { tok with landed := some (r.header, area), stage := bufs }
      takeRec p (updPhase (recordInput p landed s.ctx layer r) s.ctx (keyOf s layer)
        fun x => { x with paired := x.paired + 1 }) q k := by
  subst harea
  unfold tokenRecord
  simp only [htake, hcopies, htok, hdecided, hfail, hcheck, hroom, hland, Bool.not_true, Bool.false_eq_true, ne_eq,
    not_true_eq_false, if_false]

/-! ### The PACK and SEND lanes (R147, R160, R167) -/

section
variable {p : Part} {m : Mach} {s : StepRun} {l : LayerT}
  (hlive : liveStep m = some s) (hup : engineUp m = true) (hfatal : isFatal p m = false)
include hlive hup hfatal

/-- The token that PACK finds is encoded, and the billets and the records that waited go on. -/
theorem packEncode_packs {f : ReadFinding} {n : Mach}
    (htmpl : boundTmpl s lanePack (laneOf s lanePack).layer = some l)
    (hopen : laneOpenAt s lanePack (laneOf s lanePack).layer = true)
    (hitem : ((phaseOf s (laneOf s lanePack).layer).toks.filter fun t => t.decided && t.final && !t.packed).findSome?
      (packItem p m s (laneOf s lanePack).layer l f) = some n) :
    packEncode f p m = drainAllIn p (pumpSend p n s.ctx) := by
  unfold packEncode
  simp only [hlive, htmpl, hup, hfatal, hopen, hitem, Bool.not_false, Bool.and_self, if_true]

/-- R167: a destination of the layer's nodes to which nothing is left to send gets its marker, which counts the billets
sent; on the loopback path the marker has left at once. -/
theorem closeMarkerSend_closes {dest : Nat} (htmpl : boundTmpl s laneSend (laneOf s laneSend).layer = some l)
    (hopen : laneOpenAt s laneSend (laneOf s laneSend).layer = true) (hnode : dest ∈ l.nodes)
    (hunsent : dest ∉ (phaseOf s (laneOf s laneSend).layer).closeSent)
    (hreach : dest ∉ (phaseOf s (laneOf s laneSend).layer).unreach)
    (hpacked : packFinished (phaseOf s (laneOf s laneSend).layer) = true)
    (hempty : headBillet (phaseOf s (laneOf s laneSend).layer) dest = none) :
    closeMarkerSend dest p m =
      let layer := (laneOf s laneSend).layer
      let k := keyOf s layer
      let m := lapseCredit p (updPhase m s.ctx k fun x => { x with closeSent := x.closeSent ++ [dest] }) s.ctx k dest
      let m := queuePacket p m 1 dest false 0 s.ctx (.close s.ctx k dest)
        (closeHeader p m s dest layer (Assoc.get 0 (phaseOf s layer).sentCount dest))
      if dest = nodeId p m then updPhase m s.ctx k fun x => { x with closeLeft := x.closeLeft ++ [dest] } else m := by
  unfold closeMarkerSend
  simp [hlive, htmpl, hup, hfatal, hopen, hnode, hunsent, hreach, hpacked, hempty]

/-- R160: a head billet without usable credit, for which no ASK is out, asks its destination for one. -/
theorem ask_asks {dest layer : Nat} {b : Billet} (hphase : askPhase p m s dest = some (layer, b))
    (hcredit : bestCredit (ctxOf m s.ctx) (keyOf s layer) dest b.cls = none)
    (hasked : (dest, keyOf s layer) ∉ (ctxOf m s.ctx).asked) :
    ask dest p m =
      let x := ctxOf m s.ctx
      let k := keyOf s layer
      let m := bump p (setCtx m s.ctx { x with asked := x.asked ++ [(dest, k)] }) (Reg.ctxAskCnt s.ctx) 1
      if dest = nodeId p m then queueAsk p m s.ctx dest k b.cls
      else sendRecord p m dest (creditRecord p m s.ctx k b.cls 0x13 1 0) := by
  unfold ask
  simp [hlive, hphase, hup, hfatal, hcredit, hasked]

end

/-! ### Credit records (R157 to R161) -/

section
variable {p : Part} {m n : Mach} {r : In0} {c : Nat} (htarget : creditTarget p n r.bytes = some c)
include htarget

/-- R159: a KINDLE is answered at once. -/
theorem kindleReceive_answers (htake : takeRecord m 0x11 = some (r, n)) :
    kindleReceive p m =
      answerKindle p n c r.src (recKey r.bytes) (bytesOf r.bytes 10 10 % 8) (bytesOf r.bytes 12 13) := by
  unfold kindleReceive
  simp only [htake, htarget]

/-- R160: an ASK joins its context's queue, and the queues are answered as far as buffers allow. -/
theorem askReceive_queues (htake : takeRecord m 0x13 = some (r, n)) :
    askReceive p m =
      let queued := queueAsk p n c r.src (recKey r.bytes) (bytesOf r.bytes 10 10 % 8)
      (residents queued).foldl (pumpAsks p) queued := by
  unfold askReceive
  simp only [htake, htarget]

/-- R157: credit that comes is taken for its key and class. -/
theorem grantReceive_takes (htake : takeRecord m 0x12 = some (r, n)) :
    grantReceive p m =
      takeGrant p n c r.src (recKey r.bytes) (bytesOf r.bytes 10 10 % 8) (bytesOf r.bytes 12 13)
        (bitOf r.bytes 112) := by
  unfold grantReceive
  simp only [htake, htarget]

end

/-! ### The commands -/

/-- A command carried out in its turn gives what its effect gives, or leaves the state as it is (R11, R406). -/
theorem givesInTurn_of_exec {c : Instr} {s : State} {go : Mach → Mach}
    (hexec : exec c s = .next { s with m := inTurn s.part s.m go }) : GivesInTurn c s (go s.m) := by
  refine ⟨fun hgoes => ?_, fun hwaits => ?_⟩
  · have hturn : inTurn s.part s.m go = go s.m := if_pos hgoes
    rwa [hturn] at hexec
  · have hturn : inTurn s.part s.m go = s.m := if_neg (by simp [hwaits])
    rwa [hturn] at hexec

theorem givesInTurn_packEncode (f : ReadFinding) (s : State) :
    GivesInTurn (.packEncode f) s (packEncode f s.part s.m) := givesInTurn_of_exec (go := packEncode f s.part) rfl

theorem gives_tokenRecord (q k : Nat) (s : State) : Gives (.tokenRecord q k) s (tokenRecord q k s.part s.m) := rfl

theorem gives_closeMarkerSend (dest : Nat) (s : State) :
    Gives (.closeMarkerSend dest) s (closeMarkerSend dest s.part s.m) := rfl

theorem gives_ask (dest : Nat) (s : State) : Gives (.ask dest) s (ask dest s.part s.m) := rfl

theorem gives_kindleReceive (s : State) : Gives .kindleReceive s (kindleReceive s.part s.m) := rfl

theorem gives_askReceive (s : State) : Gives .askReceive s (askReceive s.part s.m) := rfl

theorem gives_grantReceive (s : State) : Gives .grantReceive s (grantReceive s.part s.m) := rfl

/-- Settles O55: each command answers its meaning, which takes the branch that the clause's conditions name. -/
theorem packAndSendAnswer : Obligations.PackAndSendAnswer := by
  refine ⟨?token, ?pack, ?close, ?ask, fun s r m c htarget => ⟨?kindle, ?queue, ?grant⟩⟩
  case token =>
    intro s q k st r l tok bufs m htake hcopies layer area htok hdecided hfail hcheck hroom hland
    exact (gives_tokenRecord q k s).trans_eq
      (tokenRecord_lands htake hcopies htok rfl hdecided hfail hcheck hroom hland)
  case pack =>
    intro s f st l m hlive layer htmpl hup hfatal hopen hitem
    have hgives := givesInTurn_packEncode f s
    rwa [packEncode_packs hlive hup hfatal htmpl hopen hitem] at hgives
  case close =>
    intro s dest st l hlive layer x k htmpl hup hfatal hopen hnode hunsent hreach hpacked hempty
    exact (gives_closeMarkerSend dest s).trans_eq
      (closeMarkerSend_closes hlive hup hfatal htmpl hopen hnode hunsent hreach hpacked hempty)
  case ask =>
    intro s dest layer st b hlive hphase hup hfatal x k hcredit hasked
    exact (gives_ask dest s).trans_eq (ask_asks hlive hup hfatal hphase hcredit hasked)
  case kindle => exact fun htake => (gives_kindleReceive s).trans_eq (kindleReceive_answers htarget htake)
  case queue => exact fun htake => (gives_askReceive s).trans_eq (askReceive_queues htarget htake)
  case grant => exact fun htake => (gives_grantReceive s).trans_eq (grantReceive_takes htarget htake)

end Sys2Proof.Machine
end

section
/-! Billets, ricks, expert outputs, return tiles and combining (O56, R171, R174, R176 to R178, R189, R199 to R209,
R222, R461). -/

namespace Sys2Proof.Machine

/-! ### Billets off the network and off the loopback path (R171, R173, R461) -/

/-- R10: work that a hearth can take in this cycle is done with its item placed. -/
theorem onHearth_placed {p : Part} {m z : Mach} {u : SubUnit} {c : Nat} {i : ItemRef} {n : Nat}
    (hplace : (placement p m u).isSome = true) (hz : z = placeItem p m u c i n) (work : Mach → Mach) :
    onHearth p m u c i n work = work z :=
  hz ▸ if_pos hplace

/-- R171: the RECV item of a header is placed on a packer/arranger. -/
theorem onPacker_item {p : Part} {m : Mach} {h : Line} {r : StepRun} {l : LayerT}
    (hcase : recvCase p m h = .item r l) (hplace : (placement p m .packer).isSome = true) (work : Mach → Mach) :
    onPacker p m h work =
      work (placeItem p m .packer r.ctx (.step (bhLayer h) laneRecv (bhHome h) (bhToken h) 0) 1) := by
  unfold onPacker
  rw [hcase]
  exact onHearth_placed hplace rfl work

/-- What a read finds and the machine that it leaves, where it does not fail its item. -/
theorem read_clean {found : Bool × Mach} {n : Mach} (h : found = (false, n)) : found.1 = false ∧ n = found.2 :=
  h ▸ ⟨rfl, rfl⟩

/-- With nothing amiss in what it reads, and no group of its context being copied, a billet is received as if nothing
were read. -/
theorem billetRead_clean {p : Part} {m : Mach} {loop : Bool}
    (hcopies : ∀ i ∈ billetItem p m loop, groupCopies m i.1 = false) :
    billetRead loop .clean p m = billetReceive loop p m := by
  have hopen : (billetItem p m loop).any (fun i => groupCopies m i.1) = false :=
    (Option.any_eq_false _ _).mpr fun i hi => hcopies i hi
  unfold billetRead
  rw [hopen]
  simp [storeCorrected]

section
variable {p : Part} {m : Mach} {x : RxPkt} (hfind : m.net.rx.find? (billetDue p m) = some x)
include hfind

/-- A packet dealt with before is no item: its code alone is left to land. -/
theorem billetItem_taken (htaken : x.taken = true) : billetItem p m false = none := by
  simp [billetItem, hfind, Option.filter_some, htaken]

theorem billetReceive_taken (htaken : x.taken = true) : billetReceive false p m = codeLands p (dropRx m x) x := by
  unfold billetReceive
  simp [hfind, htaken]

variable (hfresh : x.taken = false) {r : StepRun} {l : LayerT} (hcase : recvCase p m (rxHeader x) = .item r l)
include hfresh hcase

theorem billetItem_fresh : billetItem p m false = some (r.ctx, bhLayer (rxHeader x)) := by
  simp [billetItem, hfind, Option.filter_some, hfresh, hcase]

theorem billetReceive_fresh (hplace : (placement p m .packer).isSome = true) :
    billetReceive false p m =
      let h := rxHeader x
      let n := placeItem p m .packer r.ctx (.step (bhLayer h) laneRecv (bhHome h) (bhToken h) 0) 1
      if rxWhole x then takeBillet p (dropRx n x) x.src h (rxCode x) none false
      else takeBillet p (markRx n x) x.src h (rxCode x) (some x.ptag) false := by
  unfold billetReceive
  simp only [hfind, hfresh, Bool.false_eq_true, if_false]
  exact onPacker_item hcase hplace _

end

section
variable {p : Part} {m : Mach} {c : Nat} {b : Billet} {r : StepRun} {l : LayerT}
  (hfind : m.run.loopBillets.find? (fun b => (recvCase p m b.2.header).due) = some (c, b))
  (hcase : recvCase p m b.header = .item r l)
include hfind hcase

theorem billetItem_loop : billetItem p m true = some (r.ctx, bhLayer b.header) := by
  simp [billetItem, hfind, hcase]

/-- R17, R142: a billet off the loopback path leaves it, and its copy is complete. -/
theorem billetReceive_loop (hplace : (placement p m .packer).isSome = true) :
    billetReceive true p m =
      let h := b.header
      let n := placeItem p m .packer r.ctx (.step (bhLayer h) laneRecv (bhHome h) (bhToken h) 0) 1
      let n := { n with run := { n.run with loopBillets := n.run.loopBillets.erase (c, b) } }
      loopCopied (takeBillet p n (nodeId p n) h b.code none false) c b := by
  unfold billetReceive
  simp only [hfind, if_true]
  exact onPacker_item hcase hplace _

end

section
variable {p : Part} {m : Mach} {loop : Bool} {c layer : Nat} (hitem : billetItem p m loop = some (c, layer))
  (hcopies : groupCopies m c = false)
include hitem hcopies

/-- R461: with a word of the partition's pool bitmaps lost, the billet's context is torn down before it is received. -/
theorem billetRead_wordLost (n : Nat) : billetRead loop (.word n false) p m =
    billetReceive loop p (teardown p (wordLost p m c) c causeInternal layer) := by
  unfold billetRead
  simp [hitem, hcopies]

/-- R222: with a kiln line lost, the billet's item fails. -/
theorem billetRead_lineLost (n : Nat) : billetRead loop (.line n false) p m =
    billetReceive loop p (kilnUe p m n (some 0)) true := by
  unfold billetRead
  simp [hitem, hcopies]

end

/-- R174: the oldest marker whose case is known leaves the received packets and is recorded. -/
theorem closeMarkerReceive_takes {loop : Bool} {p : Part} {m : Mach} {x : RxPkt}
    (hfind : m.net.rx.find? (fun x => x.vc == 1 && rxWhole x && bhKind (lineOf (rxBytes x)) == 2 &&
      (x.src == nodeId p m) == loop && (recvCase p m (lineOf (rxBytes x))).due) = some x) :
    closeMarkerReceive loop p m = takeMarker p (dropRx m x) x.src (lineOf (rxBytes x)) := by
  unfold closeMarkerReceive
  rw [hfind]

/-! ### Ricks (R176 to R178) -/

section
variable {p : Part} {m : Mach} {slot : Nat} {s : StepRun} {l : LayerT} {layer : Nat}
  (hfeed : feedAt p m = some (s, l, layer)) (hmay : rickMay p m s l layer slot = true)
include hfeed hmay

/-- The next rows of a rick that may go are given to a record, which starts once their first code reads back. -/
theorem rickRowDeliver_streams {f : ReadFinding} {b : RecvBillet} {rows : List RecvBillet} {last : Bool} {t : Nat}
    {n : Mach} (hnext : nextRows (phaseOf s layer) l slot = some (b :: rows, last, t))
    (hbusy : copyBusy m (bufAddr (ctxOf m s.ctx) b.cls b.buf) = false)
    (hplace : (placement p m .coder).isSome = true) {z : Mach}
    (hz : z = placeItem p m .coder s.ctx (.step layer laneFeed b.home b.token 0) (feedCycles l (b :: rows)))
    (hread : kilnRead p z (bufAddr (ctxOf z s.ctx) b.cls b.buf) f (some 0) = (false, n)) :
    rickRowDeliver slot f p m =
      let k := keyOf s layer
      let x := phaseOf s layer
      let r := rickOf x slot
      let n := updPhase n s.ctx k fun x =>
        { setRick (giveRows x slot (b :: rows)) { r with rows := r.rows + (b :: rows).length, ended := last }
          with outRicks := x.outRicks + 1 }
      pumpAsks p (placeOut p n
        { beats := rickBeats l layer slot r.rows last (b :: rows),
          use := .rick s.ctx k slot ((b :: rows).map fun b => (b.home, b.token)),
          awaits := ((b :: rows).filter fun b => !b.whole).map fun b => (b.home, b.token),
          landed := recLanded l (b :: rows) (if layTiles l then 16 * rowLen l b else 0), tiled := layTiles l }) s.ctx := by
  obtain ⟨hok, rfl⟩ := read_clean hread
  unfold rickRowDeliver
  simp only [hfeed, hnext, hmay, List.headD_cons, hbusy, Bool.not_true, Bool.false_eq_true, if_false]
  rw [onHearth_placed hplace hz]
  exact if_neg (by simp [hok])

/-- R177: a rick with no rows left, RECV finished, gets its terminating record. -/
theorem rickEnd_ends (hleft : rowsLeft (phaseOf s layer) slot = []) (hfin : recvFinished (phaseOf s layer) l = true) :
    rickEnd slot p m =
      let r := rickOf (phaseOf s layer) slot
      let n := updPhase m s.ctx (keyOf s layer) fun x =>
        { setRick x { r with ended := true } with outRicks := x.outRicks + 1 }
      placeOut p n
        { beats := [(rowHead true true 0 0 layer slot r.rows, 0)], use := .rick s.ctx (keyOf s layer) slot [] } := by
  unfold rickEnd
  simp only [hfeed, hleft, hfin, hmay, List.isEmpty_nil, Bool.and_self, if_true]

end

/-! ### Expert outputs and return tiles (R189, R199) -/

/-- R189: an output that passes its checks is encoded into its class-2 buffer and sent home, and its record is done. -/
theorem expertOutputRecord_sends {p : Part} {m n : Mach} {q k buf : Nat} {s : StepRun} {r : InRec} {l : LayerT}
    (htake : takeable p m q k chExpout = some (s, r, l)) (hfail : r.fail = none) (hcode : r.code = 0)
    (hreason : takeReason (phaseOf s (headLayer chExpout r.header)) l r.header = 0)
    (hcopies : groupCopies m s.ctx = false) (hplace : (placement p m .coder).isSome = true)
    (hroom : inputRoom p m s.ctx (512 * r.beats.length) = true)
    (halloc : allocAll p s.ctx .take [2] m = some ([(2, buf)], n)) :
    expertOutputRecord q k p m =
      let w := r.header
      let layer := headLayer chExpout w
      let n := placeItem p n .coder s.ctx (.step layer laneTake (exHome w) (exToken w) (exColt w))
        (coderCycles (512 * r.beats.length))
      let bs := beatBytes r.beats
      let elems := tileElems l.hidden (exColt w)
      let kv := l.mode == modeKv
      let enc := returnCode p n s.ctx (exFmt w) elems (if kv then bs.drop 512 else bs)
      let header := tileHeader p n s (exHome w) layer (exToken w) (exSlot w) (exColt w)
        (rdF p n (Reg.ctxRetCtrl s.ctx) 4 0) enc.bytes.length elems
      let n := updPhase (countCode p n s.ctx enc false) s.ctx (keyOf s layer) fun x => markTaken x w
      takeRec p (sendTile p (recordInput p n s.ctx layer r) s layer buf w header (if kv then bs.take 32 else [])
        enc.bytes) q k := by
  have hseat : (placement p m .coder).isNone = false := by simp [← Option.not_isSome, hplace]
  unfold expertOutputRecord
  simp only [htake, hfail, hcode, hreason, hcopies, hroom, hseat, halloc, List.headD_cons, Bool.not_true, Bool.or_self,
    ne_eq, not_true_eq_false, Bool.false_eq_true, if_false]

/-- R199: the oldest tile received whole leaves the received packets and is matched and staged. -/
theorem returnTileReceive_takes {p : Part} {m : Mach} {f : StoreRead} {x : RxPkt} (hup : engineUp m = true)
    (hfatal : isFatal p m = false) (hfind : m.net.rx.find? (fun x => x.vc == 2 && rxWhole x) = some x)
    (hcopies : ∀ c, ctxOfJob p m (readTile (BitVec.ofNat 256 (leNat ((rxBytes x).take 32)))).job = some c →
      groupCopies m c = false) :
    returnTileReceive false f p m =
      takeTile p (dropRx m x) f (BitVec.ofNat 256 (leNat ((rxBytes x).take 32))) ((rxBytes x).drop 32) := by
  have hopen : (ctxOfJob p m (readTile (BitVec.ofNat 256 (leNat ((rxBytes x).take 32)))).job).any (groupCopies m) =
      false := (Option.any_eq_false _ _).mpr hcopies
  unfold returnTileReceive
  simp only [hup, hfatal, hfind, hopen, Bool.not_true, Bool.or_self, Bool.false_eq_true, if_false]

/-! ### Combining (R200 to R209) -/

section
variable {p : Part} {m m₁ n : Mach} {token colt layer : Nat} {s : StepRun} {e : EmberSlot} {stage : ReadFinding}
  {ember : StoreRead} (hmeld : meldAt p m token colt = some (s, layer, e))
  (hplace : (placement p m .combine).isSome = true)
include hmeld hplace

/-- R209: a tile with no rank left to fold is streamed, as of the cycle in which it was ready. -/
theorem meldFold_streams (hmode : e.mode ≠ modeKv) (hdone : tileComplete e colt = true) :
    meldFold token colt stage ember p m =
      let item := ItemRef.step layer laneMeld (nodeId p m) token colt
      streamTile p (placeItem p m .combine s.ctx item 1) s layer e colt (accOf e colt (tileElems e.hidden colt))
        e.readyAt := by
  unfold meldFold
  simp only [hmeld, if_neg hmode, hdone, if_true]
  exact onHearth_placed hplace rfl _

/-- R202: the ranks whose turn has come are folded, and a tile that they complete is streamed. -/
theorem meldFold_folds {r : SlotRank} (hmode : e.mode ≠ modeKv) (hopen : tileComplete e colt = false)
    (hrank : e.ranks[Assoc.get 0 e.next colt]? = some r) (htile : Assoc.find? r.tiles colt ≠ none)
    (hbusy : copyBusy m (tileAddr m s.ctx e r colt) = false) {z : Mach}
    (hz : z = placeItem p m .combine s.ctx (.step layer laneMeld (nodeId p m) token colt)
      (foldCount e colt * foldCycles (tileElems e.hidden colt)))
    (hread : kilnRead p z (tileAddr z s.ctx e r colt) stage (some 0) = (false, m₁))
    (hember : emberRead p m₁ e.granules ember = (false, n)) :
    meldFold token colt stage ember p m =
      let f := foldTile colt (tileElems e.hidden colt) e.ranks.length e
      let n := storeFold n s.ctx (keyOf s layer) f
      if tileComplete f colt then streamTile p n s layer f colt (accOf f colt (tileElems e.hidden colt)) else n := by
  obtain ⟨hok, rfl⟩ := read_clean hread
  obtain ⟨hokEmber, rfl⟩ := read_clean hember
  have hstaged : (Assoc.find? r.tiles colt).isNone = false := by simpa [Option.isSome_iff_ne_none] using htile
  unfold meldFold
  simp only [hmeld, if_neg hmode, hopen, hrank, hstaged, hbusy, Bool.or_self, Bool.false_eq_true, if_false]
  rw [onHearth_placed hplace hz]
  exact if_neg (by simp [hok, hokEmber])

end

theorem bump_tick (p : Part) (m : Mach) (a n : Nat) : (bump p m a n).tick = m.tick := by
  rcases bump_cases p m a n with h | h <;> rw [h]
  exact wr_tick ..

/-- The release of staged bytes leaves the cycle in which a slot was ready. -/
theorem readyAt_foldl_dropTile (is : List Nat) (colt : Nat) (e : EmberSlot) :
    (is.foldl (fun e i => dropTile e i colt) e).readyAt = e.readyAt := by
  induction is generalizing e with
  | nil => rfl
  | cons i is ih =>
    rw [List.foldl_cons, ih]
    unfold dropTile
    split <;> rfl

/-- The read of the first live rank's staged tile, where there is one, finds nothing amiss. -/
theorem stagedRead_clean {p : Part} {z n : Mach} {live : List SlotRank} {place : Nat} {stage : ReadFinding}
    (hread : if live = [] then n = z else kilnRead p z place stage (some 0) = (false, n)) :
    (if live.isEmpty then (false, z) else kilnRead p z place stage (some 0)) = (false, n) := by
  by_cases hlive : live = []
  · rw [if_pos hlive] at hread
    simp [hlive, hread]
  · rw [if_neg hlive] at hread
    simp [hlive, hread]

/-- R204, R205: with every live rank's part there, the parts are merged, and the tile is streamed. -/
theorem kvMergeTile_merges {p : Part} {m m₁ n z : Mach} {token colt layer : Nat} {s : StepRun} {e : EmberSlot}
    {stage : ReadFinding} {ember : StoreRead} (hmeld : meldAt p m token colt = some (s, layer, e))
    (hmode : e.mode = modeKv) (hplace : (placement p m .combine).isSome = true) {live : List SlotRank}
    (hlive : live = e.ranks.filter fun r => r.status == rkLive) {parts : List (List KvStat × List Val)}
    (hparts : parts = live.filterMap (mergePart colt (tileElems e.hidden colt)))
    (hz : z = placeItem p m .combine s.ctx (.step layer laneMeld (nodeId p m) token colt)
      (8 + live.length * foldCycles (tileElems e.hidden colt)))
    (hall : parts.length = live.length) (hbusy : ∀ r ∈ live, copyBusy m (tileAddr m s.ctx e r colt) = false)
    (hread : if live = [] then m₁ = z else
      kilnRead p z ((live.head?.map fun r => tileAddr m s.ctx e r colt).getD 0) stage (some 0) = (false, m₁))
    (hember : emberRead p m₁ e.granules ember = (false, n)) :
    kvMergeTile token colt stage ember p m =
      let elems := tileElems e.hidden colt
      let count := ((List.range (ceilDiv elems 128)).map fun q => kvBad (parts.map fun v => v.1.getD q ⟨0, 0⟩)).sum
      let f := (List.range e.ranks.length).foldl (fun e i => dropTile e i colt)
        { e with next := Assoc.set e.next colt e.ranks.length }
      streamTile p (storeFold (bump p n (Reg.ctxKvStatBad s.ctx) count) s.ctx (keyOf s layer) f)
        s layer f colt (kvMerge parts elems) (if live = [] then e.readyAt else n.tick.cycle) := by
  have hgoes : ¬(e.mode ≠ modeKv ∨ parts.length ≠ live.length ∨
      live.any (fun r => copyBusy m (tileAddr m s.ctx e r colt)) = true) := by
    simpa [hmode, hall] using hbusy
  subst hparts hlive
  obtain ⟨hok, rfl⟩ := read_clean (stagedRead_clean hread)
  obtain ⟨hokEmber, rfl⟩ := read_clean hember
  unfold kvMergeTile
  simp only [hmeld, if_neg hgoes]
  rw [onHearth_placed hplace hz]
  refine (if_neg (by rw [hok, hokEmber]; exact Bool.false_ne_true)).trans ?_
  rw [readyAt_foldl_dropTile, bump_tick]
  simp only [List.isEmpty_iff]

/-- R209: a combined tile that the host accepts is counted and done. -/
theorem combOutAccepted_counts {p : Part} {m : Mach} {q c token colt : Nat} {k : Key} {rest : List OutUse}
    (hsent : (strmOf m q).unaccepted = .comb c k token colt :: rest) :
    combOutAccepted q p m =
      tileDone (bump p (setStrm m q { strmOf m q with unaccepted := rest }) (Reg.ctxCombTiles c) 1) c k token colt := by
  unfold combOutAccepted
  simp only [hsent]

/-! ### The commands -/

/-- A command that gives a machine in its turn gives what that machine is equal to. -/
theorem GivesInTurn.trans_eq {c : Instr} {s : State} {m n : Mach} (h : GivesInTurn c s m) (heq : m = n) :
    GivesInTurn c s n := heq ▸ h

theorem givesInTurn_billetReceive (loop : Bool) (f : StoreRead) (s : State) :
    GivesInTurn (.billetReceive loop f) s (billetRead loop f s.part s.m) :=
  givesInTurn_of_exec (go := billetRead loop f s.part) rfl

theorem gives_closeMarkerReceive (loop : Bool) (s : State) :
    Gives (.closeMarkerReceive loop) s (closeMarkerReceive loop s.part s.m) := rfl

theorem givesInTurn_rickRowDeliver (slot : Nat) (f : ReadFinding) (s : State) :
    GivesInTurn (.rickRowDeliver slot f) s (rickRowDeliver slot f s.part s.m) :=
  givesInTurn_of_exec (go := rickRowDeliver slot f s.part) rfl

theorem gives_rickEnd (slot : Nat) (s : State) : Gives (.rickEnd slot) s (rickEnd slot s.part s.m) := rfl

theorem givesInTurn_expertOutputRecord (q k : Nat) (s : State) :
    GivesInTurn (.expertOutputRecord q k) s (expertOutputRecord q k s.part s.m) :=
  givesInTurn_of_exec (go := expertOutputRecord q k s.part) rfl

theorem gives_returnTileReceive (loop : Bool) (f : StoreRead) (s : State) :
    Gives (.returnTileReceive loop f) s (returnTileReceive loop f s.part s.m) := rfl

theorem givesInTurn_meldFold (token colt : Nat) (stage : ReadFinding) (ember : StoreRead) (s : State) :
    GivesInTurn (.meldFold token colt stage ember) s (meldFold token colt stage ember s.part s.m) :=
  givesInTurn_of_exec (go := meldFold token colt stage ember s.part) rfl

theorem givesInTurn_kvMerge (token colt : Nat) (stage : ReadFinding) (ember : StoreRead) (s : State) :
    GivesInTurn (.kvMerge token colt stage ember) s (kvMergeTile token colt stage ember s.part s.m) :=
  givesInTurn_of_exec (go := kvMergeTile token colt stage ember s.part) rfl

theorem gives_combOutAccepted (q : Nat) (s : State) :
    Gives (.combOutAccepted q) s (combOutAccepted q s.part s.m) := rfl

/-- Settles O56: each command answers its meaning, which takes the branch that the clause's conditions name. -/
theorem expertsAndCombiningAnswer : Obligations.ExpertsAndCombiningAnswer := by
  refine ⟨fun s x hfind => ⟨?lands, ?placed⟩, ?loop, fun s loop n c layer hitem hcopies => ⟨?word, ?line⟩, ?marker,
    ?rows, ?rickEnd, ?output, ?tile,
    fun s token colt stage ember st layer e m₁ m hmeld hmode hplace => ⟨?stream, ?fold⟩, ?merge, ?accepted⟩
  case lands =>
    intro htaken
    have hread : billetRead false .clean s.part s.m = billetReceive false s.part s.m :=
      billetRead_clean (by simp [billetItem_taken hfind htaken])
    exact (givesInTurn_billetReceive false .clean s).trans_eq (hread.trans (billetReceive_taken hfind htaken))
  case placed =>
    intro c l hfresh hcase hcopies hplace
    have hread : billetRead false .clean s.part s.m = billetReceive false s.part s.m :=
      billetRead_clean (by simp [billetItem_fresh hfind hfresh hcase, hcopies])
    exact (givesInTurn_billetReceive false .clean s).trans_eq
      (hread.trans (billetReceive_fresh hfind hfresh hcase hplace))
  case loop =>
    intro s c b r l hfind hcase hcopies hplace
    have hread : billetRead true .clean s.part s.m = billetReceive true s.part s.m :=
      billetRead_clean (by simp [billetItem_loop hfind hcase, hcopies])
    exact (givesInTurn_billetReceive true .clean s).trans_eq (hread.trans (billetReceive_loop hfind hcase hplace))
  case word => exact (givesInTurn_billetReceive loop _ s).trans_eq (billetRead_wordLost hitem hcopies n)
  case line => exact (givesInTurn_billetReceive loop _ s).trans_eq (billetRead_lineLost hitem hcopies n)
  case marker =>
    intro s loop x hfind
    exact (gives_closeMarkerReceive loop s).trans_eq (closeMarkerReceive_takes hfind)
  case rows =>
    intro s slot f st l layer t b rows last m hfeed k x hnext hmay hbusy hplace z hread
    exact (givesInTurn_rickRowDeliver slot f s).trans_eq
      (rickRowDeliver_streams hfeed hmay hnext hbusy hplace rfl hread)
  case rickEnd =>
    intro s slot st l layer hfeed x hleft hfin hmay
    exact (gives_rickEnd slot s).trans_eq (rickEnd_ends hfeed hmay hleft hfin)
  case output =>
    intro s q k st r l buf m htake w layer hfail hcode hreason hcopies hplace hroom halloc
    exact (givesInTurn_expertOutputRecord q k s).trans_eq
      (expertOutputRecord_sends htake hfail hcode hreason hcopies hplace hroom halloc)
  case tile =>
    intro s f x hup hfatal hfind hcopies
    exact (gives_returnTileReceive false f s).trans_eq (returnTileReceive_takes hup hfatal hfind hcopies)
  case stream =>
    intro hdone
    exact (givesInTurn_meldFold token colt stage ember s).trans_eq (meldFold_streams hmeld hplace hmode hdone)
  case fold =>
    intro r hopen hrank htile hbusy z hread hember
    exact (givesInTurn_meldFold token colt stage ember s).trans_eq
      (meldFold_folds hmeld hplace hmode hopen hrank htile hbusy rfl hread hember)
  case merge =>
    intro s token colt stage ember st layer e m₁ m hmeld hmode hplace n live parts place z hall hbusy hread hember
    exact (givesInTurn_kvMerge token colt stage ember s).trans_eq
      (kvMergeTile_merges hmeld hmode hplace rfl rfl rfl hall hbusy hread hember)
  case accepted =>
    intro s q c token colt k rest hsent
    exact (gives_combOutAccepted q s).trans_eq (combOutAccepted_counts hsent)

end Sys2Proof.Machine
end

section
/-! Stream ports, memory ports, scrubbing, hearth faults and the log (O57, R150, R151, R156, R221, R223, R453 to R460,
R467 to R470, R545). -/

namespace Sys2Proof.Machine

/-! ### Beats from the host and credit that it returns (R150, R151, R156) -/

section
variable {p : Part} {m : Mach} {q k : Nat} {first : Bool} {side : Word} {data : BitVec 4096} {par : BitVec 65}
  (hrelay : p.relay = false) (hq : q < streamCount p.conf) (hretired : (strmOf m q).retired = false)
  (hup : engineUp m = true)
include hrelay hq hretired hup

section
variable (hk : k < 4)
include hk

/-- R151, R453: none of the reasons for which a beat is not taken holds of an inbound slot of a port in use. -/
theorem inboundSlot_open : ¬(p.relay = true ∨ streamCount p.conf ≤ q ∨ 4 ≤ k ∨ (strmOf m q).retired = true ∨
    (!engineUp m) = true) := by
  simp [hrelay, hretired, hup]
  omega

/-- A beat on a bound slot comes after the end of a record that a failed header began, and is framed. -/
theorem inboundBeat_bound (hbind : bindEn (slotAt (if first then endDropped m q k else m) q k).bind = true) :
    inboundBeat q k first side data par p m =
      let z := if first then endDropped m q k else m
      let good := par = beatParity side data
      let n := frameBeat p z q k first side data (if good then none else some stUncorrectable)
      takeHints p (drainIn p (if good then n else strmParity p n q k) q k) := by
  unfold inboundBeat
  rw [if_neg (inboundSlot_open hrelay hq hretired hup hk)]
  simp only [hbind, beq_iff_eq, Bool.not_true, Bool.false_eq_true, if_false]

/-- A beat on a slot that is not bound is a framing failure. -/
theorem inboundBeat_unbound (hbind : bindEn (slotAt (if first then endDropped m q k else m) q k).bind = false) :
    inboundBeat q k first side data par p m =
      let n := framing p (if first then endDropped m q k else m) q k 1
      if par = beatParity side data then n else strmParity p n q k := by
  unfold inboundBeat
  rw [if_neg (inboundSlot_open hrelay hq hretired hup hk)]
  simp only [hbind, beq_iff_eq, Bool.not_false, if_true]

end

/-- R151: a credit that comes back to an outbound slot sends the beats that waited, and then answers what waits for
buffers. -/
theorem hostCreditReturn_drains (hlo : 4 ≤ k) (hhi : k < 8) :
    hostCreditReturn q k p m =
      let n := drainOut p (setSlotAt m q k { slotAt m q k with credit := (slotAt m q k).credit + 1 }) q
      (residents n).foldl (pumpAsks p) n := by
  have hopen : ¬(p.relay = true ∨ streamCount p.conf ≤ q ∨ k < 4 ∨ 8 ≤ k ∨ (strmOf m q).retired = true ∨
      (!engineUp m) = true) := by
    simp [hrelay, hretired, hup]
    omega
  unfold hostCreditReturn
  rw [if_neg hopen]

end

/-! ### Responses of the memory ports and their time limit (R459, R545) -/

section
variable {p : Part} {m : Mach} {port tag : Nat} {resp : MemResp} (hport : port < memPortCount p.conf)
  (hretired : (memPortOf m port).retired = false) (hlit : m.sec.power = .lit) (hup : portUp m = true)
include hport hretired hlit hup

/-- R460, R494, R504: none of the reasons for which a port carries no response holds of a port in use. -/
theorem memPort_open : ¬(memPortCount p.conf ≤ port ∨ (memPortOf m port).retired = true ∨ m.sec.power ≠ .lit ∨
    (!portUp m) = true) := by
  simp [hretired, hlit, hup]
  omega

/-- A response under a tag that no transaction has counts toward the threshold of its port (the model's choice, log
entry 78). -/
theorem memoryResponse_unknown (htag : txnOfTag m port tag = none)
    (hstale : Assoc.find? (memPortOf m port).stale tag = none) :
    memoryResponse port tag resp p m = countMemFault p m port := by
  unfold memoryResponse
  simp only [if_neg (memPort_open hport hretired hlit hup), htag, hstale]

/-- A beat of a response that is not waited for any more is dropped, and what waited for a tag goes on. -/
theorem memoryResponse_stale {n : Nat} (htag : txnOfTag m port tag = none)
    (hstale : Assoc.find? (memPortOf m port).stale tag = some n) :
    memoryResponse port tag resp p m = issueWaiting p (staleBeat m port tag n) := by
  unfold memoryResponse
  simp only [if_neg (memPort_open hport hretired hlit hup), htag, hstale]

variable {t : Txn} (htag : txnOfTag m port tag = some t)
include htag

theorem memoryResponse_error : memoryResponse port tag .error p m = memFault p m { t with got := t.got + 1 } 1 := by
  unfold memoryResponse
  simp only [if_neg (memPort_open hport hretired hlit hup), htag]

theorem memoryResponse_poison : memoryResponse port tag .poison p m = memFault p m { t with got := t.got + 1 } 2 := by
  unfold memoryResponse
  simp only [if_neg (memPort_open hport hretired hlit hup), htag]

theorem memoryResponse_written {bits : BitVec 1024} (hwrite : t.write = true) :
    memoryResponse port tag (.ok bits) p m = txnDone p m t := by
  unfold memoryResponse
  simp only [if_neg (memPort_open hport hretired hlit hup), htag, hwrite, if_true]

/-- A read's beat is stored; the transaction waits for its next beat, or the last one completes it. -/
theorem memoryResponse_read {bits : BitVec 1024} {a : Nat} {bs : List Byte} (hread : t.write = false)
    (hbeat : beatPart t bits = (a, bs)) :
    memoryResponse port tag (.ok bits) p m =
      let n := putHost m a bs
      if t.got + 1 < respBeats t then
        { n with mem := { n.mem with
            txns := n.mem.txns.map fun x => if x.id = t.id then { x with got := x.got + 1 } else x } }
      else txnDone p n t := by
  unfold memoryResponse
  simp only [if_neg (memPort_open hport hretired hlit hup), htag, hread, hbeat, Bool.false_eq_true, if_false]

end

/-- R459: a transaction that TMO_US has passed fails a try. -/
theorem memoryTimeout_fails {p : Part} {m : Mach} {id : Nat} {t : Txn}
    (hfind : m.mem.txns.find? (fun t => t.id == id) = some t)
    (hlate : t.since + 1000 * fsPerNs * rdF p m (Reg.mempThresh t.port) 31 16 ≤ m.tick.time) :
    memoryTimeout id p m = memFault p m t 3 := by
  unfold memoryTimeout
  rw [hfind]
  exact if_pos hlate

/-! ### The scrubber and the spare's copy (R221 to R223) -/

/-- A scrubber that is enabled reads a line whose group is not being copied. -/
theorem scrubRead_reads {p : Part} {m : Mach} {line : Nat} {f : ReadFinding} (hup : engineUp m = true)
    (hen : rdB p m Reg.kilnScrub 16 = true) (hbusy : copyBusy m (64 * line) = false) :
    scrubRead line f p m = (kilnRead p m (64 * line) f none).2 := if_pos (by simp [hup, hen, hbusy])

/-- The copy ends 4,096 cycles after its start, with what its reads have found. -/
theorem kilnSpareCopyEnd_ends {p : Part} {m : Mach} {c : Nat} {found : List StoreRead}
    (hcopy : m.run.kilnSt.copying = some c) (hpast : c + 4096 ≤ m.tick.cycle) :
    kilnSpareCopyEnd found p m = found.foldl (copyFinds p (m.run.kilnSt.served.getD 32))
      { m with run := { m.run with kilnSt := { m.run.kilnSt with copying := none } } } :=
  if_pos (by simp [hcopy, hpast])

/-! ### Hearth faults (R454, R455) -/

/-- The third failed try of an operation retires its hearth. -/
theorem hearthFault_retires {p : Part} {m : Mach} {h tries : Nat} {unit : SubUnit} {item : ItemRef}
    (husable : h ∈ usableHearths p m) (htries : 3 ≤ tries) (hworks : worksOn m h unit item = true)
    (hunit : unit ≠ .itemState) :
    hearthFault h unit tries item p m = retireHearth p (setLastStatus p (report p m
      { code := 0x20, page := Reg.hrthPage h, sev := .transient,
        detail := [BitVec.ofNat 8 h, BitVec.ofNat 8 (unitCode unit), 3] }) (Reg.hrthPage h) stUncorrectable) h 2 := by
  have hcount : tries ≠ 0 := by omega
  have hshown : min 3 (tries + 1) = 3 := by omega
  unfold hearthFault
  simp [husable, hcount, hworks, hunit, hshown, htries]

/-! ### The log's own commands (R467 to R470) -/

/-- R469: the log takes the oldest entry that waits. -/
theorem ashLogWrite_takes {p : Part} {m : Mach} {n : Nat} {e : LogEntry} {rest : List (Nat × LogEntry)}
    (hbuf : m.log.buf = (n, e) :: rest) :
    ashLogWrite p m = takeEntry p { m with log := { m.log with buf := rest } } e := by
  unfold ashLogWrite
  rw [hbuf]

/-- R467: behind the gate, and outside FATAL, LOG.CTRL takes the value, and its CLEAR empties the log. -/
theorem logClear_taken {p : Part} {m : Mach} {src : Src} {v : Word} (hpass : writeGate p m src Reg.logCtrl = .pass)
    (hfatal : isFatal p m = false) :
    logClear src v p m =
      let n := wr p m Reg.logCtrl (v &&& 7)
      if bitOf v 3 then wr p (wr p n Reg.logTail (wordOf (rdF p n Reg.logHead 31 0))) Reg.logLost 0 else n := by
  unfold logClear
  rw [gated_pass _ hpass]
  exact if_neg (by simp [hfatal])

/-! ### The commands -/

theorem gives_inboundBeat (q k : Nat) (first : Bool) (side : Word) (data : BitVec 4096) (par : BitVec 65) (s : State) :
    Gives (.inboundBeat q k first side data par) s (inboundBeat q k first side data par s.part s.m) := rfl

theorem gives_hostCreditReturn (q k : Nat) (s : State) :
    Gives (.hostCreditReturn q k) s (hostCreditReturn q k s.part s.m) := rfl

theorem gives_memoryResponse (port tag : Nat) (resp : MemResp) (s : State) :
    Gives (.memoryResponse port tag resp) s (memoryResponse port tag resp s.part s.m) := rfl

theorem gives_memoryTimeout (id : Nat) (s : State) : Gives (.memoryTimeout id) s (memoryTimeout id s.part s.m) := rfl

/-- R221: a scrub read of a line that the configuration has answers its effect. -/
theorem gives_scrubRead {line : Nat} {s : State} (hline : line < kilnLines s.part) (f : ReadFinding) :
    Gives (.scrubRead line f) s (scrubRead line f s.part s.m) := if_pos hline

/-- A line that the configuration does not have is no address: the model's choice (log entry 95). -/
theorem exec_scrubRead_absent {line : Nat} {s : State} (hline : kilnLines s.part ≤ line) (f : ReadFinding) :
    exec (.scrubRead line f) s = .fault .kilnNoSuchLine := if_neg (Nat.not_lt.mpr hline)

theorem gives_kilnSpareCopyEnd (found : List StoreRead) (s : State) :
    Gives (.kilnSpareCopyEnd found) s (kilnSpareCopyEnd found s.part s.m) := rfl

theorem gives_hearthFault (h : Nat) (unit : SubUnit) (tries : Nat) (item : ItemRef) (s : State) :
    Gives (.hearthFault h unit tries item) s (hearthFault h unit tries item s.part s.m) := rfl

theorem gives_ashLogWrite (s : State) : Gives .ashLogWrite s (ashLogWrite s.part s.m) := rfl

theorem givesW_logClear (src : Src) (v : Word) (s : State) :
    GivesW src (.logClear src v) s (logClear src v s.part s.m) := rfl

/-- Settles O57: each command answers its meaning, which takes the branch that the clause's conditions name. -/
theorem portsMemoryAndFaultsAnswer : Obligations.PortsMemoryAndFaultsAnswer := by
  refine ⟨fun s q k first side data par hrelay hq hk hretired hup => ⟨?bound, ?unbound⟩, ?credit,
    fun s port tag resp hport hretired hlit hup =>
      ⟨?unknown, ?stale, fun t bits htag => ⟨?error, ?poison, ?written, ?read⟩⟩,
    ?timeout, fun s line f => ⟨?absent, ?scrub⟩, ?copyEnd, ?hearth, ?entry, ?clear⟩
  case bound =>
    exact fun hbind => (gives_inboundBeat ..).trans_eq (inboundBeat_bound hrelay hq hretired hup hk hbind)
  case unbound =>
    exact fun hbind => (gives_inboundBeat ..).trans_eq (inboundBeat_unbound hrelay hq hretired hup hk hbind)
  case credit =>
    intro s q k hrelay hq hlo hhi hretired hup
    exact (gives_hostCreditReturn q k s).trans_eq (hostCreditReturn_drains hrelay hq hretired hup hlo hhi)
  case unknown =>
    intro htag hstale
    exact (gives_memoryResponse ..).trans_eq (memoryResponse_unknown hport hretired hlit hup htag hstale)
  case stale =>
    intro n htag hstale
    exact (gives_memoryResponse ..).trans_eq (memoryResponse_stale hport hretired hlit hup htag hstale)
  case error => exact (gives_memoryResponse ..).trans_eq (memoryResponse_error hport hretired hlit hup htag)
  case poison => exact (gives_memoryResponse ..).trans_eq (memoryResponse_poison hport hretired hlit hup htag)
  case written =>
    exact fun hwrite => (gives_memoryResponse ..).trans_eq (memoryResponse_written hport hretired hlit hup htag hwrite)
  case read =>
    intro a bs hread hbeat
    have hgives := (gives_memoryResponse port tag (.ok bits) s).trans_eq
      (memoryResponse_read hport hretired hlit hup htag hread hbeat)
    exact ⟨fun hmore => hgives.trans_eq (if_pos hmore), fun hlast => hgives.trans_eq (if_neg (Nat.not_lt.mpr hlast))⟩
  case timeout =>
    intro s id t hfind hlate
    exact (gives_memoryTimeout id s).trans_eq (memoryTimeout_fails hfind hlate)
  case absent => exact fun hline => exec_scrubRead_absent hline f
  case scrub => exact fun hline hup hen hbusy => (gives_scrubRead hline f).trans_eq (scrubRead_reads hup hen hbusy)
  case copyEnd =>
    intro s c found hcopy hpast
    exact (gives_kilnSpareCopyEnd found s).trans_eq (kilnSpareCopyEnd_ends hcopy hpast)
  case hearth =>
    intro s h tries unit item husable htries hworks hunit
    exact (gives_hearthFault h unit tries item s).trans_eq (hearthFault_retires husable htries hworks hunit)
  case entry =>
    intro s n e rest hbuf
    exact (gives_ashLogWrite s).trans_eq (ashLogWrite_takes hbuf)
  case clear =>
    intro s src v hreach hfatal
    exact (givesW_logClear src v s).trans_eq (logClear_taken hreach hfatal)

end Sys2Proof.Machine
end

section
/-! The memories read back what is written (O11, R215), and every command answers (O4, R216). -/

namespace Sys2Proof.Machine

/-! ### The memories (O11, R215) -/

/-- Of a filter by key, the entry of a key that passes is the table's, and one that does not pass is not listed. -/
theorem Assoc.find_filter_key {α : Type} (f : Nat → Bool) (t : Assoc α) (k : Nat) :
    Assoc.find? (t.filter fun q => f q.1) k = if f k then Assoc.find? t k else none := by
  induction t with
  | nil => simp [Assoc.find?]
  | cons q r ih =>
    obtain ⟨j, v⟩ := q
    by_cases hj : j = k
    · subst hj
      by_cases hf : f j <;> simp [hf, Assoc.find?, ih]
    · by_cases hf : f j <;> simp [hf, hj, Assoc.find?, ih]

/-- A range cleared reads 0, and a byte outside it as before. -/
theorem byteAt_clearBytes (mem : List Host.Cell) (a n x : Nat) :
    byteAt (clearBytes mem a n) x = if x < a ∨ a + n ≤ x then byteAt mem x else 0 := by
  have hfind := Assoc.find_filter_key (fun y => decide (y < a) || decide (a + n ≤ y)) mem x
  unfold byteAt clearBytes Sparse.get
  rw [hfind]
  by_cases hout : x < a ∨ a + n ≤ x <;> simp [hout]

/-- Bytes written leave those outside their range. -/
theorem byteAt_writeBytes_outside (mem : List Host.Cell) {a x : Nat} {bs : List Byte}
    (hout : x < a ∨ a + bs.length ≤ x) : byteAt (writeBytes mem a bs) x = byteAt mem x := by
  induction bs generalizing mem a with
  | nil => rfl
  | cons b r ih =>
    rw [List.length_cons] at hout
    rw [writeBytes, ih _ (by omega), byteAt_putByte_ne mem b (by omega)]

/-- Byte i of those written from address a is read back at a + i. -/
theorem byteAt_writeBytes_inside (mem : List Host.Cell) (a : Nat) {bs : List Byte} {i : Nat} (hi : i < bs.length) :
    byteAt (writeBytes mem a bs) (a + i) = bs.getD i 0 := by
  induction bs generalizing mem a i with
  | nil => simp at hi
  | cons b r ih =>
    rw [writeBytes]
    cases i with
    | zero => rw [byteAt_writeBytes_outside _ (by omega)]; exact byteAt_putByte_eq ..
    | succ j => rw [← Nat.add_assoc, Nat.add_right_comm]; exact ih _ (a + 1) (Nat.lt_of_succ_lt_succ hi)

/-- Settles O11: a byte inside a written or cleared range by induction along it, one outside from the frame. -/
theorem memoryReadsBack : Obligations.MemoryReadsBack := by
  intro mem a bs
  refine ⟨fun i hi => byteAt_writeBytes_inside mem a hi, fun x hx => byteAt_writeBytes_outside mem hx,
    fun n => ⟨fun x hlo hhi => ?_, fun x hx => ?_⟩⟩
  · rw [byteAt_clearBytes, if_neg (by omega)]
  · rw [byteAt_clearBytes, if_pos hx]

/-! ### Every command answers (O4, R216) -/

/-- Settles O4: each command's meaning is a next state over the machine alone, but SCRUB_READ's, which asks first
whether the line exists. -/
theorem commandsAnswer : Obligations.CommandsAnswer := by
  refine ⟨fun c s hscrub => ?_, fun line f s hline => ?_, fun line f s hline => exec_scrubRead_absent hline f⟩
  · cases c
    case scrubRead line f => exact absurd rfl (hscrub line f)
    case registerWrite src addr be value read => cases read <;> exact ⟨_, rfl, rfl⟩
    all_goals exact ⟨_, rfl, rfl⟩
  · exact ⟨_, gives_scrubRead hline f, rfl⟩

end Sys2Proof.Machine
end

section
/-! Queue spill, fill and flush, NOP and HINT (O38, R235, R237, R388, R391). -/

namespace Sys2Proof.Machine

/-! ### Bog rings (R235) -/

section
variable {p : Part} {m : Mach} {q w : Nat} (hwin : winOfQueue m q = some w) (hup : engineUp m = true)
  (hcopies : systemCopies p m = false)
include hwin hup hcopies

/-- A due block of tail entries is written to the back of its window's ring. -/
theorem queueSpill_spills (hdue : spillDue p m q w = true) :
    queueSpill q p m = spillBlock p (setPq m q { pqOf m q with tail := (pqOf m q).tail.drop 16 }) w
      ((pqOf m q).tail.take 16) := by
  unfold queueSpill
  simp only [hwin, hup, hcopies, hdue, Bool.not_false, Bool.and_self, if_true]
  rfl

/-- The oldest block of a ring is read where it is written and the head has room. -/
theorem queueFill_reads {b : BogBlock} {bs : List BogBlock} (hblocks : (ringOf m w).blocks = b :: bs)
    (hidle : b.filling = false) (hroom : (pqOf m q).head.length + blockSize ≤ storeSize)
    (hstays : queueGone m w = false) (hwritten : txnsOut m (.spill w b.place) = false) :
    queueFill q p m =
      let n := setRing m w { ringOf m w with blocks := { b with filling := true } :: bs }
      startReads p n (ringAddr p n w b.place) 1024 (.fill w b.place) := by
  have holdest : fillable m w = some b := by simp [fillable, hblocks, hidle]
  unfold queueFill
  simp [hwin, holdest, hup, hcopies, hroom, hstays, hwritten, hblocks]

end

/-! ### QUEUE_FLUSH, NOP and HINT -/

section
variable {p : Part} {m : Mach} {w q : Nat} {r : Running}

/-- R237: what was accepted before the flush was read leaves the queue and completes with FLUSHED, and the flush then
with DONE. -/
theorem queueFlush_flushes {v : Nat} (hdue : dueCmd p m w q 0x68 = some r)
    (hwin : winOfQueue m (bytesOf r.line 16 16) = some v) :
    queueFlush w q p m =
      let n := bytesOf r.line 16 16
      let all := (pqOf m n).head ++ (ringOf m v).blocks.flatMap (fun b => b.entries) ++ (pqOf m n).tail
      let m := setPq m n { head := [], tail := all.filter fun e => !(decide (e.acc < r.n) || e.kind == .pad) }
      let m := setRing m v { ringOf m v with blocks := [] }
      let m := dropTxns m fun u => match u with
        | .fill i _ => i != v
        | .spill i _ => i != v
        | _ => true
      complete (completeEntries p (settleQueue m n v) stFlushed
        (all.filter fun e => decide (e.acc < r.n) || e.kind == .pad)) r stDone := by
  unfold queueFlush
  simp only [hdue, hwin, List.partition_eq_filter_filter] <;> rfl

theorem nop_due (hdue : dueCmd p m w q 0x7F = some r) : nop w q p m = complete m r stDone := by
  simp [nop, hdue]

/-- R391: a hint whose list has been read sends its requests, and completes where none goes to another node. -/
theorem hint_sends {pr : Program} {l : LayerT} {r' : Running} {n : Mach} {far : Nat} {es : List Nat}
    (hdue : dueCmd p m w q 0x48 = some r) (hphase : r.phase = .started) (hw : w < 8) (hmem : r.memFail = false)
    (hread : txnsOut m (.cmdRead r.acc) = false) (hprog : (ctxOf m w).program = some pr)
    (htmpl : layerTmpl pr (bytesOf r.line 26 27 % 16384) = some l)
    (hes : es = hintEntries (bytesOf r.line 40 41)
      (hostBytes m (bytesOf r.line 32 39 % 2 ^ 42) (4 * bytesOf r.line 40 41)))
    (hfar : far = ((hintSends p m w l.nodes es).filter fun e => hintNode e != nodeId p m).length)
    (hsent : n = kindleList p (setRunning m { r with phase := .waiting, n := far }) w
      ⟨bytesOf r.line 16 21, bytesOf r.line 22 22 % 16, bytesOf r.line 24 25 % 1024⟩ l.nodes es (some r.acc))
    (hrun : findAcc n r.acc = some r') :
    hint w q p m = if far = 0 then complete n r' stDone else n := by
  subst hes hfar hsent
  have hctx : ¬(r.phase ≠ .started ∨ w = 8) := by simp [hphase]; omega
  unfold hint
  simp only [hdue, if_neg hctx, hprog, Option.bind_some, htmpl, if_neg (ne_true_of_eq_false hread),
    if_neg (ne_true_of_eq_false hmem), hrun]

end

/-! ### The commands -/

/-- A spill whose reads find nothing amiss spills as if it made none. -/
theorem spillRead_clean (q : Nat) (p : Part) (m : Mach) : spillRead q .clean p m = queueSpill q p m :=
  congrArg (queueSpill q p) (ite_self m)

theorem gives_queueSpill (q : Nat) (s : State) : Gives (.queueSpill q) s (queueSpill q s.part s.m) :=
  Gives.trans_eq (m := spillRead q .clean s.part s.m) rfl (spillRead_clean q s.part s.m)

theorem gives_queueFill (q : Nat) (s : State) : Gives (.queueFill q) s (queueFill q s.part s.m) := rfl

theorem gives_queueFlush (w q : Nat) (s : State) : Gives (.queueFlush w q) s (queueFlush w q s.part s.m) := rfl

theorem gives_nop (w q : Nat) (s : State) : Gives (.nop w q) s (nop w q s.part s.m) := rfl

theorem gives_hint (w q : Nat) (s : State) : Gives (.hint w q) s (hint w q s.part s.m) := rfl

/-- Settles O38: each command answers its meaning, which takes the branch that the clause's conditions name. -/
theorem queueCommandsAnswer : Obligations.QueueCommandsAnswer := by
  refine ⟨?spill, ?fill, ?flush, ?nop, ?hint⟩
  case spill =>
    intro s q w hwin hup hcopies hdue
    exact (gives_queueSpill q s).trans_eq (queueSpill_spills hwin hup hcopies hdue)
  case fill =>
    intro s q w b bs hwin hblocks hidle hup hcopies hroom hstays hwritten
    exact (gives_queueFill q s).trans_eq
      (queueFill_reads hwin hup hcopies hblocks hidle hroom hstays hwritten)
  case flush =>
    intro s w q v r hdue hwin
    exact (gives_queueFlush w q s).trans_eq (queueFlush_flushes hdue hwin)
  case nop => exact fun s w q r hdue => (gives_nop w q s).trans_eq (nop_due hdue)
  case hint =>
    intro s w q r r' pr l hdue hphase hw hmem hread hprog htmpl es far m hrun
    exact (gives_hint w q s).trans_eq (hint_sends hdue hphase hw hmem hread hprog htmpl rfl rfl rfl hrun)

end Sys2Proof.Machine
end

section
/-! The memories and the register map keep their canonical form (O25, R215, R522). For each operation of the model one
lemma says that it keeps the form. The lemmas follow the order of the model's files, and a proof follows its
operation's text: `h.setRing.startWrites` is `startWrites` over `setRing`, and `.ite` and `split` are its branches.
A lemma cites what its operation's text calls; the registers and memories themselves are written in `wr`, `putHost`,
`pokeKiln`, `putEmberLine` and the resets alone. -/

namespace Sys2Proof.Machine

/-! ### The canonical form of a machine -/

/-- The canonical form of a machine's tables under a part, as `Canonical` says it of a state. -/
def Canon (p : Part) (m : Mach) : Prop :=
  Memory.wf m.mem.host = true ∧ Memory.wf m.mem.kiln = true ∧ Memory.wf m.mem.ember = true ∧
  Sparse.wf (regReset p.conf p.relay) m.regs = true

theorem canonical_iff_canon (s : State) : Canonical s ↔ Canon s.part s.m := Iff.rfl

/-- Beside the registers and the three memories anything of the machine may change. -/
theorem Canon.rest {p : Part} {m : Mach} {shadow : Assoc Shadow} {cmd : CmdSt} {txns waiting : List Txn}
    {nextTxn rr : Nat} {ports : Assoc MemPort} {run : RunSt} {net : NetSt} {coll : CollSt} {fab : FabSt} {tick : TickSt}
    {sec : SecSt} {log : AshLog} {out : List Output} {free : Nat} (h : Canon p m) :
    Canon p ⟨m.regs, shadow, cmd, ⟨m.mem.host, m.mem.kiln, m.mem.ember, txns, waiting, nextTxn, rr, ports⟩, run, net,
      coll, fab, tick, sec, log, out, free⟩ := h

theorem Canon.ite {p : Part} {m n : Mach} {c : Prop} [Decidable c] (hm : Canon p m) (hn : Canon p n) :
    Canon p (if c then m else n) := by
  split
  · exact hm
  · exact hn

/-- A fold keeps the form where each of its steps does. -/
theorem Canon.foldl {p : Part} {m : Mach} {α : Type} {f : Mach → α → Mach} {l : List α} (h : Canon p m)
    (hf : ∀ n x, Canon p n → Canon p (f n x)) : Canon p (l.foldl f m) := by
  induction l generalizing m with
  | nil => exact h
  | cons x l ih => exact ih (hf m x h)

theorem Canon.getD {p : Part} {m : Mach} {o : Option Mach} (h : Canon p m) (ho : ∀ n, o = some n → Canon p n) :
    Canon p (o.getD m) := by
  cases o with
  | none => exact h
  | some n => exact ho n rfl

/-! ### Registers, the log, memories, transactions and completions -/

section
variable {p : Part} {m : Mach}

theorem Canon.wr {a : Nat} {v : Word} (h : Canon p m) : Canon p (wr p m a v) := by
  obtain ⟨hhost, hkiln, hember, hregs⟩ := h
  exact ⟨hhost, hkiln, hember, Sparse.set_wf a v hregs⟩

theorem Canon.wrF {a hi lo v : Nat} (h : Canon p m) : Canon p (wrF p m a hi lo v) := h.wr

theorem Canon.bump {a n : Nat} (h : Canon p m) : Canon p (bump p m a n) := .ite h h.wr

theorem Canon.orReg {a mask : Nat} (h : Canon p m) : Canon p (orReg p m a mask) := h.wr

theorem Canon.clrReg {a mask : Nat} (h : Canon p m) : Canon p (clrReg p m a mask) := h.wr

theorem Canon.setEvt {page b : Nat} (h : Canon p m) : Canon p (setEvt p m page b) := h.orReg

theorem Canon.wrAll {l : List (Nat × Word)} (h : Canon p m) : Canon p (wrAll p m l) := by
  induction l generalizing m with
  | nil => exact h
  | cons x l ih => exact ih h.wr

theorem Canon.setCtx {c : Nat} {x : Ctx} (h : Canon p m) : Canon p (setCtx m c x) := h.rest

theorem Canon.setPq {q : Nat} {x : PQueue} (h : Canon p m) : Canon p (setPq m q x) := h.rest

theorem Canon.setRing {r : Nat} {x : BogRing} (h : Canon p m) : Canon p (setRing m r x) := h.rest

theorem Canon.loseEntries {n : Nat} (h : Canon p m) : Canon p (loseEntries p m n) := .ite h h.wr

theorem Canon.pushEntry {e : LogEntry} (h : Canon p m) : Canon p (pushEntry p m e) := h.rest.loseEntries

theorem Canon.takeEntry {e : LogEntry} (h : Canon p m) : Canon p (takeEntry p m e) := .ite h.loseEntries h.rest.wr

theorem Canon.flushEntries (h : Canon p m) : Canon p (flushEntries p m) := h.rest.foldl fun _ _ h => h.takeEntry

theorem Canon.captureEntry {page : Nat} {e : LogEntry} (h : Canon p m) : Canon p (captureEntry p m page e) :=
  h.wrAll.orReg

theorem Canon.report {r : Report} (h : Canon p m) : Canon p (report p m r) := by
  refine .ite (.ite (.captureEntry ?_) ?_) (.pushEntry (.ite (.captureEntry ?_) ?_)) <;>
    (split; exacts [h.bump, h.bump.orReg, h.orReg, h])

theorem Canon.reportOnly {r : Report} (h : Canon p m) : Canon p (reportOnly p m r) := h.captureEntry.pushEntry

theorem Canon.setLastStatus {page st : Nat} (h : Canon p m) : Canon p (setLastStatus p m page st) := h.wrF

theorem Canon.putHost {a : Nat} {bs : List Byte} (h : Canon p m) : Canon p (putHost m a bs) := by
  obtain ⟨hhost, hkiln, hember, hregs⟩ := h
  exact ⟨putHost_wf a bs hhost, hkiln, hember, hregs⟩

theorem Canon.wholeLines {lo hi : Nat} (h : Canon p m) : Canon p (wholeLines m lo hi) := h.rest

theorem Canon.pokeKiln {a : Nat} {bs : List Byte} (h : Canon p m) : Canon p (pokeKiln m a bs) := by
  obtain ⟨hhost, hkiln, hember, hregs⟩ := h
  exact ⟨hhost, writeBytes_wf a bs hkiln, hember, hregs⟩

theorem Canon.putKiln {a : Nat} {bs : List Byte} (h : Canon p m) : Canon p (putKiln m a bs) := h.pokeKiln.wholeLines

theorem Canon.setMemPort {i : Nat} {x : MemPort} (h : Canon p m) : Canon p (setMemPort m i x) := h.rest

theorem Canon.countStrided {c : Option Nat} (h : Canon p m) : Canon p (countStrided p m c) := by
  unfold Machine.countStrided
  split
  · exact h.bump
  · exact h

theorem Canon.issueTxn {t : Txn} (h : Canon p m) : Canon p (issueTxn p m t) := by
  unfold Machine.issueTxn
  split
  · exact h.countStrided.rest
  · exact h.rest

theorem Canon.orphan {t : Txn} (h : Canon p m) : Canon p (orphan m t) := h.rest

theorem Canon.issueTurns {k : Nat} {ts : List Txn} (h : Canon p m) : Canon p (issueTurns p k ts m) := by
  induction k generalizing ts m with
  | zero => exact h
  | succ k ih =>
    unfold Machine.issueTurns
    split
    · exact ih h.issueTxn
    · exact h

theorem Canon.issueWaiting (h : Canon p m) : Canon p (issueWaiting p m) := h.rest.issueTurns

theorem Canon.startReads {a n : Nat} {use : TxnUse} {strided : Option Nat} (h : Canon p m) :
    Canon p (startReads p m a n use strided) :=
  h.foldl fun _ _ h => h.rest.issueTxn

theorem Canon.startWrites {a : Nat} {bs : List Byte} {use : TxnUse} {strided : Option Nat} (h : Canon p m) :
    Canon p (startWrites p m a bs use strided) :=
  h.putHost.foldl fun _ _ h => h.rest.issueTxn

theorem Canon.dropTxns {keep : TxnUse → Bool} (h : Canon p m) : Canon p (dropTxns m keep) := h.rest

theorem Canon.setEvtCnt {e v : Nat} (h : Canon p m) : Canon p (setEvtCnt m e v) := h.rest

theorem Canon.addEvt {e n : Nat} (h : Canon p m) : Canon p (addEvt m e n) := h.setEvtCnt

theorem Canon.setHold {r : Nat} {h' : List Completion} (h : Canon p m) : Canon p (setHold m r h') := h.rest

theorem Canon.pushHold {w : Nat} {c : Completion} (h : Canon p m) : Canon p (pushHold m w c) := h.setHold

theorem Canon.setRunning {r : Running} (h : Canon p m) : Canon p (setRunning m r) := h.rest

theorem Canon.dropRunning {acc : Nat} (h : Canon p m) : Canon p (dropRunning m acc) := h.rest.dropTxns

theorem Canon.signalOf {l : Line} {st : Nat} (h : Canon p m) : Canon p (signalOf m l st) := .ite h.addEvt h

theorem Canon.completeLine {w : Nat} {l : Line} {hseq st detail : Nat} {step : Option Nat} {att : Nat} {nan : Bool}
    (h : Canon p m) : Canon p (completeLine m w l hseq st detail step att nan) :=
  h.signalOf.pushHold

theorem Canon.complete {r : Running} {st detail : Nat} (h : Canon p m) : Canon p (complete m r st detail) :=
  h.dropRunning.completeLine

theorem Canon.completeStep {r : Running} {st detail step att : Nat} {nan : Bool} (h : Canon p m) :
    Canon p (completeStep m r st detail step att nan) :=
  h.dropRunning.completeLine

theorem Canon.drawFree (h : Canon p m) {z} (hx : drawFree m = z) : Canon p z.2 := by
  subst hx
  exact h.rest

end

/-! ### Refusals and the register port -/

section
variable {p : Part} {m : Mach}

theorem Canon.accErr {src : Src} {addr kind : Nat} (h : Canon p m) : Canon p (accErr p m src addr kind) :=
  h.wr.setEvt

theorem Canon.gated {src : Src} {addr : Nat} {f : Mach → Mach} (h : Canon p m) (hf : ∀ n, Canon p n → Canon p (f n)) :
    Canon p (gated p m src addr f) := by
  unfold Machine.gated
  split
  · exact hf _ h
  · exact h
  · exact h.accErr

theorem Canon.ignored {src : Src} {addr : Nat} (h : Canon p m) : Canon p (ignored p m src addr) := h.accErr

theorem Canon.responded {before : Mach} {src : Src} {data : Option Word} (h : Canon p m) :
    Canon p (responded before src data m) :=
  .ite h.rest h

theorem Canon.stepped (h : Canon p m) : Canon p (stepped m) := h.rest

end

/-! ### Queues, windows, events, semaphores and completions -/

section
variable {p : Part} {m : Mach}

theorem Canon.countBlock {w : Nat} {reg : Nat → Nat} (h : Canon p m) : Canon p (countBlock p m w reg) := by
  unfold Machine.countBlock
  split
  · exact h.bump
  · exact h

theorem Canon.spillBlock {r : Nat} {es : List Entry} (h : Canon p m) : Canon p (spillBlock p m r es) :=
  h.setRing.countBlock.startWrites

theorem Canon.settleQueue {q r : Nat} (h : Canon p m) : Canon p (settleQueue m q r) := .ite h.setPq h

theorem Canon.drainStaging {c : Nat} (h : Canon p m) : Canon p (drainStaging p m c) := .ite h.setCtx.spillBlock h

theorem Canon.spillTail {q w : Nat} (h : Canon p m) : Canon p (spillTail p m q w) := h.setPq.spillBlock

theorem Canon.enterQueue {w : Nat} {e : Entry} (h : Canon p m) : Canon p (enterQueue p m w e) := by
  unfold Machine.enterQueue
  split
  · exact .settleQueue (.setPq (.ite h.spillTail h))
  · exact h.drainStaging.setCtx.drainStaging

theorem Canon.stageWord {w k : Nat} {v : Word} (h : Canon p m) : Canon p (stageWord m w k v) := h.rest

theorem Canon.commandStage {src : Src} {w k : Nat} {v : Word} (h : Canon p m) :
    Canon p (commandStage src w k v p m) :=
  .ite (h.gated fun _ h => h.stageWord) h

theorem Canon.gapReport {w : Nat} {l : Line} (h : Canon p m) : Canon p (gapReport p m w l) :=
  .ite h.bump.orReg.setEvt h.bump.pushHold

theorem Canon.submitRecord {src : Src} {w : Nat} {l : Line} (h : Canon p m) :
    Canon p (submitRecord src w l p m) := by
  refine .ite h ?_
  split
  · exact h.orReg.accErr
  · split
    · exact h.setEvt
    · exact h
  · exact h.gapReport
  · exact h.wr.rest.enterQueue

theorem Canon.clearStaged {w : Nat} (h : Canon p m) : Canon p (clearStaged m w) := h.rest

theorem Canon.commandSubmit {src : Src} {w : Nat} {v : Word} (h : Canon p m) :
    Canon p (commandSubmit src w v p m) :=
  .ite (h.gated fun _ h => h.clearStaged.submitRecord) h

theorem Canon.cmdSeqWrite {src : Src} {w : Nat} {v : Word} (h : Canon p m) : Canon p (cmdSeqWrite src w v p m) :=
  .ite (h.gated fun _ h => .ite h.wr h.ignored) h

theorem Canon.setSem {c s v : Nat} (h : Canon p m) : Canon p (setSem m c s v) := h.setCtx

theorem Canon.finishWait {r : Running} (h : Canon p m) : Canon p (finishWait m r) := h.complete

theorem Canon.finishAcq {r : Running} (h : Canon p m) : Canon p (finishAcq m r) := h.setSem.complete

theorem Canon.releaseWaiters {k : Nat} (h : Canon p m) : Canon p (releaseWaiters k m) := by
  induction k generalizing m with
  | zero => exact h
  | succ k ih =>
    unfold Machine.releaseWaiters
    split
    · exact ih (.ite h.finishWait h.finishAcq)
    · exact h

theorem Canon.release (h : Canon p m) : Canon p (release m) := h.releaseWaiters

theorem Canon.evtValWrite {src : Src} {v : Word} (h : Canon p m) : Canon p (evtValWrite src v p m) :=
  h.gated fun _ h => h.setEvtCnt.release

theorem Canon.popHead {q w : Nat} (h : Canon p m) : Canon p (popHead m q w) := h.setPq.settleQueue

theorem Canon.markFlushed (h : Canon p m) : Canon p (markFlushed m) := h.rest

theorem Canon.startCommand {q w : Nat} {e : Entry} (h : Canon p m) : Canon p (startCommand p m q w e) := by
  unfold Machine.startCommand
  dsimp only
  split
  · exact .startReads (.rest (.ite h.popHead.markFlushed h.popHead))
  · exact .rest (.ite h.popHead.markFlushed h.popHead)

theorem Canon.serveHead {q : Nat} (h : Canon p m) : Canon p (serveHead p m q) := by
  unfold Machine.serveHead
  split
  · split
    · exact h.popHead.completeLine
    · exact h.startCommand
  · exact h

theorem Canon.commandStart {q : Nat} (h : Canon p m) : Canon p (commandStart q p m) := .ite h.serveHead.stepped h

theorem Canon.writeRecord {r : Nat} {c : Completion} (h : Canon p m) : Canon p (writeRecord p m r c) :=
  h.startWrites

theorem Canon.completionWrite {r : Nat} (h : Canon p m) : Canon p (completionWrite r p m) := by
  unfold Machine.completionWrite
  split
  · exact .ite h.writeRecord h
  · exact h

theorem Canon.recordDone {r a s : Nat} (h : Canon p m) : Canon p (recordDone p m r a s) := by
  unfold Machine.recordDone
  split
  · exact .completionWrite (.ite h.setHold.startWrites.wr.setLastStatus.setEvt
      h.setHold.startWrites.wr.setLastStatus)
  · exact h

theorem Canon.ringTailWrite {src : Src} {r : Nat} {v : Word} (h : Canon p m) :
    Canon p (ringTailWrite src r v p m) :=
  .ite (h.gated fun _ h => h.wr.completionWrite) h

theorem Canon.nop {w seq : Nat} (h : Canon p m) : Canon p (nop w seq p m) := by
  unfold Machine.nop
  split
  · exact h.complete
  · exact h

theorem Canon.eventSignal {w seq : Nat} (h : Canon p m) : Canon p (eventSignal w seq p m) := by
  unfold Machine.eventSignal
  split
  · exact .release (.complete (.ite h.setEvtCnt h.addEvt))
  · exact h

theorem Canon.eventWait {w seq : Nat} (h : Canon p m) : Canon p (eventWait w seq p m) := by
  unfold Machine.eventWait
  split
  · exact .ite h.finishWait h
  · exact h

theorem Canon.semAcq {w seq : Nat} (h : Canon p m) : Canon p (semAcq w seq p m) := by
  unfold Machine.semAcq
  split
  · exact .ite h.finishAcq h
  · exact h

theorem Canon.semRel {w seq : Nat} (h : Canon p m) : Canon p (semRel w seq p m) := by
  unfold Machine.semRel
  split
  · exact h.setSem.complete.release
  · exact h

theorem Canon.queueSpill {q : Nat} (h : Canon p m) : Canon p (queueSpill q p m) := by
  unfold Machine.queueSpill
  split
  · exact .ite h.spillTail h
  · exact h

theorem Canon.queueFill {q : Nat} (h : Canon p m) : Canon p (queueFill q p m) := by
  unfold Machine.queueFill
  split
  · split
    · exact .ite h.setRing.startReads h
    · exact h
  · exact h

theorem Canon.completeEntries {st : Nat} {es : List Entry} (h : Canon p m) : Canon p (completeEntries p m st es) :=
  h.foldl fun _ _ h => .ite h.completeLine h

theorem Canon.dropPackets {q w : Nat} {lost : List Entry} (h : Canon p m) : Canon p (dropPackets m q w lost) :=
  h.setPq.setRing

theorem Canon.fillDone {w : Nat} {bad : Bool} (h : Canon p m) : Canon p (fillDone p m w bad) := by
  unfold Machine.fillDone
  dsimp only
  split
  · exact .ite h.setRing.dropPackets.completeEntries.settleQueue h.setRing.setPq.settleQueue.countBlock
  · exact h

theorem Canon.ringWrite {src : Src} {r : Nat} {v : Word} (h : Canon p m) : Canon p (ringWrite src r v p m) :=
  .ite (h.gated fun _ h => .ite h.ignored h.wr.setRing) h

theorem Canon.queueFlush {w seq : Nat} (h : Canon p m) : Canon p (queueFlush w seq p m) := by
  unfold Machine.queueFlush
  split
  · refine .complete ?_
    split
    · exact h.setPq.setRing.dropTxns.settleQueue.completeEntries
    · exact h
  · exact h

end

/-! ### Hearths and the items they hold -/

section
variable {p : Part} {m : Mach}

theorem Canon.setHearth {h' : Nat} {x : Hearth} (h : Canon p m) : Canon p (setHearth m h' x) := h.rest

theorem Canon.placeItem {u : SubUnit} {c : Nat} {i : ItemRef} {n : Nat} {held : Bool} (h : Canon p m) :
    Canon p (placeItem p m u c i n held) := by
  unfold Machine.placeItem
  split
  · exact h.rest
  · exact h

theorem Canon.onHearth {u : SubUnit} {c : Nat} {i : ItemRef} {n : Nat} {work : Mach → Mach} (h : Canon p m)
    (hf : ∀ n, Canon p n → Canon p (work n)) : Canon p (onHearth p m u c i n work) :=
  .ite (hf _ h.placeItem) h

theorem Canon.unplace {gone : Placed → Bool} (h : Canon p m) : Canon p (unplace m gone) := h.rest

theorem Canon.moveItems {h' : Nat} (h : Canon p m) : Canon p (moveItems m h') := h.rest

end

/-! ### The running step -/

section
variable {p : Part} {m : Mach}

theorem Canon.setStep {s : StepRun} (h : Canon p m) : Canon p (setStep m s) := h.rest

theorem Canon.updStep {c : Nat} {f : StepRun → StepRun} (h : Canon p m) : Canon p (updStep m c f) := by
  unfold Machine.updStep
  split
  · exact .ite h.setStep h.rest
  · exact h.rest

theorem Canon.failItem {c : Nat} {f : Failure} (h : Canon p m) : Canon p (failItem m c f) := h.updStep

theorem Canon.updPhase {c : Nat} {k : Key} {f : LayerPhase → LayerPhase} (h : Canon p m) :
    Canon p (updPhase m c k f) :=
  h.updStep

theorem Canon.failKey {c : Nat} {k : Key} {f : Failure} (h : Canon p m) : Canon p (failKey m c k f) := h.updStep

end

/-! ### Buffers of the pools -/

section
variable {p : Part} {m : Mach}

theorem Canon.allocBuf {c cls : Nat} {r : Requester} (h : Canon p m) {z} (hx : allocBuf p m c cls r = some z) :
    Canon p z.2 := by
  unfold Machine.allocBuf at hx
  split at hx
  · split at hx
    · cases hx
      exact h.setCtx
    · cases hx
  · cases hx

theorem Canon.setRefs {c cls n k : Nat} (h : Canon p m) : Canon p (setRefs m c cls n k) := by
  unfold Machine.setRefs
  dsimp only
  split
  · exact h.setCtx
  · exact h

theorem Canon.freeBuf {c cls n : Nat} (h : Canon p m) : Canon p (freeBuf m c cls n) := by
  unfold Machine.freeBuf
  dsimp only
  split
  · exact h.setCtx
  · exact h

theorem Canon.decBuf {c cls n : Nat} (h : Canon p m) : Canon p (decBuf p m c cls n) := by
  unfold Machine.decBuf
  split
  · exact .ite h.freeBuf h.setRefs
  · exact h.report

theorem Canon.takeBufs {c : Nat} {r : Requester} {cs : List Nat} (h : Canon p m) {z}
    (hx : takeBufs p c r cs m = some z) : Canon p z.2 := by
  induction cs generalizing m z with
  | nil =>
    cases hx
    exact h
  | cons cls cs ih =>
    unfold Machine.takeBufs at hx
    split at hx
    · next halloc =>
      split at hx
      · next htake =>
        cases hx
        have hrest := ih (h.allocBuf halloc) htake
        exact hrest
      · cases hx
    · cases hx

theorem Canon.allocAll {c : Nat} {r : Requester} {cs : List Nat} (h : Canon p m) {z}
    (hx : allocAll p c r cs m = some z) : Canon p z.2 := by
  unfold Machine.allocAll at hx
  split at hx
  · exact h.takeBufs hx
  · cases hx

theorem Canon.freeAll {c : Nat} {l : List (Nat × Nat)} (h : Canon p m) : Canon p (freeAll m c l) :=
  h.foldl fun _ _ h => h.freeBuf

theorem Canon.preemptCmd {r : Running} (h : Canon p m) : Canon p (preemptCmd m r) := by
  unfold Machine.preemptCmd
  dsimp only
  split
  · exact h.freeAll.dropRunning.setPq
  · exact h.freeAll.dropRunning

end

/-! ### Lines of the kiln -/

section
variable {p : Part} {m : Mach}

theorem Canon.kilnCorrected {line : Nat} (h : Canon p m) : Canon p (kilnCorrected p m line) := h.report

theorem Canon.lineNoted {line bank : Nat} {known : Option Nat} (h : Canon p m) :
    Canon p (lineNoted p m line bank known) :=
  h.wr.report.rest

theorem Canon.kilnNote {line : Nat} {known : Option Nat} (h : Canon p m) : Canon p (kilnNote p m line known) :=
  h.lineNoted.rest

theorem Canon.readFinds {f : StoreRead} (h : Canon p m) : Canon p (readFinds p m f) := by
  unfold Machine.readFinds
  split
  · exact h.kilnCorrected
  · exact h.rest
  · exact h

theorem Canon.putBuf {c cls n off : Nat} {bs : List Byte} (h : Canon p m) : Canon p (putBuf m c cls n off bs) :=
  h.putKiln.wholeLines

end

/-! ### The layout engine -/

section
variable {p : Part} {m : Mach}

theorem Canon.setOp {o : OpCtx} (h : Canon p m) : Canon p (setOp m o) := by
  unfold Machine.setOp
  split
  · split
    · exact h.setRunning
    · exact h
  · exact h.updStep

theorem Canon.endOp {o : OpCtx} {st detail : Nat} (h : Canon p m) : Canon p (endOp m o st detail) := by
  unfold Machine.endOp
  dsimp only
  split
  · split
    · exact h.freeAll.complete
    · exact h.freeAll
  · exact h.freeAll.updStep

theorem Canon.winWrite {c : Nat} {w : XWin} {off : Nat} {bs : List Byte} {use : TxnUse} {strided : Option Nat}
    (h : Canon p m) : Canon p (winWrite p m c w off bs use strided) :=
  .ite (h.countStrided.foldl fun _ _ h => h.putKiln) h.startWrites

theorem Canon.winFetch {w : XWin} {off n : Nat} {use : TxnUse} {strided : Option Nat} (h : Canon p m) :
    Canon p (winFetch p m w off n use strided) :=
  .ite h.countStrided h.startReads

theorem Canon.winPut {c : Nat} {w : XWin} {off : Nat} {bs : List Byte} {use : TxnUse} {strided : Option Nat}
    (h : Canon p m) {z} (hx : winPut p m c w off bs use strided = z) : Canon p z.1 := by
  subst hx
  unfold Machine.winPut
  split
  · exact h.countStrided.kilnNote
  · exact h.winWrite

theorem Canon.xfEnd {o : OpCtx} {e : XfFail} (h : Canon p m) : Canon p (xfEnd p m o e) := h.wr.endOp

theorem Canon.fetchData {o : OpCtx} {sw dw : XWin} {idx : List Nat} (h : Canon p m) :
    Canon p (fetchData p m o sw dw idx) :=
  (h.foldl fun _ _ h => h.winFetch).foldl fun _ _ h => h.winFetch

theorem Canon.putAll {o : OpCtx} {dw : XWin} {l : List (Nat × List Byte)} (h : Canon p m) :
    Canon p (putAll p o dw l m) := by
  induction l generalizing m with
  | nil => exact h
  | cons x l ih =>
    unfold Machine.putAll
    split
    · next hput => exact (h.winPut hput).endOp
    · next hput => exact ih (h.winPut hput)

theorem Canon.moveAll {o : OpCtx} {sw dw : XWin} {idx : List Nat} (h : Canon p m) :
    Canon p (moveAll p m o sw dw idx) :=
  h.bump.putAll

theorem Canon.stageEarly {o : OpCtx} (h : Canon p m) : Canon p (stageEarly p m o) := by
  unfold Machine.stageEarly
  dsimp only
  refine .ite h.endOp ?_
  split
  · exact h.xfEnd
  · split
    · exact h.setOp.winFetch
    · exact h.setOp

theorem Canon.lineLost {o : OpCtx} {l : Nat} (h : Canon p m) : Canon p (lineLost p m o l) := h.kilnNote.endOp

theorem Canon.stageCheck {o : OpCtx} (h : Canon p m) : Canon p (stageCheck p m o) := by
  unfold Machine.stageCheck
  split
  · split
    · exact h.lineLost
    · dsimp only
      split
      · next halloc => exact .ite (h.allocAll halloc).xfEnd h.xfEnd
      · exact .ite h h.xfEnd
      · next halloc => exact (h.allocAll halloc).setOp.fetchData
      · exact h
  · exact h.xfEnd

theorem Canon.onUnits {o : OpCtx} {h' : Shape} {n : Nat} {work : Mach → Mach} (h : Canon p m)
    (hf : ∀ n, Canon p n → Canon p (work n)) : Canon p (onUnits p m o h' n work) :=
  .ite (.ite (h.onHearth hf) (hf _ h)) (.ite h (h.onHearth fun _ h => .ite (h.onHearth hf) (hf _ h)))

theorem Canon.stageMove {o : OpCtx} (h : Canon p m) : Canon p (stageMove p m o) := by
  unfold Machine.stageMove
  dsimp only
  split
  · split
    · exact h.lineLost
    · exact h.onUnits fun _ h => h.setOp.moveAll
  · exact h

theorem Canon.stageDone {o : OpCtx} (h : Canon p m) : Canon p (stageDone m o) := h.endOp

theorem Canon.layoutStage {o : OpCtx} (h : Canon p m) : Canon p (layoutStage p m o) := by
  refine .ite h.endOp ?_
  refine .ite h ?_
  split
  · exact h.stageEarly
  · exact h.stageCheck
  · exact h.stageMove
  · exact h.stageDone

theorem Canon.layoutStages {c : Nat} {w : CollOwner} {k : Nat} (h : Canon p m) : Canon p (layoutStages p c w k m) := by
  induction k generalizing m with
  | zero => exact h
  | succ k ih =>
    unfold Machine.layoutStages
    split
    · exact ih h.layoutStage
    · exact h

theorem Canon.layoutOp {o : OpRef} {opc : Nat} {f : StoreRead} (h : Canon p m) :
    Canon p (layoutOp o opc f p m) := by
  unfold Machine.layoutOp
  split
  · exact h.readFinds.layoutStages
  · exact h

theorem Canon.xform {o : OpRef} {f : StoreRead} (h : Canon p m) : Canon p (xform o f p m) := h.layoutOp

theorem Canon.gather {o : OpRef} {f : StoreRead} (h : Canon p m) : Canon p (gather o f p m) := h.layoutOp

theorem Canon.scatter {o : OpRef} {f : StoreRead} (h : Canon p m) : Canon p (scatter o f p m) := h.layoutOp

end

/-! ### Routing, flows and filters -/

section
variable {p : Part} {m : Mach}

theorem Canon.setLink {l : Nat} {x : Link} (h : Canon p m) : Canon p (setLink m l x) := h.rest

theorem Canon.moveOwn {d vc l : Nat} (h : Canon p m) : Canon p (moveOwn m d vc l) := h.rest

theorem Canon.moveTransit {d vc l : Nat} (h : Canon p m) : Canon p (moveTransit m d vc l) := h.rest

theorem Canon.sendRec {r : Rec0} (h : Canon p m) : Canon p (sendRec p m r) := by
  refine .ite h.rest ?_
  split
  · exact .ite h.rest h
  · exact h.rest

theorem Canon.sendRecord {dst : Nat} {bytes : BitVec 128} (h : Canon p m) : Canon p (sendRecord p m dst bytes) :=
  h.sendRec

theorem Canon.takeRecord {kind : Nat} (h : Canon p m) {z} (hx : takeRecord m kind = some z) : Canon p z.2 := by
  obtain ⟨-, -, hn⟩ := takeRecord_some hx
  rw [hn]
  exact h.rest

theorem Canon.kindleGone {k : KindleOut} (h : Canon p m) : Canon p (kindleGone m k) := by
  unfold Machine.kindleGone
  split
  · split
    · exact .ite h.complete h.setRunning
    · exact h
  · split
    · exact h.setStep
    · exact h

theorem Canon.billetGone {c : Nat} {k : Key} {t : Nat} (h : Canon p m) : Canon p (billetGone m c k t) := by
  unfold Machine.billetGone
  dsimp only
  split
  · refine .ite ?_ h
    split
    · split
      · exact .ite h.updPhase.freeBuf h.updPhase
      · exact h.updPhase
    · exact h
  · exact h

theorem Canon.tileGone {c : Nat} {k : Key} {buf : Nat} (h : Canon p m) : Canon p (tileGone m c k buf) := by
  unfold Machine.tileGone
  split
  · refine .ite ?_ h
    split
    · exact .ite h.updPhase.freeBuf h.updPhase
    · exact h
  · exact h

theorem Canon.flitGone {o : Origin} (h : Canon p m) : Canon p (flitGone m o) := by
  unfold Machine.flitGone
  split
  · exact h.billetGone
  · exact h.updPhase
  · exact h.tileGone
  · exact h.foldl fun _ _ h => h.kindleGone
  · exact h
  · exact h
  · exact h

theorem Canon.failOrigin {o : Origin} {st : Nat} (h : Canon p m) : Canon p (failOrigin p m o st) := by
  unfold Machine.failOrigin
  split
  · exact h.failKey
  · exact h.failKey
  · exact h.failKey
  · exact h.failKey
  · exact h
  · exact h
  · exact h

theorem Canon.countUnreach {c : Nat} {k : Key} {t d : Nat} (h : Canon p m) :
    Canon p (countUnreach p m c k t d) := by
  unfold Machine.countUnreach
  split
  · exact .ite h.updPhase.bump h
  · exact h

theorem Canon.dropUnreachable {f : OwnFlit} (h : Canon p m) : Canon p (dropUnreachable p m f) := by
  unfold Machine.dropUnreachable
  dsimp only
  refine .ite ?_ ?_
  · refine .failOrigin ?_
    split
    · exact h.countUnreach
    · exact h
  · refine .flitGone (.failOrigin ?_)
    split
    · exact h.countUnreach
    · exact h

theorem Canon.queueFlit {f : OwnFlit} (h : Canon p m) : Canon p (queueFlit p m f) := by
  unfold Machine.queueFlit
  split
  · split
    · exact h.setLink.moveOwn
    · exact h
  · exact h.rest
  · exact h.dropUnreachable

theorem Canon.retryWaiting (h : Canon p m) : Canon p (retryWaiting p m) := h.rest.foldl fun _ _ h => h.queueFlit

theorem Canon.drawPtag {d : Nat} (h : Canon p m) {z} (hx : drawPtag m d = z) : Canon p z.2 := by
  subst hx
  exact h.rest

theorem Canon.loopPacket {vc : Nat} {mgmt : Bool} {fsn ptag : Nat} {bytes : List Byte} (h : Canon p m) :
    Canon p (loopPacket p m vc mgmt fsn ptag bytes) :=
  h.rest

theorem Canon.queuePacket {vc dst : Nat} {mgmt : Bool} {fsn ctx : Nat} {o : Origin} {bytes : List Byte}
    (h : Canon p m) : Canon p (queuePacket p m vc dst mgmt fsn ctx o bytes) :=
  .ite (h.drawPtag rfl).loopPacket ((h.drawPtag rfl).foldl fun _ _ h => h.queueFlit)

theorem Canon.setFlow {d vc : Nat} {x : Flow} (h : Canon p m) : Canon p (setFlow m d vc x) := h.rest

theorem Canon.noteWrite {d ctx : Nat} {body : List Byte} {use : FlowUse} (h : Canon p m) :
    Canon p (noteWrite m d ctx body use) := by
  unfold Machine.noteWrite
  split
  · exact .ite h.rest h
  · exact h

theorem Canon.emitFlow {d vc : Nat} {mgmt : Bool} {body : List Byte} {ctx : Nat} {use : FlowUse} (h : Canon p m) :
    Canon p (emitFlow p m d vc mgmt body ctx use) :=
  h.setFlow.rest.noteWrite.queuePacket

theorem Canon.sendFlow {d vc : Nat} {body : List Byte} {ctx : Nat} {use : FlowUse} {mgmt : Bool} (h : Canon p m) :
    Canon p (sendFlow p m d vc body ctx use mgmt) :=
  .ite h.emitFlow h.setFlow

theorem Canon.dropHeld {pick : FlowUse → Bool} (h : Canon p m) : Canon p (dropHeld m pick) := h.rest

theorem Canon.pumpFlow {d vc k : Nat} (h : Canon p m) : Canon p (pumpFlow p d vc k m) := by
  induction k generalizing m with
  | zero => exact h
  | succ k ih =>
    unfold Machine.pumpFlow
    dsimp only
    split
    · exact .ite (ih h.setFlow.emitFlow) h
    · exact h

theorem Canon.dropOut {d vc fsn : Nat} (h : Canon p m) : Canon p (dropOut m d vc fsn) := h.rest

theorem Canon.settleFlow {d vc fsn : Nat} (h : Canon p m) : Canon p (settleFlow p m d vc fsn) :=
  h.setFlow.dropOut.pumpFlow

theorem Canon.failFlow {d vc fsn : Nat} (h : Canon p m) : Canon p (failFlow m d vc fsn) := h.setFlow.dropOut

theorem Canon.ackPacket {src vc fsn : Nat} (h : Canon p m) : Canon p (ackPacket p m src vc fsn) := h.sendRecord

theorem Canon.freeCredit {l vc : Nat} (h : Canon p m) : Canon p (freeCredit m l vc) := .ite h h.setLink

theorem Canon.putRx {x y : RxPkt} (h : Canon p m) : Canon p (putRx m x y) := h.rest

theorem Canon.markRx {x : RxPkt} (h : Canon p m) : Canon p (markRx m x) := h.putRx

theorem Canon.touchOp {h' : Nat} {pick : CollOp → Bool} (h : Canon p m) : Canon p (touchOp m h' pick) := h.rest

theorem Canon.packetSent {x1 : Origin} (h : Canon p m) : Canon p (packetSent m x1) := by
  unfold Machine.packetSent
  split
  · split
    · split
      · exact h.touchOp
      · exact h
    · exact h
  · exact h

theorem Canon.packetHeard {x : RxPkt} (h : Canon p m) : Canon p (packetHeard m x) := .ite h.touchOp h

theorem Canon.creditOut {qs : List (Nat × Nat)} (h : Canon p m) : Canon p (creditOut m qs) :=
  h.foldl fun _ _ h => h.freeCredit

theorem Canon.freeFlits {x : RxPkt} {pick : Nat → Bool} (h : Canon p m) {z} (hx : freeFlits m x pick = z) :
    Canon p z.1 := by
  subst hx
  exact h.creditOut.putRx

theorem Canon.dropRx {x : RxPkt} (h : Canon p m) : Canon p (dropRx m x) := h.rest.creditOut

theorem Canon.setFilter {src vc : Nat} {x : Filter} (h : Canon p m) : Canon p (setFilter m src vc x) := h.rest

theorem Canon.dropDuplicate {x : RxPkt} (h : Canon p m) : Canon p (dropDuplicate p m x) := h.dropRx.bump.ackPacket

theorem Canon.markFilter {src vc fsn : Nat} (h : Canon p m) : Canon p (markFilter m src vc fsn) := h.setFilter

theorem Canon.acceptRx {x : RxPkt} (h : Canon p m) : Canon p (acceptRx m x) := h.dropRx.markFilter

theorem Canon.acceptAck {x : RxPkt} (h : Canon p m) : Canon p (acceptAck p m x) := h.acceptRx.ackPacket

theorem Canon.leaveInput {l vc : Nat} (h : Canon p m) : Canon p (leaveInput m l vc) := h.setLink

theorem Canon.releaseTransit {t : TransitFlit} (h : Canon p m) : Canon p (releaseTransit p m t) :=
  .ite h (.ite h.leaveInput.freeCredit h.setLink)

theorem Canon.noteDropped {d : Dropped} {f : Flit} (h : Canon p m) : Canon p (noteDropped m d f) := h.rest

theorem Canon.dropPacket {counter ev : Nat} {f : Flit} (h : Canon p m) : Canon p (dropPacket p m counter ev f) := by
  unfold Machine.dropPacket
  split
  · exact h.noteDropped
  · exact h.bump.setEvt.noteDropped

theorem Canon.queueTransit {t : TransitFlit} (h : Canon p m) : Canon p (queueTransit p m t) := by
  unfold Machine.queueTransit
  split
  · split
    · exact h.setLink.moveTransit
    · exact h
  · exact h.rest
  · exact h.releaseTransit.dropPacket

theorem Canon.retryTransit (h : Canon p m) : Canon p (retryTransit p m) := h.rest.foldl fun _ _ h => h.queueTransit

theorem Canon.dropIring {r : IringRec} (h : Canon p m) : Canon p (dropIring m r) := h.rest

theorem Canon.iringPut {r : IringRec} (h : Canon p m) : Canon p (iringPut p m r) := h.rest.startWrites

theorem Canon.iringNext {c k : Nat} (h : Canon p m) : Canon p (iringNext p c k m) := by
  induction k generalizing m with
  | zero => exact h
  | succ k ih =>
    unfold Machine.iringNext
    split
    · exact .ite h (.ite (ih h.dropIring) (.ite h.iringPut (ih h.dropIring.orReg)))
    · exact h

theorem Canon.iringWrite {c : Nat} {bs : List Byte} {serve : Option Nat} (h : Canon p m) :
    Canon p (iringWrite p m c bs serve) :=
  h.rest.iringNext

theorem Canon.iringEnds {c : Nat} {failed : Bool} (h : Canon p m) : Canon p (iringEnds p m c failed) := by
  unfold Machine.iringEnds
  split
  · exact .iringNext (.ite h.dropIring.orReg h.dropIring.wr.addEvt.release)
  · exact h

theorem Canon.iringOverflow {c : Nat} (h : Canon p m) : Canon p (iringOverflow p m c) := .ite h.clrReg.iringWrite h

theorem Canon.endSubscriptions {d : Nat} (h : Canon p m) : Canon p (endSubscriptions p m d) :=
  .foldl (.ite h.rest h.rest.setEvt) fun _ _ h => h.iringWrite

theorem Canon.rerouted {before : List (Nat × Nat)} (h : Canon p m) : Canon p (rerouted p before m) :=
  .retryTransit (.retryWaiting (.foldl (.ite h h.setEvt) fun _ _ h => .ite h.report.endSubscriptions h))

theorem Canon.withReroute {f : Mach → Mach} (h : Canon p m) (hf : ∀ n, Canon p n → Canon p (f n)) :
    Canon p (withReroute p m f) :=
  (hf _ h).rerouted

end

/-! ### Groups and barriers -/

section
variable {p : Part} {m : Mach}

theorem Canon.setGroup {h' : Nat} {g : Group} (h : Canon p m) : Canon p (setGroup m h' g) := h.rest

theorem Canon.dropGroup {h' : Nat} (h : Canon p m) : Canon p (dropGroup m h') := h.rest

theorem Canon.updGroup {h' : Nat} {f : Group → Group} (h : Canon p m) : Canon p (updGroup m h' f) := by
  unfold Machine.updGroup
  split
  · exact h.setGroup
  · exact h

theorem Canon.sendAborts {h' att reason epoch opseq : Nat} {nodes : List Nat} (h : Canon p m) :
    Canon p (sendAborts p m h' att reason epoch opseq nodes) :=
  .ite (h.foldl fun _ _ h => h.sendRecord) (h.foldl fun _ _ h => h.sendRecord).bump.setEvt

theorem Canon.setRelease {h' : Nat} {t : Int} (h : Canon p m) : Canon p (setRelease p m h' t) :=
  .ite h.updGroup.bump.setEvt h.updGroup

theorem Canon.releaseAll {h' : Nat} {g : Group} (h : Canon p m) : Canon p (releaseAll p m h' g) :=
  (h.foldl fun _ _ h => h.sendRec).setRelease

theorem Canon.countArrival {h' rank att : Nat} (h : Canon p m) : Canon p (countArrival p m h' rank att) := by
  unfold Machine.countArrival
  split
  · exact .ite h (.ite h.setGroup.releaseAll h.setGroup)
  · exact h

theorem Canon.arriveBarrier {h' att : Nat} (h : Canon p m) : Canon p (arriveBarrier p m h' att) := by
  unfold Machine.arriveBarrier
  dsimp only
  split
  · refine .ite h.setGroup.countArrival ?_
    split
    · exact .ite h.setGroup.sendRecord.setRelease h.setGroup.sendRecord
    · exact h.setGroup.sendRecord
  · exact h

theorem Canon.barArrive (h : Canon p m) : Canon p (barArrive p m) := by
  unfold Machine.barArrive
  dsimp only
  split
  · next hx =>
    split
    · split
      · exact .ite (h.takeRecord hx) (.ite (h.takeRecord hx).countArrival (.ite (h.takeRecord hx).setGroup
          (h.takeRecord hx)))
      · exact h.takeRecord hx
    · exact h.takeRecord hx
  · exact h

theorem Canon.barRelease (h : Canon p m) : Canon p (barRelease p m) := by
  unfold Machine.barRelease
  dsimp only
  split
  · next hx =>
    split
    · exact .ite (h.takeRecord hx) (.ite (h.takeRecord hx).setRelease (h.takeRecord hx).setGroup)
    · exact h.takeRecord hx
  · exact h

theorem Canon.nextBarrier {h' : Nat} (h : Canon p m) : Canon p (nextBarrier p m h') := by
  unfold Machine.nextBarrier
  split
  · exact h.setGroup.foldl fun _ _ h => h.countArrival
  · exact h

theorem Canon.leaveBarrier {h' : Nat} (h : Canon p m) : Canon p (leaveBarrier m h') := h.updGroup

theorem Canon.groupErr {h' code node : Nat} (h : Canon p m) : Canon p (groupErr p m h' code node) := h.wr.setEvt

theorem Canon.sendFree {h' epoch ctx : Nat} {nodes : List Nat} (h : Canon p m) :
    Canon p (sendFree p m h' epoch ctx nodes) :=
  h.foldl fun _ _ h => h.sendFlow

theorem Canon.joinReady {h' : Nat} (h : Canon p m) : Canon p (joinReady p m h') := by
  unfold Machine.joinReady
  split
  · split
    · exact .ite h.setGroup.arriveBarrier h
    · exact h
  · exact h

theorem Canon.startForming {acc c : Nat} {g : GImage} (h : Canon p m) : Canon p (startForming p m acc c g) :=
  .ite (h.setGroup.sendFree.foldl fun _ _ h => h.sendFlow).joinReady h.setGroup.sendFlow.updGroup.arriveBarrier

theorem Canon.resumeForming {r : Running} {h' : Nat} (h : Canon p m) : Canon p (resumeForming p m r h') := by
  unfold Machine.resumeForming
  split
  · split
    · split
      · exact h.dropGroup.complete
      · exact h.setGroup.joinReady
    · exact h
  · exact h

theorem Canon.dissolve {r : Running} {g : GImage} (h : Canon p m) : Canon p (dissolve p m r g) :=
  .complete (.ite h.dropGroup.sendFree h.dropGroup)

theorem Canon.imageFails {r : Running} {g : GImage} {e : Nat × Nat × Nat} (h : Canon p m) :
    Canon p (imageFails p m r g e) :=
  .complete (.ite h.groupErr.sendAborts h.groupErr)

theorem Canon.imageLost {r : Running} (h : Canon p m) : Canon p (imageLost p m r) := h.setEvt.complete

theorem Canon.formCmd {w seq op : Nat} (h : Canon p m) : Canon p (formCmd w seq op p m) := by
  unfold Machine.formCmd
  dsimp only
  split
  · refine .ite h.imageLost ?_
    refine .ite h ?_
    refine .ite h.setRunning.startReads ?_
    refine .ite ?_ h
    split
    · exact h.imageFails
    · exact .ite h.setRunning.resumeForming (.ite h (.ite h.dissolve h.setRunning.startForming))
  · exact h

theorem Canon.groupForm {w seq : Nat} (h : Canon p m) : Canon p (groupForm w seq p m) := h.formCmd

theorem Canon.groupReform {w seq : Nat} (h : Canon p m) : Canon p (groupReform w seq p m) := h.formCmd

theorem Canon.formFails {h' st : Nat} (h : Canon p m) : Canon p (formFails p m h' st) := by
  unfold Machine.formFails
  dsimp only
  split
  · split
    · split
      · exact .complete (.ite h.setEvt.setGroup h.setEvt.dropGroup)
      · exact .ite h.setEvt.setGroup h.setEvt.dropGroup
    · exact h
  · exact h

theorem Canon.formRefused {h' code node : Nat} (h : Canon p m) : Canon p (formRefused p m h' code node) := by
  unfold Machine.formRefused
  split
  · split
    · exact h.groupErr.sendAborts.sendFree.formFails
    · exact h
  · exact h

theorem Canon.crcDrop {x : RxPkt} (h : Canon p m) : Canon p (crcDrop p m x) := h.dropRx.bump.rest

theorem Canon.crcPass {src : Nat} (h : Canon p m) : Canon p (crcPass m src) := h.rest

theorem Canon.join (h : Canon p m) : Canon p (join p m) := by
  unfold Machine.join
  dsimp only
  split
  · refine .ite h.dropDuplicate ?_
    refine .ite h.crcDrop ?_
    split
    · split
      · exact .ite h.acceptAck.crcPass (.ite h.acceptAck.crcPass.formRefused h.acceptAck.crcPass.setGroup.joinReady)
      · exact h.acceptAck.crcPass
    · exact h.acceptAck.crcPass
  · exact h

theorem Canon.treeAck (h : Canon p m) : Canon p (treeAck p m) := by
  unfold Machine.treeAck
  dsimp only
  split
  · refine .ite h.dropDuplicate ?_
    refine .ite h.crcDrop ?_
    split
    · split
      · exact .ite h.acceptAck.crcPass (.ite h.acceptAck.crcPass.formRefused h.acceptAck.crcPass.setGroup.joinReady)
      · exact h.acceptAck.crcPass
    · exact h.acceptAck.crcPass
  · exact h

theorem Canon.freeResv {pick : RedResv → Bool} (h : Canon p m) : Canon p (freeResv m pick) := h.rest

theorem Canon.drawBelow {n : Nat} (h : Canon p m) {z} (hx : drawBelow n m = z) : Canon p z.2 := by
  subst hx
  exact h.drawFree rfl

theorem Canon.drawMany {n k : Nat} (h : Canon p m) {z} (hx : drawMany n k m = z) : Canon p z.2 := by
  subst hx
  induction k generalizing m with
  | zero => exact h
  | succ k ih =>
    have hdraw : Canon p (Machine.drawBelow n m).2 := h.drawBelow rfl
    exact ih hdraw

theorem Canon.treeAnswer {dst h' epoch kind : Nat} (h : Canon p m) : Canon p (treeAnswer p m dst h' epoch kind) :=
  h.sendFlow

theorem Canon.newResv {bs : List Byte} (h : Canon p m) {z} (hx : newResv m bs = z) : Canon p z.2 := by
  subst hx
  have hparent : Canon p (Machine.drawBelow 2048 m).2 := h.drawBelow rfl
  have hchild : Canon p (Machine.drawBelow 64 (Machine.drawBelow 2048 m).2).2 := hparent.drawBelow rfl
  exact hchild.drawMany rfl

theorem Canon.treeSet (h : Canon p m) : Canon p (treeSet p m) := by
  refine .ite h ?_
  split
  · exact .ite h.dropDuplicate (.ite h.crcDrop (.ite h.acceptAck.crcPass (.ite h.acceptAck.crcPass.treeAnswer
      (.ite h.acceptAck.crcPass.freeResv.treeAnswer (h.acceptAck.crcPass.freeResv.newResv rfl).rest.treeAnswer))))
  · exact h

theorem Canon.treeFree (h : Canon p m) : Canon p (treeFree p m) := by
  refine .ite h ?_
  split
  · exact .ite h.dropDuplicate (.ite h.crcDrop h.acceptAck.crcPass.freeResv)
  · exact h

end

/-! ### Collectives and reductions -/

section
variable {p : Part} {m : Mach}

theorem Canon.updOp {h' : Nat} {f : CollOp → CollOp} (h : Canon p m) : Canon p (updOp m h' f) := h.updGroup

theorem Canon.markFail {c : Nat} {failed : Bool} {x3 : CollOwner} (h : Canon p m) :
    Canon p (markFail m c failed x3) := by
  unfold Machine.markFail
  split
  · split
    · exact h.setRunning
    · exact h
  · exact h.updStep

theorem Canon.groupPast {h' opseq sent : Nat} (h : Canon p m) : Canon p (groupPast m h' opseq sent) := h.updGroup

theorem Canon.endColl {h' st : Nat} (h : Canon p m) : Canon p (endColl m h' st) := by
  unfold Machine.endColl
  split
  · split
    · split
      · exact h.groupPast.endOp
      · exact h.groupPast
    · exact h
  · exact h

theorem Canon.raiseAtt {h' a : Nat} (h : Canon p m) : Canon p (raiseAtt m h' a) := h.updGroup

theorem Canon.rerunColl {h' : Nat} {suspended : Bool} (h : Canon p m) : Canon p (rerunColl p m h' suspended) := by
  unfold Machine.rerunColl
  split
  · split
    · exact .ite h.leaveBarrier.endColl h.leaveBarrier.markFail.updOp.bump
    · exact h
  · exact h

theorem Canon.abortColl {h' reason st : Nat} (h : Canon p m) : Canon p (abortColl p m h' reason st) := by
  unfold Machine.abortColl
  split
  · split
    · exact .ite h (.ite h.sendAborts.raiseAtt.rerunColl h.sendAborts.raiseAtt.leaveBarrier.endColl)
    · exact h
  · exact h

theorem Canon.collFails {o : OpCtx} {st : Nat} (h : Canon p m) : Canon p (collFails p m o st) := by
  unfold Machine.collFails
  split
  · exact h.sendAborts.groupPast.raiseAtt.endOp
  · exact h.endOp

theorem Canon.sendOp {h' : Nat} {g : Group} {op : CollOp} {node : Nat} {bytes : List Byte} (h : Canon p m) :
    Canon p (sendOp p m h' g op node bytes) :=
  h.updOp.sendFlow

theorem Canon.sendColl {h' : Nat} {g : Group} {op : CollOp} {rank : Nat} {bytes : List Byte} (h : Canon p m) :
    Canon p (sendColl p m h' g op rank bytes) :=
  h.sendOp

theorem Canon.writeDst {o : OpCtx} {off : Nat} {bs : List Byte} (h : Canon p m) :
    Canon p (writeDst p m o off bs) := by
  unfold Machine.writeDst
  split
  · split
    · next hx1 => exact (h.winPut hx1).markFail
    · next hx1 => exact h.winPut hx1
  · exact h

theorem Canon.sendChunk {h' : Nat} {g : Group} {o : OpCtx} {op : CollOp} {me c : Nat} {bs : List Byte}
    (h : Canon p m) : Canon p (sendChunk p m h' g o op me c bs) := by
  refine .ite ?_ ?_
  · refine .ite (.ite h.writeDst.updOp (.ite h.sendColl h)) ?_
    split
    · split
      · exact h.sendOp
      · exact h
    · exact h
  · split
    · exact .ite h.writeDst h.sendColl
    · exact h

theorem Canon.pumpChunks {g k : Nat} (h : Canon p m) : Canon p (pumpChunks p g k m) := by
  induction k generalizing m with
  | zero => exact h
  | succ k ih =>
    unfold Machine.pumpChunks
    split
    · split
      · split
        · refine .ite ?_ h
          split
          · refine .ite (.ite h.updOp.winFetch h) ?_
            split
            · exact .abortColl (.kilnNote (.ite h.updOp.winFetch h))
            · exact ih (.updOp (.sendChunk (.ite h.updOp.winFetch h)))
          · exact h
        · exact h
      · exact h
    · exact h

theorem Canon.fetchCounts {o : OpCtx} {g : Group} (h : Canon p m) : Canon p (fetchCounts p m o g) := by
  unfold Machine.fetchCounts
  split
  · exact .ite h.winFetch h
  · exact h

theorem Canon.startCounts {h' : Nat} {g : Group} {o : OpCtx} {op : CollOp} {send : Mach → Mach} (h : Canon p m)
    (hf : ∀ n, Canon p n → Canon p (send n)) : Canon p (startCounts p m h' g o op send) := by
  refine .ite h.updOp.fetchCounts ?_
  refine .ite h ?_
  split
  · exact h.kilnNote.abortColl
  · exact hf _ h

theorem Canon.sendCounts {h' : Nat} {g : Group} {o : OpCtx} {op : CollOp} (h : Canon p m) :
    Canon p (sendCounts p m h' g o op) :=
  h.updOp.foldl fun _ _ h => .ite h h.sendColl

theorem Canon.countsVerdict {h' : Nat} (h : Canon p m) : Canon p (countsVerdict p m h') := by
  unfold Machine.countsVerdict
  split
  · split
    · split
      · exact .ite (.ite h.updOp h.updOp.writeDst) h
      · exact h
    · exact h
  · exact h

theorem Canon.settleColl {g : Nat} (h : Canon p m) : Canon p (settleColl p m g) := by
  unfold Machine.settleColl
  split
  · split
    · split
      · refine .ite h (.ite h.abortColl ?_)
        extract_lets counted judged dataOk pumped
        have hcounted : Canon p counted := .ite (h.startCounts fun _ h => h.sendCounts) h
        have hpumped : Canon p pumped := .ite hcounted.countsVerdict.pumpChunks hcounted.countsVerdict
        split
        · split
          · exact .ite hpumped.updOp.arriveBarrier hpumped
          · exact hpumped
        · exact hpumped
      · exact h
    · exact h
  · exact h

theorem Canon.beginColl {o : OpCtx} {g : Group} (h : Canon p m) : Canon p (beginColl p m o g) := by
  unfold Machine.beginColl
  split
  · exact h.groupPast.endOp
  · exact h.setOp.bump.updGroup.settleColl

theorem Canon.collCheck {o : OpCtx} (h : Canon p m) : Canon p (collCheck p m o) := by
  unfold Machine.collCheck
  dsimp only
  refine .ite h.collFails ?_
  split
  · exact h.wr.collFails
  · split
    · exact h.setOp.fetchCounts
    · exact h.setOp

theorem Canon.collLateCheck {o : OpCtx} (h : Canon p m) : Canon p (collLateCheck p m o) := by
  unfold Machine.collLateCheck
  split
  · exact h.wr.collFails
  · exact .ite h.collFails h.beginColl
  · exact h.endOp

theorem Canon.collReread {o : OpCtx} (h : Canon p m) : Canon p (collReread p m o) := by
  unfold Machine.collReread
  split
  · exact .ite h.sendAborts.raiseAtt.groupPast.endOp h.sendAborts.raiseAtt.setOp.markFail.bump
  · exact h.endOp

theorem Canon.collStage {o : OpCtx} (h : Canon p m) : Canon p (collStage p m o) := by
  refine .ite h ?_
  refine .ite h.collReread ?_
  split
  · exact h.collCheck
  · split
    · exact h.kilnNote.collReread
    · exact h.collLateCheck
  · exact h.settleColl

theorem Canon.collRow {o : OpRef} {opc : Nat} {f : StoreRead} (h : Canon p m) : Canon p (collRow o opc f p m) := by
  unfold Machine.collRow
  dsimp only
  split
  · split
    · exact .ite h.readFinds.collStage.collStage h.readFinds.collStage
    · exact h.readFinds.collStage
  · exact h

theorem Canon.collA2a {o : OpRef} {f : StoreRead} (h : Canon p m) : Canon p (collA2a o f p m) := h.collRow

theorem Canon.collA2av {o : OpRef} {f : StoreRead} (h : Canon p m) : Canon p (collA2av o f p m) := h.collRow

theorem Canon.collReduce {o : OpRef} {f : StoreRead} (h : Canon p m) : Canon p (collReduce o f p m) := h.collRow

theorem Canon.collBarrier {o : OpRef} (h : Canon p m) : Canon p (collBarrier o p m) := h.collRow

theorem Canon.crcFails {x : RxPkt} (h : Canon p m) : Canon p (crcFails p m x) :=
  .ite h.crcDrop.crcPass.abortColl h.crcDrop

theorem Canon.crcPassed {h' src : Nat} (h : Canon p m) : Canon p (crcPassed m h' src) := h.crcPass.updOp

theorem Canon.collRefuse {x : RxPkt} {x3 : Verdict} (h : Canon p m) : Canon p (collRefuse p m x x3) := by
  unfold Machine.collRefuse
  split
  · exact h.dropDuplicate
  · exact h.crcPass.acceptAck
  · exact h.crcPass.dropRx
  · exact h.crcFails
  · exact h.crcPass.dropRx.abortColl
  · exact h
  · exact h

theorem Canon.collReceive {kind : Nat} {ready : Group → OpCtx → CollOp → List Byte → Bool}
    {f : Mach → RxPkt → Nat → Group → OpCtx → CollOp → List Byte → Mach} (h : Canon p m)
    (hf : ∀ n x y z u v w, Canon p n → Canon p (f n x y z u v w)) : Canon p (collReceive p m kind ready f) := by
  unfold Machine.collReceive
  dsimp only
  split
  · split
    · exact hf _ _ _ _ _ _ _ h.crcPassed
    · exact h.collRefuse
  · exact h

theorem Canon.putFlits {x : RxPkt} {o : OpCtx} {off : Nat} (h : Canon p m) {z} (hx : putFlits p m x o off = z) :
    Canon p z.1 := by
  subst hx
  exact h.putRx.foldl fun _ _ h => h.writeDst

theorem Canon.takeData {x : RxPkt} {g : Nat} {o : OpCtx} {off : Nat} {done : Mach → Mach} (h : Canon p m)
    (hf : ∀ n, Canon p n → Canon p (done n)) : Canon p (takeData p m x g o off done) := by
  unfold Machine.takeData
  split
  next hput =>
  have hput := h.putFlits hput
  exact .ite hput.settleColl (.ite hput
    (.ite (hf _ (hput.freeFlits rfl).crcPassed.acceptAck).settleColl (hput.freeFlits rfl)))

theorem Canon.collData {kind : Nat} {place : Group → OpCtx → List Byte → Option Nat}
    {misplaced : Mach → RxPkt → Mach} {done : Group → OpCtx → CollOp → List Byte → Mach → Mach} (h : Canon p m)
    (hf : ∀ n x, Canon p n → Canon p (misplaced n x)) (hg : ∀ x y z u n, Canon p n → Canon p (done x y z u n)) :
    Canon p (collData p m kind place misplaced done) := by
  unfold Machine.collData
  dsimp only
  split
  · split
    · split
      · exact h.takeData fun _ h => hg _ _ _ _ _ h
      · exact hf _ _ h
    · exact h.collRefuse
  · exact h

theorem Canon.misplacedData {x : RxPkt} (h : Canon p m) : Canon p (misplacedData p m x) := h.collRefuse

theorem Canon.a2aData (h : Canon p m) : Canon p (a2aData p m) :=
  h.collData (fun _ _ h => h.misplacedData) (fun _ _ _ _ _ h => h.updOp)

theorem Canon.a2avCounts (h : Canon p m) : Canon p (a2avCounts p m) :=
  h.collReceive fun _ _ _ _ _ _ _ h => h.updOp.acceptAck.settleColl

theorem Canon.ringRsOf {pick : OpCtx → Bool} (h : Canon p m) : Canon p (ringRsOf pick p m) := by
  refine h.collReceive fun n x g gr o op bs hn => ?_
  dsimp only
  split
  · exact hn.kilnNote.abortColl
  · refine hn.onHearth fun k hk => ?_
    exact .ite hk.acceptAck.updOp.writeDst.sendColl.settleColl hk.acceptAck.sendColl.settleColl

theorem Canon.ringRs (h : Canon p m) : Canon p (ringRs p m) := h.ringRsOf

theorem Canon.ringAg (h : Canon p m) : Canon p (ringAg p m) :=
  h.collData (fun _ _ h => h.misplacedData) (fun _ _ _ _ _ h => .ite h.updOp h.updOp.sendColl)

theorem Canon.setSlot {n : Nat} {s : RedSlot} (h : Canon p m) : Canon p (setSlot m n s) := h.rest

theorem Canon.sendDown {r : RedResv} {n : Nat} {s : RedSlot} {data : List Byte} (h : Canon p m) :
    Canon p (sendDown p m r n s data) :=
  h.setSlot.bump.foldl fun _ _ h => h.sendFlow

theorem Canon.slotComplete {r : RedResv} {n : Nat} {s : RedSlot} (h : Canon p m) :
    Canon p (slotComplete p m r n s) := by
  refine .ite ?_ h.setSlot
  split
  · exact h.setSlot.sendFlow
  · exact h.sendDown

theorem Canon.redDropped {x : RxPkt} (h : Canon p m) : Canon p (redDropped p m x) := .bump (.ite h.crcDrop h.dropRx)

theorem Canon.foldOn {r : RedResv} {n : Nat} {s : RedSlot} {v : List F32} (h : Canon p m) :
    Canon p (foldOn p m r n s v) :=
  h.onHearth fun _ h => h.slotComplete

theorem Canon.redUp (h : Canon p m) : Canon p (redUp p m) := by
  unfold Machine.redUp
  dsimp only
  refine .ite h ?_
  split
  · refine .ite h.dropDuplicate ?_
    split
    · exact h.redDropped
    · exact h.crcPass.acceptAck
    · exact .ite h.crcPass.acceptAck.foldOn h.setSlot
    · exact .ite h.crcPass.acceptAck h.crcPass.acceptAck.foldOn
    · exact h
  · exact h

theorem Canon.redDownRelay (h : Canon p m) : Canon p (redDownRelay p m) := by
  unfold Machine.redDownRelay
  dsimp only
  split
  · refine .ite h.dropDuplicate ?_
    split
    · exact h.redDropped
    · exact h.crcPass.acceptAck
    · exact h.crcPass.acceptAck.sendDown
    · exact .ite h.crcPass.acceptAck h.crcPass.acceptAck.sendDown
    · exact h
  · exact h

theorem Canon.redDown (h : Canon p m) : Canon p (redDown p m) :=
  .ite h.redDownRelay (h.collData (fun _ _ h => h.collRefuse) (fun _ _ _ _ _ h => h.updOp))

theorem Canon.leaveBuffers (h : Canon p m) : Canon p (leaveBuffers p m) := h.foldl fun _ _ h => h.freeFlits rfl

theorem Canon.redAcked {n chunk epoch att child : Nat} (h : Canon p m) :
    Canon p (redAcked m n chunk epoch att child) := by
  unfold Machine.redAcked
  split
  · refine .ite ?_ h
    split
    · exact h.setSlot
    · exact h
  · exact h

theorem Canon.collAcked {h' opseq att : Nat} (h : Canon p m) : Canon p (collAcked p m h' opseq att) := by
  unfold Machine.collAcked
  split
  · split
    · exact .ite h.updOp.settleColl h
    · exact h
  · exact h

theorem Canon.collLost {h' opseq att st : Nat} (h : Canon p m) : Canon p (collLost p m h' opseq att st) := by
  unfold Machine.collLost
  split
  · split
    · exact .ite h.abortColl h
    · exact h
  · exact h

theorem Canon.collAbort (h : Canon p m) : Canon p (collAbort p m) := by
  unfold Machine.collAbort
  split
  · next htake =>
    extract_lets n
    have hn : Canon p n := (h.takeRecord htake).bump.setEvt
    clear_value n
    split
    · refine .ite hn (.ite (.ite hn.formFails hn) ?_)
      split
      · exact .ite (.ite hn.raiseAtt.rerunColl hn.raiseAtt) (.ite hn.raiseAtt.leaveBarrier.endColl hn.raiseAtt)
      · exact .ite hn.raiseAtt (.ite (.ite hn.raiseAtt.updGroup hn.raiseAtt) hn.raiseAtt.updGroup)
    · exact hn
  · exact h

theorem Canon.collStall {h' : Nat} (h : Canon p m) : Canon p (collStall h' p m) := by
  unfold Machine.collStall
  split
  · split
    · exact .ite h.abortColl h
    · exact h
  · exact h

theorem Canon.preemptOp {h' opseq : Nat} {r : Running} (h : Canon p m) : Canon p (preemptOp m h' opseq r) :=
  h.updGroup.preemptCmd

theorem Canon.preemptColl {h' : Nat} {g : Group} {op : CollOp} (h : Canon p m) :
    Canon p (preemptColl p m h' g op) := by
  unfold Machine.preemptColl
  split
  · exact .ite h h.updOp.abortColl
  · split
    · exact .ite h (.ite h.sendAborts.raiseAtt.endColl h.sendAborts.raiseAtt.preemptOp)
    · exact h

theorem Canon.preemptChecked {h' : Nat} {g : Group} (h : Canon p m) : Canon p (preemptChecked p m h' g) := by
  unfold Machine.preemptChecked
  split
  · exact h.sendAborts.raiseAtt.preemptOp
  · exact h

theorem Canon.preemptForming {h' : Nat} {g : Group} {f : Forming} (h : Canon p m) :
    Canon p (preemptForming p m h' g f) := by
  unfold Machine.preemptForming
  split
  · exact .ite h h.sendAborts.updGroup.preemptCmd
  · exact h

theorem Canon.deferOver {h' : Nat} {g : Group} (h : Canon p m) : Canon p (deferOver p m h' g) := by
  unfold Machine.deferOver
  split
  · exact h.preemptColl
  · exact h.preemptForming
  · exact h.preemptChecked

theorem Canon.collDefer {h' : Nat} (h : Canon p m) : Canon p (collDefer h' p m) := by
  unfold Machine.collDefer
  split
  · exact .ite h.deferOver h
  · exact h

theorem Canon.deferNone {c : Nat} (h : Canon p m) : Canon p (deferNone p m c) :=
  .ite (h.foldl fun _ _ h => h.collDefer) h

theorem Canon.stepBarrierDone {h' c : Nat} (h : Canon p m) : Canon p (stepBarrierDone m h' c) := h.updStep

theorem Canon.afterRelease {h' : Nat} {g : Group} (h : Canon p m) : Canon p (afterRelease m h' g) := by
  unfold Machine.afterRelease
  dsimp only
  split
  · split
    · exact h.updGroup.complete
    · exact h.updGroup
  · exact .ite h.endColl h.stepBarrierDone
  · exact h.stepBarrierDone

theorem Canon.barrierRelease {h' : Nat} (h : Canon p m) : Canon p (barrierRelease h' p m) := by
  unfold Machine.barrierRelease
  split
  · exact .ite h.nextBarrier.afterRelease.settleColl h
  · exact h

theorem Canon.killColls {c reason : Nat} (h : Canon p m) : Canon p (killColls p m c reason) := by
  refine h.foldl fun n g hn => ?_
  split
  · split
    · exact .groupPast (.ite hn hn.sendAborts.raiseAtt)
    · exact hn
  · exact hn

theorem Canon.killForming {c : Nat} (h : Canon p m) : Canon p (killForming p m c) := by
  refine h.foldl fun n g hn => ?_
  dsimp only
  split
  · exact .ite hn (.ite hn.dropGroup hn.sendAborts.sendFree.dropGroup)
  · exact hn

end

/-! ### Fabric memory -/

section
variable {p : Part} {m : Mach}

theorem Canon.setRegion {r : Nat} {x : Region} (h : Canon p m) : Canon p (setRegion m r x) := h.rest

theorem Canon.sendInval {s : Subscription} {gone : Bool} {publisher roff len : Nat} {use : FlowUse} (h : Canon p m) :
    Canon p (sendInval p m s gone publisher roff len use) :=
  h.sendFlow

theorem Canon.grantNext {r : Nat} (h : Canon p m) : Canon p (grantNext p m r) := by
  unfold Machine.grantNext
  split
  · exact h.rest.setRegion.sendFlow
  · exact h.setRegion

theorem Canon.endRegion {r : Nat} (h : Canon p m) : Canon p (endRegion p m r) :=
  .foldl (.foldl (.ite h.rest.setRegion h.rest.setRegion.setEvt) fun _ _ h => h.sendInval) fun _ _ h => h.sendFlow

theorem Canon.setKey {r : Nat} {k : Word} (h : Canon p m) : Canon p (setKey p m r k) := .ite h h.setRegion.endRegion

theorem Canon.setRegionCtrl {r : Nat} {v : Word} (h : Canon p m) : Canon p (setRegionCtrl p m r v) :=
  .ite h.setRegion.endRegion h.setRegion

theorem Canon.drbgTake (h : Canon p m) {z} (hx : drbgTake m = z) : Canon p z.2 := by
  subst hx
  exact (h.drawFree rfl).rest

theorem Canon.drawKey {k : Nat} (h : Canon p m) {z} (hx : drawKey k m = z) : Canon p z.2 := by
  subst hx
  induction k generalizing m with
  | zero => exact h
  | succ k ih =>
    unfold Machine.drawKey
    split
    · dsimp only
      split
      · exact ih (h.drbgTake rfl)
      · exact h.drbgTake rfl
    · exact h

theorem Canon.keygenRegion {r : Nat} (h : Canon p m) : Canon p (keygenRegion p m r) := by
  unfold Machine.keygenRegion
  split
  · next hx => exact (h.drawKey hx).setKey
  · next hx => exact (h.drawKey hx).rest

theorem Canon.regionEntryWrite {src : Src} {addr : Nat} {v : Word} (h : Canon p m) :
    Canon p (regionEntryWrite src addr v p m) := by
  unfold Machine.regionEntryWrite
  refine .ite (h.gated fun n hn => ?_) h
  split
  split
  · exact .ite hn.ignored (.ite hn.setRegionCtrl.keygenRegion hn.setRegionCtrl)
  · exact .ite hn.ignored hn.setRegion
  · exact .ite hn.ignored hn.setRegion
  · exact hn.setKey

theorem Canon.keygen {src : Src} {addr : Nat} {v : Word} (h : Canon p m) : Canon p (keygen src addr v p m) :=
  .ite h.regionEntryWrite h

theorem Canon.setLock {n : Nat} {x : LockRec} (h : Canon p m) : Canon p (setLock m n x) := h.rest

theorem Canon.countKeyFail {src : Nat} {counts : Bool} (h : Canon p m) : Canon p (countKeyFail p m src counts) :=
  .ite h.bump (.ite h.bump.setLock.wrF.setEvt.report h.bump.setLock)

theorem Canon.unlock {n : Nat} (h : Canon p m) : Canon p (unlock m n) := h.rest

theorem Canon.lockoutHoldEnd {n : Nat} (h : Canon p m) : Canon p (lockoutHoldEnd n p m) := .ite h.unlock h

theorem Canon.lockClr {src : Src} {v : Word} (h : Canon p m) : Canon p (lockClr src v p m) :=
  h.gated fun _ h => .ite h.rest (.ite h.unlock h)

theorem Canon.noteFail {src : Nat} {k : FabPkt} {reason : Nat} {wasValid : Bool} (h : Canon p m) :
    Canon p (noteFail p m src k reason wasValid) :=
  .ite h (.ite h.wr.countKeyFail h.wr)

theorem Canon.respond {x : RxPkt} {st reason old : Nat} {data : List Byte} (h : Canon p m) :
    Canon p (respond p m x st reason old data) :=
  .queuePacket (.ite h.bump h)

theorem Canon.seeRx {x : RxPkt} (h : Canon p m) {z} (hx : seeRx p m x = z) : Canon p z.1 := by
  subst hx
  unfold Machine.seeRx
  split
  · exact h
  · exact h.putRx

theorem Canon.beginServe {x : RxPkt} {stage : Nat} (h : Canon p m) {z} (hx : beginServe m x stage = z) :
    Canon p z.1 := by
  subst hx
  exact h.rest.putRx

theorem Canon.answer {x : RxPkt} {st reason : Nat} {data : List Byte} (h : Canon p m) :
    Canon p (answer p m x st reason data) :=
  h.acceptRx.respond

theorem Canon.writeEnds {x : RxPkt} (h : Canon p m) : Canon p (writeEnds p m x) := by
  refine .ite h.dropRx.noteFail.respond ?_
  split
  · exact h.addEvt.release.acceptAck
  · exact h.acceptAck

theorem Canon.fabWrite (h : Canon p m) : Canon p (fabWrite p m) := by
  unfold Machine.fabWrite
  split
  · exact .ite h.writeEnds (.ite h.dropDuplicate (.ite (h.seeRx rfl).dropRx.noteFail.respond (.ite (h.seeRx rfl)
      ((h.seeRx rfl).beginServe rfl).startWrites)))
  · exact h

theorem Canon.fabRead (h : Canon p m) : Canon p (fabRead p m) := by
  unfold Machine.fabRead
  split
  · exact .ite (.ite h.noteFail.answer h.answer) (.ite h.noteFail.answer ((h.seeRx rfl).beginServe rfl).startReads)
  · exact h

theorem Canon.cacheStore {src fsn st reason old : Nat} (h : Canon p m) :
    Canon p (cacheStore m src fsn st reason old) :=
  h.rest

theorem Canon.atomicAnswer {x : RxPkt} {st reason old : Nat} {wasValid : Bool} (h : Canon p m) :
    Canon p (atomicAnswer p m x st reason old wasValid) :=
  h.dropRx.noteFail.cacheStore.respond

theorem Canon.atomicAgain {x : RxPkt} (h : Canon p m) : Canon p (atomicAgain p m x) := by
  unfold Machine.atomicAgain
  split
  · exact h.dropRx.bump.respond
  · exact h.dropRx.noteFail.respond

theorem Canon.atomicArrives {x : RxPkt} (h : Canon p m) : Canon p (atomicArrives p m x) :=
  .ite h.answer (.ite h.atomicAgain (.ite h.dropRx.bump.setEvt (.ite h.markFilter.atomicAnswer
    (.ite h.markFilter.atomicAnswer (h.markFilter.beginServe rfl).startReads))))

theorem Canon.fabAtomic (h : Canon p m) : Canon p (fabAtomic p m) := by
  unfold Machine.fabAtomic
  split
  · exact .ite (.ite (h.seeRx rfl) (h.seeRx rfl).atomicArrives) (.ite h.atomicAnswer
      (.ite (h.putRx.beginServe rfl).startWrites h.atomicAnswer))
  · exact h

theorem Canon.request {kind : Nat} {f : Mach → RxPkt → FabPkt → Mach} (h : Canon p m)
    (hf : ∀ n x y, Canon p n → Canon p (f n x y)) : Canon p (request p m kind f) := by
  unfold Machine.request
  split
  · exact .ite h.noteFail.answer (hf _ _ _ h)
  · exact h

theorem Canon.refuseFull {x : RxPkt} {k : FabPkt} (h : Canon p m) : Canon p (refuseFull p m x k) :=
  h.noteFail.answer

theorem Canon.sub (h : Canon p m) : Canon p (sub p m) :=
  h.request fun _ _ _ h => .ite h.rest.answer (.ite h.answer (.ite h.refuseFull h.rest.answer))

theorem Canon.pubSettle {id : Nat} (h : Canon p m) : Canon p (pubSettle p m id) := by
  unfold Machine.pubSettle
  split
  · exact .ite h.rest.markFilter.queuePacket h
  · exact h

theorem Canon.invalSettled {id : Nat} {s : Subscription} {st : Nat} (h : Canon p m) :
    Canon p (invalSettled p m id s st) :=
  .pubSettle (.rest (.ite h.rest.setEvt h))

theorem Canon.pub (h : Canon p m) : Canon p (pub p m) :=
  h.request fun _ _ _ h => (h.dropRx.rest.foldl fun _ _ h => h.sendInval).pubSettle

theorem Canon.inval (h : Canon p m) : Canon p (inval p m) := by
  unfold Machine.inval
  split
  · refine .ite h.acceptAck (.ite h.dropDuplicate (.ite (.iringWrite (.beginServe ?_ rfl))
      (.acceptAck (.iringWrite (.beginServe ?_ rfl))))) <;>
      exact .ite h.rest.setEvt h
  · exact h

theorem Canon.fabIringTailWrite {src : Src} {c : Nat} {v : Word} (h : Canon p m) :
    Canon p (fabIringTailWrite src c v p m) :=
  .ite (h.gated fun _ h => h.wr.iringOverflow) h

theorem Canon.ownReq (h : Canon p m) : Canon p (ownReq p m) := by
  refine h.request fun n x k hn => ?_
  dsimp only
  split
  · exact hn.setRegion.answer
  · exact .ite hn.answer (.ite hn.acceptAck (.ite hn.refuseFull hn.rest.acceptAck))

theorem Canon.ownRel (h : Canon p m) : Canon p (ownRel p m) :=
  h.request fun _ _ _ h => .answer (.ite h.grantNext h.rest)

theorem Canon.duxForce {src : Src} {v : Word} (h : Canon p m) : Canon p (duxForce src v p m) :=
  h.gated fun _ h => .ite h.grantNext h

theorem Canon.ownGrant (h : Canon p m) : Canon p (ownGrant p m) := by
  unfold Machine.ownGrant
  split
  · exact .ite h.dropDuplicate (h.acceptAck.foldl fun _ _ h => h.complete)
  · exact h

theorem Canon.updBatch {acc : Nat} {f : Batch → Batch} (h : Canon p m) : Canon p (updBatch m acc f) := h.rest

theorem Canon.updVerb {acc idx : Nat} {f : VerbSt → VerbSt} (h : Canon p m) : Canon p (updVerb m acc idx f) :=
  h.updBatch

theorem Canon.statusByte {b : Batch} {idx st : Nat} (h : Canon p m) : Canon p (statusByte p m b idx st) :=
  h.startWrites

theorem Canon.pruneBatch {acc : Nat} (h : Canon p m) : Canon p (pruneBatch m acc) := h.rest

theorem Canon.verbStatus {acc idx st : Nat} (h : Canon p m) : Canon p (verbStatus p m acc idx st) := by
  unfold Machine.verbStatus
  split
  · exact .pruneBatch (.ite h.updVerb h.updVerb.statusByte)
  · exact h

theorem Canon.batchSettle {acc : Nat} (h : Canon p m) : Canon p (batchSettle p m acc) := by
  unfold Machine.batchSettle
  split
  · exact .ite h.updBatch.complete.pruneBatch h
  · exact h

theorem Canon.issueVerb {b : Batch} {v : VerbSt} {w : XWin} (h : Canon p m) : Canon p (issueVerb p m b v w) :=
  .foldl (.ite h.updVerb.statusByte h.updVerb) fun _ _ h => h.sendFlow

theorem Canon.pumpVerbs {acc k : Nat} (h : Canon p m) : Canon p (pumpVerbs p acc k m) := by
  induction k generalizing m with
  | zero => exact h
  | succ k ih =>
    unfold Machine.pumpVerbs
    split
    · split
      · split
        · exact ih h.wr.verbStatus
        · refine .ite h ?_
          split
          · refine .ite (.ite (.ite h h.updVerb.winFetch) (.ite (ih (.verbStatus ?_)) (ih ?_))) (ih h.issueVerb)
            · split
              · refine .setRunning ?_
                split
                · exact .kilnNote (.ite h h.updVerb.winFetch)
                · exact .ite h h.updVerb.winFetch
              · split
                · exact .kilnNote (.ite h h.updVerb.winFetch)
                · exact .ite h h.updVerb.winFetch
            · exact .issueVerb (.ite h h.updVerb.winFetch)
          · exact h
      · exact h
    · exact h

theorem Canon.fabBatch {w seq : Nat} {f : StoreRead} (h : Canon p m) : Canon p (fabBatch w seq f p m) := by
  unfold Machine.fabBatch
  split
  · exact .ite h (.ite (.ite h.readFinds.complete (.ite h.readFinds
      h.readFinds.rest.setRunning.pumpVerbs.batchSettle)) h.readFinds.pumpVerbs.batchSettle)
  · exact h

theorem Canon.verbPktDone {acc idx pkt st : Nat} (h : Canon p m) : Canon p (verbPktDone p m acc idx pkt st) := by
  unfold Machine.verbPktDone
  dsimp only
  split
  · refine .batchSettle (.pumpVerbs ?_)
    split
    · exact h.rest.updVerb.verbStatus
    · exact h.rest.updVerb
  · exact h.rest.updVerb

theorem Canon.verbResult {acc idx pkt : Nat} {k : FabPkt} (h : Canon p m) {z}
    (hx : verbResult p m acc idx pkt k = z) : Canon p z.1 := by
  subst hx
  unfold Machine.verbResult
  split
  · extract_lets put
    clear_value put
    split
    · split
      · exact h
      · split
        · next hput => exact h.winPut hput
        · next hput => exact h.winPut hput
    · exact h
  · exact h

theorem Canon.fence {w seq : Nat} (h : Canon p m) : Canon p (fence w seq p m) := by
  unfold Machine.fence
  split
  · exact .ite h h.complete
  · exact h

theorem Canon.sendCmd {w seq op kind : Nat} (h : Canon p m) : Canon p (sendCmd w seq op kind p m) := by
  unfold Machine.sendCmd
  split
  · exact .ite h (.ite h.complete h.setRunning.sendFlow)
  · exact h

theorem Canon.subscribe {w seq : Nat} (h : Canon p m) : Canon p (subscribe w seq p m) := h.sendCmd

theorem Canon.publishInval {w seq : Nat} (h : Canon p m) : Canon p (publishInval w seq p m) := h.sendCmd

theorem Canon.ownAcquire {w seq : Nat} (h : Canon p m) : Canon p (ownAcquire w seq p m) := h.sendCmd

theorem Canon.ownRelease {w seq : Nat} (h : Canon p m) : Canon p (ownRelease w seq p m) := h.sendCmd

theorem Canon.cmdAnswered {acc st : Nat} (h : Canon p m) : Canon p (cmdAnswered m acc st) := by
  unfold Machine.cmdAnswered
  split
  · exact .complete (.ite (.ite h.rest (.ite h h.rest)) h)
  · exact h

theorem Canon.respEffect {use : FlowUse} {k : FabPkt} (h : Canon p m) : Canon p (respEffect p m use k) := by
  unfold Machine.respEffect
  split
  · split
    next hpair =>
    split at hpair
    · exact (h.verbResult hpair).verbPktDone
    · cases hpair
      exact h.verbPktDone
  · exact h.cmdAnswered
  · exact h.invalSettled
  · exact h

theorem Canon.resp (h : Canon p m) : Canon p (resp p m) := by
  unfold Machine.resp
  dsimp only
  split
  · split
    · exact .ite h h.dropRx.settleFlow.respEffect
    · exact h.dropRx.settleFlow
  · exact h

theorem Canon.killBatch {b : Batch} (h : Canon p m) : Canon p (killBatch p m b) :=
  (h.foldl fun _ _ h => .ite h h.startWrites).updBatch

theorem Canon.killUnread {r : Running} (h : Canon p m) : Canon p (killUnread p m r) := h.startWrites

theorem Canon.killFab {c : Nat} (h : Canon p m) : Canon p (killFab p m c) := by
  unfold Machine.killFab
  extract_lets a b n
  have ha : Canon p a := h.foldl fun _ _ h => .ite h.killBatch h
  have hb : Canon p b := ha.foldl fun _ _ h => .ite h.killUnread h
  have hn : Canon p n := .dropHeld (hb.foldl fun _ _ h => h.pruneBatch)
  exact hn.foldl fun _ _ h => .ite h.sendFlow h

end

/-! ### End-to-end acknowledgement -/

section
variable {p : Part} {m : Mach}

theorem Canon.ackEffect {use : FlowUse} (h : Canon p m) : Canon p (ackEffect p m use) := by
  unfold Machine.ackEffect
  split
  · exact h.collAcked
  · exact h.verbPktDone
  · exact h.invalSettled
  · exact h.redAcked
  · exact h
  · exact h
  · exact h
  · exact h
  · exact h
  · exact h
  · exact h

theorem Canon.lossEffect {use : FlowUse} {st : Nat} (h : Canon p m) : Canon p (lossEffect p m use st) := by
  unfold Machine.lossEffect
  split
  · exact h.collLost
  · refine .formFails ?_
    split
    · exact h.sendAborts
    · exact h
  · exact h.formRefused
  · exact h.verbPktDone
  · exact h.cmdAnswered
  · exact h.invalSettled
  · exact .ite h.grantNext h
  · exact h
  · exact h
  · exact h
  · exact h

theorem Canon.e2eAck (h : Canon p m) : Canon p (e2eAck p m) := by
  unfold Machine.e2eAck
  dsimp only
  split
  · next hx =>
    split
    · exact (h.takeRecord hx).settleFlow.ackEffect
    · exact (h.takeRecord hx).settleFlow
  · exact h

theorem Canon.e2eTimeout {d vc fsn : Nat} (h : Canon p m) : Canon p (e2eTimeout d vc fsn p m) := by
  unfold Machine.e2eTimeout
  split
  · exact .ite h (.ite h.rest.bump.queuePacket h.failFlow.lossEffect)
  · exact h

end

/-! ### Links -/

section
variable {p : Part} {m : Mach}

theorem Canon.whileLinks {n : Mach} (h : Canon p m) (hn : Canon p n) : Canon p (whileLinks m n) :=
  .ite hn h

theorem Canon.transOnly {page : Nat} (h : Canon p m) : Canon p (transOnly p m page) := h.bump.orReg

theorem Canon.measPart {l acc st : Nat} (h : Canon p m) : Canon p (measPart m l acc st) := by
  unfold Machine.measPart
  split
  · exact .ite h.complete h.setRunning
  · exact h

theorem Canon.endMeas {l st : Nat} (h : Canon p m) : Canon p (endMeas m l st) := by
  unfold Machine.endMeas
  dsimp only
  split
  · exact h.setLink.measPart
  · exact h

theorem Canon.loseHeld {l : Nat} {hs : List Held} (h : Canon p m) : Canon p (loseHeld p m l hs) :=
  .ite h (h.setEvt.report.foldl fun _ _ h => .ite h h.failOrigin)

theorem Canon.respread {own : List OwnFlit} {transit : List TransitFlit} (h : Canon p m) :
    Canon p (respread p m own transit) :=
  (h.foldl fun _ _ h => h.queueFlit).foldl fun _ _ h => h.queueTransit

theorem Canon.requeueHeld {h' : Held} (h : Canon p m) : Canon p (requeueHeld p m h') := by
  unfold Machine.requeueHeld
  split
  · exact h.queueTransit
  · exact h.queueFlit

theorem Canon.salvageLink {l rx : Nat} (h : Canon p m) : Canon p (salvageLink p m l rx) :=
  h.setLink.foldl fun _ _ h => h.requeueHeld

theorem Canon.dropBound {l : Nat} (h : Canon p m) : Canon p (dropBound m l) := h.rest

theorem Canon.sendLinkDown {l : Nat} {x : Link} (h : Canon p m) : Canon p (sendLinkDown p m l x) := by
  unfold Machine.sendLinkDown
  split
  · exact h.sendRecord
  · exact h

theorem Canon.retireLink {l cause : Nat} (h : Canon p m) : Canon p (retireLink p m l cause) := by
  unfold Machine.retireLink
  dsimp only
  refine .ite h ?_
  split
  · exact (h.dropBound.endMeas.withReroute fun _ h =>
      h.setLink.setLastStatus.setEvt.report).respread.sendLinkDown.salvageLink
  · exact (h.dropBound.endMeas.withReroute fun _ h => h.setLink.setLastStatus.setEvt.report).respread.sendLinkDown

theorem Canon.retrainLink {l : Nat} (h : Canon p m) : Canon p (retrainLink p m l) :=
  .ite (h.dropBound.endMeas.withReroute fun _ h => h.setLink.setEvt) h

theorem Canon.trainFail {l : Nat} (h : Canon p m) : Canon p (trainFail p m l) :=
  .ite h.setLastStatus.report.setLink.retireLink (.ite h.setLastStatus.report.setLink
    h.setLastStatus.report.setLink)

theorem Canon.protoError {l : Nat} (h : Canon p m) : Canon p (protoError p m l) :=
  h.transOnly.setLastStatus.setEvt.retrainLink

theorem Canon.startReplay {l : Nat} (h : Canon p m) : Canon p (startReplay p m l) := by
  unfold Machine.startReplay
  dsimp only
  split
  · exact h
  · refine .ite h (.ite (.retireLink ?_) (.ite (.retrainLink ?_) ?_)) <;>
      exact .setLink (.bump (.ite h.bump.transOnly.setLastStatus h.bump.transOnly))

theorem Canon.askNak {l : Nat} {seen : Option Nat} (h : Canon p m) : Canon p (askNak p m l seen) :=
  .ite h.setLink h.setLink

theorem Canon.replayTimeout {l : Nat} (h : Canon p m) : Canon p (replayTimeout l p m) :=
  .ite (.ite (.startReplay (.ite h.setLink h)) (.ite h.setLink h)) h

theorem Canon.phyLock {l : Nat} (h : Canon p m) : Canon p (phyLock l p m) :=
  .ite (.ite h.setLink (.ite h h.setLink)) h

theorem Canon.phyLockLoss {l lane : Nat} {tx : Bool} (h : Canon p m) : Canon p (phyLockLoss l lane tx p m) :=
  .ite h h.setLink.retrainLink

theorem Canon.plAdaptAck {l : Nat} {rise : Bool} (h : Canon p m) : Canon p (plAdaptAck l rise p m) :=
  .ite (.ite h.setLink (.ite h.setLink.bump h)) h

theorem Canon.laneAligned {l : Nat} {rx0 rx1 : List (BitVec 256)} (h : Canon p m) :
    Canon p (laneAligned l rx0 rx1 p m) := by
  unfold Machine.laneAligned
  dsimp only
  refine .ite ?_ h
  split
  · exact .ite h (.ite h.trainFail h.setLink)
  · exact h

theorem Canon.trainingTimeout {l : Nat} (h : Canon p m) : Canon p (trainingTimeout l p m) := .ite h.trainFail h

theorem Canon.enterActive {l : Nat} (h : Canon p m) : Canon p (enterActive p m l) :=
  .ite (h.withReroute fun _ h => h.setLink.setEvt).transOnly (h.withReroute fun _ h => h.setLink.setEvt)

theorem Canon.readyCheck {l : Nat} (h : Canon p m) : Canon p (readyCheck p m l) := .ite h.enterActive h

theorem Canon.configDone {l : Nat} {t : TsFields} (h : Canon p m) : Canon p (configDone p m l t) :=
  .ite h.setLink.loseHeld h.setLink

theorem Canon.tsReceive {l : Nat} {t : TsFields} (h : Canon p m) : Canon p (tsReceive p m l t) := by
  unfold Machine.tsReceive
  dsimp only
  refine .ite h ?_
  refine .ite h.retireLink ?_
  split
  · exact .ite (.ite h.setLink.configDone h.setLink) h.setLink
  · exact .ite h.setLink.readyCheck h
  · exact .ite h h.retrainLink
  · exact h

theorem Canon.queueMgmt {x : RxPkt} (h : Canon p m) : Canon p (queueMgmt p m x) :=
  h.rest.acceptAck.foldl fun _ _ h => h.enterQueue

theorem Canon.takeMgmt (h : Canon p m) : Canon p (takeMgmt p m) := by
  unfold Machine.takeMgmt
  split
  · exact .ite h.dropDuplicate (.ite h.acceptAck (.ite h h.queueMgmt))
  · exact h

theorem Canon.deliverFlit {l : Nat} {t : TransitFlit} (h : Canon p m) : Canon p (deliverFlit p m l t) := by
  unfold Machine.deliverFlit
  dsimp only
  have hfreed : ∀ c : Bool, Canon p (if c then m else Machine.freeCredit m l t.flit.vc) :=
    fun _ => .ite h h.freeCredit
  refine .ite (.ite (.report (.setEvt (hfreed _))) (hfreed _)) (.ite (.rest (hfreed _)) ?_)
  split
  · exact .takeMgmt (.ite (.rest (hfreed _)) (.packetHeard (.putRx (hfreed _))))
  · exact .takeMgmt (.packetHeard (.rest (hfreed _)))

theorem Canon.deliverFront {l vc k : Nat} (h : Canon p m) : Canon p (deliverFront p l vc k m) := by
  induction k generalizing m with
  | zero => exact h
  | succ k ih =>
    unfold Machine.deliverFront
    dsimp only
    split
    · exact .ite (ih h.setLink.deliverFlit) h
    · exact h

theorem Canon.acceptFlit {l pos s : Nat} {f : Flit} (h : Canon p m) : Canon p (acceptFlit p m l pos s f) :=
  .deliverFront (.ite h.setLink.bump h.setLink.bump.bump)

theorem Canon.dataReceive {l pos : Nat} {x : LinkFields} {f : Flit} (h : Canon p m) :
    Canon p (dataReceive p m l pos x f) := by
  unfold Machine.dataReceive
  refine .ite h.protoError ?_
  split
  · exact h.protoError
  · extract_lets freed n
    have hn : Canon p n := .ite h.setLink.startReplay h.setLink
    exact .ite hn (.ite (.ite hn.acceptFlit hn) (.ite hn.askNak hn))

theorem Canon.countCodewords {l : Nat} {d : Decoded} (h : Canon p m) : Canon p (countCodewords p m l d) :=
  (h.foldl fun _ _ h => h.report).bump

theorem Canon.badFlit {l : Nat} {bad0 : Bool} (h : Canon p m) : Canon p (badFlit p m l bad0) :=
  .ite (.ite h.setLink.retrainLink h.setLink.askNak) h.setLink

theorem Canon.flitReceived {l pos : Nat} {h' : LinkFields} {f : Flit} (h : Canon p m) :
    Canon p (flitReceived p m l pos h' f) :=
  .ite h.setLink.protoError (.ite h.setLink.tsReceive (.ite h.setLink.dataReceive h.setLink))

theorem Canon.receiveWire {l pos : Nat} {lanes : List (BitVec 256) × List (BitVec 256)} (h : Canon p m) :
    Canon p (receiveWire l pos lanes p m) :=
  .ite h (.ite (.ite h.countCodewords.badFlit h.countCodewords.flitReceived) (.ite (.ite h.retireLink h) h))

theorem Canon.emitFlit {l : Nat} {x : Link} {h' : LinkFields} {f : Flit} (h : Canon p m) :
    Canon p (emitFlit m l x h' f) :=
  h.rest.setLink

theorem Canon.emitWords {l : Nat} {word : Nat → Nat → BitVec 256} (h : Canon p m) : Canon p (emitWords m l word) :=
  h.rest.setLink

theorem Canon.sendResend {l : Nat} {x : Link} {s : Nat} {h' : Held} (h : Canon p m) :
    Canon p (sendResend m l x s h') :=
  h.emitFlit

theorem Canon.sendData {l : Nat} {x : Link} {own : OwnFlit} {inLink : Option Nat} (h : Canon p m) :
    Canon p (sendData p m l x own inLink) :=
  .ite h.emitFlit.bump.bump h.emitFlit.bump

theorem Canon.loseRecords (h : Canon p m) : Canon p (loseRecords p m) := h.rest.foldl fun _ _ h => h.kindleGone

theorem Canon.sendRecords {l : Nat} {rs : List Rec0} (h : Canon p m) : Canon p (sendRecords p m l rs) :=
  .flitGone (.sendData (.ite (h.drawPtag rfl).rest.moveOwn (h.drawPtag rfl).rest))

theorem Canon.carry {l who : Nat} (h : Canon p m) : Canon p (carry m l who) := h.rest

theorem Canon.sendOwn {l : Nat} {f : OwnFlit} (h : Canon p m) : Canon p (sendOwn p m l f) :=
  .ite h.sendData.carry.packetSent h.sendData.carry.packetSent.flitGone

theorem Canon.sendTransit {l : Nat} {t : TransitFlit} (h : Canon p m) : Canon p (sendTransit p m l t) :=
  h.sendData.carry.releaseTransit.deliverFront

theorem Canon.sendIdle {l : Nat} (h : Canon p m) : Canon p (sendIdle m l) := h.emitFlit

theorem Canon.ownUnread {l line : Nat} {f : OwnFlit} (h : Canon p m) : Canon p (ownUnread p m l line f) :=
  .ite h.kilnNote.setLink.failOrigin h.kilnNote.setLink.failOrigin.flitGone

theorem Canon.transitUnread {l line : Nat} {t : TransitFlit} (h : Canon p m) :
    Canon p (transitUnread p m l line t) :=
  h.kilnNote.setLink.releaseTransit.noteDropped

theorem Canon.ownGoes {l : Nat} {r : StoreRead} {f : OwnFlit} (h : Canon p m) : Canon p (ownGoes p m l r f) := by
  refine .ite h.sendOwn ?_
  split
  · exact h.kilnCorrected.sendOwn
  · exact h.ownUnread.sendIdle
  · exact h.sendOwn

theorem Canon.transitGoes {l : Nat} {r : StoreRead} {t : TransitFlit} (h : Canon p m) :
    Canon p (transitGoes p m l r t) := by
  unfold Machine.transitGoes
  split
  · exact h.kilnCorrected.sendTransit
  · exact h.transitUnread.sendIdle
  · exact h.sendTransit

theorem Canon.sendChannel {l vc : Nat} {r : StoreRead} (h : Canon p m) {n : Mach}
    (hx : sendChannel p m l vc r = some n) : Canon p n := by
  unfold Machine.sendChannel at hx
  dsimp only at hx
  split at hx <;> cases hx
  · exact .ite h.transitGoes h.ownGoes
  · exact h.transitGoes
  · exact h.ownGoes

theorem Canon.sendVc0 {l : Nat} {r : StoreRead} (h : Canon p m) {n : Mach} (hx : sendVc0 p m l r = some n) :
    Canon p n := by
  unfold Machine.sendVc0 at hx
  dsimp only at hx
  split at hx
  · cases hx
  · split at hx <;> cases hx
    · exact h.transitGoes
    · exact .ite h.transitGoes h.setLink.sendRecords
    · exact .ite h.transitGoes h.sendOwn
    · exact h.sendOwn
    · exact h.sendRecords

theorem Canon.activeSlot {l : Nat} {r : StoreRead} (h : Canon p m) : Canon p (activeSlot p m l r) := by
  unfold Machine.activeSlot
  dsimp only
  split
  · exact h.setLink.sendResend
  · refine .ite h.setLink.sendIdle ?_
    split
    · next hx1 => exact h.setLink.sendVc0 hx1
    · split
      · exact h.setLink.getD fun _ hx => h.setLink.setLink.sendChannel hx
      · exact h.setLink.sendIdle

theorem Canon.sendTs {l st : Nat} (h : Canon p m) : Canon p (sendTs p m l st) := h.emitFlit

theorem Canon.zeroSlot {l : Nat} (h : Canon p m) : Canon p (zeroSlot m l) := h.emitWords

theorem Canon.alignSlot {l : Nat} (h : Canon p m) : Canon p (alignSlot p m l) := h.emitWords.setLink

theorem Canon.linkFlitSlot {l : Nat} {r : StoreRead} (h : Canon p m) : Canon p (linkFlitSlot l r p m) := by
  unfold Machine.linkFlitSlot
  dsimp only
  split
  · exact h.loseRecords.activeSlot
  · exact h.sendTs
  · exact h.sendTs.setLink.readyCheck
  · exact .ite h.sendTs h
  · exact .ite h.zeroSlot.setLink h.zeroSlot
  · exact h.zeroSlot
  · exact h.alignSlot
  · exact h

theorem Canon.readyFlitSent {l : Nat} (h : Canon p m) : Canon p (readyFlitSent l p m) :=
  .ite h.sendTs.setLink.readyCheck h

theorem Canon.vc0Token {l : Nat} (h : Canon p m) : Canon p (vc0Token l p m) := .ite h.setLink h

theorem Canon.disableLink {l : Nat} (h : Canon p m) : Canon p (disableLink p m l) :=
  (h.dropBound.endMeas.withReroute fun _ h => h.setLink).loseHeld.respread

theorem Canon.linkEnabled {l : Nat} {was now : Bool} (h : Canon p m) : Canon p (linkEnabled p m l was now) :=
  .ite (.ite (h.loseHeld.withReroute fun _ h => h.setLink) h) (.ite h h.disableLink)

theorem Canon.linkRetrainRequest {src : Src} {l : Nat} {v : Word} (h : Canon p m) :
    Canon p (linkRetrainRequest src l v p m) :=
  .ite (h.gated fun _ h => .ite h.wrF.retrainLink h.wrF) h

theorem Canon.linkDown (h : Canon p m) : Canon p (linkDown p m) := by
  unfold Machine.linkDown
  split
  · next hx => exact .ite (.ite (h.takeRecord hx).salvageLink (h.takeRecord hx).setLink) (h.takeRecord hx)
  · exact h

theorem Canon.salvageDrop {l : Nat} (h : Canon p m) : Canon p (salvageDrop l p m) := .ite h.setLink.loseHeld h

theorem Canon.dlyProbe {l : Nat} (h : Canon p m) : Canon p (dlyProbe l p m) := by
  unfold Machine.dlyProbe
  dsimp only
  split
  · exact .ite h.setLink.sendRec h
  · exact h

theorem Canon.dlyProbeReceive (h : Canon p m) : Canon p (dlyProbeReceive p m) := by
  unfold Machine.dlyProbeReceive
  split
  · next hx => exact (h.takeRecord hx).sendRec
  · exact h

theorem Canon.dlyEcho (h : Canon p m) : Canon p (dlyEcho p m) := by
  unfold Machine.dlyEcho
  dsimp only
  split
  · next hx =>
    split
    · split
      · exact .ite (h.takeRecord hx).setLink (.ite (h.takeRecord hx).setLink (h.takeRecord hx).setLink.wr.measPart)
      · exact h.takeRecord hx
    · exact h.takeRecord hx
  · exact h

theorem Canon.transitDrop {l : Nat} {t : TransitFlit} (h : Canon p m) {n : Mach}
    (hx : transitDrop p m l t = some n) : Canon p n := by
  unfold Machine.transitDrop at hx
  dsimp only at hx
  split at hx
  · cases hx
    exact h.freeCredit.noteDropped
  · split at hx
    · cases hx
      exact h.freeCredit.dropPacket
    · split at hx <;> cases hx
      exact h.freeCredit.dropPacket

theorem Canon.forwardFlit {l : Nat} {t : TransitFlit} (h : Canon p m) : Canon p (forwardFlit p m l t) :=
  .ite h.setLink.queueTransit h.setLink.freeCredit.queueTransit.deliverFront

theorem Canon.transitFlit {l vc : Nat} (h : Canon p m) : Canon p (transitFlit l vc p m) := by
  unfold Machine.transitFlit
  dsimp only
  split
  · refine .ite h ?_
    refine .ite h.deliverFront ?_
    refine .ite h ?_
    split
    · next hx1 => exact (h.setLink.transitDrop hx1).deliverFront
    · exact .ite h h.forwardFlit
  · exact h

theorem Canon.reassemblyTimeout {node vc ptag : Nat} (h : Canon p m) :
    Canon p (reassemblyTimeout node vc ptag p m) :=
  .ite (h.foldl fun _ _ h => h.dropRx) h

end

/-! ### Stream ports -/

section
variable {p : Part} {m : Mach}

theorem Canon.ringPut {c : Nat} {bs : List Byte} (h : Canon p m) : Canon p (ringPut p m c bs) :=
  h.startWrites.startWrites.wr

theorem Canon.recordEntry {c : Nat} {bs : List Byte} (h : Canon p m) : Canon p (recordEntry p m c bs) :=
  .ite h.ringPut h.setCtx

theorem Canon.pumpReplay {c k : Nat} (h : Canon p m) : Canon p (pumpReplay p c k m) := by
  induction k generalizing m with
  | zero => exact h
  | succ k ih =>
    unfold Machine.pumpReplay
    dsimp only
    split
    · exact .ite (ih h.setCtx.ringPut) h
    · exact h

theorem Canon.recordInput {c layer : Nat} {r : InRec} (h : Canon p m) : Canon p (recordInput p m c layer r) := by
  unfold Machine.recordInput
  dsimp only
  refine .ite ?_ h.updStep
  split
  · exact h.updStep.recordEntry
  · exact h.updStep

theorem Canon.setStrm {q : Nat} {x : StrmPort} (h : Canon p m) : Canon p (setStrm m q x) := h.rest

theorem Canon.setSlotAt {q k : Nat} {x : StrmSlot} (h : Canon p m) : Canon p (setSlotAt m q k x) := h.setStrm

theorem Canon.giveCredit {q k n : Nat} (h : Canon p m) : Canon p (giveCredit m q k n) :=
  .ite h (.ite h.setSlotAt h.setSlotAt.rest)

theorem Canon.payOwed {q : Nat} (h : Canon p m) : Canon p (payOwed m q) :=
  h.foldl fun _ _ h => .giveCredit (.ite h h.setSlotAt)

theorem Canon.rowGone {c : Nat} {k : Key} {row : Nat × Nat} (h : Canon p m) : Canon p (rowGone p c k m row) := by
  unfold Machine.rowGone
  split
  · refine .ite ?_ h
    split
    · exact .decBuf (.ite h.failKey h)
    · exact h
  · exact h

theorem Canon.rowDone {c : Nat} {k : Key} {slot : Nat} {row : Nat × Nat} (h : Canon p m) :
    Canon p (rowDone p c k slot m row) :=
  h.bump.updPhase.rowGone

theorem Canon.rowsEnd {r : OutRec} {n : Nat} (h : Canon p m) : Canon p (rowsEnd p m r n) := by
  unfold Machine.rowsEnd
  split
  · exact h.foldl fun _ _ h => h.rowDone
  · exact h

theorem Canon.outDone {q : Nat} {r : OutRec} (h : Canon p m) : Canon p (outDone p m q r) := by
  unfold Machine.outDone
  dsimp only
  split
  · exact h.updStep.updPhase
  · exact h.updStep.setStrm

theorem Canon.bindNow {q k : Nat} {w : Word} (h : Canon p m) : Canon p (bindNow m q k w) :=
  .ite h.setSlotAt.giveCredit h.setSlotAt

theorem Canon.sendBeat {q k : Nat} (h : Canon p m) : Canon p (sendBeat p m q k) := by
  unfold Machine.sendBeat
  dsimp only
  split
  · split
    · refine .ite ?_ h.setSlotAt.setStrm.rest.bump.rowsEnd
      split
      · exact h.setSlotAt.setStrm.rest.bump.rowsEnd.outDone.bindNow
      · exact h.setSlotAt.setStrm.rest.bump.rowsEnd.outDone
    · exact h
  · exact h

theorem Canon.drainPort {q k : Nat} (h : Canon p m) : Canon p (drainPort p q k m) := by
  induction k generalizing m with
  | zero => exact h
  | succ k ih =>
    unfold Machine.drainPort
    refine .ite h ?_
    split
    · exact ih h.sendBeat
    · exact h

theorem Canon.putOut {r : OutRec} (h : Canon p m) : Canon p (putOut p m r) := by
  unfold Machine.putOut
  split
  · exact h.setSlotAt
  · exact h.rest

theorem Canon.replaceOut (h : Canon p m) : Canon p (replaceOut p m) :=
  (h.rest.foldl fun _ _ h => .ite h h.setSlotAt).foldl fun _ _ h => h.putOut

theorem Canon.drainPorts (h : Canon p m) : Canon p (drainPorts p m) := h.foldl fun _ _ h => h.drainPort

theorem Canon.settleOut {k : Nat} (h : Canon p m) : Canon p (settleOut p k m) := by
  induction k generalizing m with
  | zero => exact h
  | succ k ih => exact .ite (ih h.replaceOut.drainPorts) h

theorem Canon.drainOut {q : Nat} (h : Canon p m) : Canon p (drainOut p m q) := h.drainPort.settleOut

theorem Canon.drainAllOut (h : Canon p m) : Canon p (drainAllOut p m) := h.drainPorts.settleOut

theorem Canon.placeOut {r : OutRec} {since : Nat} (h : Canon p m) : Canon p (placeOut p m r since) :=
  h.rest.putOut.drainAllOut

theorem Canon.applyBind {q k : Nat} {w : Word} (h : Canon p m) : Canon p (applyBind p m q k w) :=
  .drainAllOut (.ite h.setSlotAt (.ite h.setSlotAt h.bindNow))

theorem Canon.landStage {r : InRec} {n : Nat} (h : Canon p m) {z} (hx : landStage p m r n = some z) :
    Canon p z.2 := by
  unfold Machine.landStage at hx
  split at hx
  · exact h.allocAll hx
  · cases hx
    exact h

theorem Canon.readyToDrain {r : InRec} (h : Canon p m) {z} (hx : readyToDrain p m r = some z) : Canon p z.2 := by
  unfold Machine.readyToDrain at hx
  split at hx
  · obtain ⟨x, hland, rfl⟩ := Option.map_eq_some_iff.mp hx
    exact h.landStage hland
  · cases hx
    exact h

theorem Canon.drainIn {q k : Nat} (h : Canon p m) : Canon p (drainIn p m q k) := by
  unfold Machine.drainIn
  dsimp only
  split
  · refine .ite h ?_
    split
    · next hx1 => exact .ite (h.readyToDrain hx1).setSlotAt.giveCredit (h.readyToDrain hx1).setSlotAt
    · exact h
  · exact h

theorem Canon.drainAllIn (h : Canon p m) : Canon p (drainAllIn p m) :=
  h.foldl fun _ _ h => h.foldl fun _ _ h => h.drainIn

theorem Canon.takeRec {q k : Nat} (h : Canon p m) : Canon p (takeRec p m q k) := by
  unfold Machine.takeRec
  dsimp only
  split
  · exact .drainIn (.ite h.setSlotAt.giveCredit h.setSlotAt)
  · exact h

theorem Canon.dropStages {c : Nat} (h : Canon p m) : Canon p (dropStages m c) := h.rest

end

/-! ### Steps abandoned, contexts killed, FATAL -/

section
variable {p : Part} {m : Mach}

theorem Canon.dropOutbound {c : Nat} (h : Canon p m) : Canon p (dropOutbound m c) := h.rest

theorem Canon.dropKindles {pick : Option Nat → Bool} (h : Canon p m) : Canon p (dropKindles m pick) := h.rest

theorem Canon.dropLoops {c : Nat} (h : Canon p m) : Canon p (dropLoops m c) := h.rest

theorem Canon.removeStep {s : StepRun} (h : Canon p m) : Canon p (removeStep m s) := h.rest

theorem Canon.writeBacks {c : Nat} (h : Canon p m) : Canon p (writeBacks m c) := h.rest

theorem Canon.stopItems {c : Nat} (h : Canon p m) : Canon p (stopItems m c) := by
  refine .writeBacks (.dropTxns (.dropStages (.dropLoops (.dropOutbound (.unplace ?_)))))
  split
  · exact h.dropKindles
  · exact h

theorem Canon.sendStepAbort {s : StepRun} {reason : Nat} (h : Canon p m) : Canon p (sendStepAbort p m s reason) :=
  h.foldl fun _ _ h => h.sendRecord

theorem Canon.killLaneColls {c reason : Nat} (h : Canon p m) : Canon p (killLaneColls p m c reason) := by
  refine h.foldl fun n g hn => ?_
  split
  · split
    · split
      · exact .groupPast (.ite hn hn.sendAborts.raiseAtt)
      · exact hn
    · exact hn
  · exact hn

theorem Canon.abandonStep {c reason st : Nat} (h : Canon p m) : Canon p (abandonStep p m c reason st) := by
  unfold Machine.abandonStep
  dsimp only
  split
  · split
    · exact h.report.killLaneColls.stopItems.setCtx.removeStep.sendStepAbort.completeStep
    · exact h.report.killLaneColls.stopItems.setCtx.removeStep.sendStepAbort
  · exact h

theorem Canon.completeKilled {step : Option StepRun} {stepSt stepDetail : Nat} {r : Running} {detail : Nat}
    (h : Canon p m) : Canon p (completeKilled m step stepSt stepDetail r detail) := by
  unfold Machine.completeKilled
  split
  · exact h.completeStep
  · exact .ite h.completeStep h.complete

theorem Canon.killContext {c reason stepSt stepDetail : Nat} (h : Canon p m) :
    Canon p (killContext p m c reason stepSt stepDetail) :=
  (h.killColls.killForming.killFab.stopItems.dropKindles.setCtx.foldl fun _ _ h => h.sendStepAbort.removeStep).foldl
    fun _ _ h => .ite h h.completeKilled

theorem Canon.killParked {c : Nat} (h : Canon p m) : Canon p (killParked p m c) := by
  unfold Machine.killParked
  dsimp only
  split
  · split
    · exact h.sendStepAbort.removeStep.setCtx.completeStep
    · exact h.sendStepAbort.removeStep.setCtx
  · exact h

theorem Canon.killAny {c : Nat} (h : Canon p m) : Canon p (killAny p m c) := .ite h.killContext h.killParked

theorem Canon.teardown {c cause low : Nat} (h : Canon p m) : Canon p (teardown p m c cause low) :=
  h.killContext.setCtx.wr.setEvt.reportOnly

theorem Canon.settleInternal {c : Nat} (h : Canon p m) : Canon p (settleInternal p m c) := by
  unfold Machine.settleInternal
  split
  · split
    · exact h.teardown
    · exact h
  · exact h

theorem Canon.drainVc0 {l k : Nat} (h : Canon p m) : Canon p (drainVc0 p l k m) := by
  induction k generalizing m with
  | zero => exact h
  | succ k ih =>
    unfold Machine.drainVc0
    split
    · next hsend => exact ih (h.sendVc0 hsend)
    · exact h

theorem Canon.fatal {cause unit : Nat} (h : Canon p m) : Canon p (fatal p m cause unit) :=
  .ite h (((h.flushEntries.report.flushEntries.orReg.orReg.foldl fun _ _ h => h.sendStepAbort).foldl fun _ _ h =>
    h.drainVc0).foldl fun _ _ h => h.retireLink)

end

/-! ### Kiln groups, ember store, stream and memory ports -/

section
variable {p : Part} {m : Mach}

theorem Canon.endBist {acc st : Nat} {ran failed : Bool} (h : Canon p m) :
    Canon p (endBist p m acc st ran failed) := by
  unfold Machine.endBist
  split
  · exact .complete (.setEvt (.ite (.setEvt (.bump (.ite h.wr.bump h.wr))) (.ite h.wr.bump h.wr)))
  · exact h

theorem Canon.kilnPageRetired (h : Canon p m) : Canon p (kilnPageRetired p m) := h.orReg

theorem Canon.retireGroup {g : Nat} (h : Canon p m) : Canon p (retireGroup p m g) := by
  unfold Machine.retireGroup
  dsimp only
  refine .ite ?_ ?_
  · refine .report (.rest ?_)
    split
    · exact h.kilnPageRetired.rest.endBist
    · exact h.kilnPageRetired
  · split
    · split
      · exact h.kilnPageRetired.orReg.report.teardown
      · exact h.kilnPageRetired.orReg.report
    · exact h.kilnPageRetired.orReg.report.fatal
    · exact h.kilnPageRetired.orReg.report.fatal
    · exact h.kilnPageRetired.orReg.report
    · exact h.kilnPageRetired.orReg.report
    · exact h.kilnPageRetired.orReg.report

theorem Canon.settleRetire (h : Canon p m) : Canon p (settleRetire p m) := h.rest.foldl fun _ _ h => h.retireGroup

theorem Canon.kilnUe {line : Nat} {known : Option Nat} (h : Canon p m) : Canon p (kilnUe p m line known) :=
  h.kilnNote.settleRetire

theorem Canon.kilnRead {addr : Nat} {f : ReadFinding} {known : Option Nat} (h : Canon p m) {z}
    (hx : kilnRead p m addr f known = z) : Canon p z.2 := by
  subst hx
  unfold Machine.kilnRead
  split
  · exact h
  · exact h.kilnCorrected
  · exact h.kilnUe

theorem Canon.markEmber {b : Nat} (h : Canon p m) : Canon p (markEmber p m b) := .ite h.orReg h.orReg

theorem Canon.emberUe {bank line : Nat} (h : Canon p m) : Canon p (emberUe p m bank line) :=
  .ite h.report.rest.markEmber.kilnPageRetired.report h.report.rest

theorem Canon.emberRead {granules : List Nat} {f : StoreRead} (h : Canon p m) {z}
    (hx : emberRead p m granules f = z) : Canon p z.2 := by
  subst hx
  unfold Machine.emberRead
  split
  · split
    · exact h
    · split
      · exact h.report
      · exact h.emberUe
  · exact h

theorem Canon.setEmber {c : Nat} {s : EmberSlot} (h : Canon p m) : Canon p (setEmber m c s) := h.setCtx

theorem Canon.freeEmber {c : Nat} {s : EmberSlot} (h : Canon p m) : Canon p (freeEmber m c s) := h.setCtx.freeAll

theorem Canon.tileDone {c : Nat} {k : Key} {token colt : Nat} (h : Canon p m) :
    Canon p (tileDone m c k token colt) := by
  unfold Machine.tileDone
  split
  · exact .ite h.freeEmber h.setEmber
  · exact h

theorem Canon.failOut {u : OutUse} (h : Canon p m) : Canon p (failOut p m u) := by
  unfold Machine.failOut
  split
  · exact (h.foldl fun _ _ h => h.failKey.rowGone).updPhase
  · exact h.failKey.tileDone

theorem Canon.retireSlot {q k : Nat} (h : Canon p m) : Canon p (retireSlot p q m k) :=
  h.wrF.setSlotAt.foldl fun _ _ h => h.failOut

theorem Canon.retireStream {q : Nat} (h : Canon p m) : Canon p (retireStream p m q) :=
  .ite h ((h.setStrm.setLastStatus.report.foldl fun _ _ h => h.retireSlot).setStrm.foldl fun _ _ h =>
    h.failOut).drainAllOut

theorem Canon.strmParity {q slot : Nat} (h : Canon p m) : Canon p (strmParity p m q slot) :=
  .ite h.setLastStatus.report.setStrm.retireStream h.setLastStatus.report.setStrm

theorem Canon.retireMemPort {i : Nat} (h : Canon p m) : Canon p (retireMemPort p m i) := by
  refine .ite h (.ite (.fatal ?_) ?_) <;>
    exact h.setMemPort.setLastStatus.report.rest.foldl fun _ _ h => h.issueTxn

theorem Canon.countMemFault {i : Nat} (h : Canon p m) : Canon p (countMemFault p m i) :=
  .ite h.setMemPort.retireMemPort h.setMemPort

theorem Canon.txnFailed {t : Txn} (h : Canon p m) : Canon p (txnFailed p m t) := by
  unfold Machine.txnFailed
  split
  · split
    · exact h.setRunning
    · exact h
  · split
    · exact h.setRunning
    · exact h
  · exact h.updStep
  · exact h.fillDone
  · exact h.iringEnds
  · exact h.rest
  · exact h.rest
  · refine .ite ?_ h
    split
    · exact h.setRunning
    · exact h.rest
  · exact h
  · exact h
  · exact h
  · exact h

theorem Canon.removeTxn {id : Nat} (h : Canon p m) : Canon p (removeTxn m id) := h.rest

theorem Canon.memFault {t : Txn} {kind : Nat} (h : Canon p m) : Canon p (memFault p m t kind) :=
  .issueWaiting (.ite h.setLastStatus.report.wr.removeTxn.orphan.issueTxn
    h.setLastStatus.report.wr.removeTxn.orphan.txnFailed.countMemFault)

theorem Canon.txnDone {t : Txn} (h : Canon p m) : Canon p (txnDone p m t) := by
  refine .issueWaiting ?_
  split
  · exact .ite h.removeTxn.bump h.removeTxn.bump.fillDone
  · exact .ite h.removeTxn.bump h.removeTxn.bump.recordDone
  · exact .ite h.removeTxn.bump h.removeTxn.bump.iringEnds
  · exact h.removeTxn.bump

theorem Canon.staleBeat {port tag n : Nat} (h : Canon p m) : Canon p (staleBeat m port tag n) := h.setMemPort

theorem Canon.memoryResponse {port tag : Nat} {resp : MemResp} (h : Canon p m) :
    Canon p (memoryResponse port tag resp p m) := by
  refine .ite h ?_
  split
  · split
    · exact h.memFault
    · exact h.memFault
    · exact .ite h.txnDone (.ite h.putHost.rest h.putHost.txnDone)
  · split
    · exact h.staleBeat.issueWaiting
    · exact h.countMemFault

theorem Canon.memoryTimeout {id : Nat} (h : Canon p m) : Canon p (memoryTimeout id p m) := by
  unfold Machine.memoryTimeout
  split
  · exact .ite h.memFault h
  · exact h

end

/-! ### Programs and lanes -/

section
variable {p : Part} {m : Mach}

theorem Canon.showProgram {c : Nat} {q : Option Program} (h : Canon p m) : Canon p (showProgram p m c q) := by
  unfold Machine.showProgram
  split
  · exact h.wr.wr
  · exact h.wr.wr

theorem Canon.installProgram {c : Nat} {q : Option Program} (h : Canon p m) : Canon p (installProgram p m c q) :=
  h.setCtx.showProgram

theorem Canon.takeNewProgram {c : Nat} (h : Canon p m) : Canon p (takeNewProgram p m c) := by
  unfold Machine.takeNewProgram
  split
  · exact h.installProgram
  · exact h

theorem Canon.progLoadEnd {r : Running} {reason idx : Nat} (h : Canon p m) :
    Canon p (progLoadEnd p m r reason idx) :=
  h.wr.complete

theorem Canon.progLoad {w seq : Nat} (h : Canon p m) : Canon p (progLoad w seq p m) := by
  unfold Machine.progLoad
  split
  · exact .ite h.progLoadEnd (.ite h.complete (.ite h (.ite h.progLoadEnd (.progLoadEnd (.ite h.setCtx
      h.setCtx.takeNewProgram)))))
  · exact h

end

/-! ### Table loads -/

section
variable {p : Part} {m : Mach}

theorem Canon.setTables {c : Nat} {t : Tables} (h : Canon p m) : Canon p (setTables m c t) := h.setCtx

theorem Canon.applyPend {c : Nat} {q : PendTable} (h : Canon p m) : Canon p (applyPend p c m q) := by
  unfold Machine.applyPend
  dsimp only
  split
  · exact h.setTables
  · exact h.setTables
  · exact h.setTables
  · split
    · exact .setRunning (.setTables (.ite h.startWrites h))
    · exact .setTables (.ite h.startWrites h)

theorem Canon.applyTables {c : Nat} {pick : PendTable → Bool} (h : Canon p m) : Canon p (applyTables p m c pick) :=
  h.setCtx.foldl fun _ _ h => h.applyPend

theorem Canon.keepTables {c : Nat} (h : Canon p m) : Canon p (keepTables m c) := .ite h h.updStep

theorem Canon.tableOffset {reason off : Nat} (h : Canon p m) {z} (hx : tableOffset m reason off = z) :
    Canon p z.2 := by
  subst hx
  unfold Machine.tableOffset
  split
  · exact h.drawFree rfl
  · exact h

theorem Canon.tableEnd {r : Running} {reason off : Nat} {detail : Bool} (h : Canon p m) :
    Canon p (tableEnd p m r reason off detail) :=
  .ite h.wr.complete (h.tableOffset rfl).wr.complete

theorem Canon.tableLoad {w seq : Nat} (h : Canon p m) : Canon p (tableLoad w seq p m) := by
  unfold Machine.tableLoad
  dsimp only
  split
  · refine .ite h ?_
    refine .ite h.tableEnd ?_
    refine .ite h.complete ?_
    refine .ite h ?_
    split
    · exact h.tableEnd
    · exact .ite h.setCtx.tableEnd.applyTables h.setCtx.tableEnd
  · exact h

theorem Canon.biasUpdate {w seq : Nat} (h : Canon p m) : Canon p (biasUpdate w seq p m) := by
  unfold Machine.biasUpdate
  dsimp only
  split
  · refine .ite h.complete ?_
    refine .ite h ?_
    refine .ite h.complete ?_
    refine .ite h ?_
    split
    · exact h.setRunning.startReads
    · split
      · exact h.tableEnd
      · exact .ite h.setRunning.setCtx.applyTables h.setRunning.setCtx
  · exact h

theorem Canon.installRoutes {es : List (Nat × Route)} (h : Canon p m) : Canon p (installRoutes p m es) := by
  unfold Machine.installRoutes
  exact h.withReroute fun _ h => h.rest

theorem Canon.routeEnd {r : Running} {reason dest : Nat} (h : Canon p m) : Canon p (routeEnd p m r reason dest) :=
  h.wr.complete

theorem Canon.tableLoadRoute {w seq : Nat} (h : Canon p m) : Canon p (tableLoadRoute w seq p m) := by
  unfold Machine.tableLoadRoute
  split
  · refine .ite h ?_
    refine .ite h.complete ?_
    refine .ite h ?_
    split
    · exact h.routeEnd
    · exact h.installRoutes.routeEnd
  · exact h

end

/-! ### Scoring, selection and admission -/

section
variable {p : Part} {m : Mach}

theorem Canon.reportUnknownJob {h' : Line} (h : Canon p m) : Canon p (reportUnknownJob p m h') := h.report

theorem Canon.addSlot {s : StepRun} {layer token : Nat} {t : LayerT} {nan : Bool} {gs : List Nat} {job : Nat}
    (h : Canon p m) : Canon p (addSlot m s layer token t nan gs job) :=
  h.setCtx

theorem Canon.slotReady {c : Nat} {k : Key} {l : LayerT} {tok : Tok} (h : Canon p m) :
    Canon p (slotReady m c k l tok) := by
  unfold Machine.slotReady
  split
  · exact h.setEmber
  · exact h

theorem Canon.setTok {c : Nat} {k : Key} {t : Tok} (h : Canon p m) : Canon p (setTok m c k t) := h.updPhase

theorem Canon.leaveUnit {c : Nat} {i : ItemRef} (h : Canon p m) : Canon p (leaveUnit m c i) := h.rest

theorem Canon.finalizeTok {s : StepRun} {layer : Nat} {l : LayerT} {tok : Tok} (h : Canon p m) :
    Canon p (finalizeTok p m s layer l tok) :=
  h.setTok.slotReady.leaveUnit.updStep

theorem Canon.finalizeAll {c layer : Nat} {l : LayerT} (h : Canon p m) : Canon p (finalizeAll p m c layer l) := by
  unfold Machine.finalizeAll
  split
  · exact h.foldl fun _ _ h => h.finalizeTok
  · exact h

theorem Canon.setAdmitCredit {c : Nat} {k : Key} {node n : Nat} (h : Canon p m) :
    Canon p (setAdmitCredit m c k node n) :=
  h.setCtx

theorem Canon.sendAdmitFlit {s : StepRun} {layer node : Nat} (h : Canon p m) :
    Canon p (sendAdmitFlit p m s layer node) := by
  unfold Machine.sendAdmitFlit
  dsimp only
  split
  · exact h.updPhase.queuePacket
  · exact h

theorem Canon.pumpAdmitTo {s : StepRun} {layer node k : Nat} (h : Canon p m) :
    Canon p (pumpAdmitTo p s layer node k m) := by
  induction k generalizing m with
  | zero => exact h
  | succ k ih =>
    unfold Machine.pumpAdmitTo
    split
    · exact .ite (ih h.setAdmitCredit.sendAdmitFlit) (.ite h.setAdmitCredit h)
    · exact h

theorem Canon.pumpAdmit {c layer : Nat} (h : Canon p m) : Canon p (pumpAdmit p m c layer) := by
  unfold Machine.pumpAdmit
  split
  · exact h.foldl fun _ _ h => h.pumpAdmitTo
  · exact h

theorem Canon.queueAdmits {c : Nat} {k : Key} {as : List Admit} (h : Canon p m) :
    Canon p (queueAdmits p m c k as) :=
  h.updPhase.pumpAdmit

theorem Canon.reserveAdmit {c : Nat} {k : Key} {node j : Nat} (h : Canon p m) {z}
    (hx : reserveAdmit p c k node j m = z) : Canon p z.2 := by
  subst hx
  induction j generalizing m with
  | zero => exact h
  | succ j ih =>
    unfold Machine.reserveAdmit
    split
    · next halloc => exact ih (h.allocBuf halloc).updPhase
    · exact h

theorem Canon.grantAdmits {c layer : Nat} {l : LayerT} (h : Canon p m) : Canon p (grantAdmits p m c layer l) := by
  unfold Machine.grantAdmits
  split
  · refine h.foldl fun n x hn => ?_
    split
    · exact .ite (hn.reserveAdmit rfl) (hn.reserveAdmit rfl).updPhase.sendRecord
    · exact hn
  · exact h

theorem Canon.bindAdmit {c layer : Nat} {l : LayerT} (h : Canon p m) : Canon p (bindAdmit p m c layer l) := by
  unfold Machine.bindAdmit
  split
  · exact .ite h.updPhase.grantAdmits h
  · exact h

theorem Canon.pumpGrants (h : Canon p m) : Canon p (pumpGrants p m) := by
  unfold Machine.pumpGrants
  split
  · refine .ite h (h.foldl fun n x hn => ?_)
    split
    · exact hn.grantAdmits
    · exact hn
  · exact h

theorem Canon.cancelAdmit {c layer node : Nat} (h : Canon p m) : Canon p (cancelAdmit m c layer node) := by
  unfold Machine.cancelAdmit
  split
  · exact .ite (h.updPhase.foldl fun _ _ h => h.freeBuf) h
  · exact h

theorem Canon.settleAdmit {c layer : Nat} {l : LayerT} (h : Canon p m) : Canon p (settleAdmit p m c layer l) := by
  unfold Machine.settleAdmit
  dsimp only
  split
  · exact h.finalizeAll.updPhase
  · exact h.finalizeAll

theorem Canon.enterAdmits {c layer : Nat} {l : LayerT} {s : StepRun} {as : List Admit} (h : Canon p m) :
    Canon p (enterAdmits p m c layer l s as) :=
  h.updPhase.settleAdmit

theorem Canon.loopAdmits (h : Canon p m) : Canon p (loopAdmits p m) := by
  unfold Machine.loopAdmits
  split
  · split
    · split
      · exact h.updPhase.enterAdmits
      · exact h
    · exact h
  · exact h

theorem Canon.admitFlitReceive {loop : Bool} (h : Canon p m) : Canon p (admitFlitReceive loop p m) := by
  unfold Machine.admitFlitReceive
  dsimp only
  refine .ite h.loopAdmits ?_
  split
  · split
    · exact h.dropRx.reportUnknownJob
    · exact h.dropRx.bump
    · exact h.dropRx
    · split
      · exact h.dropRx.enterAdmits.sendRecord.cancelAdmit
      · exact h.dropRx
  · exact h

theorem Canon.agrantReceive (h : Canon p m) : Canon p (agrantReceive p m) := by
  unfold Machine.agrantReceive
  split
  · next hx =>
    split
    · exact .ite (h.takeRecord hx) (h.takeRecord hx).setAdmitCredit.pumpAdmit
    · exact h.takeRecord hx
  · exact h

theorem Canon.admitVerdicts {layer : Nat} (h : Canon p m) : Canon p (admitVerdicts layer p m) := by
  unfold Machine.admitVerdicts
  dsimp only
  split
  · split
    · exact .ite h.updPhase.queueAdmits h
    · exact h
  · exact h

theorem Canon.seatScore {c layer token experts : Nat} (h : Canon p m) {n : Mach}
    (hx : seatScore p m c layer token experts = some n) : Canon p n := by
  unfold Machine.seatScore at hx
  dsimp only at hx
  split at hx
  · cases hx
    exact h
  · split at hx <;> cases hx
    exact h.placeItem

theorem Canon.scoreFails {s : StepRun} {layer home token st : Nat} (h : Canon p m) :
    Canon p (scoreFails m s layer home token st) :=
  h.leaveUnit.failItem.updPhase

theorem Canon.decideRecord {s : StepRun} {r : InRec} {l : LayerT} {gs : List Nat} (h : Canon p m) :
    Canon p (decideRecord p m s r l gs) :=
  .finalizeAll (.queueAdmits (.updPhase (.addSlot (.ite (.bump (.ite h.bump.updStep h)) (.ite h.bump.updStep h)))))

theorem Canon.scoreRecord {q k : Nat} (h : Canon p m) : Canon p (scoreRecord q k p m) := by
  unfold Machine.scoreRecord
  split
  · dsimp only
    refine .ite h ?_
    split
    · exact h.scoreFails.takeRec
    · refine .ite h.wr.scoreFails.takeRec (.ite h ?_)
      split
      · exact h.scoreFails.recordInput.takeRec
      · split
        · next hseat => exact (h.seatScore hseat).decideRecord.recordInput.takeRec
        · exact h
  · exact h

theorem Canon.endBatch {s : StepRun} {layer : Nat} {l : LayerT} (h : Canon p m) :
    Canon p (endBatch p m s layer l) := by
  unfold Machine.endBatch
  extract_lets k a b n
  have hn : Canon p n := .finalizeAll (.ite h.updPhase.updPhase h.updPhase)
  exact .ite hn.updPhase.queueAdmits hn

theorem Canon.eobMarker {q k : Nat} (h : Canon p m) : Canon p (eobMarker q k p m) := by
  unfold Machine.eobMarker
  dsimp only
  split
  · refine .ite h (.takeRec (.endBatch ?_))
    split
    · exact h.failItem
    · exact .ite h.wr.failItem h.recordInput
  · exact h

end

/-! ### Billets sent -/

section
variable {p : Part} {m : Mach}

theorem Canon.setCredit {c : Nat} {k : Key} {dest cls n : Nat} (h : Canon p m) :
    Canon p (setCredit m c k dest cls n) :=
  h.setCtx

theorem Canon.lapseCredit {c : Nat} {k : Key} {dest : Nat} (h : Canon p m) : Canon p (lapseCredit p m c k dest) :=
  h.setCtx.bump

theorem Canon.startBillet {s : StepRun} {layer : Nat} {b : Billet} {v : Credit} (h : Canon p m) :
    Canon p (startBillet p m s layer b v) :=
  .ite h.setCredit.updPhase.rest h.setCredit.updPhase.queuePacket

theorem Canon.dropBillet {s : StepRun} {layer : Nat} {b : Billet} (h : Canon p m) :
    Canon p (dropBillet p m s layer b) :=
  h.updPhase.countUnreach.failItem.foldl fun _ _ h => h.billetGone

theorem Canon.pumpQueue {c layer dest k : Nat} (h : Canon p m) : Canon p (pumpQueue p c layer dest k m) := by
  induction k generalizing m with
  | zero => exact h
  | succ k ih =>
    unfold Machine.pumpQueue
    split
    · refine .ite h ?_
      split
      · refine .ite h (.ite (ih h.dropBillet) ?_)
        split
        · exact ih h.startBillet
        · exact h
      · exact h
    · exact h

theorem Canon.pumpSend {c : Nat} (h : Canon p m) : Canon p (pumpSend p m c) := by
  unfold Machine.pumpSend
  split
  · exact .ite h (h.foldl fun _ _ h => h.foldl fun _ _ h => h.pumpQueue)
  · exact h

theorem Canon.takeGrant {c dest : Nat} {k : Key} {cls n : Nat} {asked : Bool} (h : Canon p m) :
    Canon p (takeGrant p m c dest k cls n asked) :=
  .ite (.bump (.ite h.setCtx h.bump)) (.pumpSend (.setCredit (.ite h.setCtx h.bump)))

theorem Canon.grantTo {c src : Nat} {k : Key} {cls n : Nat} {asked : Bool} (h : Canon p m) :
    Canon p (grantTo p m c src k cls n asked) :=
  .ite h.takeGrant h.sendRecord

theorem Canon.reserve {c src : Nat} {k : Key} {cls : Nat} {kindled : Bool} (h : Canon p m) {n : Mach}
    (hx : reserve p m c src k cls kindled = some n) : Canon p n := by
  unfold Machine.reserve at hx
  split at hx
  · next halloc =>
    cases hx
    exact (h.allocBuf halloc).setCtx
  · cases hx

theorem Canon.serveAsks {c k : Nat} (h : Canon p m) : Canon p (serveAsks p c k m) := by
  induction k generalizing m with
  | zero => exact h
  | succ k ih =>
    unfold Machine.serveAsks
    dsimp only
    split
    · refine .ite (ih h.setCtx) (.ite h ?_)
      split
      · next hres => exact ih (h.reserve hres).setCtx.grantTo
      · exact h
    · exact h

theorem Canon.pumpAsks {c : Nat} (h : Canon p m) : Canon p (pumpAsks p m c) := h.serveAsks

theorem Canon.reserveMany {c src : Nat} {k : Key} {cls j : Nat} (h : Canon p m) {z}
    (hx : reserveMany p c src k cls j m = z) : Canon p z.2 := by
  subst hx
  induction j generalizing m with
  | zero => exact h
  | succ j ih =>
    unfold Machine.reserveMany
    split
    · next hres => exact ih (h.reserve hres)
    · exact h

theorem Canon.answerKindle {c src : Nat} {k : Key} {cls n : Nat} (h : Canon p m) :
    Canon p (answerKindle p m c src k cls n) :=
  .ite h (.ite (h.reserveMany rfl) (h.reserveMany rfl).setCtx.grantTo)

theorem Canon.queueAsk {c src : Nat} {k : Key} {cls : Nat} (h : Canon p m) : Canon p (queueAsk p m c src k cls) :=
  .ite h h.setCtx.pumpAsks

theorem Canon.cancelResv {c src : Nat} {k : Key} (h : Canon p m) : Canon p (cancelResv p m c src k) :=
  (h.setCtx.foldl fun _ _ h => h.freeBuf).pumpAsks

theorem Canon.kindleReceive (h : Canon p m) : Canon p (kindleReceive p m) := by
  unfold Machine.kindleReceive
  split
  · next hx =>
    split
    · exact (h.takeRecord hx).answerKindle
    · exact h.takeRecord hx
  · exact h

theorem Canon.askReceive (h : Canon p m) : Canon p (askReceive p m) := by
  refine .foldl ?_ fun _ _ h => h.pumpAsks
  split
  · next hx =>
    split
    · exact (h.takeRecord hx).queueAsk
    · exact h.takeRecord hx
  · exact h

theorem Canon.grantReceive (h : Canon p m) : Canon p (grantReceive p m) := by
  unfold Machine.grantReceive
  split
  · next hx =>
    split
    · exact (h.takeRecord hx).takeGrant
    · exact h.takeRecord hx
  · exact h

theorem Canon.ask {dest : Nat} (h : Canon p m) : Canon p (ask dest p m) := by
  unfold Machine.ask
  split
  · split
    · exact .ite h (.ite h.setCtx.bump.queueAsk h.setCtx.bump.sendRecord)
    · exact h
  · exact h

theorem Canon.closeMarkerSend {dest : Nat} (h : Canon p m) : Canon p (closeMarkerSend dest p m) := by
  unfold Machine.closeMarkerSend
  dsimp only
  split
  · split
    · exact .ite (.ite h.updPhase.lapseCredit.queuePacket.updPhase h.updPhase.lapseCredit.queuePacket) h
    · exact h
  · exact h

theorem Canon.kindleEntry {c : Nat} {k : Key} {acc : Option Nat} {bound e : Nat} (h : Canon p m) :
    Canon p (kindleEntry p c k acc bound m e) := by
  unfold Machine.kindleEntry
  dsimp only
  refine .ite h.bump.answerKindle (.sendRec ?_)
  split
  · exact h.bump.setStep
  · exact h.bump

theorem Canon.kindleList {c : Nat} {k : Key} {nodes es : List Nat} {acc : Option Nat} {bound : Nat} (h : Canon p m) :
    Canon p (kindleList p m c k nodes es acc bound) :=
  h.bump.foldl fun _ _ h => h.kindleEntry

theorem Canon.useHint {s : StepRun} {r : InRec} {arg bound : Nat} (h : Canon p m) :
    Canon p (useHint p m s r arg bound) := by
  unfold Machine.useHint
  dsimp only
  split
  · exact h.failItem
  · exact .ite h.bump h.kindleList

theorem Canon.takeHint {q k : Nat} (h : Canon p m) : Canon p (takeHint p m q k) := by
  unfold Machine.takeHint
  split
  · split
    · exact .ite h.setStep.takeRec.useHint h
    · exact h
  · exact h

theorem Canon.takeHints (h : Canon p m) : Canon p (takeHints p m) :=
  h.foldl fun _ _ h => h.foldl fun _ _ h => h.takeHint

theorem Canon.hint {w seq : Nat} (h : Canon p m) : Canon p (hint w seq p m) := by
  unfold Machine.hint
  dsimp only
  split
  · refine .ite h ?_
    split
    · exact h.complete
    · refine .ite h ?_
      refine .ite h.complete ?_
      split
      · exact .ite h.setRunning.kindleList.complete h.setRunning.kindleList
      · exact h.setRunning.kindleList
  · exact h

end

/-! ### Tokens packed -/

section
variable {p : Part} {m : Mach}

theorem Canon.packFails {s : StepRun} {layer : Nat} {tok : Tok} {st : Nat} (h : Canon p m) :
    Canon p (packFails p m s layer tok st) := by
  unfold Machine.packFails
  dsimp only
  split
  · exact .ite h.failItem.freeAll.setTok.setEmber h.failItem.freeAll.setTok
  · exact h.failItem.freeAll.setTok

theorem Canon.putStage {c : Nat} {bufs : List (Nat × Nat)} {area : List Byte} (h : Canon p m) :
    Canon p (putStage m c bufs area) :=
  h.foldl fun _ _ h => h.putBuf

theorem Canon.tokenRecord {q k : Nat} (h : Canon p m) : Canon p (tokenRecord q k p m) := by
  unfold Machine.tokenRecord
  split
  · dsimp only
    split
    · exact h
    · refine .ite h.freeAll.updPhase.takeRec ?_
      split
      · exact h.packFails.freeAll.updPhase.takeRec
      · refine .ite h.wr.packFails.freeAll.updPhase.takeRec (.ite h ?_)
        split
        · exact h
        · next hland => exact (h.landStage hland).putStage.setTok.recordInput.updPhase.takeRec
  · exact h

theorem Canon.stageRanks {c : Nat} {l : LayerT} {k : Nat} (h : Canon p m) {z} (hx : stageRanks p c l k m = some z) :
    Canon p z.2 := by
  induction k generalizing m z with
  | zero =>
    cases hx
    exact h
  | succ k ih =>
    unfold Machine.stageRanks at hx
    split at hx
    · next htake =>
      split at hx
      · next hranks =>
        cases hx
        have hrest := ih (h.takeBufs htake) hranks
        exact hrest
      · cases hx
    · cases hx

theorem Canon.countCode {c : Nat} {e : Encoded} {token : Bool} (h : Canon p m) :
    Canon p (countCode p m c e token) :=
  .ite h.bump.bump.bump.bump h.bump.bump

theorem Canon.encodeToken {s : StepRun} {layer : Nat} {l : LayerT} {tok : Tok} {header : Word} {area : List Byte}
    (h : Canon p m) {n : Mach} (hx : encodeToken p m s layer l tok header area = some n) : Canon p n := by
  unfold Machine.encodeToken at hx
  dsimp only at hx
  split at hx
  · cases hx
  · split at hx
    · cases hx
    · next hranks =>
      split at hx
      · cases hx
      · next halloc =>
        cases hx
        refine .updPhase (.setTok (.freeAll (.countCode ?_)))
        split
        · exact ((h.stageRanks hranks).allocBuf halloc).putBuf.setRefs.setEmber
        · exact ((h.stageRanks hranks).allocBuf halloc).putBuf.setRefs

theorem Canon.packItem {s : StepRun} {layer : Nat} {l : LayerT} {f : ReadFinding} {tok : Tok} (h : Canon p m)
    {n : Mach} (hx : packItem p m s layer l f tok = some n) : Canon p n := by
  unfold Machine.packItem at hx
  dsimp only at hx
  split at hx
  · cases hx
  · split at hx
    · cases hx
      exact h.packFails
    · split at hx
      · cases hx
        exact h.freeAll.setTok
      · split at hx
        · cases hx
        · split at hx
          · cases hx
            exact (h.placeItem.kilnRead rfl).packFails
          · exact (h.placeItem.kilnRead rfl).encodeToken hx

theorem Canon.packEncode {f : ReadFinding} (h : Canon p m) : Canon p (packEncode f p m) := by
  unfold Machine.packEncode
  split
  · dsimp only
    split
    · refine .ite ?_ h
      split
      · next hpack =>
        obtain ⟨tok, -, htok⟩ := List.exists_of_findSome?_eq_some hpack
        exact (h.packItem htok).pumpSend.drainAllIn
      · exact h
    · exact h
  · exact h

end

/-! ### Billets, ricks and tiles that arrive -/

section
variable {p : Part} {m : Mach}

theorem Canon.mapOut {f : OutRec → OutRec} (h : Canon p m) : Canon p (mapOut m f) := h.rest

theorem Canon.endRicks {c : Nat} {k : Key} {x : LayerPhase} (h : Canon p m) : Canon p (endRicks m c k x) :=
  h.foldl fun _ _ h => h.mapOut.updPhase

theorem Canon.sourceClosed {c : Nat} {k : Key} (h : Canon p m) : Canon p (sourceClosed m c k) := by
  unfold Machine.sourceClosed
  split
  · exact .ite h.endRicks h
  · exact h

theorem Canon.settleSource {c : Nat} {k : Key} {src : Nat} (h : Canon p m) :
    Canon p (settleSource p m c k src) := by
  unfold Machine.settleSource
  split
  · exact .ite h.updPhase.cancelResv.sourceClosed h
  · exact h

theorem Canon.billetHandled {c : Nat} {k : Key} {src : Nat} (h : Canon p m) : Canon p (billetHandled p m c k src) :=
  h.updPhase.settleSource

theorem Canon.billetErr {c reason : Nat} {h' : Line} (h : Canon p m) : Canon p (billetErr p m c reason h') := h.wr

theorem Canon.enterBillet {c : Nat} {k : Key} {v : Resv} {h' : Line} {code : List Byte} {tag : Option Nat}
    (h : Canon p m) : Canon p (enterBillet m c k v h' code tag) :=
  h.setCtx.setRefs.putBuf.updPhase

theorem Canon.billetFails {c layer reason : Nat} {h' : Line} (h : Canon p m) :
    Canon p (billetFails p m c layer reason h') :=
  h.billetErr.failItem

theorem Canon.recvItem {s : StepRun} {l : LayerT} {src : Nat} {h' : Line} {code : List Byte} {tag : Option Nat}
    {lost : Bool} (h : Canon p m) : Canon p (recvItem p m s l src h' code tag lost) := by
  unfold Machine.recvItem
  dsimp only
  refine .ite h.billetFails.billetHandled ?_
  split
  · exact h.billetFails.billetHandled
  · exact .ite h.failItem.billetHandled (.ite h.failItem.billetHandled (.ite h.billetFails.billetHandled
      h.enterBillet.billetHandled))

theorem Canon.takeBillet {src : Nat} {h' : Line} {code : List Byte} {tag : Option Nat} {lost : Bool} (h : Canon p m) :
    Canon p (takeBillet p m src h' code tag lost) := by
  unfold Machine.takeBillet
  split
  · exact h.reportUnknownJob
  · exact h.bump
  · exact h
  · exact h.recvItem

theorem Canon.onPacker {h' : Line} {work : Mach → Mach} (h : Canon p m) (hf : ∀ n, Canon p n → Canon p (work n)) :
    Canon p (onPacker p m h' work) := by
  unfold Machine.onPacker
  split
  · exact h.onHearth hf
  · exact hf _ h

theorem Canon.loopCopied {c : Nat} {b : Billet} (h : Canon p m) : Canon p (loopCopied m c b) :=
  h.updPhase.billetGone

theorem Canon.takeMarker {src : Nat} {h' : Line} (h : Canon p m) : Canon p (takeMarker p m src h') := by
  unfold Machine.takeMarker
  split
  · exact h.reportUnknownJob
  · exact h.bump
  · exact h
  · exact .ite h.billetErr.failItem h.updPhase.settleSource

theorem Canon.closeMarkerReceive {loop : Bool} (h : Canon p m) : Canon p (closeMarkerReceive loop p m) := by
  unfold Machine.closeMarkerReceive
  split
  · exact h.dropRx.takeMarker
  · exact h

theorem Canon.setBillet {c : Nat} {k : Key} {home token : Nat} {f : RecvBillet → RecvBillet} (h : Canon p m) :
    Canon p (setBillet m c k home token f) :=
  h.updPhase

theorem Canon.fillRow {s : StepRun} {l : LayerT} {layer : Nat} {row : Nat × Nat} (h : Canon p m) :
    Canon p (fillRow p m s l layer row) :=
  h.mapOut.drainAllOut

theorem Canon.codeFails {s : StepRun} {l : LayerT} {layer src : Nat} {b : RecvBillet} (h : Canon p m) :
    Canon p (codeFails p m s l layer src b) := by
  refine .ite ?_ (h.billetFails.setBillet.fillRow.foldl fun _ _ h => h.updPhase.rowGone)
  exact .ite h.billetFails.updPhase.setRefs.setCtx.cancelResv h.billetFails.updPhase.setRefs.setCtx

theorem Canon.codeLands {x : RxPkt} (h : Canon p m) : Canon p (codeLands p m x) := by
  unfold Machine.codeLands
  dsimp only
  split
  · split
    · exact .ite h.codeFails h.putBuf.setBillet.fillRow
    · exact h
  · exact h

theorem Canon.codeGrows {x : RxPkt} (h : Canon p m) : Canon p (codeGrows p m x) := by
  unfold Machine.codeGrows
  dsimp only
  split
  · split
    · exact .ite h h.setBillet.fillRow
    · exact h
  · exact h

theorem Canon.codesGrow (h : Canon p m) : Canon p (codesGrow p m) := h.foldl fun _ _ h => h.codeGrows

theorem Canon.billetReceive {loop lost : Bool} (h : Canon p m) : Canon p (billetReceive loop p m lost) := by
  refine .ite ?_ ?_
  · split
    · exact h.onPacker fun _ h => h.rest.takeBillet.loopCopied
    · exact h
  · split
    · exact .ite h.dropRx.codeLands (h.onPacker fun _ h => .ite h.dropRx.takeBillet h.markRx.takeBillet)
    · exact h

theorem Canon.rickRowDeliver {slot : Nat} {f : ReadFinding} (h : Canon p m) :
    Canon p (rickRowDeliver slot f p m) := by
  unfold Machine.rickRowDeliver
  dsimp only
  split
  · split
    · exact .ite h (.ite h (h.onHearth fun _ h => .ite (h.kilnRead rfl).failItem.updPhase.rowGone
        (h.kilnRead rfl).updPhase.placeOut.pumpAsks))
    · exact h
  · exact h

theorem Canon.rickEnd {slot : Nat} (h : Canon p m) : Canon p (rickEnd slot p m) := by
  unfold Machine.rickEnd
  split
  · exact .ite h.updPhase.placeOut h
  · exact h

end

/-! ### Recovery -/

section
variable {p : Part} {m : Mach}

theorem Canon.stopHearthBist {h' st : Nat} (h : Canon p m) : Canon p (stopHearthBist p m h' st) :=
  .ite h.setHearth.endBist h

theorem Canon.retireHearth {h' cause : Nat} (h : Canon p m) : Canon p (retireHearth p m h' cause) := by
  unfold Machine.retireHearth
  dsimp only
  refine .ite h ?_
  refine .ite ?_ ?_
  · refine .fatal (.report (.setLastStatus (.moveItems ?_)))
    split
    · exact .setHearth (.setHearth (.stopHearthBist (.ite (h.foldl fun _ _ h => h.stopHearthBist) h)))
    · exact .setHearth (.stopHearthBist (.ite (h.foldl fun _ _ h => h.stopHearthBist) h))
  · refine .report (.setLastStatus (.moveItems ?_))
    split
    · exact .setHearth (.setHearth (.stopHearthBist (.ite (h.foldl fun _ _ h => h.stopHearthBist) h)))
    · exact .setHearth (.stopHearthBist (.ite (h.foldl fun _ _ h => h.stopHearthBist) h))

theorem Canon.failHeld {i : ItemRef} (h : Canon p m) : Canon p (failHeld m i) := by
  unfold Machine.failHeld
  split
  · exact h
  · split
    · exact .ite h.failItem.updPhase (.ite h.failItem.tileDone h.failItem)
    · exact h
  · split
    · exact h.setRunning
    · exact h

theorem Canon.hearthFault {g : Nat} {unit : SubUnit} {tries : Nat} {item : ItemRef} (h : Canon p m) :
    Canon p (hearthFault g unit tries item p m) := by
  refine .ite h ?_
  extract_lets state shown a b n
  have hn : Canon p n := .ite h.report.setLastStatus.failHeld h.report.setLastStatus
  exact .ite hn.retireHearth (.ite hn.setHearth.retireHearth hn.setHearth)

theorem Canon.scrubRead {line : Nat} {f : ReadFinding} (h : Canon p m) : Canon p (scrubRead line f p m) :=
  .ite (h.kilnRead rfl) h

theorem Canon.copyFinds {g : Nat} {f : StoreRead} (h : Canon p m) : Canon p (copyFinds p g m f) := by
  unfold Machine.copyFinds
  split
  · exact .ite h (.ite h.kilnCorrected h.lineNoted)
  · exact h

theorem Canon.kilnSpareCopyEnd {found : List StoreRead} (h : Canon p m) : Canon p (kilnSpareCopyEnd found p m) :=
  .ite (h.rest.foldl fun _ _ h => h.copyFinds) h

theorem Canon.softClear {page : Nat} (h : Canon p m) : Canon p (softClear p m page) :=
  (h.wr.foldl fun _ _ h => h.wr).clrReg.foldl fun _ _ h => h.foldl fun _ _ h => h.wr

theorem Canon.setQuiesce {page : Nat} {q : Bool} (h : Canon p m) : Canon p (setQuiesce p m page q) := by
  unfold Machine.setQuiesce
  dsimp only
  split
  · exact h.setHearth
  · exact .ite (h.setStrm.payOwed.foldl fun _ _ h => h.drainIn).drainOut h.setStrm
  · exact .ite h.setMemPort h.setMemPort.issueWaiting
  · exact .ite h (h.withReroute fun _ h => h.setLink)
  · exact h

theorem Canon.retireRequest {page : Nat} (h : Canon p m) : Canon p (retireRequest p m page) := by
  unfold Machine.retireRequest
  dsimp only
  split
  · exact .ite h h.retireHearth
  · exact h.retireStream
  · exact h.retireMemPort
  · exact h.retireLink
  · exact h

theorem Canon.pageCtrlWrite {src : Src} {page : Nat} {v : Word} (h : Canon p m) :
    Canon p (pageCtrlWrite src page v p m) := by
  refine h.gated fun n hn => .ite hn.ignored (.ite hn.ignored (.ite hn.ignored ?_))
  extract_lets a b c d
  have hb : Canon p b := .ite hn.wr.softClear hn.wr
  have hc : Canon p c := .ite hb.setQuiesce hb
  have hd : Canon p d := .ite hc.retireRequest hc
  exact .ite hd.linkEnabled hd

theorem Canon.linkEnable {src : Src} {l : Nat} {v : Word} (h : Canon p m) : Canon p (linkEnable src l v p m) :=
  .ite h.pageCtrlWrite h

theorem Canon.retireReq {src : Src} {page : Nat} {v : Word} (h : Canon p m) : Canon p (retireReq src page v p m) :=
  h.pageCtrlWrite

theorem Canon.quiesce {src : Src} {page : Nat} {v : Word} (h : Canon p m) : Canon p (quiesce src page v p m) :=
  h.pageCtrlWrite

theorem Canon.softReset {src : Src} {page : Nat} {v : Word} (h : Canon p m) : Canon p (softReset src page v p m) :=
  h.pageCtrlWrite

theorem Canon.killAll (h : Canon p m) : Canon p (killAll p m) := h.foldl fun _ _ h => h.killAny

theorem Canon.settleLost (h : Canon p m) : Canon p (settleLost p m) := .ite h.rest.killAll h

theorem Canon.hostLost (h : Canon p m) : Canon p (hostLost p m) :=
  .ite h (.ite h.rest.orReg.report h.rest.orReg.report.rest.settleLost)

theorem Canon.hostKick {src : Src} {v : Word} (h : Canon p m) : Canon p (hostKick src v p m) :=
  h.gated fun _ h => .ite h.rest h

theorem Canon.ashLogWrite (h : Canon p m) : Canon p (ashLogWrite p m) := by
  unfold Machine.ashLogWrite
  split
  · exact h.rest.takeEntry
  · exact h

theorem Canon.logClear {src : Src} {v : Word} (h : Canon p m) : Canon p (logClear src v p m) :=
  h.gated fun _ h => .ite h.ignored (.ite h.wr.wr.wr h.wr)

theorem Canon.logSnapshot {w seq : Nat} (h : Canon p m) : Canon p (logSnapshot w seq p m) := by
  unfold Machine.logSnapshot
  split
  · exact .ite h.setRunning.startWrites (.ite h.complete (.ite h h.complete))
  · exact h

end

/-! ### The combine -/

section
variable {p : Part} {m : Mach}

theorem Canon.retErr {c reason : Nat} {arrival : Bool} {node layer token : Nat} (h : Canon p m) :
    Canon p (retErr p m c reason arrival node layer token) :=
  h.wr

theorem Canon.sendTile {s : StepRun} {layer buf : Nat} {w : Word} {header stats code : List Byte} (h : Canon p m) :
    Canon p (sendTile p m s layer buf w header stats code) :=
  .ite h.putBuf.bump.rest h.putBuf.bump.updPhase.queuePacket

theorem Canon.expertOutputRecord {q k : Nat} (h : Canon p m) : Canon p (expertOutputRecord q k p m) := by
  unfold Machine.expertOutputRecord
  dsimp only
  split
  · split
    · exact h.failItem.updPhase.takeRec
    · refine .ite h.retErr.failItem.updPhase.takeRec ?_
      refine .ite h ?_
      split
      · exact h
      · next hx2 => exact (h.allocAll hx2).placeItem.countCode.updPhase.recordInput.sendTile.takeRec
  · exact h

theorem Canon.putTile {c : Nat} {e : EmberSlot} {r : SlotRank} {colt : Nat} {body : List Byte} (h : Canon p m) :
    Canon p (putTile m c e r colt body) := by
  unfold Machine.putTile
  dsimp only
  split
  · exact h.putBuf
  · exact h

theorem Canon.stageTile {c : Nat} {e : EmberSlot} {i : Nat} {t : TileFields} {body : List Byte} (h : Canon p m) :
    Canon p (stageTile p m c e i t body) := by
  unfold Machine.stageTile
  split
  · exact h.setEmber.putTile.bump
  · exact h

theorem Canon.takeTile {f : StoreRead} {h' : BitVec 256} {rest : List Byte} (h : Canon p m) :
    Canon p (takeTile p m f h' rest) := by
  unfold Machine.takeTile
  dsimp only
  split
  · exact h
  · refine .ite h.bump ?_
    split
    · exact h.bump
    · refine .ite (.ite (h.emberRead rfl).failKey.tileDone (h.emberRead rfl).failKey) ?_
      refine .ite (.ite (h.emberRead rfl).retErr.failKey.tileDone (h.emberRead rfl).retErr.failKey) ?_
      split
      · exact (h.emberRead rfl).stageTile
      · exact h.emberRead rfl

theorem Canon.returnTileReceive {loop : Bool} {f : StoreRead} (h : Canon p m) :
    Canon p (returnTileReceive loop f p m) := by
  refine .ite h ?_
  refine .ite ?_ ?_
  · split
    · refine .ite h (.drainAllIn (.takeTile ?_))
      split
      · exact h.rest.freeBuf
      · exact h.rest
    · exact h
  · split
    · exact .ite h h.dropRx.takeTile
    · exact h

theorem Canon.releaseRank {c : Nat} {k : Key} {token i : Nat} (h : Canon p m) :
    Canon p (releaseRank c k token m i) := by
  unfold Machine.releaseRank
  split
  · split
    · exact h.setEmber.freeAll
    · exact h
  · exact h

theorem Canon.storeFold {c : Nat} {k : Key} {e : EmberSlot} (h : Canon p m) : Canon p (storeFold m c k e) :=
  h.setEmber.foldl fun _ _ h => h.releaseRank

theorem Canon.streamTile {s : StepRun} {layer : Nat} {e : EmberSlot} {t : Nat} {vals : List F32} {since : Nat}
    (h : Canon p m) : Canon p (streamTile p m s layer e t vals since) := by
  refine .placeOut ?_
  split
  · exact h.countCode.setEmber
  · exact h.countCode

theorem Canon.meldFails {s : StepRun} {layer token colt : Nat} (h : Canon p m) :
    Canon p (meldFails p m s layer token colt) :=
  h.failItem.tileDone

theorem Canon.meldFold {token colt : Nat} {stage : ReadFinding} {ember : StoreRead} (h : Canon p m) :
    Canon p (meldFold token colt stage ember p m) := by
  unfold Machine.meldFold
  split
  · refine .ite h (.ite (h.onHearth fun _ h => h.streamTile) ?_)
    split
    · exact h
    · refine .ite h (h.onHearth fun n hn => ?_)
      split
      next hread =>
      split
      next hslot =>
      have hread := (hn.kilnRead hread).emberRead hslot
      exact .ite hread.meldFails (.ite hread.storeFold.streamTile hread.storeFold)
  · exact h

theorem Canon.kvMergeTile {token colt : Nat} {stage : ReadFinding} {ember : StoreRead} (h : Canon p m) :
    Canon p (kvMergeTile token colt stage ember p m) := by
  unfold Machine.kvMergeTile
  split
  · refine .ite h (h.onHearth fun n hn => ?_)
    split
    next bad z hread =>
    have hz : Canon p z := by
      split at hread
      · cases hread
        exact hn
      · exact hn.kilnRead hread
    exact .ite (hz.emberRead rfl).meldFails (hz.emberRead rfl).bump.storeFold.streamTile
  · exact h

theorem Canon.combOutAccepted {q : Nat} (h : Canon p m) : Canon p (combOutAccepted q p m) := by
  unfold Machine.combOutAccepted
  dsimp only
  split
  · split
    · exact h.setStrm.bump.tileDone
    · exact h.setStrm
  · exact h

end

/-! ### Beats of the streams -/

section
variable {p : Part} {m : Mach}

theorem Canon.framing {q k reason : Nat} (h : Canon p m) : Canon p (framing p m q k reason) := h.wr.setEvt

theorem Canon.endRecord {q k : Nat} (h : Canon p m) : Canon p (endRecord m q k) := by
  unfold Machine.endRecord
  dsimp only
  split
  · exact .ite h.setSlotAt h.setSlotAt.bindNow
  · exact h.setSlotAt

theorem Canon.placeScore {c : Nat} {w : Word} (h : Canon p m) : Canon p (placeScore p m c w) := .ite h h.placeItem

theorem Canon.addBeat {q k : Nat} {r : InRec} {data : BitVec 4096} {keep : Bool} (h : Canon p m) :
    Canon p (addBeat p m q k r data keep) :=
  .ite (.endRecord (.ite h.setSlotAt.bump h.setSlotAt)) (.ite h.setSlotAt.bump h.setSlotAt)

theorem Canon.startRecord {q k : Nat} {side : Word} {data : BitVec 4096} {fail : Option Nat} (h : Canon p m) :
    Canon p (startRecord p m q k side data fail) := by
  refine .ite (.ite (.giveCredit ?_) ?_) (.addBeat (.ite h.setSlotAt.placeScore h.setSlotAt)) <;>
    exact .endRecord (.setSlotAt (.ite h.setSlotAt.bump h.setSlotAt))

theorem Canon.failCur {q k st : Nat} (h : Canon p m) : Canon p (failCur m q k st) := h.setSlotAt

theorem Canon.dropBeat {q k : Nat} (h : Canon p m) : Canon p (dropBeat m q k) := .ite h h.setSlotAt.giveCredit

theorem Canon.frameBeat {q k : Nat} {first : Bool} {side : Word} {data : BitVec 4096} {bad : Option Nat}
    (h : Canon p m) : Canon p (frameBeat p m q k first side data bad) := by
  unfold Machine.frameBeat
  dsimp only
  split
  · exact .dropBeat (.ite h h.framing)
  · exact .ite h.framing.addBeat h.addBeat
  · exact .ite h.framing.failCur.endRecord.startRecord h.framing.failCur.endRecord
  · exact .ite h.framing.startRecord h.startRecord

theorem Canon.endDropped {q k : Nat} (h : Canon p m) : Canon p (endDropped m q k) := by
  unfold Machine.endDropped
  dsimp only
  split
  · exact h.setSlotAt.bindNow
  · exact h

theorem Canon.inboundBeat {q k : Nat} {first : Bool} {side : Word} {data : BitVec 4096} {par : BitVec 65}
    (h : Canon p m) : Canon p (inboundBeat q k first side data par p m) := by
  refine .ite h (.ite (.ite (.framing ?_) (.strmParity (.framing ?_)))
    (.takeHints (.drainIn (.ite (.frameBeat ?_) (.strmParity (.frameBeat ?_)))))) <;>
    exact .ite h.endDropped h

theorem Canon.hostCreditReturn {q k : Nat} (h : Canon p m) : Canon p (hostCreditReturn q k p m) :=
  .ite h (h.setSlotAt.drainOut.foldl fun _ _ h => h.pumpAsks)

end

/-! ### Steps and replay -/

section
variable {p : Part} {m : Mach}

theorem Canon.diverge {c chan layer step : Nat} (h : Canon p m) : Canon p (diverge p m c chan layer step) :=
  .ite h h.wr.setEvt

theorem Canon.takeReplay {c kind step : Nat} (h : Canon p m) {z} (hx : takeReplay p m c kind step = z) :
    Canon p z.2 := by
  subst hx
  exact h.wr

theorem Canon.checkSeed {s : StepRun} (h : Canon p m) {z} (hx : checkSeed p m s = z) : Canon p z.2 := by
  subst hx
  unfold Machine.checkSeed
  dsimp only
  split
  · exact h
  · split
    · next htake => exact .ite (h.takeReplay htake) (h.takeReplay htake).diverge
    · next htake => exact h.takeReplay htake

theorem Canon.compareDigest {s : StepRun} {d : Nat × Nat × Nat × Nat} {h' : List Byte} (h : Canon p m) :
    Canon p (compareDigest p m s d h') :=
  .ite h h.diverge

theorem Canon.matchDigests {ds : List (Nat × Nat × Nat × Nat)} {s : StepRun} (h : Canon p m) {z}
    (hx : matchDigests p ds s m = z) : Canon p z.2.2 := by
  subst hx
  induction ds generalizing s m with
  | nil => exact h
  | cons d ds ih =>
    unfold Machine.matchDigests
    split
    · next htake => exact ih (h.takeReplay htake).compareDigest
    · next htake => exact h.takeReplay htake

theorem Canon.settleDigests {s : StepRun} (h : Canon p m) {z} (hx : settleDigests p m s = z) : Canon p z.2.2 := by
  subst hx
  unfold Machine.settleDigests
  dsimp only
  split
  · exact h.foldl fun _ _ h => h.recordEntry
  · exact h.foldl fun _ _ h => h.recordEntry
  · split
    · exact h.checkSeed rfl
    · exact (h.checkSeed rfl).matchDigests rfl
  · exact h

theorem Canon.commitCounts {s : StepRun} (h : Canon p m) : Canon p (commitCounts p m s) := h.setTables.bump

theorem Canon.freeStep {s : StepRun} (h : Canon p m) : Canon p (freeStep m s) := h.unplace.dropStages.setCtx

theorem Canon.finishStep {s : StepRun} (h : Canon p m) : Canon p (finishStep p m s) := by
  unfold Machine.finishStep
  dsimp only
  split
  · exact .completeStep (.removeStep (.freeStep (.wr (.wr (.ite h.commitCounts h)))))
  · exact .removeStep (.freeStep (.wr (.wr (.ite h.commitCounts h))))

theorem Canon.tryCommit {s : StepRun} (h : Canon p m) : Canon p (tryCommit p m s) := by
  refine .ite h.finishStep ?_
  split
  · next hx => exact (h.settleDigests hx).finishStep
  · next hx => exact (h.settleDigests hx).setStep

theorem Canon.enterSync {s : StepRun} {prev : Option Line} {b : Line} (h : Canon p m) :
    Canon p (enterSync p m s prev b) := by
  unfold Machine.enterSync
  dsimp only
  refine .ite ?_ (.ite h.setStep h.setStep)
  split
  · exact .ite h.setStep.arriveBarrier h.setStep
  · exact h.setStep

theorem Canon.enterXfer {prev : Option Line} {b : Line} (h : Canon p m) : Canon p (enterXfer p m prev b) := by
  unfold Machine.enterXfer
  split
  · exact .ite h.setStep h.setStep
  · exact h

theorem Canon.enterLane {prev : Option Line} {b : Line} {lane : Nat} (h : Canon p m) :
    Canon p (enterLane p prev b m lane) := by
  unfold Machine.enterLane
  dsimp only
  split
  · refine .ite h.setStep ?_
    refine .ite h ?_
    split
    · exact .ite h.setStep.bindAdmit h.setStep
    · exact h.setStep
  · exact h

theorem Canon.pumpStep (h : Canon p m) : Canon p (pumpStep p m) := by
  unfold Machine.pumpStep
  dsimp only
  split
  · exact h.drainAllIn.takeHints.pumpSend
  · exact h.drainAllIn.takeHints

theorem Canon.enterBundle {i : Nat} (h : Canon p m) : Canon p (enterBundle p m i) := by
  unfold Machine.enterBundle
  split
  · refine .pumpStep (.enterXfer ?_)
    split
    · exact (h.setStep.foldl fun _ _ h => h.enterLane).enterSync
    · exact h.setStep.foldl fun _ _ h => h.enterLane
  · exact h

theorem Canon.parkStep {s : StepRun} (h : Canon p m) : Canon p (parkStep p m s) :=
  (h.foldl fun _ _ h => h.freeBuf).bump.setCtx.rest

theorem Canon.endStep {s : StepRun} (h : Canon p m) : Canon p (endStep p m s) :=
  .ite h.setStep.settleInternal (.ite h.setStep.tryCommit h.setStep)

theorem Canon.nextBundle {s : StepRun} (h : Canon p m) : Canon p (nextBundle p m s) :=
  .ite h.setStep.enterBundle h.setStep

theorem Canon.fetchBundle (h : Canon p m) : Canon p (fetchBundle p m) := by
  unfold Machine.fetchBundle
  split
  · exact .ite h.setStep (.ite h.nextBundle h.setStep)
  · exact h

theorem Canon.finishBundle {s : StepRun} (h : Canon p m) : Canon p (finishBundle p m s) := by
  unfold Machine.finishBundle
  extract_lets b s' a c cheap n
  have hc : Canon p c := .ite h.setStep.addEvt.release h.setStep
  have hn : Canon p n := .ite hc.wr hc
  exact .ite hn.endStep (.ite hn.parkStep hn.nextBundle)

theorem Canon.lapseOld {s : StepRun} (h : Canon p m) : Canon p (lapseOld p m s) :=
  (h.foldl fun _ _ h => h.freeBuf).bump.setCtx

theorem Canon.beginStep {r : Running} {s : StepRun} (h : Canon p m) : Canon p (beginStep p m r s) :=
  .enterBundle (.ite (h.lapseOld.setRunning.setCtx.checkSeed rfl).setStep.recordEntry
    (h.lapseOld.setRunning.setCtx.checkSeed rfl).setStep)

theorem Canon.startStep {r : Running} {step : Nat} {untimed : Bool} (h : Canon p m) :
    Canon p (startStep p m r step untimed) := by
  unfold Machine.startStep
  split
  · exact h.beginStep
  · exact .completeStep (.ite h.setCtx h)

theorem Canon.tryStopped {k : Nat} (h : Canon p m) : Canon p (tryStopped p k m) := by
  induction k generalizing m with
  | zero => exact h
  | succ k ih =>
    unfold Machine.tryStopped
    refine .ite h ?_
    split
    · exact ih h.startStep
    · exact h

theorem Canon.resumeStep {s : StepRun} (h : Canon p m) : Canon p (resumeStep p m s) := by
  unfold Machine.resumeStep
  exact .enterBundle h.rest

theorem Canon.settleStopped (h : Canon p m) : Canon p (settleStopped p m) := by
  refine .ite h (.tryStopped ?_)
  split
  · exact (h.foldl fun _ _ h => .ite h h.applyTables.takeNewProgram).resumeStep
  · exact h.foldl fun _ _ h => .ite h h.applyTables.takeNewProgram

theorem Canon.handOff {r : Running} (h : Canon p m) : Canon p (handOff p m r) := .ite h.setRunning.settleStopped h

theorem Canon.stepRun {w seq : Nat} (h : Canon p m) : Canon p (stepRun w seq p m) := by
  unfold Machine.stepRun
  split
  · exact h.handOff
  · exact h

theorem Canon.layerRun {w seq : Nat} (h : Canon p m) : Canon p (layerRun w seq p m) := by
  unfold Machine.layerRun
  split
  · exact .ite h.handOff h.complete
  · exact h

theorem Canon.bundleComplete (h : Canon p m) : Canon p (bundleComplete p m) := by
  unfold Machine.bundleComplete
  split
  · exact .ite (.ite h.finishBundle.settleStopped h.finishBundle) h
  · exact h

theorem Canon.slipRequest (h : Canon p m) : Canon p (slipRequest p m) := by
  unfold Machine.slipRequest
  split
  · exact .ite h (.ite h.abandonStep.setEvt.settleStopped h.setStep.rest.bump.bump.sendRecord.setEvt)
  · exact h

theorem Canon.stretchLimitExpiry (h : Canon p m) : Canon p (stretchLimitExpiry p m) := by
  unfold Machine.stretchLimitExpiry
  split
  · exact .ite h.abandonStep.settleStopped h
  · exact h

theorem Canon.dropFor {c src step att : Nat} (h : Canon p m) : Canon p (dropFor m c src step att) :=
  (h.foldl fun _ _ h => h.freeBuf).setCtx

theorem Canon.stepAbort (h : Canon p m) : Canon p (stepAbort p m) := by
  unfold Machine.stepAbort
  dsimp only
  split
  · next hx =>
    split
    · exact .ite (h.takeRecord hx).dropFor.abandonStep.settleStopped
        (.pumpAsks (.ite (h.takeRecord hx).dropFor.setCtx (h.takeRecord hx).dropFor))
    · exact h.takeRecord hx
  · exact h

theorem Canon.retryCommit (h : Canon p m) : Canon p (retryCommit p m) := by
  unfold Machine.retryCommit
  split
  · exact .ite (.ite h.tryCommit.settleStopped h.tryCommit) h
  · exact h

theorem Canon.replayTailWrite {src : Src} {c : Nat} {v : Word} (h : Canon p m) :
    Canon p (replayTailWrite src c v p m) :=
  .ite h (h.gated fun _ h => .ite h.wr.startReads.startReads.retryCommit h.wr.pumpReplay.drainAllIn)

end

/-! ### The tick -/

section
variable {p : Part} {m : Mach}

theorem Canon.perfSnapshot (h : Canon p m) : Canon p (perfSnapshot p m) := .ite h h.wrAll

theorem Canon.perfSnap {src : Src} {v : Word} (h : Canon p m) : Canon p (perfSnap src v p m) :=
  h.gated fun _ h => .ite h.wr.perfSnapshot h.wr

theorem Canon.applyRws {addr : Nat} {v : Word} (h : Canon p m) : Canon p (applyRws p m addr v) :=
  .ite (.ite h.wr h.wr.applyBind) h.wr

theorem Canon.applyDrawn {c : Nat} (h : Canon p m) : Canon p (applyDrawn p m c) := by
  unfold Machine.applyDrawn
  split
  · exact .ite h h.wr.setCtx
  · exact h

theorem Canon.applyShadows {edge : Bool} {pick : Nat → Bool} (h : Canon p m) :
    Canon p (applyShadows p m edge pick) := by
  refine .foldl (.foldl h.rest fun n x hn => ?_) fun _ _ h => .ite h.applyDrawn h
  split
  · exact hn.applyRws
  · exact hn

theorem Canon.chargeOne {u s : Nat} {counts : Nat → Bool} {x : Nat × Charges} (h : Canon p m) :
    Canon p (chargeOne p m u s counts x) :=
  .ite h.bump.wr.wr h.bump.wr

theorem Canon.chargeTick (h : Canon p m) : Canon p (chargeTick p m) :=
  .ite h (h.rest.foldl fun _ _ h => h.chargeOne)

theorem Canon.toDownlinks {bytes : BitVec 128} {since : Int} (h : Canon p m) :
    Canon p (toDownlinks p m bytes since) :=
  h.foldl fun _ _ h => h.sendRec

theorem Canon.announce (h : Canon p m) : Canon p (announce p m) := by
  unfold Machine.announce
  split
  · exact h.toDownlinks
  · exact h

theorem Canon.tickSync (h : Canon p m) : Canon p (tickSync p m) := .ite h.rest.announce h

theorem Canon.loseAlignment {cause : Nat} {e : Int} (h : Canon p m) : Canon p (loseAlignment p m cause e) :=
  .ite h.clrReg.setEvt.rest.report h

theorem Canon.discipline {e iv : Int} (h : Canon p m) : Canon p (discipline p m e iv) := .ite h.rest h.rest

theorem Canon.judgeOffset {e : Int} (h : Canon p m) : Canon p (judgeOffset p m e) :=
  .ite (.setEvt (.orReg (.rest (.ite h.wrF.loseAlignment h.wrF)))) (.rest (.ite h.wrF.loseAlignment h.wrF))

theorem Canon.noteEdge {step edge : Nat} (h : Canon p m) : Canon p (noteEdge p m step edge) :=
  .ite h (.ite h (.ite h (.ite h.rest h.rest)))

theorem Canon.tickRecord (h : Canon p m) : Canon p (tickRecord p m) := by
  unfold Machine.tickRecord
  split
  · next hx => exact .ite (h.takeRecord hx) (h.takeRecord hx).toDownlinks.rest.discipline.judgeOffset.noteEdge
  · exact h

theorem Canon.tickLost (h : Canon p m) : Canon p (tickLost p m) := by
  unfold Machine.tickLost
  split
  · exact .ite h.loseAlignment h
  · exact h

theorem Canon.refPps (h : Canon p m) : Canon p (refPps p m) := .ite h.wr h

theorem Canon.countSlip {n : Nat} (h : Canon p m) : Canon p (countSlip p m n) := .ite h h.bump.setEvt

theorem Canon.slipReq (h : Canon p m) : Canon p (slipReq p m) := by
  unfold Machine.slipReq
  split
  · next hx => exact .ite (h.takeRecord hx) (.ite (h.takeRecord hx).rest.countSlip.rest.announce (h.takeRecord
      hx).rest)
  · exact h

theorem Canon.tryHandedOne {r : Running} (h : Canon p m) : Canon p (tryHandedOne p m r) := by
  unfold Machine.tryHandedOne
  dsimp only
  split
  · exact .ite h (.ite h.startStep (.ite h.startStep (.ite h.completeStep h)))
  · exact h

theorem Canon.tryHanded {l : List Running} (h : Canon p m) : Canon p (tryHanded p l m) := by
  induction l generalizing m with
  | nil => exact h
  | cons r l ih => exact .ite h (ih h.tryHandedOne)

theorem Canon.beginTick (h : Canon p m) : Canon p (beginTick p m) := by
  refine .ite h ?_
  split
  · exact h.resumeStep
  · exact h.tryHanded

theorem Canon.settleEdge (h : Canon p m) : Canon p (settleEdge p m) := by
  refine .foldl ?_ fun _ _ h => .ite h.applyTables h.applyTables.takeNewProgram
  split
  · exact .ite (h.foldl fun _ _ h => h.keepTables.applyTables).tryCommit (h.foldl fun _ _ h =>
      h.keepTables.applyTables)
  · exact h.foldl fun _ _ h => h.keepTables.applyTables

theorem Canon.advanceEdge {e : Int} (h : Canon p m) : Canon p (advanceEdge p m e) :=
  .rest (.ite h.wr.orReg.countSlip h.wr.orReg)

theorem Canon.tickEdge (h : Canon p m) : Canon p (tickEdge p m) := by
  unfold Machine.tickEdge
  split
  · extract_lets a b n
    have hn : Canon p n := .advanceEdge (.chargeTick (.applyShadows (.settleEdge (.ite h.perfSnapshot h))))
    exact .beginTick (.ite hn.announce hn)
  · exact h

theorem Canon.stopTick (h : Canon p m) : Canon p (stopTick p m) := by
  unfold Machine.stopTick
  exact .settleStopped (.applyShadows (.rest h.clrReg))

theorem Canon.startTick (h : Canon p m) : Canon p (startTick p m) := h.rest

theorem Canon.tickRun {src : Src} {v : Word} (h : Canon p m) : Canon p (tickRun src v p m) :=
  h.gated fun _ h => .ite h.ignored (.ite h.wr.stopTick (.ite h.wr.startTick h.wr))

end

/-! ### Seeds and entropy -/

section
variable {p : Part} {m : Mach}

theorem Canon.produceSeed {c : Nat} {v : Word} (h : Canon p m) : Canon p (produceSeed p m c v) :=
  .ite h.setCtx h.setCtx.applyDrawn

theorem Canon.serveDraw {x2 : DrawFor} (h : Canon p m) : Canon p (serveDraw p m x2) := by
  unfold Machine.serveDraw
  split
  · exact .ite (h.drbgTake rfl).produceSeed h.rest
  · exact h.keygenRegion

theorem Canon.serveDraws (h : Canon p m) : Canon p (serveDraws p m) := h.rest.foldl fun _ _ h => h.serveDraw

theorem Canon.seedDraw {src : Src} {c : Nat} {v : Word} (h : Canon p m) : Canon p (seedDraw src c v p m) :=
  .ite h (h.gated fun _ h => .ite h (.ite h.ignored h.setCtx.serveDraw))

theorem Canon.entropyWord {w : BitVec 32} (h : Canon p m) : Canon p (entropyWord w p m) :=
  .ite (.ite h.rest h.rest.serveDraws) h

theorem Canon.entropyStall (h : Canon p m) : Canon p (entropyStall p m) := .ite h.setEvt h

end

/-! ### Saves, restores and kills -/

section
variable {p : Part} {m : Mach}

theorem Canon.stashTables {c : Nat} (h : Canon p m) : Canon p (stashTables m c) := h.foldl fun _ _ h => h.pokeKiln

theorem Canon.dropUpdate {r : Running} (h : Canon p m) : Canon p (dropUpdate m r) := h.setCtx

theorem Canon.drainOne {r : Running} (h : Canon p m) : Canon p (drainOne p m r) := by
  unfold Machine.drainOne
  split
  · exact .ite h h.preemptCmd
  · exact .ite h h.preemptCmd
  · exact .ite h h.preemptCmd
  · exact .ite h h.preemptCmd
  · exact .ite h h.preemptCmd
  · exact .ite h h.preemptCmd
  · exact .ite h h.preemptCmd
  · exact .complete (.ite h.sendFlow h)
  · exact .ite h h.preemptCmd
  · exact .ite h h.preemptCmd
  · exact .ite h h.preemptCmd
  · exact h.preemptCmd
  · exact h.preemptCmd
  · exact h.preemptCmd
  · exact h.preemptCmd
  · exact .ite h h.dropUpdate.preemptCmd
  · exact h.dropKindles.preemptCmd
  · exact h

theorem Canon.startSave {c : Nat} (h : Canon p m) : Canon p (startSave p m c) :=
  (h.setCtx.foldl fun _ _ h => h.drainOne).deferNone

theorem Canon.spillFront {c : Nat} {es : List Entry} (h : Canon p m) : Canon p (spillFront p m c es) := by
  unfold Machine.spillFront
  dsimp only
  split
  · exact h.spillBlock
  · exact h.setRing.countBlock.startWrites

theorem Canon.queueLeaves {q c : Nat} (h : Canon p m) : Canon p (queueLeaves p m q c) :=
  .foldl (.ite (h.setPq.foldl fun _ _ h => h.spillBlock) (h.setPq.foldl fun _ _ h => h.spillFront)) fun _ _ h =>
    h.spillBlock

theorem Canon.zeroGroups {gs : List Nat} (h : Canon p m) : Canon p (zeroGroups m gs) := by
  obtain ⟨hhost, hkiln, hember, hregs⟩ := h
  exact ⟨hhost, List.foldlRecOn (motive := fun mem => Memory.wf mem = true) gs _ hkiln
    fun _ hmem _ _ => clearBytes_wf _ _ hmem, hember, hregs⟩

theorem Canon.releaseCtx {c : Nat} (h : Canon p m) : Canon p (releaseCtx p m c) := h.zeroGroups.setCtx.showProgram

theorem Canon.settleFull {c : Nat} (h : Canon p m) : Canon p (settleFull p m c) :=
  .ite h h.applyTables.takeNewProgram

theorem Canon.queueOut {c : Nat} (h : Canon p m) : Canon p (queueOut p m c) := h.queueLeaves.setCtx

theorem Canon.imageOut {c area : Nat} {use : TxnUse} (h : Canon p m) {z} (hx : imageOut p m c area use = z) :
    Canon p z.2 := by
  subst hx
  unfold Machine.imageOut
  dsimp only
  split
  · exact h.settleFull.setCtx
  · split
    · exact h.settleFull.setCtx.kilnNote
    · dsimp only
      exact .startWrites (.stashTables h.settleFull.setCtx)

theorem Canon.releaseOut {c : Nat} (h : Canon p m) : Canon p (releaseOut m c) := h.setCtx

theorem Canon.saveEnds {c area : Nat} (h : Canon p m) : Canon p (saveEnds p m c area) :=
  .ite h.releaseCtx.setCtx h.releaseCtx

theorem Canon.saveFails {c : Nat} (h : Canon p m) : Canon p (saveFails p m c) :=
  h.setCtx.setPq.settleQueue.queueFill

theorem Canon.swapDone {r : Running} {st : Nat} (h : Canon p m) : Canon p (swapDone p m r st) :=
  h.complete.settleLost.settleStopped

theorem Canon.ctxSaveDrainEnd {c : Nat} (h : Canon p m) : Canon p (ctxSaveDrainEnd c p m) := by
  unfold Machine.ctxSaveDrainEnd
  dsimp only
  refine .ite h ?_
  split
  · exact .ite h.setRunning.queueOut h
  · exact .ite h.rest.queueOut h
  · exact h

theorem Canon.saveStage {c area : Nat} {use : TxnUse} {failed : Bool} (h : Canon p m) {z}
    (hx : saveStage p m c area use failed = z) : Canon p z.2 := by
  subst hx
  unfold Machine.saveStage
  split
  · split
    · exact h
    · split
      · exact h.saveFails
      · split
        · next hx1 => exact (h.imageOut hx1).saveFails
        · next hx1 => exact h.imageOut hx1
  · split
    · exact h.saveFails
    · exact h.releaseOut
  · exact h.saveEnds
  · exact h

theorem Canon.ctxSave {w seq : Nat} {f : StoreRead} (h : Canon p m) : Canon p (ctxSave w seq f p m) := by
  unfold Machine.ctxSave
  dsimp only
  split
  · refine .ite (.ite h.readFinds.swapDone (.ite h.readFinds h.readFinds.setRunning.startSave)) ?_
    refine .ite h.readFinds ?_
    split
    · next hx1 => exact (h.readFinds.saveStage hx1).swapDone
    · next hx1 => exact (h.readFinds.saveStage hx1).swapDone
    · next hx1 => exact h.readFinds.saveStage hx1
  · exact h

theorem Canon.takeParts {c nb nt : Nat} (h : Canon p m) : Canon p (takeParts p m c nb nt) := h.zeroGroups.setCtx

theorem Canon.becomeResident {c : Nat} (h : Canon p m) : Canon p (becomeResident p m c) :=
  h.setCtx.setPq.settleQueue.queueFill

theorem Canon.restoreEmpty {c : Nat} (h : Canon p m) : Canon p (restoreEmpty p m c) :=
  h.setCtx.installProgram.becomeResident

theorem Canon.fillPart {c area : Nat} {m0 : Mach} {off dst n : Nat} (h : Canon p m) :
    Canon p (fillPart m c area m0 off dst n) := h.foldl fun _ _ h => h.putKiln

theorem Canon.fillRanges {m0 : Mach} {c area off : Nat} {rs : List (Nat × Nat)} (h : Canon p m) :
    Canon p (fillRanges m0 c area off rs m) := by
  induction rs generalizing off m with
  | nil => exact h
  | cons r rs ih => exact ih h.fillPart

theorem Canon.parkFrom {c : Nat} {pr : Program} {bs : List Byte} (h : Canon p m) : Canon p (parkFrom m c pr bs) :=
  .ite h.setCtx (.ite h.setCtx h.rest)

theorem Canon.restoreImage {c area : Nat} (h : Canon p m) : Canon p (restoreImage p m c area) :=
  .becomeResident (.parkFrom (.setCtx (.ite h.installProgram.setCtx.fillPart h.installProgram.setCtx.fillRanges)))

theorem Canon.restoreFails {c reason : Nat} (h : Canon p m) : Canon p (restoreFails p m c reason) :=
  .wr (.setCtx (.ite h.zeroGroups.setCtx h))

theorem Canon.restoreHeader {c area : Nat} {failed : Bool} {use : TxnUse} (h : Canon p m) {z}
    (hx : restoreHeader p m c area failed use = z) : Canon p z.2 := by
  subst hx
  unfold Machine.restoreHeader
  dsimp only
  generalize (if restoreCheck p m c none = 1 then 1 else _) = e
  split
  · exact h.restoreFails
  · dsimp only
    exact .startReads h.takeParts

theorem Canon.restoreBody {c area : Nat} {failed : Bool} (h : Canon p m) {z}
    (hx : restoreBody p m c area failed = z) : Canon p z.2 := by
  subst hx
  unfold Machine.restoreBody
  split
  · exact h.restoreFails
  · split
    · exact h.restoreFails
    · exact h.restoreImage

theorem Canon.restoreFails' {c : Nat} (h : Canon p m) : Canon p (Machine.ctxRestore.restoreFails' p m c) := h.wr

theorem Canon.ctxRestore {w seq : Nat} (h : Canon p m) : Canon p (ctxRestore w seq p m) := by
  unfold Machine.ctxRestore
  split
  · have hhead : ∀ {c area failed use}, Canon p (Machine.restoreHeader p m c area failed use).2 := h.restoreHeader rfl
    exact .ite h.restoreFails'.swapDone (.ite h (.ite (.swapDone (.ite h.takeParts.restoreEmpty h.restoreFails)) (.ite h
      (.ite (.ite hhead.setRunning hhead.swapDone) (h.restoreBody rfl).swapDone))))
  · exact h

theorem Canon.killSettles {r : Running} {c : Nat} (h : Canon p m) : Canon p (killSettles p m r c) :=
  .ite h h.setRunning

theorem Canon.ctxKill {w seq : Nat} (h : Canon p m) : Canon p (ctxKill w seq p m) := by
  unfold Machine.ctxKill
  split
  · refine .ite (.ite h.complete (.ite h ?_)) (.ite h.killSettles (.ite ?_ h))
    · exact .settleStopped (.killSettles (.setRunning (.ite h.killAny.setCtx h.killAny)))
    · exact .settleStopped (.complete (.ite h.setCtx h))
  · exact h

theorem Canon.trackAdvice (h : Canon p m) : Canon p (trackAdvice p m) := .ite h.rest h.rest

theorem Canon.endAutoSwap {a : AutoSwap} {st : Nat} (h : Canon p m) : Canon p (endAutoSwap p m a st) :=
  h.rest.bump.wr.setEvt.settleLost.settleStopped

theorem Canon.setAutoSwap {a : AutoSwap} (h : Canon p m) : Canon p (setAutoSwap m a) := h.rest

theorem Canon.advanceSwap (h : Canon p m) : Canon p (advanceSwap p m) := by
  unfold Machine.advanceSwap
  split
  · refine .ite h ?_
    refine .ite ?_ (.ite (.ite (h.restoreHeader rfl).setAutoSwap (h.restoreHeader rfl).endAutoSwap) (h.restoreBody
      rfl).endAutoSwap)
    split
    · next hx1 => exact (h.saveStage hx1).endAutoSwap
    · next hx1 => exact (h.saveStage hx1).setAutoSwap.startReads
    · next hx1 => exact h.saveStage hx1
  · exact h

theorem Canon.startAutoSwap (h : Canon p m) : Canon p (startAutoSwap p m) := by
  refine .ite h ?_
  split
  · split
    · exact h.setAutoSwap.startSave
    · exact h
  · exact h

theorem Canon.seekSwap (h : Canon p m) : Canon p (seekSwap p m) := .ite h.trackAdvice.startAutoSwap h.trackAdvice

theorem Canon.swapAdvice (h : Canon p m) : Canon p (swapAdvice p m) :=
  .ite h.trackAdvice.rest.setEvt.startAutoSwap h.trackAdvice

theorem Canon.clearFault {c : Nat} (h : Canon p m) : Canon p (clearFault p m c) := .ite h h.setCtx

theorem Canon.defineCtx {c : Nat} (h : Canon p m) : Canon p (defineCtx p m c) := h.setCtx.wr

theorem Canon.ctlWrite {src : Src} {c : Nat} {v : Word} (h : Canon p m) : Canon p (ctlWrite src c v p m) :=
  .ite h (h.gated fun _ h => .ite h.ignored (.ite (.clearFault (.ite h.wr.defineCtx h.wr)) (.ite h.wr.defineCtx
    h.wr)))

theorem Canon.faultClr {src : Src} {c : Nat} {v : Word} (h : Canon p m) : Canon p (faultClr src c v p m) :=
  h.ctlWrite

end

/-! ### Security, debug, life cycle and power -/

section
variable {p : Part} {m : Mach}

theorem Canon.discardWindow {w : Nat} (h : Canon p m) : Canon p (discardWindow p m w) := h.wrAll.clrReg

theorem Canon.emptyStreams (h : Canon p m) : Canon p (emptyStreams m) := h.rest

theorem Canon.emptyGroups (h : Canon p m) : Canon p (emptyGroups m) := h.rest

theorem Canon.stopTests (h : Canon p m) : Canon p (stopTests m) := h.rest

theorem Canon.emptyNet (h : Canon p m) : Canon p (emptyNet m) := h.rest

theorem Canon.discardAll (h : Canon p m) : Canon p (discardAll p m) :=
  (h.foldl fun _ _ h => h.discardWindow).emptyStreams.stopTests.emptyGroups.emptyNet.dropTxns.rest

theorem Canon.zeroise (h : Canon p m) : Canon p (zeroise p m) := by
  obtain ⟨hhost, -, -, hregs⟩ := h
  exact Canon.foldl ⟨hhost, rfl, rfl, hregs⟩ fun _ _ h => h.showProgram

theorem Canon.startRaise {level : Nat} (h : Canon p m) : Canon p (startRaise p m level) :=
  h.rest.discardAll.zeroise.rest

theorem Canon.setLevel {level : Nat} (h : Canon p m) : Canon p (setLevel p m level) := .ite h.rest.setEvt h.rest

theorem Canon.requestLevel {level : Nat} (h : Canon p m) : Canon p (requestLevel p m level) :=
  .ite h.orReg.setEvt (.ite h.clrReg.startRaise h.clrReg.setLevel)

theorem Canon.dbgCtrlWrite {src : Src} {v : Word} (h : Canon p m) : Canon p (dbgCtrlWrite src v p m) :=
  h.gated fun _ h => .ite h.wr.requestLevel h.wr

theorem Canon.dbgReq {src : Src} {level : Nat} (h : Canon p m) : Canon p (dbgReq src level p m) := by
  unfold Machine.dbgReq
  split
  · exact h.dbgCtrlWrite
  · exact .ite h.requestLevel h
  · exact h

theorem Canon.evtForce {src : Src} {page : Nat} {v : Word} (h : Canon p m) : Canon p (evtForce src page v p m) :=
  h.gated fun _ h => .ite h.ignored h.orReg

theorem Canon.freeBytes {k : Nat} (h : Canon p m) {z} (hx : freeBytes m k = z) : Canon p z.2 := by
  subst hx
  induction k generalizing m with
  | zero => exact h
  | succ k ih => exact ih (h.drawFree rfl)

theorem Canon.putEmberLine {line : Nat} {bs : List Byte} (h : Canon p m) : Canon p (putEmberLine m line bs) := by
  obtain ⟨hhost, hkiln, hember, hregs⟩ := h
  exact ⟨hhost, hkiln, writeBytes_wf _ bs hember, hregs⟩

theorem Canon.dbgLine (h : Canon p m) {z} (hx : dbgLine p m = z) : Canon p z.2 := by
  subst hx
  unfold Machine.dbgLine
  dsimp only
  split
  · exact h
  · split
    · exact h
    · exact h
  · exact h.freeBytes rfl
  · exact h

theorem Canon.lineCheck {bs : List Byte} {ue : Bool} (h : Canon p m) {z} (hx : lineCheck m bs ue = z) :
    Canon p z.2 := by
  subst hx
  unfold Machine.lineCheck
  split
  · exact h.drawFree rfl
  · exact h

theorem Canon.dbgRead (h : Canon p m) : Canon p (dbgRead p m) := by
  unfold Machine.dbgRead
  split
  · next hx => exact (((h.dbgLine hx).lineCheck rfl).foldl fun _ _ h => h.wr).wr
  · next hx => exact h.dbgLine hx

theorem Canon.dbgWrite (h : Canon p m) : Canon p (dbgWrite p m) := by
  unfold Machine.dbgWrite
  dsimp only
  split
  · exact .ite h h.putKiln.rest
  · exact .ite h h.putEmberLine.rest
  · exact h

theorem Canon.memActs {r w : Bool} (h : Canon p m) : Canon p (memActs p m r w) :=
  .ite h.rest (.ite (.dbgWrite (.ite h.dbgRead h)) (.ite h.dbgRead h))

theorem Canon.dbgMemAccess {src : Src} {v : Word} (h : Canon p m) : Canon p (dbgMemAccess src v p m) :=
  h.gated fun _ h => .ite h.ignored h.rest.memActs

theorem Canon.attestGo {src : Src} {v : Word} (h : Canon p m) : Canon p (attestGo src v p m) :=
  h.gated fun _ h => .ite h (.ite h.ignored h.rest)

theorem Canon.attestDone (h : Canon p m) : Canon p (attestDone p m) := by
  unfold Machine.attestDone
  split
  · exact h.rest.wrAll.setEvt
  · exact h

theorem Canon.endActions (h : Canon p m) : Canon p (endActions p m) :=
  .ite (.attestDone (.ite (.ite h.rest.memActs h) (.rest (.ite h.rest.memActs h)))) h

theorem Canon.loseLinks (h : Canon p m) : Canon p (loseLinks m) := h.rest

theorem Canon.refusePower {code : Nat} (h : Canon p m) : Canon p (refusePower p m code) := h.wrF.setEvt

theorem Canon.requestState {n : Nat} (h : Canon p m) : Canon p (requestState m n) := h.rest

theorem Canon.startCold (h : Canon p m) : Canon p (startCold p m) :=
  .ite h.rest (.ite h.discardAll.loseLinks.rest.requestState h.discardAll.loseLinks.zeroise.rest)

theorem Canon.pwrCtrlWrite {src : Src} {v : Word} (h : Canon p m) : Canon p (pwrCtrlWrite src v p m) := by
  refine h.gated fun n hn => .ite hn.ignored (.ite ?_ (.ite ?_ (.ite hn.wr.requestState hn.wr)))
  · exact .ite hn.wr (.ite hn.wr.refusePower hn.wr.requestState)
  · exact .ite hn.wr (.ite hn.wr.refusePower hn.wr.startCold)

theorem Canon.powerReqBanked {src : Src} {v : Word} (h : Canon p m) : Canon p (powerReqBanked src v p m) :=
  .ite h.pwrCtrlWrite h

theorem Canon.powerReqCold {src : Src} {v : Word} (h : Canon p m) : Canon p (powerReqCold src v p m) :=
  .ite h.pwrCtrlWrite h

theorem Canon.powerReqLit {src : Src} {v : Word} (h : Canon p m) : Canon p (powerReqLit src v p m) :=
  .ite h.pwrCtrlWrite h

/-- With every register at its reset value and no memory but the host's, the form asks nothing of the part before. -/
theorem Canon.outsideOnly {q : Part} (h : Canon q m) : Canon p (outsideOnly m) := by
  obtain ⟨hhost, -, -, -⟩ := h
  exact ⟨hhost, rfl, rfl, rfl⟩

theorem Canon.alwaysOn {power : Power} {held : Bool} (h : Canon p m) : Canon p (alwaysOn m power held) := by
  obtain ⟨hhost, -, -, hregs⟩ := h
  exact ⟨hhost, rfl, rfl, Sparse.filter_wf _ hregs⟩

theorem Canon.coldMach (h : Canon p m) : Canon p (coldMach m) := h.alwaysOn

theorem Canon.heldMach (h : Canon p m) : Canon p (heldMach m) := h.alwaysOn

theorem Canon.backToLit (h : Canon p m) : Canon p (backToLit p m) :=
  .ite h.rest.clrReg.setEvt.rest (.ite h.rest.clrReg.setEvt.startCold h.rest.clrReg.setEvt)

theorem Canon.wakeHeld (h : Canon p m) : Canon p (wakeHeld m) := .ite h.requestState h

theorem Canon.powerAck {state : Nat} (h : Canon p m) : Canon p (powerAck state p m) := by
  unfold Machine.powerAck
  dsimp only
  refine .ite h ?_
  split
  · exact h.rest.backToLit
  · exact .ite h.rest.rest.loseLinks.setEvt.startCold h.rest.rest.loseLinks.setEvt.wakeHeld
  · exact h.rest.coldMach.setEvt.wakeHeld
  · exact h.rest

theorem Canon.lcAdvance {src : Src} {v : Word} (h : Canon p m) : Canon p (lcAdvance src v p m) :=
  h.gated fun _ h => .ite h.rest h.ignored.setEvt

/-- Blowing fuses changes neither configuration nor straps. -/
theorem Canon.blow {w bits : Nat} (h : Canon p m) : Canon (blow p w bits) m := by
  unfold Machine.blow
  split
  · exact h
  · exact h

theorem Canon.burnFuse {t : Nat} (h : Canon p m) : Canon (burnFuse p t) m := h.blow

theorem Canon.burnKey {key : Nat} (h : Canon p m) : Canon (burnKey p key) m :=
  Canon.blow (Canon.blow (List.foldlRecOn (motive := fun q => Canon q m) _ _ h fun _ hq _ _ => hq.blow))

theorem Canon.lcBurnDone (h : Canon p m) : Canon (lcBurnDone p m).1 (lcBurnDone p m).2 := by
  unfold Machine.lcBurnDone
  split
  · next t _ =>
    have hburnt : Canon (Machine.burnFuse p t) m := h.burnFuse
    dsimp only
    split
    · exact hburnt.rest.setEvt.rest
    · split
      · exact hburnt.rest.setEvt.startCold
      · exact hburnt.rest.setEvt
  · exact h

theorem Canon.keyCommit {src : Src} {v : Word} (h : Canon p m) :
    Canon (keyCommit src v p m).1 (keyCommit src v p m).2 := by
  unfold Machine.keyCommit
  split
  · split
    · exact h.ignored
    · split
      · exact h
      · exact .burnKey (.foldl h fun _ _ h => h.wr)
  · exact h
  · exact h.accErr

theorem Canon.lcScrap {confirm : Nat} (h : Canon p m) : Canon p (lcScrap confirm p m) :=
  .ite h (.ite h.heldMach.rest (.ite h.heldMach.rest.requestState h.heldMach.rest))

theorem Canon.cutBurn (h : Canon p m) : Canon (cutBurn p m).1 (cutBurn p m).2 := by
  unfold Machine.cutBurn
  split
  · exact (h.drawFree rfl).blow
  · exact h

theorem Canon.powerRemoved (h : Canon p m) : Canon (powerRemoved p m).1 (powerRemoved p m).2 := by
  have hcut := h.cutBurn
  exact (hcut.outsideOnly (p := (Machine.cutBurn p m).1)).rest

theorem Canon.zeroFail {store : Nat} (h : Canon p m) : Canon p (zeroFail store p m) := by
  unfold Machine.zeroFail
  split
  · exact h.rest
  · exact h.rest
  · exact h

end

/-! ### Resets, self-test and calibration -/

section
variable {p : Part} {m : Mach}

theorem Canon.assign {f : Findings} (h : Canon p m) : Canon p (assign p m f) :=
  h.rest.wrAll.foldl fun _ _ h => h.markEmber

theorem Canon.runSequence {cause : Nat} {f : Findings} (h : Canon p m) : Canon p (runSequence p m cause f) :=
  h.assign.wr.rest

theorem Canon.warmBase (h : Canon p m) : Canon p (warmBase m) := by
  obtain ⟨hhost, -, -, hregs⟩ := h
  exact ⟨hhost, rfl, rfl, Sparse.filter_wf _ hregs⟩

/-- A power-on sequence starts from the reset values of the registers, whatever the straps were before. -/
theorem Canon.powerOnBase {q : Part} (h : Canon q m) : Canon p (powerOnBase p m) := by
  have hbase : Canon p { Machine.outsideOnly m with
      sec := { lcState := lcOf (lcFuse p), fuseErr := keyParityBad p, held := lcOf (lcFuse p) == 5 || keyParityBad p,
               booted := false } } := h.outsideOnly.rest
  unfold Machine.powerOnBase
  exact .ite (.setEvt (.ite hbase.setEvt hbase)) (.ite hbase.setEvt hbase)

theorem Canon.powerOnReset {relay tref : Bool} {f : Findings} (h : Canon p m) :
    Canon (powerOnReset relay tref f p m).1 (powerOnReset relay tref f p m).2 := by
  unfold Machine.powerOnReset
  exact h.cutBurn.powerOnBase.runSequence

theorem Canon.warmReset {pin : Bool} {f : Findings} (h : Canon p m) : Canon p (warmReset pin f p m) := by
  unfold Machine.warmReset
  dsimp only
  refine .ite h ?_
  split
  · exact h.powerOnBase.runSequence
  · exact .ite h h.flushEntries.warmBase.runSequence

theorem Canon.resetCtrlWarm {src : Src} {v : Word} (h : Canon p m) : Canon p (resetCtrlWarm src v p m) :=
  h.gated fun _ h => .ite h.rest h

theorem Canon.finishBoot {cause : Nat} {f : Findings} (h : Canon p m) : Canon p (finishBoot p m cause f) := by
  unfold Machine.finishBoot
  dsimp only
  split
  · exact h.rest.wr.report.flushEntries.fatal
  · exact h.rest.wr.report.flushEntries

theorem Canon.finishZeroise (h : Canon p m) : Canon p (finishZeroise p m) := by
  refine .ite h ?_
  refine .ite h ?_
  split
  · exact h.rest.setEvt.setLevel
  · exact h.finishBoot
  · exact h.rest.setEvt.requestState
  · exact h

theorem Canon.coreFreqWrite {src : Src} {v : Word} (h : Canon p m) : Canon p (coreFreqWrite src v p m) :=
  h.gated fun _ h => .ite h.ignored h.wr

theorem Canon.bistRefused {r : Running} {st : Nat} (h : Canon p m) : Canon p (bistRefused p m r st) := h.endBist

theorem Canon.bistRunHearth {w seq : Nat} (h : Canon p m) : Canon p (bistRunHearth w seq p m) := by
  unfold Machine.bistRunHearth
  dsimp only
  split
  · refine .ite h ?_
    split
    · exact h.bistRefused
    · exact .ite h h.setRunning.setHearth.moveItems
  · exact h

theorem Canon.bistRunKiln {w seq : Nat} (h : Canon p m) : Canon p (bistRunKiln w seq p m) := by
  unfold Machine.bistRunKiln
  dsimp only
  split
  · refine .ite h ?_
    split
    · exact h.bistRefused
    · exact .ite h h.setRunning.rest
  · exact h

theorem Canon.hearthTestEnd {h' : Nat} {pass : Bool} (h : Canon p m) : Canon p (hearthTestEnd p m h' pass) :=
  .ite h (.ite h.setHearth.endBist h.setHearth.retireHearth.endBist)

theorem Canon.kilnTestEnd {g : Nat} {pass : Bool} (h : Canon p m) : Canon p (kilnTestEnd p m g pass) :=
  .ite h (.ite h.rest.endBist h.rest.kilnPageRetired.report.endBist)

theorem Canon.bistTestEnd {kiln : Bool} {unit : Nat} {pass : Bool} (h : Canon p m) :
    Canon p (bistTestEnd kiln unit pass p m) :=
  .ite (.ite h.kilnTestEnd h.hearthTestEnd) h

theorem Canon.startPart {acc want l : Nat} (h : Canon p m) : Canon p (startPart p acc want m l) :=
  .ite h.measPart (.ite h.setLink h.measPart)

theorem Canon.startMeas {r : Running} {ls : List Nat} {want : Nat} (h : Canon p m) :
    Canon p (startMeas p m r ls want) :=
  .ite h.complete (h.setRunning.foldl fun _ _ h => h.startPart)

theorem Canon.calMeasure {w seq : Nat} (h : Canon p m) : Canon p (calMeasure w seq p m) := by
  unfold Machine.calMeasure
  split
  · exact .ite h (.ite h h.startMeas)
  · exact h

theorem Canon.tempSample {s : Nat} {raw : Word} (h : Canon p m) : Canon p (tempSample s raw p m) := .ite h.wr h

theorem Canon.droop {d : Nat} (h : Canon p m) : Canon p (droop d p m) := .ite h.rest.setEvt h

theorem Canon.droopEnd (h : Canon p m) : Canon p (droopEnd p m) := .ite h.rest h

end

/-! ### Register writes -/

section
variable {p : Part} {m : Mach}

theorem Canon.headToTail {head tail : Nat} (h : Canon p m) : Canon p (headToTail p m head tail) := h.wr

theorem Canon.afterCtx {c off : Nat} {old v : Word} (h : Canon p m) : Canon p (afterCtx p m c off old v) := by
  unfold Machine.afterCtx
  split
  · exact .iringOverflow (.ite h.headToTail h)
  · exact h.setCtx
  · exact .ite (.clrReg (.headToTail (.ite h.setCtx h))) (.ite h.setCtx h)
  · exact h

theorem Canon.afterWrite {addr : Nat} {old v : Word} (h : Canon p m) : Canon p (afterWrite p m addr old v) := by
  unfold Machine.afterWrite
  dsimp only
  refine .ite h ?_
  split
  · exact .ite h.rest h
  · exact .ite h.completionWrite h
  · exact h.afterCtx
  · exact .ite h.setLink h
  · exact h

theorem Canon.storeRws {addr : Nat} {v : Word} (h : Canon p m) : Canon p (storeRws p m addr v) :=
  .ite h.rest h.applyRws

theorem Canon.plainWrite {src : Src} {addr : Nat} {v : Word} (h : Canon p m) : Canon p (plainWrite src addr v p m) := by
  refine h.gated fun n hn => .ite hn.ignored ?_
  split
  · exact .ite hn.storeRws hn.wr.afterWrite
  · exact hn

theorem Canon.windowWrite {src : Src} {w off : Nat} {v : Word} (h : Canon p m) :
    Canon p (windowWrite src w off v p m) :=
  .ite h.commandSubmit (.ite h.cmdSeqWrite h.commandStage)

theorem Canon.ctxPageWrite {src : Src} {c addr : Nat} {v : Word} (h : Canon p m) :
    Canon p (ctxPageWrite src c addr v p m) := by
  unfold Machine.ctxPageWrite
  dsimp only
  refine .ite h.windowWrite ?_
  split
  · exact h.seedDraw
  · exact h.fabIringTailWrite
  · exact h.ctlWrite
  · exact h.replayTailWrite
  · exact h.plainWrite

theorem Canon.blockWrite {src : Src} {addr : Nat} {v : Word} (h : Canon p m) :
    Canon p (blockWrite src addr v p m) := by
  unfold Machine.blockWrite
  dsimp only
  split
  · exact h.coreFreqWrite
  · exact h.hostKick
  · exact h.resetCtrlWarm
  · exact h.lcAdvance
  · exact h.attestGo
  · exact h.dbgCtrlWrite
  · exact h.dbgMemAccess
  · exact h.tickRun
  · exact h.pwrCtrlWrite
  · exact h.logClear
  · exact h.lockClr
  · exact h.duxForce
  · exact h.linkRetrainRequest
  · exact h.perfSnap
  · exact h.evtValWrite
  · exact .ite h.windowWrite h.plainWrite
  · exact .ite h.ringTailWrite h.plainWrite
  · exact .ite h.ringWrite h.plainWrite
  · exact h.ctxPageWrite
  · exact h.regionEntryWrite
  · exact h.plainWrite

theorem Canon.routeWrite {src : Src} {addr : Nat} {v : Word} (h : Canon p m) :
    Canon (routeWrite src addr v p m).1 (routeWrite src addr v p m).2 := by
  unfold Machine.routeWrite
  dsimp only
  split
  · exact h.keyCommit
  · split
    · exact .ite h.pageCtrlWrite (.ite h.evtForce h.plainWrite)
    · exact h.blockWrite

theorem Canon.regWrite {src : Src} {addr : Nat} {be : BitVec 8} {v : Word} (h : Canon p m) :
    Canon (regWrite src addr be v p m).1 (regWrite src addr be v p m).2 := by
  unfold Machine.regWrite
  dsimp only
  split
  · exact h.routeWrite
  · dsimp only
    split
    · exact h
    · exact h.accErr

theorem Canon.rwsWrite {src : Src} {addr : Nat} {v : Word} (h : Canon p m) : Canon p (rwsWrite src addr v p m) :=
  .ite h h.plainWrite

end

/-! ### Management and the test ports -/

section
variable {p : Part} {m : Mach}

theorem Canon.popMgmt {bs : List Byte} (h : Canon p m) : Canon p (popMgmt m bs) := h.setPq.settleQueue

theorem Canon.mgReply {e : Entry} {bs : List Byte} {st : Nat} {data : Word} {rep : List Byte} (h : Canon p m) :
    Canon p (mgReply p m e bs st data rep) :=
  h.sendFlow

theorem Canon.mgRefuse {e : Entry} {bs : List Byte} {st : Nat} (h : Canon p m) : Canon p (mgRefuse p m e bs st) :=
  h.bump.setEvt.mgReply

/-- A management request is served on the part and machine that its meaning leaves. -/
theorem Canon.mgServe {kind : Nat} {f : Entry → List Byte → Mach → Part × Mach} (h : Canon p m)
    (hf : ∀ e bs n, Canon p n → Canon (f e bs n).1 (f e bs n).2) :
    Canon (mgServe kind p (p, m) f).1 (mgServe kind p (p, m) f).2 := by
  unfold Machine.mgServe
  dsimp only
  split
  · exact h.takeMgmt
  · split
    · split
      · split
        · exact hf _ _ _ h.takeMgmt.popMgmt
        · exact h.takeMgmt.popMgmt.mgRefuse
      · exact h.takeMgmt
    · exact h.takeMgmt

/-- A request whose meaning leaves the part is served on the same part. -/
theorem mgServe_part {kind : Nat} {g : Entry → List Byte → Mach → Mach} :
    (mgServe kind p (p, m) fun e bs n => (p, g e bs n)).1 = p := by
  unfold mgServe
  dsimp only
  split
  · rfl
  · split
    · split
      · split
        · rfl
        · rfl
      · rfl
    · rfl

theorem Canon.mgServe_same {kind : Nat} {g : Entry → List Byte → Mach → Mach} (h : Canon p m)
    (hg : ∀ e bs n, Canon p n → Canon p (g e bs n)) :
    Canon p (Machine.mgServe kind p (p, m) fun e bs n => (p, g e bs n)).2 := by
  have hserved := h.mgServe (kind := kind) (f := fun e bs n => (p, g e bs n)) hg
  rwa [mgServe_part] at hserved

theorem Canon.mgRegRead (h : Canon p m) : Canon p (mgRegRead p m) :=
  h.mgServe_same fun _ _ _ h => h.mgReply

theorem Canon.mgRegWrite (h : Canon p m) : Canon (mgRegWrite p m).1 (mgRegWrite p m).2 :=
  h.mgServe fun _ _ _ h => h.routeWrite.mgReply

theorem Canon.mgCmd (h : Canon p m) : Canon p (mgCmd p m) :=
  h.mgServe_same fun _ _ _ h => h.submitRecord.mgReply

theorem Canon.mgAttest (h : Canon p m) : Canon p (mgAttest p m) :=
  h.mgServe_same fun _ _ _ h => h.mgReply

theorem Canon.mgResp (h : Canon p m) : Canon p (mgResp p m) := by
  unfold Machine.mgResp
  dsimp only
  refine .ite h.takeMgmt ?_
  split
  · exact .ite h.takeMgmt.popMgmt.rest h.takeMgmt
  · exact h.takeMgmt

theorem Canon.wrapAccess {write : Bool} {addr : Nat} {v : Word} (h : Canon p m) :
    Canon (wrapAccess write addr v p m).1 (wrapAccess write addr v p m).2 := by
  unfold Machine.wrapAccess
  dsimp only
  split
  · exact h
  · split
    · exact h.routeWrite
    · exact h.rest

theorem Canon.shiftOut {ir : BitVec 8} {n : Nat} {v : Word} (h : Canon p m) : Canon p (shiftOut m ir n v) := h.rest

theorem Canon.bypass {ir : BitVec 8} (h : Canon p m) : Canon p (bypass m ir) := h.shiftOut

theorem Canon.shiftFree {ir : BitVec 8} (h : Canon p m) : Canon p (shiftFree m ir) := (h.drawFree rfl).shiftOut

theorem Canon.tapInstr {write : Bool} {addr : Nat} {v : Word} {ir : BitVec 8} {dr : Word} {mfr : BitVec 11}
    (h : Canon p m) :
    Canon (tapInstr write addr v ir dr mfr p m).1 (tapInstr write addr v ir dr mfr p m).2 := by
  unfold Machine.tapInstr
  split
  · exact h.shiftFree
  · exact h.shiftFree
  · exact h.shiftOut
  · exact h.wrapAccess
  · exact h.dbgReq
  · exact h.lcScrap
  · exact .ite h.shiftFree h.bypass
  · exact h.bypass

theorem Canon.debugHalt {halted stepOnce : Bool} (h : Canon p m) : Canon p (debugHalt m halted stepOnce) :=
  .ite h.rest h

theorem Canon.wrapReg {write : Bool} {addr : Nat} {v : Word} {tap : TapOp} (h : Canon p m) :
    Canon (wrapReg write addr v tap p m).1 (wrapReg write addr v tap p m).2 := by
  unfold Machine.wrapReg
  split
  · exact h
  · split
    · exact h.wrapAccess
    · exact h.tapInstr
    · exact h.debugHalt
    · exact h.debugHalt
    · exact h.debugHalt

end

/-! ### Reads of the protected stores -/

section
variable {p : Part} {m : Mach}

theorem Canon.storeCorrected {f : StoreRead} (h : Canon p m) : Canon p (storeCorrected p m f) := by
  unfold Machine.storeCorrected
  split
  · exact h.kilnCorrected
  · exact h.report
  · exact h

theorem Canon.wordLost {c : Nat} (h : Canon p m) : Canon p (wordLost p m c) := h.report

theorem Canon.entryLost {q : Nat} (h : Canon p m) : Canon p (entryLost p m q) := by
  unfold Machine.entryLost
  split
  · exact .ite h.popHead.completeLine h
  · exact h

theorem Canon.startRead {q : Nat} {f : StoreRead} (h : Canon p m) : Canon p (startRead q f p m) := by
  refine .ite h ?_
  split
  · exact .ite h.kilnUe.entryLost h
  · exact .ite h.fatal h
  · exact .commandStart (.ite h.storeCorrected h)

theorem Canon.tableLost {q k n : Nat} (h : Canon p m) : Canon p (tableLost p m q k n) := by
  unfold Machine.tableLost
  dsimp only
  split
  · exact h.kilnUe.scoreFails.recordInput.takeRec
  · exact h.kilnUe

theorem Canon.scoreRead {q k : Nat} {f : StoreRead} (h : Canon p m) : Canon p (scoreRead q k f p m) := by
  unfold Machine.scoreRead
  split
  · refine .ite h ?_
    refine .ite ?_ h.scoreRecord
    split
    · exact h.tableLost
    · exact h.storeCorrected.scoreRecord
  · exact h

theorem Canon.counterLost {e : Nat} (h : Canon p m) : Canon p (counterLost p m e) := by
  unfold Machine.counterLost
  dsimp only
  split
  · exact h.wordLost.setEvtCnt
  · exact ((h.wordLost.foldl fun _ _ h => h.teardown).drawFree rfl).setEvtCnt.release

theorem Canon.semLost {c s : Nat} (h : Canon p m) : Canon p (semLost p m c s) :=
  (h.wordLost.teardown.drawFree rfl).setSem

theorem Canon.signalRead {w seq : Nat} {f : StoreRead} (h : Canon p m) : Canon p (signalRead w seq f p m) := by
  unfold Machine.signalRead
  split
  · split
    · exact h.counterLost.eventSignal
    · exact h.storeCorrected.eventSignal
  · exact h

theorem Canon.semAcqRead {w seq : Nat} {f : StoreRead} (h : Canon p m) : Canon p (semAcqRead w seq f p m) := by
  unfold Machine.semAcqRead
  split
  · split
    · exact h.semLost
    · exact h.storeCorrected.semAcq
  · exact h

theorem Canon.semRelRead {w seq : Nat} {f : StoreRead} (h : Canon p m) : Canon p (semRelRead w seq f p m) := by
  unfold Machine.semRelRead
  split
  · split
    · exact h.semLost
    · exact h.storeCorrected.semRel
  · exact h

theorem Canon.programLost {n : Nat} (h : Canon p m) : Canon p (programLost p m n) := by
  unfold Machine.programLost
  dsimp only
  split
  · exact .ite h.kilnUe h.kilnUe.abandonStep.installProgram.settleStopped
  · exact h.kilnUe

theorem Canon.bundleRead {f : StoreRead} (h : Canon p m) : Canon p (bundleRead f p m) := by
  unfold Machine.bundleRead
  split
  · exact .ite h.programLost h
  · exact .bundleComplete (.ite h.storeCorrected h)

theorem Canon.billetRead {loop : Bool} {f : StoreRead} (h : Canon p m) : Canon p (billetRead loop f p m) := by
  refine .ite h ?_
  split
  · exact h.wordLost.teardown.billetReceive
  · exact h.kilnUe.billetReceive
  · exact .billetReceive (.ite h.storeCorrected h)

theorem Canon.transitLost {l vc n : Nat} (h : Canon p m) : Canon p (transitLost p m l vc n) := by
  unfold Machine.transitLost
  dsimp only
  split
  · exact .ite h.kilnUe h.kilnUe.setLink.freeCredit.noteDropped.deliverFront
  · exact h.kilnUe

theorem Canon.transitRead {l vc : Nat} {f : StoreRead} (h : Canon p m) : Canon p (transitRead l vc f p m) := by
  refine .ite h ?_
  split
  · exact .ite h.transitLost h
  · exact .ite h.fatal h
  · exact .transitFlit (.ite h.storeCorrected h)

theorem Canon.regionLost {r : Nat} (h : Canon p m) : Canon p (regionLost p m r) := h.wordLost.setRegionCtrl

theorem Canon.filterLost {src vc : Nat} (h : Canon p m) : Canon p (filterLost p m src vc) :=
  h.wordLost.setFilter.foldl fun _ _ h => h.abortColl

theorem Canon.requestRead {found : Option RxPkt} {reads : RxPkt → Bool} {f : StoreRead} {lost : Mach → RxPkt → Mach}
    {base : Part → Mach → Mach} (h : Canon p m) (hf : ∀ n x, Canon p n → Canon p (lost n x))
    (hg : ∀ n, Canon p n → Canon p (base p n)) : Canon p (requestRead found reads f lost base p m) := by
  unfold Machine.requestRead
  split
  · split
    · exact .ite (hf _ _ h.regionLost) (hg _ h)
    · exact hg _ (.ite h.filterLost h)
    · exact hg _ (.ite h.storeCorrected h)
  · exact hg _ h

theorem Canon.noteLost {x : RxPkt} (h : Canon p m) : Canon p (noteLost p m x) := h.noteFail

theorem Canon.writeRead {f : StoreRead} (h : Canon p m) : Canon p (writeRead f p m) :=
  h.requestRead (fun _ _ h => h.dropRx.noteLost.respond) (fun _ h => h.fabWrite)

theorem Canon.otherRead {kind : Nat} {base : Part → Mach → Mach} {f : StoreRead} (h : Canon p m)
    (hf : ∀ n, Canon p n → Canon p (base p n)) : Canon p (otherRead kind base f p m) :=
  h.requestRead (fun _ _ h => h.noteLost.answer) hf

theorem Canon.replyLost {src fsn n : Nat} (h : Canon p m) : Canon p (replyLost p m src fsn n) := h.kilnUe.rest

theorem Canon.atomicRead {f : StoreRead} (h : Canon p m) : Canon p (atomicRead f p m) := by
  refine .ite h ?_
  split
  · exact .fabAtomic (.ite h.replyLost h)
  · exact h.requestRead (fun _ _ h => h.markFilter.atomicAnswer) (fun _ h => h.fabAtomic)

end

/-! ### Reads of packets -/

section
variable {p : Part} {m : Mach}

theorem Canon.packetRead {found : Option RxPkt} {f : StoreRead} {base : Part → Mach → Mach} (h : Canon p m)
    (hf : ∀ n, Canon p n → Canon p (base p n)) : Canon p (packetRead found f base p m) := by
  unfold Machine.packetRead
  split
  · exact hf _ (.ite h.filterLost h)
  · exact hf _ (.ite h.readFinds h)
  · exact hf _ (.ite h.storeCorrected h)
  · exact hf _ h

theorem Canon.collRead {kinds : List Nat} {f : StoreRead} {base : Part → Mach → Mach} (h : Canon p m)
    (hf : ∀ n, Canon p n → Canon p (base p n)) : Canon p (collRead kinds f base p m) :=
  h.packetRead hf

theorem Canon.redUpRead {f : StoreRead} (h : Canon p m) : Canon p (redUpRead f p m) := by
  unfold Machine.redUpRead
  split
  · exact .ite h.kilnUe.redDropped h
  · exact h.redUp
  · exact h.collRead fun _ h => h.redUp

theorem Canon.spillLost {q w i : Nat} (h : Canon p m) : Canon p (spillLost p m q w i) := by
  unfold Machine.spillLost
  dsimp only
  split
  · exact .ite h.setPq.completeLine (.ite h.setPq h.setPq)
  · exact h

theorem Canon.spillRead {q : Nat} {f : StoreRead} (h : Canon p m) : Canon p (spillRead q f p m) := by
  unfold Machine.spillRead
  split
  · exact .ite h.kilnUe.spillLost.queueSpill h
  · exact .queueSpill (.ite h.storeCorrected h)

theorem Canon.mgmtLost {n : Nat} (h : Canon p m) : Canon p (mgmtLost p m n) := by
  unfold Machine.mgmtLost
  split
  · exact h.kilnUe.popMgmt
  · exact h

theorem Canon.mgRead {f : StoreRead} {base : Part → Mach → Part × Mach} (h : Canon p m)
    (hf : ∀ n, Canon p n → Canon (base p n).1 (base p n).2) :
    Canon (mgRead f base p m).1 (mgRead f base p m).2 := by
  unfold Machine.mgRead
  split
  · exact hf _ (.ite h.filterLost h)
  · split
    · exact h.mgmtLost
    · exact hf _ h
  · exact hf _ (.ite h.storeCorrected h)

theorem mgRead_part {f : StoreRead} {g : Part → Mach → Mach} : (mgRead f (fun p m => (p, g p m)) p m).1 = p := by
  unfold mgRead
  split
  · rfl
  · split
    · rfl
    · rfl
  · rfl

theorem Canon.mgRead_same {f : StoreRead} {g : Part → Mach → Mach} (h : Canon p m)
    (hg : ∀ n, Canon p n → Canon p (g p n)) : Canon p (Machine.mgRead f (fun p m => (p, g p m)) p m).2 := by
  have hserved := h.mgRead (f := f) (base := fun p m => (p, g p m)) hg
  rwa [mgRead_part] at hserved

end

/-! ### Grants in turn -/

section
variable {p : Part} {m : Mach}

theorem Canon.inTurn {go : Mach → Mach} (h : Canon p m) (hf : ∀ n, Canon p n → Canon p (go n)) :
    Canon p (inTurn p m go) :=
  .ite (hf _ h) h

theorem Canon.seatMoved (h : Canon p m) : Canon p (seatMoved p m) := .ite h (h.foldl fun _ _ h => h.rest)

end

/-! ### Charges -/

section
variable {p : Part} {m : Mach}

theorem Canon.raiseBy {n a : Nat} (h : Canon p m) : Canon p (raiseBy p m n a) := .ite h h.bump

theorem Canon.chargeTo {c : Nat} {x : Charges} (h : Canon p m) : Canon p (chargeTo p m c x) :=
  h.rest.raiseBy.raiseBy.raiseBy.raiseBy.raiseBy

theorem Canon.chargeCycle (h : Canon p m) : Canon p (chargeCycle p m) := h.rest.foldl fun _ _ h => h.chargeTo

theorem Canon.endItems (h : Canon p m) : Canon p (endItems p m) := h.unplace.seatMoved

end

/-! ### A core cycle -/

section
variable {p : Part} {m : Mach}

theorem Canon.tickOn (h : Canon p m) : Canon p (tickOn p m) := .ite h.rest h

theorem Canon.countIf {b : Bool} {a : Nat} (h : Canon p m) : Canon p (countIf p m b a) := .ite h.bump h

theorem Canon.countCtx {c : Nat} (h : Canon p m) : Canon p (countCtx p m c) := h.countIf.countIf

theorem Canon.countPort {q : Nat} (h : Canon p m) : Canon p (countPort p m q) := .ite h h.countIf.countIf

theorem Canon.countWaits (h : Canon p m) : Canon p (countWaits p m) :=
  (h.foldl fun _ _ h => h.countCtx).foldl fun _ _ h => h.countPort

theorem Canon.pumpAll (h : Canon p m) : Canon p (pumpAll p m) := by
  unfold Machine.pumpAll
  extract_lets a b c d e
  have ha : Canon p a := h.leaveBuffers.settleRetire.issueWaiting.takeMgmt.foldl fun _ _ h => h.settleInternal
  have hc : Canon p c := ha.settleStopped.retryCommit.foldl fun _ _ h => h.pumpAsks
  have hd : Canon p d := .pumpGrants (hc.foldl fun _ _ h => h.pumpSend)
  exact hd.codesGrow.drainAllIn.drainAllOut.advanceSwap.seekSwap

theorem Canon.sequence (h : Canon p m) : Canon p (sequence p m) := .ite h.fetchBundle.stepped h

theorem Canon.idleCycle (h : Canon p m) : Canon p (idleCycle p m) := by
  unfold Machine.idleCycle
  extract_lets charged n
  have hn : Canon p n := .finishZeroise (.endActions (.endItems (.tickOn (.ite h.chargeCycle h))))
  exact .ite hn.pumpAll.sequence.countWaits hn

end
/-! ### Commands and steps -/

/-- An outcome that is a next state leaves the canonical form. -/
def CanonOutcome : Host.Outcome State Fault Refusal → Prop
  | .next t => Canon t.part t.m
  | .fault _ | .refused _ => True

theorem canonOutcome_execScrubRead {s : State} {line : Nat} {read : ReadFinding} (h : Canon s.part s.m) :
    CanonOutcome (execScrubRead line read s) := by
  unfold execScrubRead
  split
  · exact h.scrubRead
  · trivial

/-- Each command's outcome is its meaning's machine, which keeps the form. -/
theorem canonOutcome_exec {s : State} (h : Canon s.part s.m) : (c : Instr) → CanonOutcome (exec c s)
  | .powerOnReset .. => h.powerOnReset
  | .warmReset .. => h.warmReset
  | .resetCtrlWarm .. => h.resetCtrlWarm.responded
  | .coreFreqWrite .. => h.coreFreqWrite.responded
  | .hostKick .. => h.hostKick.responded
  | .hostLost .. => h.hostLost
  | .registerWrite _ _ _ _ read => by
    cases read
    · exact h.regWrite.responded
    · exact h.responded
  | .rwsWrite .. => h.rwsWrite.responded
  | .commandStage .. => h.commandStage.responded
  | .commandSubmit .. => h.commandSubmit.responded
  | .cmdSeqWrite .. => h.cmdSeqWrite.responded
  | .evtValWrite .. => h.evtValWrite.responded
  | .commandStart .. => h.startRead
  | .completionWrite .. => h.completionWrite
  | .ringTailWrite .. => h.ringTailWrite.responded
  | .stepRun .. => h.stepRun
  | .layerRun .. => h.layerRun
  | .collA2a .. => h.collA2a
  | .collA2av .. => h.collA2av
  | .collReduce .. => h.collReduce
  | .collBarrier .. => h.collBarrier
  | .groupForm .. => h.groupForm
  | .groupReform .. => h.groupReform
  | .fabBatch .. => h.fabBatch
  | .fence .. => h.fence
  | .subscribe .. => h.subscribe
  | .publishInval .. => h.publishInval
  | .ownAcquire .. => h.ownAcquire
  | .ownRelease .. => h.ownRelease
  | .xform .. => h.inTurn fun _ h => h.xform
  | .gather .. => h.inTurn fun _ h => h.gather
  | .scatter .. => h.inTurn fun _ h => h.scatter
  | .tableLoad .. => h.tableLoad
  | .tableLoadRoute .. => h.tableLoadRoute
  | .progLoad .. => h.progLoad
  | .biasUpdate .. => h.biasUpdate
  | .hint .. => h.hint
  | .eventSignal .. => h.signalRead
  | .eventWait .. => h.eventWait
  | .semAcq .. => h.semAcqRead
  | .semRel .. => h.semRelRead
  | .ctxSave .. => h.ctxSave
  | .ctxSaveDrainEnd .. => h.ctxSaveDrainEnd
  | .ctxRestore .. => h.ctxRestore
  | .ctxKill .. => h.ctxKill
  | .queueFlush .. => h.queueFlush
  | .bistRunHearth .. => h.bistRunHearth
  | .bistRunKiln .. => h.bistRunKiln
  | .bistTestEnd .. => h.bistTestEnd
  | .calMeasure .. => h.calMeasure
  | .logSnapshot .. => h.logSnapshot
  | .nop .. => h.nop
  | .tickEdge .. => h.tickEdge
  | .perfSnap .. => h.perfSnap.responded
  | .bundleComplete .. => h.bundleRead
  | .slipRequest .. => h.slipRequest
  | .stretchLimitExpiry .. => h.stretchLimitExpiry
  | .seedDraw .. => h.seedDraw.responded
  | .entropyWord .. => h.entropyWord
  | .entropyStall .. => h.entropyStall
  | .ctlWrite .. => h.ctlWrite.responded
  | .faultClr .. => h.faultClr.responded
  | .swapAdvice .. => h.swapAdvice
  | .scoreRecord .. => h.scoreRead
  | .eobMarker .. => h.eobMarker
  | .admitFlitReceive .. => h.admitFlitReceive
  | .admitVerdicts .. => h.admitVerdicts
  | .agrantReceive .. => h.agrantReceive
  | .tokenRecord .. => h.tokenRecord
  | .packEncode .. => h.inTurn fun _ h => h.packEncode
  | .closeMarkerSend .. => h.closeMarkerSend
  | .ask .. => h.ask
  | .kindleReceive .. => h.kindleReceive
  | .askReceive .. => h.askReceive
  | .grantReceive .. => h.grantReceive
  | .billetReceive .. => h.inTurn fun _ h => h.billetRead
  | .closeMarkerReceive .. => h.closeMarkerReceive
  | .rickRowDeliver .. => h.inTurn fun _ h => h.rickRowDeliver
  | .rickEnd .. => h.rickEnd
  | .expertOutputRecord .. => h.inTurn fun _ h => h.expertOutputRecord
  | .returnTileReceive .. => h.returnTileReceive
  | .meldFold .. => h.inTurn fun _ h => h.meldFold
  | .kvMerge .. => h.inTurn fun _ h => h.kvMergeTile
  | .combOutAccepted .. => h.combOutAccepted
  | .inboundBeat .. => h.inboundBeat
  | .hostCreditReturn .. => h.hostCreditReturn
  | .memoryResponse .. => h.memoryResponse
  | .memoryTimeout .. => h.memoryTimeout
  | .queueSpill .. => h.spillRead
  | .queueFill .. => h.queueFill
  | .ringWrite .. => h.ringWrite.responded
  | .linkEnable .. => h.linkEnable.responded
  | .linkRetrainRequest .. => h.linkRetrainRequest.responded
  | .retireReq .. => h.retireReq.responded
  | .quiesce .. => h.quiesce.responded
  | .softReset .. => h.softReset.responded
  | .evtForce .. => h.evtForce.responded
  | .phyLock .. => h.whileLinks h.phyLock
  | .phyLockLoss .. => h.whileLinks h.phyLockLoss
  | .plAdaptAck .. => h.whileLinks h.plAdaptAck
  | .laneAligned .. => h.whileLinks h.laneAligned
  | .tsFlitReceive .. => h.whileLinks h.receiveWire
  | .trainingTimeout .. => h.whileLinks h.trainingTimeout
  | .flitReceive .. => h.whileLinks h.receiveWire
  | .replayTimeout .. => h.whileLinks h.replayTimeout
  | .linkFlitSlot .. => h.whileLinks h.linkFlitSlot
  | .vc0Token .. => h.whileLinks h.vc0Token
  | .linkDown .. => h.whileLinks h.linkDown
  | .salvageDrop .. => h.whileLinks h.salvageDrop
  | .e2eAck .. => h.e2eAck
  | .e2eTimeout .. => h.e2eTimeout
  | .reassemblyTimeout .. => h.whileLinks h.reassemblyTimeout
  | .dlyProbe .. => h.whileLinks h.dlyProbe
  | .dlyProbeReceive .. => h.whileLinks h.dlyProbeReceive
  | .dlyEcho .. => h.whileLinks h.dlyEcho
  | .transitFlit .. => h.transitRead
  | .mgRegRead .. => h.mgRead_same fun _ h => h.mgRegRead
  | .mgRegWrite .. => h.mgRead fun _ h => h.mgRegWrite
  | .mgCmd .. => h.mgRead_same fun _ h => h.mgCmd
  | .mgAttest .. => h.mgRead_same fun _ h => h.mgAttest
  | .mgResp .. => h.mgRead_same fun _ h => h.mgResp
  | .tickRecord .. => h.tickRecord
  | .tickSync .. => h.tickSync
  | .tickLost .. => h.tickLost
  | .refPps .. => h.refPps
  | .tickRun .. => h.tickRun.responded
  | .slipReq .. => h.slipReq
  | .barArrive .. => h.barArrive
  | .barRelease .. => h.barRelease
  | .barrierRelease .. => h.barrierRelease
  | .stepAbort .. => h.stepAbort
  | .collAbort .. => h.collAbort
  | .collStall .. => h.collStall
  | .collDefer .. => h.collDefer
  | .join .. => h.collRead fun _ h => h.join
  | .treeSet .. => h.collRead fun _ h => h.treeSet
  | .treeAck .. => h.collRead fun _ h => h.treeAck
  | .treeFree .. => h.collRead fun _ h => h.treeFree
  | .a2aData .. => h.collRead fun _ h => h.a2aData
  | .a2avCounts .. => h.collRead fun _ h => h.a2avCounts
  | .redUp .. => h.redUpRead
  | .redDown .. => h.collRead fun _ h => h.redDown
  | .ringRs .. => h.inTurn fun _ h => h.collRead fun _ h => h.ringRs
  | .ringAg .. => h.collRead fun _ h => h.ringAg
  | .fabWrite .. => h.writeRead
  | .fabRead .. => h.otherRead fun _ h => h.fabRead
  | .fabAtomic .. => h.atomicRead
  | .sub .. => h.otherRead fun _ h => h.sub
  | .pub .. => h.otherRead fun _ h => h.pub
  | .inval .. => h.packetRead fun _ h => h.inval
  | .ownReq .. => h.otherRead fun _ h => h.ownReq
  | .ownRel .. => h.otherRead fun _ h => h.ownRel
  | .ownGrant .. => h.packetRead fun _ h => h.ownGrant
  | .resp .. => h.resp
  | .lockoutHoldEnd .. => h.lockoutHoldEnd
  | .lockClr .. => h.lockClr.responded
  | .duxForce .. => h.duxForce.responded
  | .regionEntryWrite .. => h.regionEntryWrite.responded
  | .keygen .. => h.keygen.responded
  | .fabIringTailWrite .. => h.fabIringTailWrite.responded
  | .scrubRead .. => canonOutcome_execScrubRead h
  | .kilnSpareCopyEnd .. => h.kilnSpareCopyEnd
  | .hearthFault .. => h.hearthFault
  | .ashLogWrite .. => h.ashLogWrite
  | .logClear .. => h.logClear.responded
  | .tempSample .. => h.tempSample
  | .droop .. => h.droop
  | .droopEnd .. => h.droopEnd
  | .lcAdvance .. => h.lcAdvance.responded
  | .lcBurnDone .. => h.lcBurnDone
  | .keyCommit .. => h.keyCommit.responded
  | .lcScrap .. => h.lcScrap
  | .dbgReq .. => h.dbgReq.responded
  | .wrapReg .. => h.wrapReg
  | .dbgMemAccess .. => h.dbgMemAccess.responded
  | .attestGo .. => h.attestGo.responded
  | .powerReqBanked .. => h.powerReqBanked.responded
  | .powerReqCold .. => h.powerReqCold.responded
  | .powerReqLit .. => h.powerReqLit.responded
  | .powerAck .. => h.powerAck
  | .replayTailWrite .. => h.replayTailWrite.responded
  | .powerRemoved .. => h.powerRemoved
  | .readyFlitSent .. => h.whileLinks h.readyFlitSent
  | .zeroFail store => h.zeroFail (store := store)

/-- A step is the front command over the queue's rest, or a core cycle. -/
theorem canonOutcome_step {s : State} (h : Canon s.part s.m) : CanonOutcome (step s) := by
  unfold step
  split
  · next c rest _ => exact canonOutcome_exec (s := { s with pending := rest }) h c
  · exact h.idleCycle

/-- Settles O25: the form is kept by every operation, and so by each command and by a core cycle. -/
theorem tablesStayCanonical : Obligations.TablesStayCanonical := by
  intro s t hs ht
  have hstep : CanonOutcome (step s) := canonOutcome_step ((canonical_iff_canon s).mp hs)
  rw [ht] at hstep
  exact (canonical_iff_canon t).mpr hstep

end Sys2Proof.Machine
end

section
/-! XFORM, GATHER and SCATTER, stage by stage (O42, R249, R252, R255 to R265, R389). One lemma says which stage an
operation is in, and one for each branch of a stage what it does there. -/

namespace Sys2Proof.Machine

/-! ### The stage that an operation is in (R260 to R262) -/

section
variable {p : Part} {m : Mach} {o : OpCtx}

/-- R459: an operation whose memory transaction failed ends, whatever its stage. -/
theorem layoutStage_memFail (hmem : o.memFail = true) : layoutStage p m o = endOp m o stUncorrectable := if_pos hmem

variable (hmem : o.memFail = false) (hreads : txnsOut m o.useR = false) (hwrites : txnsOut m o.useW = false)
include hmem hreads hwrites

theorem layoutStage_early (hstage : o.stage = 0) : layoutStage p m o = stageEarly p m o := by
  simp [layoutStage, hmem, hreads, hwrites, hstage]

theorem layoutStage_check (hstage : o.stage = 1) : layoutStage p m o = stageCheck p m o := by
  simp [layoutStage, hmem, hreads, hwrites, hstage]

theorem layoutStage_move (hstage : o.stage = 2) : layoutStage p m o = stageMove p m o := by
  simp [layoutStage, hmem, hreads, hwrites, hstage]

theorem layoutStage_done (hstage : o.stage = 3) : layoutStage p m o = endOp m o stDone := by
  simp [layoutStage, stageDone, hmem, hreads, hwrites, hstage]

end

/-! ### Stage 0: the image and the checks that need no index list (R260, R389) -/

section
variable {p : Part} {m : Mach} {o : OpCtx}

/-- R389: an image of another version or opcode ends the operation. -/
theorem stageEarly_format (himage : bytesOf o.line 0 0 ≠ 2 ∨ bytesOf o.line 1 1 ≠ o.opc) :
    stageEarly p m o = endOp m o stFormat := if_pos himage

/-- R260: the first early check that fails ends the operation, with its reason in XF_ERR. -/
theorem stageEarly_fails {e : XfFail} (hversion : bytesOf o.line 0 0 = 2) (hopc : bytesOf o.line 1 1 = o.opc)
    (hcheck : checkEarly m o = some e) : stageEarly p m o = xfEnd p m o e := by
  have himage : ¬(bytesOf o.line 0 0 ≠ 2 ∨ bytesOf o.line 1 1 ≠ o.opc) := by simp [hversion, hopc]
  simp only [stageEarly, if_neg himage, hcheck]

end

/-! ### Stage 1: the index list, the other checks and the staging buffers (R222, R257 to R262) -/

section
variable {p : Part} {m : Mach} {o : OpCtx} {sw dw iw : XWin} {idx : List Nat}
  (hparts : opParts m o = some (sw, dw, iw, idx))
include hparts

/-- R222: an undecodable line of the index list ends the operation before any check of its entries. -/
theorem stageCheck_listBad {l : Nat} (hbad : listBad m o iw = some l) : stageCheck p m o = lineLost p m o l := by
  simp only [stageCheck, hparts, hbad]

variable (hlist : listBad m o iw = none)
include hlist

/-- R260: a check that needs no bitmap ends the operation, whether or not the staging buffers can be had. -/
theorem stageCheck_fails {e : XfFail} (hcheck : checkLate o sw dw iw idx = some e) (hearly : byBitmap o e idx = false) :
    stageCheck p m o = xfEnd p m o e := by
  simp only [stageCheck, hparts, hlist, hcheck]
  cases allocAll p o.ctx .cmd (List.replicate (stageBuffers o (shapeOf o) idx) 7) m <;> simp [hearly]

section
variable {bufs : List (Nat × Nat)} {n : Mach}
  (halloc : allocAll p o.ctx .cmd (List.replicate (stageBuffers o (shapeOf o) idx) 7) m = some (bufs, n))
include halloc

/-- R257, R259: equal entries end a SCATTER that holds its bitmap's buffers, which its end frees (log entry 152). -/
theorem stageCheck_bitmap {e : XfFail} (hcheck : checkLate o sw dw iw idx = some e) (hfound : byBitmap o e idx = true) :
    stageCheck p m o = xfEnd p n { o with bufs := bufs } e := by
  simp only [stageCheck, hparts, hlist, hcheck, halloc, if_pos hfound]

/-- R260, R262: checked and with its staging buffers, the operation is in the move phase and its reads are issued. -/
theorem stageCheck_fetches (hcheck : checkLate o sw dw iw idx = none) :
    stageCheck p m o = fetchData p (setOp n { o with stage := 2, bufs := bufs }) o sw dw idx := by
  simp only [stageCheck, hparts, hlist, hcheck, halloc]

end
end

/-! ### Stage 2: the move, on the sub-units that it needs (R10, R252, R261 to R265) -/

section
variable {p : Part} {m : Mach} {o : OpCtx} {h : Shape} {n : Nat} (work : Mach → Mach)

/-- A move that neither converts nor sums takes no sub-unit. -/
theorem onUnits_copy (hfmt : h.sfmt = h.dfmt) (hacc : h.acc = false) : onUnits p m o h n work = work m := by
  simp [onUnits, hfmt, hacc]

/-- A conversion is placed on a sparse coder. -/
theorem onUnits_coder (hfmt : h.sfmt ≠ h.dfmt) (hacc : h.acc = false) (hplace : (placement p m .coder).isSome = true) :
    onUnits p m o h n work = work (placeItem p m .coder o.ctx (o.item m) (coderCycles (n * h.w))) := by
  simp [onUnits, hfmt, hacc, onHearth_placed hplace rfl]

/-- An accumulation is placed on a combine unit. -/
theorem onUnits_combine (hfmt : h.sfmt = h.dfmt) (hacc : h.acc = true) (hplace : (placement p m .combine).isSome = true) :
    onUnits p m o h n work = work (placeItem p m .combine o.ctx (o.item m) (foldCycles (n * h.v))) := by
  simp [onUnits, hfmt, hacc, onHearth_placed hplace rfl]

end

section
variable {p : Part} {m : Mach} {o : OpCtx} {sw dw iw : XWin} {idx : List Nat}
  (hparts : opParts m o = some (sw, dw, iw, idx))
include hparts

/-- R222: an undecodable line among the reads ends the operation before anything is written. -/
theorem stageMove_readBad {l : Nat} (hbad : readBad m o sw dw idx = some l) : stageMove p m o = lineLost p m o l := by
  simp only [stageMove, hparts, hbad]

/-- R261, R262: with its reads good, the operation writes its accesses once its sub-units take it. -/
theorem stageMove_moves (hgood : readBad m o sw dw idx = none) :
    stageMove p m o = onUnits p m o (shapeOf o) (accesses o (shapeOf o) idx).length fun m =>
      moveAll p (setOp m { o with stage := 3 }) o sw dw idx := by
  simp only [stageMove, hparts, hgood]

end

/-! ### The commands -/

/-- A command that carries out a layout operation in its turn runs the stages of the operation that is due. -/
theorem givesInTurn_layoutOp {c : Instr} {s : State} {o : OpRef} {opc : Nat} {f : StoreRead} {x : OpCtx}
    (hexec : exec c s = .next { s with m := inTurn s.part s.m (layoutOp o opc f s.part) })
    (hdue : dueOp s.part s.m o opc = some x) :
    GivesInTurn c s (layoutStages s.part x.ctx x.owner 4 (readFinds s.part s.m f)) := by
  have hruns : layoutOp o opc f s.part s.m = layoutStages s.part x.ctx x.owner 4 (readFinds s.part s.m f) := by
    simp only [layoutOp, hdue]
  exact (givesInTurn_of_exec hexec).trans_eq hruns

/-- Settles O42: each command runs the stages of its operation, and a stage takes the branch that its checks, its
staging buffers and its sub-units choose. -/
theorem layoutOperationsAnswer : Obligations.LayoutOperationsAnswer := by
  refine ⟨?commands, fun p m o hmem hreads hwrites => ⟨?format, ?early, ?check, ?move, ?done⟩, ?fault⟩
  case commands =>
    intro s o x f n c opc hrow hdue
    simp only [List.mem_cons, List.not_mem_nil, or_false, Prod.mk.injEq] at hrow
    obtain ⟨rfl, rfl⟩ | ⟨rfl, rfl⟩ | ⟨rfl, rfl⟩ := hrow
    · exact givesInTurn_layoutOp (c := .xform o f) rfl hdue
    · exact givesInTurn_layoutOp (c := .gather o f) rfl hdue
    · exact givesInTurn_layoutOp (c := .scatter o f) rfl hdue
  case format =>
    intro hstage himage
    exact (layoutStage_early hmem hreads hwrites hstage).trans (stageEarly_format himage)
  case early =>
    intro e hstage hversion hopc hcheck
    exact (layoutStage_early hmem hreads hwrites hstage).trans (stageEarly_fails hversion hopc hcheck)
  case check =>
    intro sw dw iw idx hstage hparts
    rw [layoutStage_check hmem hreads hwrites hstage]
    refine ⟨fun l hbad => ?_, fun e hlist hcheck hearly => ?_, fun e bufs n hlist hcheck hfound halloc => ?_,
      fun bufs n hlist hcheck halloc => ?_⟩
    · exact stageCheck_listBad hparts hbad
    · exact stageCheck_fails hparts hlist hcheck hearly
    · exact stageCheck_bitmap hparts hlist halloc hcheck hfound
    · exact stageCheck_fetches hparts hlist halloc hcheck
  case move =>
    intro sw dw iw idx hstage hparts h n move
    rw [layoutStage_move hmem hreads hwrites hstage]
    refine ⟨fun l hbad => ?_, fun hgood hfmt hacc => ?_, fun hgood hfmt hacc hplace => ?_,
      fun hgood hfmt hacc hplace => ?_⟩
    · exact stageMove_readBad hparts hbad
    · exact (stageMove_moves hparts hgood).trans (onUnits_copy move hfmt hacc)
    · exact (stageMove_moves hparts hgood).trans (onUnits_coder move hfmt hacc hplace)
    · exact (stageMove_moves hparts hgood).trans (onUnits_combine move hfmt hacc hplace)
  case done => exact layoutStage_done hmem hreads hwrites
  case fault => exact fun p m o => layoutStage_memFail

end Sys2Proof.Machine
end

section
/-! The two-symbol code (O29, R278, R279): GF(2⁸) with its generator α, the check bytes, and one-byte errors. The
model's codes are numbers; the proofs use bytes, whose operations add without conditions. -/

namespace Sys2Proof.Machine

/-! ### Multiplication by α (R278) -/

/-- Multiplication by α of a byte. -/
def alphaMul (a : Byte) : Byte := a <<< 1 ^^^ if a.msb then 0x1D else 0

theorem gfX_toNat (a : Byte) : gfX a.toNat = (alphaMul a).toNat := by
  have hbytes : ∀ n < 256, gfX n = (alphaMul (BitVec.ofNat 8 n)).toNat := by decide +kernel
  simpa using hbytes a.toNat a.isLt

theorem gfX_iterate_toNat (n : Nat) (a : Byte) : gfX^[n] a.toNat = (alphaMul^[n] a).toNat :=
  (Function.Semiconj.iterate_right (f := BitVec.toNat) (fun a => (gfX_toNat a).symm) n a).symm

theorem ite_xor_bool (p q : Bool) (c : Byte) :
    (if p ^^ q then c else 0) = (if p then c else 0) ^^^ if q then c else 0 := by
  cases p <;> cases q <;> simp

theorem alphaMul_xor (a b : Byte) : alphaMul (a ^^^ b) = alphaMul a ^^^ alphaMul b := by
  unfold alphaMul
  rw [BitVec.shiftLeft_xor_distrib, BitVec.msb_xor, ite_xor_bool]
  ac_rfl

theorem alphaUp_eq_map (n x : Nat) : alphaUp n x = (List.range n).map (gfX^[·] x) := by
  rw [List.range_map_iterate]
  induction n generalizing x with
  | zero => rfl
  | succ n ih => exact congrArg (x :: ·) (ih (gfX x))

/-- α⁰ to α²⁵⁴ are the nonzero bytes, each once. -/
theorem alphaUp_perm : (alphaUp 255 1).Perm (List.range' 1 255) := by decide +kernel

theorem alphaMul_iterate_255 : alphaMul^[255] 1 = 1 := by
  have hnat : gfX^[255] 1 = 1 := by decide +kernel
  exact BitVec.eq_of_toNat_eq ((gfX_iterate_toNat 255 1).symm.trans hnat)

/-- A nonzero byte is a power of α. -/
theorem exists_alphaMul_iterate {a : Byte} (ha : a ≠ 0) : ∃ t < 255, alphaMul^[t] 1 = a := by
  have hmem : a.toNat ∈ alphaUp 255 1 := by
    have hpos : a.toNat ≠ 0 := fun h => ha (BitVec.eq_of_toNat_eq h)
    rw [alphaUp_perm.mem_iff, List.mem_range'_1]
    omega
  rw [alphaUp_eq_map, List.mem_map] at hmem
  obtain ⟨t, ht, hpow⟩ := hmem
  exact ⟨t, List.mem_range.mp ht, BitVec.eq_of_toNat_eq ((gfX_iterate_toNat t 1).symm.trans hpow)⟩

/-- The powers of α below the 255th differ. -/
theorem alphaMul_iterate_one_inj {m n : Nat} (hm : m < 255) (hn : n < 255)
    (heq : alphaMul^[m] 1 = alphaMul^[n] 1) : m = n := by
  have hnodup : ((List.range 255).map (gfX^[·] 1)).Nodup := by
    rw [← alphaUp_eq_map]
    exact alphaUp_perm.nodup_iff.mpr List.nodup_range'
  have hpow : gfX^[m] 1 = gfX^[n] 1 :=
    (gfX_iterate_toNat m 1).trans ((congrArg BitVec.toNat heq).trans (gfX_iterate_toNat n 1).symm)
  exact List.inj_on_of_nodup_map hnodup (List.mem_range.mpr hm) (List.mem_range.mpr hn) hpow

/-- Different powers of α below the 255th take a nonzero byte to different ones. -/
theorem alphaMul_iterate_inj {a : Byte} (ha : a ≠ 0) {m n : Nat} (hm : m < 255) (hn : n < 255)
    (heq : alphaMul^[m] a = alphaMul^[n] a) : m = n := by
  obtain ⟨t, ht, rfl⟩ := exists_alphaMul_iterate ha
  have hround : ∀ k, alphaMul^[255 - t] (alphaMul^[k] (alphaMul^[t] 1)) = alphaMul^[k] 1 := by
    intro k
    rw [← Function.iterate_add_apply, ← Function.iterate_add_apply,
      show 255 - t + k + t = k + 255 by omega, Function.iterate_add_apply, alphaMul_iterate_255]
  exact alphaMul_iterate_one_inj hm hn (by rw [← hround m, ← hround n, heq])

/-! ### Multiplication of bytes (R278) -/

/-- `gfMulN` of a byte. -/
def byteMulN : Nat → Byte → Nat → Byte
  | 0, _, _ => 0
  | n + 1, a, b => (if b % 2 = 1 then a else 0) ^^^ byteMulN n (alphaMul a) (b / 2)

/-- `gfMul` of a byte. -/
def byteMul (a : Byte) (b : Nat) : Byte := byteMulN 8 a b

theorem gfMulN_toNat (n : Nat) (a : Byte) (b : Nat) : gfMulN n a.toNat b = (byteMulN n a b).toNat := by
  induction n generalizing a b with
  | zero => rfl
  | succ n ih => rw [gfMulN, byteMulN, gfX_toNat, ih, BitVec.toNat_xor]; split <;> rfl

theorem gfMul_toNat (a : Byte) (b : Nat) : gfMul a.toNat b = (byteMul a b).toNat := gfMulN_toNat 8 a b

theorem byteMulN_xor_left (n : Nat) (a b : Byte) (c : Nat) :
    byteMulN n (a ^^^ b) c = byteMulN n a c ^^^ byteMulN n b c := by
  induction n generalizing a b c with
  | zero => simp [byteMulN]
  | succ n ih =>
    rw [byteMulN, byteMulN, byteMulN, alphaMul_xor, ih]
    split
    · ac_rfl
    · simp

theorem byteMulN_xor_right (n : Nat) (a : Byte) (b c : Nat) :
    byteMulN n a (b ^^^ c) = byteMulN n a b ^^^ byteMulN n a c := by
  induction n generalizing a b c with
  | zero => simp [byteMulN]
  | succ n ih =>
    have hbit : (if (b ^^^ c) % 2 = 1 then a else 0) =
        (if b % 2 = 1 then a else 0) ^^^ if c % 2 = 1 then a else 0 := by
      rw [Nat.xor_mod_two_eq]
      rcases Nat.mod_two_eq_zero_or_one b with hb | hb <;> rcases Nat.mod_two_eq_zero_or_one c with hc | hc <;>
        simp [Nat.add_mod, hb, hc]
    rw [byteMulN, byteMulN, byteMulN, Nat.xor_div_two, ih, hbit]
    ac_rfl

theorem byteMul_xor (a b : Byte) (c : Nat) : byteMul (a ^^^ b) c = byteMul a c ^^^ byteMul b c :=
  byteMulN_xor_left 8 a b c

@[simp] theorem byteMul_zero (c : Nat) : byteMul 0#8 c = 0#8 := by
  simpa using byteMul_xor 0 0 c

theorem byteMulN_alphaMul (n : Nat) (a : Byte) (b : Nat) : byteMulN n (alphaMul a) b = alphaMul (byteMulN n a b) := by
  induction n generalizing a b with
  | zero => simp [byteMulN, alphaMul]
  | succ n ih => rw [byteMulN, byteMulN, ih, alphaMul_xor]; split <;> rfl

/-- A factor of n bits needs no more of them. -/
theorem byteMulN_succ_of_lt {n : Nat} (a : Byte) {b : Nat} (hb : b < 2 ^ n) : byteMulN (n + 1) a b = byteMulN n a b := by
  induction n generalizing a b with
  | zero => simp [byteMulN, Nat.lt_one_iff.mp hb]
  | succ n ih => rw [byteMulN, ih _ (by omega), byteMulN]

/-- A doubled factor below 128 is one multiplied by α. -/
theorem byteMul_double (a : Byte) {b : Nat} (hb : b < 128) : byteMul a (2 * b) = alphaMul (byteMul a b) := by
  calc byteMul a (2 * b) = byteMulN 7 (alphaMul a) b := by simp [byteMul, byteMulN]
    _ = byteMulN 8 (alphaMul a) b := (byteMulN_succ_of_lt (n := 7) _ hb).symm
    _ = alphaMul (byteMul a b) := byteMulN_alphaMul 8 a b

/-- α⁸ = α⁴ + α³ + α² + 1. -/
theorem byteMul_reduction (a : Byte) : byteMul a 0x1D = alphaMul (byteMul a 128) := by
  have hnats : ∀ n < 256, gfMul n 0x1D = gfX (gfMul n 128) := by decide +kernel
  refine BitVec.eq_of_toNat_eq ?_
  rw [← gfX_toNat, ← gfMul_toNat, ← gfMul_toNat]
  exact hnats a.toNat a.isLt

/-- Multiplication by α of the right factor. -/
theorem byteMul_alphaMul_right (a b : Byte) : byteMul a (alphaMul b).toNat = alphaMul (byteMul a b.toNat) := by
  rw [← gfX_toNat]
  by_cases hlow : b.toNat < 128
  · rw [gfX, if_pos hlow, byteMul_double a hlow]
  · obtain ⟨c, hc⟩ := Nat.exists_eq_add_of_le (Nat.not_lt.mp hlow)
    have hcarry : ∀ c < 128, gfX (128 + c) = 0x1D ^^^ 2 * c ∧ 128 + c = 128 ^^^ c := by decide +kernel
    have hsmall : c < 128 := by omega
    obtain ⟨hgfX, hsplit⟩ := hcarry c hsmall
    rw [hc, hgfX, hsplit, byteMul, byteMulN_xor_right, byteMul, byteMulN_xor_right, alphaMul_xor]
    exact congrArg₂ _ (byteMul_reduction a) (byteMul_double a hsmall)

/-- Multiplication by a power of α. -/
theorem byteMul_alpha_iterate (a : Byte) (n : Nat) : byteMul a (alphaMul^[n] 1).toNat = alphaMul^[n] a := by
  induction n with
  | zero => simp [byteMul, byteMulN]
  | succ n ih => rw [Function.iterate_succ_apply', Function.iterate_succ_apply', byteMul_alphaMul_right, ih]

/-- Multiplication by one of the first powers of α, as numbers. -/
theorem byteMul_two_pow (a : Byte) {k : Nat} (hk : k < 4) : byteMul a (2 ^ k) = alphaMul^[k] a := by
  interval_cases k <;> simp [byteMul, byteMulN]

/-! ### Values of a codeword, and its check bytes (R278) -/

/-- `rsEval` as a byte, with a value before the bytes. -/
def evalFrom (x : Nat) (a : Byte) (c : List Byte) : Byte := c.foldl (fun a b => byteMul a x ^^^ b) a

theorem rsEval_toNat (c : List Byte) (x : Nat) : rsEval c x = (evalFrom x 0 c).toNat :=
  List.foldl_hom (init := 0) (g₁ := fun a b => byteMul a x ^^^ b) (g₂ := fun a b => gfMul a x ^^^ b.toNat)
    BitVec.toNat fun a b => by rw [gfMul_toNat, BitVec.toNat_xor]

/-- A value added before the bytes is multiplied by x for each of them. -/
theorem evalFrom_xor_start (x : Nat) (a b : Byte) (c : List Byte) :
    evalFrom x (a ^^^ b) c = evalFrom x a c ^^^ (byteMul · x)^[c.length] b := by
  induction c generalizing a b with
  | nil => rfl
  | cons d c ih =>
    have hstep : byteMul (a ^^^ b) x ^^^ d = (byteMul a x ^^^ d) ^^^ byteMul b x := by
      rw [byteMul_xor]
      ac_rfl
    exact (congrArg (evalFrom x · c) hstep).trans (ih ..)

/-- An error at byte i adds itself times a power of x. -/
theorem evalFrom_set (x : Nat) (a e : Byte) {c : List Byte} {i : Nat} (hi : i < c.length) :
    evalFrom x a (c.set i (c.getD i 0 ^^^ e)) = evalFrom x a c ^^^ (byteMul · x)^[c.length - 1 - i] e := by
  induction c generalizing a i with
  | nil => simp at hi
  | cons d c ih =>
    cases i with
    | zero =>
      have hfirst : byteMul a x ^^^ (d ^^^ e) = (byteMul a x ^^^ d) ^^^ e := by ac_rfl
      exact (congrArg (evalFrom x · c) hfirst).trans (evalFrom_xor_start ..)
    | succ i =>
      have hrest := ih (byteMul a x ^^^ d) (Nat.lt_of_succ_lt_succ hi)
      rwa [Nat.sub_sub, Nat.add_comm 1 i, ← Nat.sub_sub] at hrest

/-- The register of the encoder: the remainder so far, highest power first. -/
def checkStep (r : Byte × Byte × Byte × Byte) (b : Byte) : Byte × Byte × Byte × Byte :=
  let f := b ^^^ r.1
  (r.2.1 ^^^ byteMul f 0x0F, r.2.2.1 ^^^ byteMul f 0x36, r.2.2.2 ^^^ byteMul f 0x78, byteMul f 0x40)

/-- The bytes of the register. -/
def regBytes (r : Byte × Byte × Byte × Byte) : List Byte := [r.1, r.2.1, r.2.2.1, r.2.2.2]

/-- The numbers of the register. -/
def regNats (r : Byte × Byte × Byte × Byte) : Nat × Nat × Nat × Nat :=
  (r.1.toNat, r.2.1.toNat, r.2.2.1.toNat, r.2.2.2.toNat)

theorem rsCheck_eq_regBytes (d : List Byte) : rsCheck d = regBytes (d.foldl checkStep (0, 0, 0, 0)) := by
  have hfold := List.foldl_hom (l := d) (init := (0, 0, 0, 0)) regNats (g₁ := checkStep)
    (g₂ := fun (r : Nat × Nat × Nat × Nat) b =>
      let f := b.toNat ^^^ r.1
      (r.2.1 ^^^ gfMul f 0x0F, r.2.2.1 ^^^ gfMul f 0x36, r.2.2.2 ^^^ gfMul f 0x78, gfMul f 0x40))
    fun r b => by simp only [regNats, checkStep, ← BitVec.toNat_xor, gfMul_toNat]
  unfold rsCheck
  rw [show ((0, 0, 0, 0) : Nat × Nat × Nat × Nat) = regNats (0, 0, 0, 0) from rfl, hfold]
  simp [regNats, regBytes]

/-- The generator polynomial is 0 at the first four powers of α. -/
theorem generator_root {k : Nat} (hk : k < 4) (f : Byte) :
    evalFrom (2 ^ k) f [byteMul f 0x0F, byteMul f 0x36, byteMul f 0x78, byteMul f 0x40] = 0 := by
  have hnats : ∀ k < 4, ∀ n < 256, gfMul (gfMul (gfMul (gfMul n (2 ^ k) ^^^ gfMul n 0x0F) (2 ^ k) ^^^
      gfMul n 0x36) (2 ^ k) ^^^ gfMul n 0x78) (2 ^ k) ^^^ gfMul n 0x40 = 0 := by decide +kernel
  refine BitVec.eq_of_toNat_eq ((?_ : _ = _).trans (hnats k hk f.toNat f.isLt))
  simp only [evalFrom, List.foldl_cons, List.foldl_nil, gfMul_toNat, ← BitVec.toNat_xor]

/-- A data byte keeps the register the remainder of what has come: with it the whole is 0 at the generator's roots. -/
theorem evalFrom_checkStep {k : Nat} (hk : k < 4) {a : Byte} {r : Byte × Byte × Byte × Byte} (b : Byte)
    (hzero : evalFrom (2 ^ k) a (regBytes r) = 0) :
    evalFrom (2 ^ k) (byteMul a (2 ^ k) ^^^ b) (regBytes (checkStep r b)) = 0 := by
  have hsplit : ∀ x f, evalFrom x (byteMul a x ^^^ r.1 ^^^ f)
      [r.2.1 ^^^ byteMul f 0x0F, r.2.2.1 ^^^ byteMul f 0x36, r.2.2.2 ^^^ byteMul f 0x78, byteMul f 0x40] =
      byteMul (evalFrom x a (regBytes r)) x ^^^
        evalFrom x f [byteMul f 0x0F, byteMul f 0x36, byteMul f 0x78, byteMul f 0x40] := by
    intro x f
    simp only [evalFrom, regBytes, List.foldl_cons, List.foldl_nil, byteMul_xor]
    ac_rfl
  have hstart : byteMul a (2 ^ k) ^^^ b = byteMul a (2 ^ k) ^^^ r.1 ^^^ (b ^^^ r.1) := by
    rw [BitVec.xor_comm b, BitVec.xor_assoc, ← BitVec.xor_assoc r.1, BitVec.xor_self, BitVec.zero_xor]
  calc evalFrom (2 ^ k) (byteMul a (2 ^ k) ^^^ b) (regBytes (checkStep r b))
    _ = byteMul (evalFrom (2 ^ k) a (regBytes r)) (2 ^ k) ^^^ evalFrom (2 ^ k) (b ^^^ r.1) _ := by
      rw [hstart]
      exact hsplit ..
    _ = 0 := by
      rw [hzero, generator_root hk]
      simp

theorem evalFrom_regBytes {k : Nat} (hk : k < 4) (d : List Byte) {a : Byte} {r : Byte × Byte × Byte × Byte}
    (hzero : evalFrom (2 ^ k) a (regBytes r) = 0) :
    evalFrom (2 ^ k) a (d ++ regBytes (d.foldl checkStep r)) = 0 := by
  induction d generalizing a r with
  | nil => exact hzero
  | cons b d ih => exact ih (evalFrom_checkStep hk b hzero)

/-- Data with its check bytes is 0 at the generator's roots. -/
theorem evalFrom_codeword {k : Nat} (hk : k < 4) (d : List Byte) : evalFrom (2 ^ k) 0 (d ++ rsCheck d) = 0 := by
  rw [rsCheck_eq_regBytes]
  exact evalFrom_regBytes hk d (by simp [evalFrom, regBytes])

/-! ### Decoding (R279) -/

theorem rsDecode_clean {c : List Byte} (hzero : ∀ k < 4, evalFrom (2 ^ k) 0 c = 0) : rsDecode c = .clean := by
  have hsyn : ∀ k < 4, rsEval c (2 ^ k) = 0 := fun k hk => by rw [rsEval_toNat, hzero k hk]; rfl
  exact if_pos ⟨hsyn 0 (by decide), hsyn 1 (by decide), hsyn 2 (by decide), hsyn 3 (by decide)⟩

/-- The locators of a codeword's bytes, each with its place. -/
theorem mem_locators {n i x : Nat} :
    (x, i) ∈ (alphaUp n 1).reverse.zipIdx ↔ i < n ∧ x = (alphaMul^[n - 1 - i] 1).toNat := by
  have hlength : (alphaUp n 1).length = n := by simp [alphaUp_eq_map]
  rw [List.mem_zipIdx_iff_getElem?]
  by_cases hi : i < n
  · rw [List.getElem?_reverse (by omega), hlength, alphaUp_eq_map, List.getElem?_map,
      List.getElem?_range (by omega), ← gfX_iterate_toNat]
    simp [hi, eq_comm]
  · simp [hi, hlength]

/-- The test of a place: its locator takes each syndrome to the next (R279). -/
def placed (s0 s1 s2 s3 : Nat) (q : Nat × Nat) : Bool :=
  decide (s0 ≠ 0) && decide (gfMul s0 q.1 = s1) && decide (gfMul s1 q.1 = s2) && decide (gfMul s2 q.1 = s3)

/-- Where one place alone passes the test, its byte is corrected. -/
theorem rsDecode_placed {c : List Byte} {i : Nat} (hne : rsEval c 1 ≠ 0)
    (hsome : ∃ q ∈ (alphaUp c.length 1).reverse.zipIdx,
      placed (rsEval c 1) (rsEval c 2) (rsEval c 4) (rsEval c 8) q)
    (honly : ∀ q ∈ (alphaUp c.length 1).reverse.zipIdx,
      placed (rsEval c 1) (rsEval c 2) (rsEval c 4) (rsEval c 8) q → q.2 = i) :
    rsDecode c = .corrected (rsFix c [(i, rsEval c 1)]) := by
  cases hfound : (alphaUp c.length 1).reverse.zipIdx.filter
      (placed (rsEval c 1) (rsEval c 2) (rsEval c 4) (rsEval c 8)) with
  | nil =>
    obtain ⟨q, hq, hpass⟩ := hsome
    exact absurd hpass (List.filter_eq_nil_iff.mp hfound q hq)
  | cons q rest =>
    obtain ⟨hmem, hpass⟩ := List.mem_filter.mp (hfound ▸ List.mem_cons_self)
    have hi := honly q hmem hpass
    unfold rsDecode
    have hdirty : ¬(rsEval c 1 = 0 ∧ rsEval c 2 = 0 ∧ rsEval c 4 = 0 ∧ rsEval c 8 = 0) := fun h => hne h.1
    simp only [if_neg hdirty]
    unfold placed at hfound
    rw [hfound, ← hi]

/-- The locator of a place multiplies by its power of α. -/
theorem gfMul_locator (a : Byte) (n : Nat) : gfMul a.toNat (alphaMul^[n] 1).toNat = (alphaMul^[n] a).toNat := by
  rw [gfMul_toNat, byteMul_alpha_iterate]

/-- The syndromes of one wrong byte show its place and its error. -/
theorem rsDecode_single {c : List Byte} {e : Byte} {i : Nat} (hlen : c.length ≤ 255)
    (hi : i < c.length) (he : e ≠ 0)
    (hsyn : ∀ k < 4, evalFrom (2 ^ k) 0 c = alphaMul^[k * (c.length - 1 - i)] e) :
    rsDecode c = .corrected (c.set i (c.getD i 0 ^^^ e)) := by
  have hs : ∀ k < 4, rsEval c (2 ^ k) = (alphaMul^[k * (c.length - 1 - i)] e).toNat := fun k hk => by
    rw [rsEval_toNat, hsyn k hk]
  have h0 : rsEval c 1 = e.toNat := by simpa using hs 0 (by decide)
  have h1 : rsEval c 2 = _ := hs 1 (by decide)
  have h2 : rsEval c 4 = _ := hs 2 (by decide)
  have h3 : rsEval c 8 = _ := hs 3 (by decide)
  have hne : rsEval c 1 ≠ 0 := h0 ▸ fun h => he (BitVec.eq_of_toNat_eq h)
  have hfix : rsFix c [(i, rsEval c 1)] = c.set i (c.getD i 0 ^^^ e) := by simp [rsFix, h0]
  rw [← hfix]
  refine rsDecode_placed hne ⟨(_, i), mem_locators.mpr ⟨hi, rfl⟩, ?_⟩ fun q hq hpass => ?_
  · have hnext : ∀ k, alphaMul^[c.length - 1 - i] (alphaMul^[k * (c.length - 1 - i)] e) =
        alphaMul^[(k + 1) * (c.length - 1 - i)] e := fun k => by
      rw [← Function.iterate_add_apply, Nat.succ_mul, Nat.add_comm]
    have hfirst := hnext 0
    rw [Nat.zero_mul, Function.iterate_zero_apply] at hfirst
    simp only [placed, h0, h1, h2, h3, gfMul_locator, hnext, hfirst]
    simpa using h0 ▸ hne
  · obtain ⟨x, j⟩ := q
    obtain ⟨hj, rfl⟩ := mem_locators.mp hq
    simp only [placed, Bool.and_eq_true, decide_eq_true_eq] at hpass
    obtain ⟨⟨⟨-, hstep⟩, -⟩, -⟩ := hpass
    rw [h0, h1, gfMul_locator, Nat.one_mul] at hstep
    have hpower := alphaMul_iterate_inj he (by omega) (by omega) (BitVec.eq_of_toNat_eq hstep)
    show j = i
    omega

/-- A codeword with one wrong byte has the syndromes of the error alone, and is corrected. -/
theorem rsDecode_set {w : List Byte} {e : Byte} {i : Nat} (hzero : ∀ k < 4, evalFrom (2 ^ k) 0 w = 0)
    (hlen : w.length ≤ 255) (hi : i < w.length) (he : e ≠ 0) :
    rsDecode (w.set i (w.getD i 0 ^^^ e)) = .corrected w := by
  have hsyn : ∀ k < 4, evalFrom (2 ^ k) 0 (w.set i (w.getD i 0 ^^^ e)) =
      alphaMul^[k * ((w.set i (w.getD i 0 ^^^ e)).length - 1 - i)] e := by
    intro k hk
    have hpow : (byteMul · (2 ^ k)) = alphaMul^[k] := funext fun a => byteMul_two_pow a hk
    rw [evalFrom_set _ _ _ hi, hzero k hk, hpow, List.length_set, Function.iterate_mul]
    exact BitVec.zero_xor
  rw [rsDecode_single (by simpa) (by simpa) he hsyn, List.set_set]
  simp [hi]

/-- Settles O29: the check bytes make the codeword 0 at the generator's roots, so that one wrong byte shows itself. -/
theorem oneByteErrorIsCorrected : Obligations.OneByteErrorIsCorrected := by
  intro d hd
  have hzero : ∀ k < 4, evalFrom (2 ^ k) 0 (d ++ rsCheck d) = 0 := fun k hk => evalFrom_codeword hk d
  have hlength : (d ++ rsCheck d).length = 132 := by simp [hd, rsCheck]
  exact ⟨rsDecode_clean hzero, fun i e hi he => rsDecode_set hzero (by omega) (by omega) he⟩

end Sys2Proof.Machine
end

section
/-! A flit's wire image and its reception (O28, R275 to R280). -/

namespace Sys2Proof.Machine

/-! ### Numbers and their bytes -/

@[simp] theorem leBytes_length (n x : Nat) : (leBytes n x).length = n := by
  induction n generalizing x with
  | zero => rfl
  | succ n ih => simp [leBytes, ih]

/-- The bytes of a number read back, as far as they reach. -/
theorem leNat_leBytes (n x : Nat) : leNat (leBytes n x) = x % 2 ^ (8 * n) := by
  induction n generalizing x with
  | zero => simp [leBytes, leNat, Nat.mod_one]
  | succ n ih =>
    have hpow : 2 ^ (8 * (n + 1)) = 256 * 2 ^ (8 * n) := by rw [Nat.mul_succ, Nat.add_comm, Nat.pow_add]
    exact (congrArg (x % 256 + 256 * ·) (ih (x / 256))).trans (hpow ▸ Nat.mod_mul).symm

/-- A list of bytes is that of its number. -/
theorem leBytes_leNat (bs : List Byte) : leBytes bs.length (leNat bs) = bs := by
  induction bs with
  | nil => rfl
  | cons b bs ih =>
    have hrest : (b.toNat + 256 * leNat bs) / 256 = leNat bs := by omega
    have hfirst : BitVec.ofNat 8 (b.toNat + 256 * leNat bs) = b := BitVec.eq_of_toNat_eq (by simp; omega)
    rw [List.length_cons, leBytes, leNat, hrest, hfirst, ih]

theorem leNat_lt (bs : List Byte) : leNat bs < 2 ^ (8 * bs.length) := by
  have hread := leNat_leBytes bs.length (leNat bs)
  rw [leBytes_leNat] at hread
  exact hread ▸ Nat.mod_lt _ (Nat.two_pow_pos _)

/-- The word of a list of bytes has them as its own. -/
theorem leBytes_ofNat_leNat {w : Nat} {bs : List Byte} (hlen : 8 * bs.length = w) :
    leBytes bs.length (BitVec.ofNat w (leNat bs)).toNat = bs := by
  rw [BitVec.toNat_ofNat, Nat.mod_eq_of_lt (hlen ▸ leNat_lt bs), leBytes_leNat]

/-- The bytes of a word are those of its number. -/
theorem ofNat_leNat_leBytes {w n : Nat} (hlen : 8 * n = w) (x : Nat) :
    BitVec.ofNat w (leNat (leBytes n x)) = BitVec.ofNat w x :=
  BitVec.eq_of_toNat_eq (by rw [leNat_leBytes, hlen]; simp)

theorem ofNat_leNat_toNat {w n : Nat} (hlen : 8 * n = w) (x : BitVec w) :
    BitVec.ofNat w (leNat (leBytes n x.toNat)) = x := by
  rw [ofNat_leNat_leBytes hlen, BitVec.ofNat_toNat, BitVec.setWidth_eq]

theorem bitsOf_ofNat {w x : Nat} (hx : x < 2 ^ w) (hi lo : Nat) :
    bitsOf (BitVec.ofNat w x) hi lo = x / 2 ^ lo % 2 ^ (hi + 1 - lo) := by
  rw [bitsOf, BitVec.toNat_ofNat, Nat.mod_eq_of_lt hx, Nat.shiftRight_eq_div_pow]

/-- A bit that is a flag's number is the flag. -/
theorem bitOf_ofNat {w x : Nat} (hx : x < 2 ^ w) {i : Nat} {b : Bool} (hbit : x / 2 ^ i % 2 = b.toNat) :
    bitOf (BitVec.ofNat w x) i = b := by
  rw [bitOf, BitVec.getLsbD, BitVec.toNat_ofNat, Nat.mod_eq_of_lt hx, Nat.testBit_eq_decide_div_mod_eq, hbit]
  cases b <;> rfl

/-! ### The header (R276) -/

theorem ite_eq_toNat_mul (b : Bool) (n : Nat) : (if b then n else 0) = b.toNat * n := by cases b <;> simp

section
variable {h : LinkFields} {f : Flit} (hfits : flitFits h f)
include hfits

theorem flitHeader_lt : flitHeader h f < 2 ^ 128 := by
  obtain ⟨hkind, hlseq, hlack, hcrvc, hcrtot, hvc, hsrc, hdst, hptag, hppos, httl, hfsn⟩ := hfits
  simp only [flitHeader]
  split <;> split <;> split <;> omega

/-- The fields of a header are read where they were written. -/
theorem readHeader_flitHeader : readHeader (BitVec.ofNat 128 (flitHeader h f)) f.payload = (h, f) := by
  have hlt := flitHeader_lt hfits
  obtain ⟨hkind, hlseq, hlack, hcrvc, hcrtot, hvc, hsrc, hdst, hptag, hppos, httl, hfsn⟩ := hfits
  obtain ⟨fkind, lseq, lack, nak, crvc, crtot⟩ := h
  obtain ⟨vc, src, dst, ptag, ppos, last, ttl, mgmt, fsn, payload⟩ := f
  have hnak := nak.toNat_lt
  have hlast := last.toNat_lt
  have hmgmt := mgmt.toNat_lt
  simp only [readHeader, bitsOf_ofNat hlt, Prod.mk.injEq, LinkFields.mk.injEq, Flit.mk.injEq, and_true]
  simp only [flitHeader, ite_eq_toNat_mul] at *
  refine ⟨⟨?_, ?_, ?_, bitOf_ofNat hlt ?_, ?_, ?_⟩,
    ?_, ?_, ?_, ?_, ?_, bitOf_ofNat hlt ?_, ?_, bitOf_ofNat hlt ?_, ?_⟩ <;> omega

end

/-! ### The wire image (R275) -/

@[simp] theorem xorBytes_length (a b : List Byte) : (xorBytes a b).length = min a.length b.length := by
  simp [xorBytes]

/-- A key added twice is gone. -/
theorem xorBytes_twice {a k : List Byte} (hlen : a.length ≤ k.length) : xorBytes (xorBytes a k) k = a :=
  List.ext_getElem (by simp; omega) fun i _ _ => by simp [xorBytes]

@[simp] theorem flitKey_length (pos : Nat) : (flitKey pos).length = 264 := by simp [flitKey]

/-- What the receiver descrambles is what the sender scrambled. -/
theorem xorBytes_wireBytes (pos : Nat) {bs : List Byte} (hlen : bs.length = 264) :
    xorBytes (wireBytes (BitVec.ofNat 2112 (leNat (xorBytes bs (flitKey pos))))) (flitKey pos) = bs := by
  have hwire : (xorBytes bs (flitKey pos)).length = 264 := by simp [hlen]
  have hbytes := leBytes_ofNat_leNat (w := 2112) (bs := xorBytes bs (flitKey pos)) (by omega)
  rw [hwire] at hbytes
  rw [wireBytes, hbytes, xorBytes_twice (by simp [hlen])]

/-- Data bytes sent with their check bytes, under the key, are received clean. -/
theorem decodeFlit_clean (pos : Nat) {c0 c1 : List Byte} (h0 : c0.length = 128) (h1 : c1.length = 128) :
    decodeFlit pos (BitVec.ofNat 2112 (leNat
      (xorBytes (c0 ++ rsCheck c0 ++ c1 ++ rsCheck c1) (flitKey pos)))) =
      let lf := readHeader (BitVec.ofNat 128 (leNat ((c0 ++ c1).take 16)))
        (BitVec.ofNat 1920 (leNat ((c0 ++ c1).drop 16)))
      { corrected := 0, bad0 := false, bad1 := false, link := lf.1, flit := lf.2 } := by
  have hlength : ∀ {c : List Byte}, c.length = 128 → (c ++ rsCheck c).length = 132 :=
    fun hc => by simp [hc, rsCheck]
  have hclean : ∀ {c : List Byte}, c.length = 128 → rsDecode (c ++ rsCheck c) = .clean :=
    fun hc => (oneByteErrorIsCorrected _ hc).1
  have hdata : ∀ {c : List Byte}, c.length = 128 → rsData (c ++ rsCheck c) .clean = c :=
    fun hc => List.take_left' hc
  have hwire : (c0 ++ rsCheck c0 ++ c1 ++ rsCheck c1) = (c0 ++ rsCheck c0) ++ (c1 ++ rsCheck c1) := by simp
  rw [decodeFlit, xorBytes_wireBytes pos (by simp [h0, h1, rsCheck]), hwire, List.take_left' (hlength h0),
    List.drop_left' (hlength h0), hclean h0, hclean h1, hdata h0, hdata h1]
  rfl

/-- Settles O28: the key is taken off, both codewords are clean, and the header is read field by field. -/
theorem flitRoundTrip : Obligations.FlitRoundTrip := by
  intro pos h f _ hfits
  have hheader : BitVec.ofNat 128 (leNat (leBytes 16 (flitHeader h f))) = BitVec.ofNat 128 (flitHeader h f) :=
    ofNat_leNat_leBytes (by decide) _
  have hpayload : BitVec.ofNat 1920 (leNat (leBytes 240 f.payload.toNat)) = f.payload :=
    ofNat_leNat_toNat (by decide) f.payload
  rw [encodeFlit, decodeFlit_clean pos (by simp) (by simp), List.take_append_drop,
    List.take_left' (by simp), List.drop_left' (by simp), hheader, hpayload, readHeader_flitHeader hfits]

end Sys2Proof.Machine
end

section
/-! Link training (O58, R268 to R274). -/

namespace Sys2Proof.Machine

/-! ### The commands -/

/-- A command that carries out an event of a link while the links run gives what the event leaves. -/
theorem givesLinked_of_exec {c : Instr} {s : State} {n : Mach}
    (hexec : exec c s = .next { s with m := whileLinks s.m n }) : GivesLinked c s n := by
  refine ⟨fun hup => ?_, fun hdown => ?_⟩
  · have hacts : whileLinks s.m n = n := if_pos hup
    rwa [hacts] at hexec
  · have hrests : whileLinks s.m n = s.m := if_neg (by simp [hdown])
    rwa [hrests] at hexec

theorem GivesLinked.trans_eq {c : Instr} {s : State} {m n : Mach} (h : GivesLinked c s m) (heq : m = n) :
    GivesLinked c s n := heq ▸ h

theorem givesLinked_phyLock (l : Nat) (s : State) : GivesLinked (.phyLock l) s (phyLock l s.part s.m) :=
  givesLinked_of_exec rfl

theorem givesLinked_phyLockLoss (l lane : Nat) (tx : Bool) (s : State) :
    GivesLinked (.phyLockLoss l lane tx) s (phyLockLoss l lane tx s.part s.m) := givesLinked_of_exec rfl

theorem givesLinked_plAdaptAck (l : Nat) (rise : Bool) (s : State) :
    GivesLinked (.plAdaptAck l rise) s (plAdaptAck l rise s.part s.m) := givesLinked_of_exec rfl

theorem givesLinked_linkFlitSlot (l : Nat) (r : StoreRead) (s : State) :
    GivesLinked (.linkFlitSlot l r) s (linkFlitSlot l r s.part s.m) := givesLinked_of_exec rfl

theorem givesLinked_laneAligned (l : Nat) (rx0 rx1 : List (BitVec 256)) (s : State) :
    GivesLinked (.laneAligned l rx0 rx1) s (laneAligned l rx0 rx1 s.part s.m) := givesLinked_of_exec rfl

theorem givesLinked_tsFlitReceive (l pos : Nat) (lanes : List (BitVec 256) × List (BitVec 256)) (s : State) :
    GivesLinked (.tsFlitReceive l pos lanes) s (receiveWire l pos lanes s.part s.m) := givesLinked_of_exec rfl

theorem givesLinked_trainingTimeout (l : Nat) (s : State) :
    GivesLinked (.trainingTimeout l) s (trainingTimeout l s.part s.m) := givesLinked_of_exec rfl

theorem givesLinked_readyFlitSent (l : Nat) (s : State) :
    GivesLinked (.readyFlitSent l) s (readyFlitSent l s.part s.m) := givesLinked_of_exec rfl

/-! ### Training words (R270) -/

/-- The fields of a training word are read where they were written. -/
theorem trainWord_fields {fpos lane node link : Nat} {aligned : Bool} (hfpos : fpos ≤ 32) (hlane : lane ≤ 1)
    (hnode : node < 4096) (hlink : link < 64) :
    let w := trainWord fpos lane aligned node link
    bytesOf w 0 7 = 0xA5A53C3CF00F5AA5 ∧ bytesOf w 8 8 = fpos ∧ bytesOf w 9 9 = lane ∧
    bytesOf w 10 10 = (if aligned then 1 else 0) ∧ bytesOf w 11 11 = 0 ∧ bytesOf w 12 13 = node ∧
    bytesOf w 14 14 = link ∧ bytesOf w 15 31 = 0 := by
  have hlt : laneMark + fpos * 2 ^ 64 + lane * 2 ^ 72 + (if aligned then 2 ^ 80 else 0) + node * 2 ^ 96
      + link * 2 ^ 112 < 2 ^ 256 := by
    unfold laneMark
    split <;> omega
  simp only [trainWord, bytesOf, bitsOf_ofNat hlt]
  unfold laneMark
  refine ⟨?_, ?_, ?_, ?_, ?_, ?_, ?_, ?_⟩ <;> split <;> omega

section
variable {p : Part} {m : Mach} {l : Nat}

/-! ### Locks and adaptation (R268, R269, R273, R274) -/

/-- Both lanes locked begin the run of a link in DOWN. -/
theorem phyLock_down (hlink : l < linkCount p.conf) (hphase : (linkOf m l).phase = .down) :
    phyLock l p m = setLink m l (startRun p m l { linkOf m l with txLock := 3, rxLock := 3 }) :=
  (if_pos hlink).trans (if_pos hphase)

/-- A lost lane of a link that is not disabled is unlocked, and the link retrains. -/
theorem phyLockLoss_retrains {lane : Nat} (tx : Bool) (hphase : (linkOf m l).phase ≠ .disabled) (hlane : lane ≤ 1) :
    phyLockLoss l lane tx p m = retrainLink p (setLink m l
      (if tx then { linkOf m l with txLock := (linkOf m l).txLock &&& (3 - 2 ^ lane) }
        else { linkOf m l with rxLock := (linkOf m l).rxLock &&& (3 - 2 ^ lane) })) l :=
  if_neg (not_or.mpr ⟨hphase, Nat.not_lt.mpr hlane⟩)

section
variable (hphase : (linkOf m l).phase = .retrain)
include hphase

theorem plAdaptAck_rise : plAdaptAck l true p m = setLink m l { linkOf m l with adaptUp := true } := if_pos hphase

/-- The acknowledgement that falls after it rose begins the run, which is counted. -/
theorem plAdaptAck_fall (hup : (linkOf m l).adaptUp = true) :
    plAdaptAck l false p m = bump p (setLink m l (startRun p m l (linkOf m l))) (Reg.linkRetrainCnt l) 1 :=
  (if_pos hphase).trans (if_pos hup)

end

/-! ### Flit slots of a link that trains (R270, R272, R273) -/

theorem linkFlitSlot_align (r : StoreRead) (hphase : (linkOf m l).phase = .align) :
    linkFlitSlot l r p m = alignSlot p m l := by
  simp only [linkFlitSlot, hphase]

theorem linkFlitSlot_config (r : StoreRead) (hphase : (linkOf m l).phase = .config) :
    linkFlitSlot l r p m = sendTs p m l 1 := by
  simp only [linkFlitSlot, hphase]

theorem linkFlitSlot_ready (r : StoreRead) (hphase : (linkOf m l).phase = .ready) :
    linkFlitSlot l r p m =
      let m := sendTs p m l 2
      readyCheck p (setLink m l { linkOf m l with readySent := (linkOf m l).readySent + 1 }) l := by
  simp only [linkFlitSlot, hphase]

theorem linkFlitSlot_retrain (r : StoreRead) (hphase : (linkOf m l).phase = .retrain) :
    linkFlitSlot l r p m = zeroSlot m l := by
  simp only [linkFlitSlot, hphase]

theorem linkFlitSlot_down (r : StoreRead) (hphase : (linkOf m l).phase = .down) :
    linkFlitSlot l r p m =
      let n := zeroSlot m l
      if lanesUp (linkOf m l) then setLink n l (startRun p n l (linkOf n l)) else n := by
  simp only [linkFlitSlot, hphase]

/-- The eighth READY flit, or one after it, goes out and ACTIVE may begin. -/
theorem readyFlitSent_sends (hphase : (linkOf m l).phase = .ready) (hgot : (linkOf m l).readyGot = true)
    (hsent : 7 ≤ (linkOf m l).readySent) :
    readyFlitSent l p m =
      let m := sendTs p m l 2
      readyCheck p (setLink m l { linkOf m l with readySent := (linkOf m l).readySent + 1 }) l :=
  if_pos ⟨hphase, hgot, hsent⟩

/-! ### Alignment (R271) -/

section
variable {rx0 rx1 : List (BitVec 256)} {a b : LaneFound} (hphase : (linkOf m l).phase = .align)
  (hlock : (linkOf m l).rxLock = 3) (hfirst : laneFind rx0 = some a) (hsecond : laneFind rx1 = some b)
  (hlanes : a.lane + b.lane = 1)
include hphase hlock hfirst hsecond hlanes

/-- Lanes found too far from each other fail the run. -/
theorem laneAligned_skewed (hskew : 16 * 256 < skewBits a b) : laneAligned l rx0 rx1 p m = trainFail p m l := by
  simp only [laneAligned, hphase, hlock, and_self, if_true, hfirst, hsecond, hlanes, hskew, ne_eq, not_true, if_false]

/-- Lanes found near each other are aligned. -/
theorem laneAligned_found (hskew : skewBits a b ≤ 16 * 256) :
    laneAligned l rx0 rx1 p m = setLink m l (lanesFound (linkOf m l) a b) := by
  have hnear : ¬16 * 256 < skewBits a b := Nat.not_lt.mpr hskew
  simp only [laneAligned, hphase, hlock, and_self, if_true, hfirst, hsecond, hlanes, hnear, ne_eq, not_true, if_false]

end

/-- R273: a run past its time fails. -/
theorem trainingTimeout_fails
    (hphase : (linkOf m l).phase = .align ∨ (linkOf m l).phase = .config ∨ (linkOf m l).phase = .ready)
    (hlate : (linkOf m l).runStart + 1000 * fsPerNs * rdF p m (Reg.linkTimers l) 15 0 ≤ m.tick.time) :
    trainingTimeout l p m = trainFail p m l :=
  if_pos ⟨hphase, decide_eq_true hlate⟩

/-! ### Flits of a framed link (R271, R275, R279, R280) -/

/-- The flit that a link hears at a place of a frame, in the words of its lanes. -/
def heardFlit (x : Link) (pos : Nat) (lanes : List (BitVec 256) × List (BitVec 256)) : Decoded :=
  decodeFlit (pos % 8) (gatherFlit x.laneSwap (pos % 8) (laneBits x.laneOffs.1 lanes.1) (laneBits x.laneOffs.2 lanes.2))

section
variable {pos : Nat} {lanes : List (BitVec 256) × List (BitVec 256)} (hframed : framed (linkOf m l) = true)
  (hlock : (linkOf m l).rxLock = 3)
include hframed hlock

/-- A framed link takes what it hears: its codewords are counted, and it counts as it decodes. -/
theorem receiveWire_framed {d : Decoded} (hheard : heardFlit (linkOf m l) pos lanes = d) :
    receiveWire l pos lanes p m =
      let m := countCodewords p m l d
      if d.bad0 || d.bad1 then badFlit p m l d.bad0 else flitReceived p m l (pos % 8) d.link d.flit := by
  subst hheard
  exact (if_neg (not_not.mpr hlock)).trans (if_pos hframed)

theorem receiveWire_good {d : Decoded} (hheard : heardFlit (linkOf m l) pos lanes = d) (h0 : d.bad0 = false)
    (h1 : d.bad1 = false) :
    receiveWire l pos lanes p m = flitReceived p (countCodewords p m l d) l (pos % 8) d.link d.flit := by
  rw [receiveWire_framed hframed hlock hheard]
  exact if_neg (by simp [h0, h1])

/-- R280: a flit with a codeword that does not decode is a bad flit. -/
theorem receiveWire_bad {d : Decoded} (hheard : heardFlit (linkOf m l) pos lanes = d)
    (hbad : d.bad0 = true ∨ d.bad1 = true) :
    receiveWire l pos lanes p m = badFlit p (countCodewords p m l d) l d.bad0 := by
  rw [receiveWire_framed hframed hlock hheard]
  exact if_pos (by simpa using hbad)

end

/-- A training flit that decodes trains. -/
theorem flitReceived_ts {pos : Nat} {h : LinkFields} {f : Flit} (hcodes : badCodes h f = false)
    (hkind : h.fkind = fkTs) :
    flitReceived p m l pos h f = tsReceive p (setLink m l { linkOf m l with ueRun := 0 }) l (readTs f.payload) :=
  (if_neg (by simp [hcodes])).trans (if_pos hkind)

end

/-- Settles O58: each command answers its meaning, which takes the branch that the clause's conditions name. -/
theorem linkTrainingAnswers : Obligations.LinkTrainingAnswers := by
  refine ⟨?lock, ?loss, ?adapt, fun fpos lane node link aligned => trainWord_fields,
    fun s l r => ⟨?align, ?config, ?ready, ?retrain, ?down⟩,
    fun s l rx0 rx1 a b hphase hlock hfirst hsecond hlanes => ⟨?skewed, ?found⟩, ?training, ?timeout, ?readySent⟩
  case lock =>
    intro s l hlink hphase
    exact (givesLinked_phyLock l s).trans_eq (phyLock_down hlink hphase)
  case loss =>
    intro s l lane hphase hlane
    exact ⟨(givesLinked_phyLockLoss ..).trans_eq (phyLockLoss_retrains true hphase hlane),
      (givesLinked_phyLockLoss ..).trans_eq (phyLockLoss_retrains false hphase hlane)⟩
  case adapt =>
    intro s l hphase
    exact ⟨(givesLinked_plAdaptAck ..).trans_eq (plAdaptAck_rise hphase),
      fun hup => (givesLinked_plAdaptAck ..).trans_eq (plAdaptAck_fall hphase hup)⟩
  case align => exact fun hphase => (givesLinked_linkFlitSlot ..).trans_eq (linkFlitSlot_align r hphase)
  case config => exact fun hphase => (givesLinked_linkFlitSlot ..).trans_eq (linkFlitSlot_config r hphase)
  case ready => exact fun hphase => (givesLinked_linkFlitSlot ..).trans_eq (linkFlitSlot_ready r hphase)
  case retrain => exact fun hphase => (givesLinked_linkFlitSlot ..).trans_eq (linkFlitSlot_retrain r hphase)
  case down => exact fun hphase => (givesLinked_linkFlitSlot ..).trans_eq (linkFlitSlot_down r hphase)
  case skewed =>
    exact fun hskew => (givesLinked_laneAligned ..).trans_eq
      (laneAligned_skewed hphase hlock hfirst hsecond hlanes hskew)
  case found =>
    exact fun hskew => (givesLinked_laneAligned ..).trans_eq
      (laneAligned_found hphase hlock hfirst hsecond hlanes hskew)
  case training =>
    intro s l pos lanes hframed hlock x d m h0 h1 hcodes hkind
    exact (givesLinked_tsFlitReceive ..).trans_eq
      ((receiveWire_good hframed hlock rfl h0 h1).trans (flitReceived_ts hcodes hkind))
  case timeout =>
    intro s l hphase hlate
    exact (givesLinked_trainingTimeout l s).trans_eq (trainingTimeout_fails hphase hlate)
  case readySent =>
    intro s l hphase hgot hsent
    exact (givesLinked_readyFlitSent l s).trans_eq (readyFlitSent_sends hphase hgot hsent)

end Sys2Proof.Machine
end

section
/-! Flits, replay, salvage, acknowledgements, delay probes and transit (O59, R222, R282, R283, R287, R291, R293, R294,
R297, R309, R461). -/

namespace Sys2Proof.Machine

section
variable {p : Part} {m : Mach} {l : Nat}

/-! ### An ACTIVE link (R282, R283, R287) -/

/-- An ACTIVE link's stream is framed. -/
theorem framed_of_active {x : Link} (hphase : x.phase = .active) : framed x = true := by simp [framed, hphase]

/-- On an ACTIVE link a flit that decodes, holds no reserved code and is no training flit counts. -/
theorem flitReceived_data {pos : Nat} {h : LinkFields} {f : Flit} (hcodes : badCodes h f = false)
    (hkind : h.fkind ≠ fkTs) (hphase : (linkOf m l).phase = .active) :
    flitReceived p m l pos h f =
      dataReceive p (setLink m l { linkOf m l with ueRun := 0, tsGood := 0 }) l pos h f :=
  (if_neg (by simp [hcodes])).trans ((if_neg hkind).trans (if_pos hphase))

theorem linkFlitSlot_active (r : StoreRead) (hphase : (linkOf m l).phase = .active) :
    linkFlitSlot l r p m = activeSlot p (loseRecords p m) l r := by
  simp only [linkFlitSlot, hphase]

theorem vc0Token_gains (hphase : (linkOf m l).phase = .active)
    (hdue : (linkOf m l).tokenAt + 20 ≤ (linkOf m l).sinceActive) :
    vc0Token l p m = setLink m l { linkOf m l with
      tokens := min 8 ((linkOf m l).tokens + 1), tokenAt := (linkOf m l).tokenAt + 20 } :=
  if_pos ⟨hphase, hdue⟩

/-- The oldest flit out, past its time, starts a replay; no NAK waits to be repeated. -/
theorem replayTimeout_replays {h : Held} {rest : List Held} (hphase : (linkOf m l).phase = .active)
    (hnak : (linkOf m l).nakSeq = none) (hheld : (linkOf m l).held = h :: rest)
    (hlate : h.sentAt + replayTmo p m l ≤ m.tick.time) :
    replayTimeout l p m = startReplay p m l := by
  simp [replayTimeout, hphase, hnak, hheld, hlate]

/-! ### Salvage (R297) -/

section
variable {r : In0} {n : Mach} (htake : takeRecord m 0x21 = some (r, n)) (hlink : bytesOf r.bytes 3 3 < linkCount p.conf)
include htake hlink

/-- The record of the partner's retirement, of a link retired here, starts the salvage. -/
theorem linkDown_salvages (hphase : (linkOf n (bytesOf r.bytes 3 3)).phase = .retired) :
    linkDown p m = salvageLink p n (bytesOf r.bytes 3 3) (bitsOf r.bytes 9 0) := by
  simp only [linkDown, htake, hlink, if_true, hphase]

/-- Before this end has retired the record is kept. -/
theorem linkDown_kept (hphase : (linkOf n (bytesOf r.bytes 3 3)).phase ≠ .retired) :
    linkDown p m = setLink n (bytesOf r.bytes 3 3)
      { linkOf n (bytesOf r.bytes 3 3) with downGot := some (bitsOf r.bytes 9 0) } := by
  simp only [linkDown, htake, hlink, if_true, hphase, if_false]

end

theorem salvageDrop_drops (hphase : (linkOf m l).phase = .retired)
    (hlate : (linkOf m l).retiredAt + 100000 * fsPerNs ≤ m.tick.time) :
    salvageDrop l p m = loseHeld p (setLink m l { linkOf m l with salvage := [] }) l (linkOf m l).salvage :=
  if_pos ⟨hphase, hlate⟩

/-! ### End-to-end acknowledgements and time limits (R291) -/

/-- An acknowledgement of a packet that is out settles it, with what its packet's acceptance means. -/
theorem e2eAck_settles {r : In0} {n : Mach} {o : Outst} (htake : takeRecord m 0x20 = some (r, n))
    (hout : findOut n r.src (bytesOf r.bytes 4 4) (bytesOf r.bytes 0 3) = some o) :
    e2eAck p m = ackEffect p (settleFlow p n r.src (bytesOf r.bytes 4 4) (bytesOf r.bytes 0 3)) o.use := by
  simp only [e2eAck, htake, hout]

section
variable {d vc fsn : Nat} {o : Outst} (hout : findOut m d vc fsn = some o)
  (hlate : o.sentAt + e2eTmo p m ≤ m.tick.time)
include hout hlate

/-- A packet past its time is sent again while resends remain. -/
theorem e2eTimeout_resends (hmore : o.resends < rdF p m Reg.routeE2eCtrl 19 16) :
    e2eTimeout d vc fsn p m =
      let y := { o with resends := o.resends + 1, sentAt := m.tick.time }
      let n := { m with net := { m.net with outst := m.net.outst.map fun z => if z = o then y else z } }
      queuePacket p (bump p n Reg.routeE2eResend 1) vc d o.mgmt fsn o.ctx (.flow d vc fsn) (resendBody o) := by
  simp only [e2eTimeout, hout, if_neg (Int.not_lt.mpr hlate), if_pos hmore]

/-- With no resend left it fails. -/
theorem e2eTimeout_fails (hlast : rdF p m Reg.routeE2eCtrl 19 16 ≤ o.resends) :
    e2eTimeout d vc fsn p m = lossEffect p (failFlow m d vc fsn) o.use
      (if noRoute p m d then stUnreachable else stTimeout) := by
  simp only [e2eTimeout, hout, if_neg (Int.not_lt.mpr hlate), if_neg (Nat.not_lt.mpr hlast)]

end

/-- Partial packets of VC3 to VC5 past their time are dropped. -/
theorem reassemblyTimeout_drops {node vc ptag : Nat} (hlo : 3 ≤ vc) (hhi : vc ≤ 5) :
    reassemblyTimeout node vc ptag p m = (m.net.rx.filter fun x =>
      x.src == node && x.vc == vc && x.ptag == ptag && !rxWhole x &&
        decide (x.firstAt + e2eTmo p m ≤ m.tick.time)).foldl dropRx m :=
  if_pos ⟨hlo, hhi⟩

/-! ### Delay probes (R293, R294) -/

/-- A link that measures sends its next probe when a microsecond has passed. -/
theorem dlyProbe_sends {d : DlyMeas} {n a : Nat} {b : Bool} (hphase : (linkOf m l).phase = .active)
    (hmeas : (linkOf m l).meas = some d) (hpartner : (linkOf m l).partner = some (n, a, b))
    (hdue : probeDue m d = true) :
    dlyProbe l p m = sendRec p (setLink m l { linkOf m l with
        meas := some { d with seq := (d.seq + 1) % 65536, lastAt := some m.tick.time } })
      { dst := n, link := some l,
        bytes := mkRecord ([0, 0, 0, 0] ++ leBytes 2 d.seq ++ [BitVec.ofNat 8 l]) 0x22 [] } := by
  simp only [dlyProbe, hmeas, hpartner, hphase, hdue, and_self, if_true]

theorem dlyProbeReceive_echoes {r : In0} {n : Mach} (htake : takeRecord m 0x22 = some (r, n)) :
    dlyProbeReceive p m = sendRec p n
      { dst := r.src, link := some r.link, since := some r.at10,
        bytes := mkRecord ([0, 0, 0, 0] ++ leBytes 2 (bytesOf r.bytes 4 5) ++ [byteOf r.bytes 6]) 0x23 [] } := by
  simp only [dlyProbeReceive, htake]

section
variable {r : In0} {n : Mach} {d : DlyMeas} {i : Nat} {t1 : Int} (htake : takeRecord m 0x23 = some (r, n))
  (hmeas : (linkOf n r.link).meas = some d)
  (hprobe : d.out.find? (fun q => q.1 == bytesOf r.bytes 4 5) = some (i, t1))
include htake hmeas hprobe

/-- A resent echo is left out. -/
theorem dlyEcho_replayed (hagain : r.replayed = true) :
    dlyEcho p m = setLink n r.link { linkOf n r.link with
      meas := some { d with out := d.out.filter fun q => q.1 != i } } := by
  simp only [dlyEcho, htake, hmeas, hprobe, hagain, if_true]

/-- An echo of the link's own probe is a sample; more are wanted. -/
theorem dlyEcho_samples (honce : r.replayed = false)
    (hmore : (d.samples ++ [delaySample t1 r.at10 (bytesOf r.bytes 0 3)]).length < d.want) :
    dlyEcho p m = setLink n r.link { linkOf n r.link with
      meas := some { d with out := d.out.filter fun q => q.1 != i,
                            samples := d.samples ++ [delaySample t1 r.at10 (bytesOf r.bytes 0 3)] } } := by
  simp only [dlyEcho, htake, hmeas, hprobe, honce, Bool.false_eq_true, if_false, hmore, if_true]

/-- The last sample that is wanted ends the measurement with its result. -/
theorem dlyEcho_ends (honce : r.replayed = false)
    (hlast : d.want ≤ (d.samples ++ [delaySample t1 r.at10 (bytesOf r.bytes 0 3)]).length) :
    dlyEcho p m = measPart
      (wr p (setLink n r.link { linkOf n r.link with meas := none }) (Reg.linkDlyMeas r.link)
        (measResult (d.samples ++ [delaySample t1 r.at10 (bytesOf r.bytes 0 3)]))) r.link d.acc stDone := by
  simp only [dlyEcho, htake, hmeas, hprobe, honce, Bool.false_eq_true, if_false, if_neg (Nat.not_lt.mpr hlast)]

end

/-! ### Transit (R222, R305, R309, R310, R461) -/

section
variable {vc : Nat} {t : TransitFlit} (hfront : (linkOf m l).waiting.find? (fun t => t.flit.vc == vc) = some t)
  (hfatal : isFatal p m = false) (hdst : t.flit.dst ≠ nodeId p m) (hrouted : t.routed = false)
include hfront hfatal hdst hrouted

theorem transitFlit_drops {n : Mach}
    (hdrop : transitDrop p (setLink m l { linkOf m l with waiting := (linkOf m l).waiting.erase t }) l t = some n) :
    transitFlit l vc p m = deliverFront p l vc (linkOf m l).waiting.length n := by
  simp only [transitFlit, hfront, hfatal, hdst, hrouted, hdrop, Bool.false_eq_true, if_false]

/-- A transit flit with a route and a free slot goes on. -/
theorem transitFlit_forwards
    (hkeep : transitDrop p (setLink m l { linkOf m l with waiting := (linkOf m l).waiting.erase t }) l t = none)
    (hset : usableSet p m t.flit.dst ≠ .wait) (hslot : slotFree p m l vc = true) :
    transitFlit l vc p m = forwardFlit p m l t := by
  simp only [transitFlit, hfront, hfatal, hdst, hrouted, hkeep, hset, hslot, Bool.false_eq_true,
    Bool.true_eq_false, or_self, if_false]

end

/-- R222: a flit of an undecodable line is dropped with its packet. -/
theorem transitLost_drops {vc line : Nat} {t : TransitFlit} {n : Mach} (hnoted : kilnUe p m line (some 3) = n)
    (hfatal : isFatal p n = false) (hrouted : t.routed = false)
    (hfront : (linkOf n l).waiting.find? (fun t => t.flit.vc == vc) = some t) (hdst : t.flit.dst ≠ nodeId p n) :
    transitLost p m l vc line =
      let x := linkOf n l
      let n := freeCredit (setLink n l { x with waiting := x.waiting.erase t }) l vc
      deliverFront p l vc x.waiting.length
        (noteDropped n ((droppedOf n t.flit).getD { id := packetId t.flit, seen := [], lastPos := none }) t.flit) := by
  have hgoes : (isFatal p n || t.flit.dst == nodeId p n || t.routed) = false := by simp [hfatal, hdst, hrouted]
  unfold transitLost
  simp only [hnoted, hfront]
  exact if_neg (ne_true_of_eq_false hgoes)

section
variable {vc n : Nat} (hcopies : transitCopies p m = false)
include hcopies

/-- A read that finds nothing leaves the flit's handling as it is. -/
theorem transitRead_clean : transitRead l vc .clean p m = transitFlit l vc p m := by
  simp only [transitRead, hcopies, Bool.false_eq_true, if_false, storeCorrected, ite_self]

variable (hup : engineUp m = true) (hfatal : isFatal p m = false)
include hup hfatal

/-- R461: an undecodable word of the transit pool's bitmap is fatal. -/
theorem transitRead_word : transitRead l vc (.word n false) p m = fatal p m 5 0 := by
  simp [transitRead, hcopies, storesUp, hup, hfatal]

theorem transitRead_line : transitRead l vc (.line n false) p m = transitLost p m l vc n := by
  simp [transitRead, hcopies, storesUp, hup, hfatal]

end

end

/-! ### The commands -/

theorem givesLinked_flitReceive (l pos : Nat) (lanes : List (BitVec 256) × List (BitVec 256)) (s : State) :
    GivesLinked (.flitReceive l pos lanes) s (receiveWire l pos lanes s.part s.m) := givesLinked_of_exec rfl

theorem givesLinked_vc0Token (l : Nat) (s : State) : GivesLinked (.vc0Token l) s (vc0Token l s.part s.m) :=
  givesLinked_of_exec rfl

theorem givesLinked_replayTimeout (l : Nat) (s : State) :
    GivesLinked (.replayTimeout l) s (replayTimeout l s.part s.m) := givesLinked_of_exec rfl

theorem givesLinked_dlyProbe (l : Nat) (s : State) : GivesLinked (.dlyProbe l) s (dlyProbe l s.part s.m) :=
  givesLinked_of_exec rfl

theorem givesLinked_linkDown (s : State) : GivesLinked .linkDown s (linkDown s.part s.m) := givesLinked_of_exec rfl

theorem givesLinked_salvageDrop (l : Nat) (s : State) : GivesLinked (.salvageDrop l) s (salvageDrop l s.part s.m) :=
  givesLinked_of_exec rfl

theorem gives_e2eAck (s : State) : Gives .e2eAck s (e2eAck s.part s.m) := rfl

theorem gives_e2eTimeout (d vc fsn : Nat) (s : State) :
    Gives (.e2eTimeout d vc fsn) s (e2eTimeout d vc fsn s.part s.m) := rfl

theorem givesLinked_reassemblyTimeout (node vc ptag : Nat) (s : State) :
    GivesLinked (.reassemblyTimeout node vc ptag) s (reassemblyTimeout node vc ptag s.part s.m) :=
  givesLinked_of_exec rfl

theorem givesLinked_dlyProbeReceive (s : State) : GivesLinked .dlyProbeReceive s (dlyProbeReceive s.part s.m) :=
  givesLinked_of_exec rfl

theorem givesLinked_dlyEcho (s : State) : GivesLinked .dlyEcho s (dlyEcho s.part s.m) := givesLinked_of_exec rfl

theorem gives_transitFlit (l vc : Nat) (f : StoreRead) (s : State) :
    Gives (.transitFlit l vc f) s (transitRead l vc f s.part s.m) := rfl

/-- Settles O59: each command answers its meaning, which takes the branch that the clause's conditions name. -/
theorem linkDataAnswers : Obligations.LinkDataAnswers := by
  refine ⟨fun s l pos lanes hphase hlock => ⟨?data, ?bad⟩, fun s l r hphase => ⟨?slot, ?token, ?replay, ?probe⟩,
    fun s r m htake hlink => ⟨?salvage, ?kept⟩, ?drop, ?ack, fun s d vc fsn o hout hlate => ⟨?resend, ?fail⟩,
    ?partialPacket, ?echo, fun s r m d i t1 htake hmeas hprobe => ⟨?replayed, ?sample, ?result⟩,
    fun s l vc t hfront hfatal hcopies hdst hrouted => ⟨?transitDropped, ?forward⟩,
    fun s l vc n t hup hfatal hcopies => ⟨?word, ?line⟩⟩
  case data =>
    intro h0 h1 hcodes hkind hactive
    exact (givesLinked_flitReceive ..).trans_eq ((receiveWire_good (framed_of_active hphase) hlock rfl h0 h1).trans
      (flitReceived_data hcodes hkind hactive))
  case bad =>
    exact fun hbad => (givesLinked_flitReceive ..).trans_eq (receiveWire_bad (framed_of_active hphase) hlock rfl hbad)
  case slot => exact (givesLinked_linkFlitSlot ..).trans_eq (linkFlitSlot_active r hphase)
  case token => exact fun hdue => (givesLinked_vc0Token l s).trans_eq (vc0Token_gains hphase hdue)
  case replay =>
    intro h rest hnak hheld hlate
    exact (givesLinked_replayTimeout l s).trans_eq (replayTimeout_replays hphase hnak hheld hlate)
  case probe =>
    intro d n a b hmeas hpartner hdue
    exact (givesLinked_dlyProbe l s).trans_eq (dlyProbe_sends hphase hmeas hpartner hdue)
  case salvage => exact fun hphase => (givesLinked_linkDown s).trans_eq (linkDown_salvages htake hlink hphase)
  case kept => exact fun hphase => (givesLinked_linkDown s).trans_eq (linkDown_kept htake hlink hphase)
  case drop =>
    intro s l hphase hlate
    exact (givesLinked_salvageDrop l s).trans_eq (salvageDrop_drops hphase hlate)
  case ack =>
    intro s r m o htake hout
    exact (gives_e2eAck s).trans_eq (e2eAck_settles htake hout)
  case resend => exact fun hmore => (gives_e2eTimeout d vc fsn s).trans_eq (e2eTimeout_resends hout hlate hmore)
  case fail => exact fun hlast => (gives_e2eTimeout d vc fsn s).trans_eq (e2eTimeout_fails hout hlate hlast)
  case partialPacket =>
    intro s node vc ptag hlo hhi
    exact (givesLinked_reassemblyTimeout node vc ptag s).trans_eq (reassemblyTimeout_drops hlo hhi)
  case echo =>
    intro s r m htake
    exact (givesLinked_dlyProbeReceive s).trans_eq (dlyProbeReceive_echoes htake)
  case replayed =>
    exact fun hagain => (givesLinked_dlyEcho s).trans_eq (dlyEcho_replayed htake hmeas hprobe hagain)
  case sample =>
    exact fun honce hmore => (givesLinked_dlyEcho s).trans_eq (dlyEcho_samples htake hmeas hprobe honce hmore)
  case result =>
    exact fun honce hlast => (givesLinked_dlyEcho s).trans_eq (dlyEcho_ends htake hmeas hprobe honce hlast)
  case transitDropped =>
    intro m hdrop
    exact (gives_transitFlit l vc .clean s).trans_eq
      ((transitRead_clean hcopies).trans (transitFlit_drops hfront hfatal hdst hrouted hdrop))
  case forward =>
    intro hkeep hset hslot
    exact (gives_transitFlit l vc .clean s).trans_eq
      ((transitRead_clean hcopies).trans (transitFlit_forwards hfront hfatal hdst hrouted hkeep hset hslot))
  case word => exact (gives_transitFlit ..).trans_eq (transitRead_word hcopies hup hfatal)
  case line =>
    intro m halive hrouted hfront hdst
    exact (gives_transitFlit ..).trans_eq
      ((transitRead_line hcopies hup hfatal).trans (transitLost_drops rfl halive hrouted hfront hdst))

end Sys2Proof.Machine
end

section
/-! Collective operations in turn (O44, R332 to R335). -/

namespace Sys2Proof.Machine

/-! ### The stages of an operation (R326, R331) -/

section
variable {p : Part} {m : Mach} {o : OpCtx}

/-- An operation that has started goes on, whatever else its group and its windows do. -/
theorem collStage_started (hstage : 2 ≤ o.stage) : collStage p m o = settleColl p m o.handle := by
  have hpast : ¬o.stage < 2 := by omega
  unfold collStage
  rw [if_neg (fun h => hpast h.1), if_neg (fun h => hpast h.1)]
  split
  · omega
  · omega
  · rfl

variable (hreads : txnsOut m o.useR = false) (hturn : collTurn m o = true) (hwins : winsMove m o = false)
  (hmem : o.memFail = false)
include hreads hturn hwins hmem

/-- An operation whose turn it is, none of its reads out and none of its windows copied, is checked. -/
theorem collStage_checks (hstage : o.stage = 0) : collStage p m o = collCheck p m o := by
  simp [collStage, hreads, hturn, hwins, hmem, hstage]

/-- With its counts list readable, a checked operation comes to the checks that need the group. -/
theorem collStage_late {g : Group} (hstage : o.stage = 1) (hheld : heldGroup m o = some g)
    (hcounts : countsBad m o g = none) : collStage p m o = collLateCheck p m o := by
  simp [collStage, hreads, hturn, hwins, hmem, hstage, hheld, hcounts]

end

/-- An operation that passes the last checks starts in its group. -/
theorem collLateCheck_begins {p : Part} {m : Mach} {o : OpCtx} {g : Group} (hheld : heldGroup m o = some g)
    (hlate : collLate m o (heldGroup m o) = none) (hcarries : groupLacks o g = false) :
    collLateCheck p m o = beginColl p m o g := by
  rw [hheld] at hlate
  simp [collLateCheck, hheld, hlate, hcarries]

/-! ### The commands -/

section
variable {p : Part} {m n : Mach} {o : OpRef} {opc : Nat} {f : StoreRead} {x : OpCtx}
  (hdue : dueOp p m o opc = some x)
include hdue

theorem collRow_started (hstage : 2 ≤ x.stage) :
    collRow o opc f p m = settleColl p (readFinds p m f) x.handle := by
  have hpast : x.stage ≠ 0 := by omega
  simp [collRow, hdue, hpast, collStage_started hstage]

variable (hfirst : x.stage = 0) (hcheck : collStage p (readFinds p m f) x = n)
include hfirst hcheck

/-- An operation that its first checks leave in stage 1 goes on to that stage at once. -/
theorem collRow_next {y : OpCtx} (hfind : findOp n x.ctx x.owner = some y) (hstage : y.stage = 1) :
    collRow o opc f p m = collStage p n y := by
  simp [collRow, hdue, hfirst, hcheck, hfind, hstage]

/-- An operation that its first checks end leaves no more to do. -/
theorem collRow_ended (hfind : findOp n x.ctx x.owner = none) : collRow o opc f p m = n := by
  simp [collRow, hdue, hfirst, hcheck, hfind]

end

/-- Each command of a collective carries on the operation of its opcode that is due. -/
theorem gives_collRow {c : Instr} {opc : Nat} {o : OpRef} {f : StoreRead} (s : State)
    (hrow : (c, opc) ∈
        [(Instr.collA2a o f, opA2a), (Instr.collA2av o f, opA2av), (Instr.collReduce o f, opReduce)] ∨
      (c, opc, f) = (Instr.collBarrier o, opBarrier, StoreRead.clean)) :
    Gives c s (collRow o opc f s.part s.m) := by
  simp only [List.mem_cons, List.not_mem_nil, or_false, Prod.mk.injEq] at hrow
  obtain (⟨rfl, rfl⟩ | ⟨rfl, rfl⟩ | ⟨rfl, rfl⟩) | ⟨rfl, rfl, rfl⟩ := hrow
  case inl.inl => exact (rfl : Gives (.collA2a o f) s _)
  case inl.inr.inl => exact (rfl : Gives (.collA2av o f) s _)
  case inl.inr.inr => exact (rfl : Gives (.collReduce o f) s _)
  case inr => exact (rfl : Gives (.collBarrier o) s _)

/-- Settles O44: a command carries on the stage that its operation is in, and the stage after the first checks. -/
theorem collectivesAnswer : Obligations.CollectivesAnswer := by
  refine ⟨fun s o x c opc f hrow hdue =>
    ⟨fun hstage => ?started, fun hfirst hreads hturn hwins hmem => ?waited⟩, ?begins⟩
  case started => exact (gives_collRow s hrow).trans_eq (collRow_started hdue hstage)
  case waited =>
    have hcheck := collStage_checks (p := s.part) hreads hturn hwins hmem hfirst
    refine ⟨fun y hfind hstage => ?_, fun hfind => ?_⟩
    · exact (gives_collRow s hrow).trans_eq (collRow_next hdue hfirst hcheck hfind hstage)
    · exact (gives_collRow s hrow).trans_eq (collRow_ended hdue hfirst hcheck hfind)
  case begins =>
    intro p m y g hstage hreads hturn hwins hcounts hmem hlate hheld hcarries
    exact (collStage_late hreads hturn hwins hmem hstage hheld hcounts).trans
      (collLateCheck_begins hheld hlate hcarries)

end Sys2Proof.Machine
end

section
/-! Groups formed and dissolved, and a relay's reservations (O45, R322 to R325). -/

namespace Sys2Proof.Machine

/-! ### GROUP_FORM and GROUP_REFORM (R322, R323, R325) -/

section
variable {p : Part} {m : Mach} {w q opc : Nat} {r : Running} (hdue : dueCmd p m w q opc = some r)
  (hmem : r.memFail = false) (htxns : txnsOut m (.cmdRead r.acc) = false) (hstage : r.stage = 1) {g : GImage}
  (himage : g = readImage (hostBytes m (bytesOf r.line 16 23 % 2 ^ 42)
    (readImage (hostBytes m (bytesOf r.line 16 23 % 2 ^ 42) 64)).len))
include hdue hmem htxns hstage himage

/-- R323: the first check that fails ends the command. -/
theorem formCmd_fails {e : Nat × Nat × Nat} (hfault : imageFault p m w (opc == 0x15) g = some e) :
    formCmd w q opc p m = imageFails p m r g e := by
  simp only [formCmd, hdue, hmem, htxns, hstage, ← himage, hfault, Bool.false_eq_true, one_ne_zero, if_false, if_true]

/-- An image that passes its checks dissolves its group, or starts to form it. -/
theorem formCmd_takes (hfault : imageFault p m w (opc == 0x15) g = none) (hnew : resumes m w g = false)
    (hfree : formable m g.handle = true) :
    formCmd w q opc p m = if g.dissolve then dissolve p m r g
      else startForming p (setRunning m { r with stage := 2 }) r.acc w g := by
  simp only [formCmd, hdue, hmem, htxns, hstage, ← himage, hfault, hnew, hfree, Bool.not_true, Bool.false_eq_true,
    one_ne_zero, if_false, if_true]

end

theorem gives_formCmd {c : Instr} {w q opc : Nat} (s : State)
    (hrow : (c, opc) ∈ [(Instr.groupForm w q, 0x14), (Instr.groupReform w q, 0x15)]) :
    Gives c s (formCmd w q opc s.part s.m) := by
  simp only [List.mem_cons, List.not_mem_nil, or_false, Prod.mk.injEq] at hrow
  obtain ⟨rfl, rfl⟩ | ⟨rfl, rfl⟩ := hrow
  · exact (rfl : Gives (.groupForm w q) s _)
  · exact (rfl : Gives (.groupReform w q) s _)

/-! ### A formation at rank 0 (R322) -/

section
variable {p : Part} {m n : Mach} {x : RxPkt} {g : Group} {f : Forming}
  (hnew : isDuplicate m x = false) (hcrc : pkCrcOk (rxBytes x) = true)
  (hn : n = crcPass (acceptAck p m x) x.src) (hgroup : groupOf n (pk (rxBytes x) 0 1) = some g)
  (hforming : g.forming = some f) (hepoch : pk (rxBytes x) 4 7 = g.epoch)
include hnew hcrc hn hgroup hforming hepoch

/-- A JOIN of the image that forms is noted with its source. -/
theorem join_notes (hfind : findColl m kindJoin (formPick m) = some x) (himage : pk (pkData (rxBytes x)) 0 3 = f.crc) :
    join p m = joinReady p (setGroup n (pk (rxBytes x) 0 1)
      { g with forming := some { f with joins := addOnce f.joins x.src } }) (pk (rxBytes x) 0 1) := by
  subst hn
  simp [join, hfind, hnew, hcrc, hgroup, hforming, hepoch, himage]

/-- A JOIN of another image ends the formation. -/
theorem join_refuses (hfind : findColl m kindJoin (formPick m) = some x)
    (himage : pk (pkData (rxBytes x)) 0 3 ≠ f.crc) :
    join p m = formRefused p n (pk (rxBytes x) 0 1) 7 x.src := by
  subst hn
  simp [join, hfind, hnew, hcrc, hgroup, hforming, hepoch, himage]

/-- A TREE_ACK is noted with its relay. -/
theorem treeAck_notes (hfind : findColl m kindAck (formPick m) = some x) (hack : pk (rxBytes x) 3 3 ≠ kindNak) :
    treeAck p m = joinReady p (setGroup n (pk (rxBytes x) 0 1)
      { g with forming := some { f with acks := addOnce f.acks x.src } }) (pk (rxBytes x) 0 1) := by
  subst hn
  simp [treeAck, hfind, hnew, hcrc, hgroup, hforming, hepoch, hack]

end

/-! ### A relay's reservations (R324) -/

/-- Of no reservations none is freed. -/
theorem freeResv_redResv_nil {m : Mach} (pick : RedResv → Bool) (hnone : m.coll.redResv = []) :
    (freeResv m pick).coll.redResv = [] := by
  simp [freeResv, hnone]

/-- No slot is reserved where there are no reservations. -/
theorem resvOf_nil {m : Mach} (n : Nat) (hnone : m.coll.redResv = []) : resvOf m n = none := by
  simp [resvOf, hnone]

section
variable {p : Part} {m n : Mach} {x : RxPkt} (hrelay : p.relay = true) (hnew : isDuplicate m x = false)
  (hcrc : pkCrcOk (rxBytes x) = true) (hn : n = crcPass (acceptAck p m x) x.src)
include hrelay hnew hcrc hn

/-- At a relay that holds no reservation a TREE_SET finds its slots free: they are reserved, and the relay answers. -/
theorem treeSet_reserves (hfind : findColl m kindSet (fun _ => true) = some x) (hnone : n.coll.redResv = []) :
    treeSet p m =
      let bs := rxBytes x
      let k := newResv (freeResv n fun r => r.handle == pk bs 0 1 && decide (r.epoch < pk bs 4 7)) bs
      treeAnswer p { k.2 with coll := { k.2.coll with redResv := k.2.coll.redResv ++ [k.1] } } x.src (pk bs 0 1)
        (pk bs 4 7) kindAck := by
  have hfree := fun i => resvOf_nil i (freeResv_redResv_nil (m := n)
    (fun r => r.handle == pk (rxBytes x) 0 1 && decide (r.epoch < pk (rxBytes x) 4 7)) hnone)
  subst hn
  simp [treeSet, hrelay, hfind, hnew, hcrc, hnone, hfree]

/-- A TREE_FREE frees the reservations of its group up to its epoch. -/
theorem treeFree_frees (hfind : findColl m kindFree (fun _ => true) = some x) :
    treeFree p m = freeResv n fun r => r.handle == pk (rxBytes x) 0 1 && decide (r.epoch ≤ pk (rxBytes x) 4 7) := by
  subst hn
  simp [treeFree, hrelay, hfind, hnew, hcrc]

end

/-! ### The commands -/

/-- Where its reads find nothing amiss, a row of VC3 packets does what it does without them. -/
theorem collRead_clean (kinds : List Nat) (base : Part → Mach → Mach) (p : Part) (m : Mach) :
    collRead kinds .clean base p m = base p m := by
  unfold collRead packetRead
  cases oldestColl m kinds with
  | none => rfl
  | some x => simp [storeCorrected]

theorem gives_join (f : StoreRead) (s : State) : Gives (.join f) s (collRead [kindJoin] f join s.part s.m) := rfl

theorem gives_treeAck (f : StoreRead) (s : State) :
    Gives (.treeAck f) s (collRead [kindAck, kindNak] f treeAck s.part s.m) := rfl

theorem gives_treeSet (f : StoreRead) (s : State) :
    Gives (.treeSet f) s (collRead [kindSet] f treeSet s.part s.m) := rfl

theorem gives_treeFree (f : StoreRead) (s : State) :
    Gives (.treeFree f) s (collRead [kindFree] f treeFree s.part s.m) := rfl

/-- Settles O45: each command answers its meaning, which takes the branch that the image's checks or the packet's group
choose. -/
theorem groupFormationAnswers : Obligations.GroupFormationAnswers := by
  refine ⟨?form, ?join, ?ack, ?set, ?free⟩
  case form =>
    intro s w q r c opc hrow hdue hmem htxns hstage a g
    refine ⟨fun e hfault => ?_, fun hfault hnew hfree => ?_⟩
    · exact (gives_formCmd s hrow).trans_eq (formCmd_fails hdue hmem htxns hstage rfl hfault)
    · exact (gives_formCmd s hrow).trans_eq (formCmd_takes hdue hmem htxns hstage rfl hfault hnew hfree)
  case join =>
    intro s x g f hfind hnew hcrc h m hgroup hforming hepoch
    refine ⟨fun himage => ?_, fun himage => ?_⟩
    · exact (gives_join .clean s).trans_eq
        ((collRead_clean ..).trans (join_notes hnew hcrc rfl hgroup hforming hepoch hfind himage))
    · exact (gives_join .clean s).trans_eq
        ((collRead_clean ..).trans (join_refuses hnew hcrc rfl hgroup hforming hepoch hfind himage))
  case ack =>
    intro s x g f hfind hnew hcrc hack h m hgroup hforming hepoch
    exact (gives_treeAck .clean s).trans_eq
      ((collRead_clean ..).trans (treeAck_notes hnew hcrc rfl hgroup hforming hepoch hfind hack))
  case set =>
    intro s x hrelay hfind hnew hcrc _ bs m hnone
    exact (gives_treeSet .clean s).trans_eq
      ((collRead_clean ..).trans (treeSet_reserves hrelay hnew hcrc rfl hfind hnone))
  case free =>
    intro s x hrelay hfind hnew hcrc
    exact (gives_treeFree .clean s).trans_eq
      ((collRead_clean ..).trans (treeFree_frees hrelay hnew hcrc rfl hfind))

end Sys2Proof.Machine
end

section
/-! Packets of collectives: data placed, counts kept, contributions folded, partials passed on (O47, R315 to R318, R327,
R329, R333, R337 to R339, R461). -/

namespace Sys2Proof.Machine

/-! ### The packet at the front of the received packets (R327, R329) -/

/-- The first of a list that a test picks is the list's first element where the test picks that. -/
theorem find?_of_head? {α : Type} {l : List α} {x : α} {pick : α → Bool} (hhead : l.head? = some x)
    (hpick : pick x = true) : l.find? pick = some x := by
  obtain ⟨xs, rfl⟩ := List.head?_eq_some_iff.mp hhead
  exact List.find?_cons_of_pos hpick

section
variable {p : Part} {m : Mach} {kind : Nat} {x : RxPkt} {g : Group} {o : OpCtx} {op : CollOp}
  (htaken : collTaken m kind x g o op)
include htaken

theorem packetOp_of_collTaken : packetOp m x = some (g, o, op) := by
  obtain ⟨-, -, -, -, -, -, hgroup, hop, hfind⟩ := htaken
  simp [packetOp, hgroup, hop, hfind]

variable (hwhole : rxWhole x = true)
include hwhole

/-- A whole packet of data that has a place in the operation's destination is taken there. -/
theorem collData_takes {place : Group → OpCtx → List Byte → Option Nat} {misplaced : Mach → RxPkt → Mach}
    {done : Group → OpCtx → CollOp → List Byte → Mach → Mach} {off : Nat} (hready : dstReady m o)
    (hplace : place g o (rxBytes x) = some off) :
    collData p m kind place misplaced done =
      takeData p m x (pk (rxBytes x) 0 1) o off (done g o op (rxBytes x)) := by
  have hpacket := packetOp_of_collTaken htaken
  obtain ⟨hhead, hvc, hmgmt, hstarted, hkind, hverdict, -⟩ := htaken
  obtain ⟨hwrites, hmoves⟩ := hready
  unfold collData
  dsimp only
  rw [find?_of_head? hhead (by simp [hvc, hmgmt, hstarted, hkind, hverdict, hpacket, hwrites, hmoves, hwhole])]
  simp only [hverdict, hpacket, hplace]

/-- A whole packet for which the operation is ready is handled, its source's count of bad CRCs started again (R330). -/
theorem collReceive_takes {ready : Group → OpCtx → CollOp → List Byte → Bool}
    {f : Mach → RxPkt → Nat → Group → OpCtx → CollOp → List Byte → Mach}
    (hready : ready g o op (rxBytes x) = true) :
    collReceive p m kind ready f =
      f (crcPassed m (pk (rxBytes x) 0 1) x.src) x (pk (rxBytes x) 0 1) g o op (rxBytes x) := by
  have hpacket := packetOp_of_collTaken htaken
  obtain ⟨hhead, hvc, hmgmt, -, hkind, hverdict, -⟩ := htaken
  unfold collReceive findColl
  dsimp only
  rw [find?_of_head? hhead (by simp [hvc, hmgmt, hkind, hverdict, hpacket, hready, hwhole])]
  simp only [hverdict, hpacket]

end

/-! ### Data that goes to the destination window (R329, R332, R337, R339) -/

section
variable {p : Part} {m : Mach} {x : RxPkt} {g : Group} {o : OpCtx} {op : CollOp}
  (hready : dstReady m o) (hwhole : rxWhole x = true)
include hready hwhole

/-- A data packet within the destination is taken at the place that it names. -/
theorem a2aData_takes (htaken : collTaken m kindData x g o op)
    (hholds : dstHolds m o (o.cDst + pk (rxBytes x) 24 31) (pkLen (rxBytes x)) = true) :
    a2aData p m = takeData p m x (pk (rxBytes x) 0 1) o (o.cDst + pk (rxBytes x) 24 31) fun n =>
      updOp n (pk (rxBytes x) 0 1) fun y => { y with gotN := y.gotN + 1 } :=
  collData_takes htaken hwhole hready (if_pos hholds)

/-- A tree's result is taken at the place of its chunk, which counts from the operation's first. -/
theorem redDown_takes (hmember : p.relay = false) (htaken : collTaken m kindRedDown x g o op)
    (hlo : g.c0 ≤ pk (rxBytes x) 8 11) (hhi : pk (rxBytes x) 8 11 - g.c0 < o.chunks) :
    redDown p m =
      let c := pk (rxBytes x) 8 11 - g.c0
      takeData p m x (pk (rxBytes x) 0 1) o (redPlace o c) fun n =>
        updOp n (pk (rxBytes x) 0 1) fun y => { y with done := addOnce y.done c } := by
  have hplace : (if pk (rxBytes x) 8 11 < g.c0 then none else chunkPlace o (pk (rxBytes x) 8 11 - g.c0)) =
      some (redPlace o (pk (rxBytes x) 8 11 - g.c0)) := (if_neg (by omega)).trans (if_pos hhi)
  unfold redDown
  rw [if_neg (by simp [hmember])]
  exact collData_takes htaken hwhole hready hplace

/-- A ring's result is taken at the place of its chunk, and passed on unless the next rank is its owner. -/
theorem ringAg_takes (htaken : collTaken m kindAg x g o op) (hchunk : pk (rxBytes x) 8 11 < o.chunks) :
    ringAg p m =
      let h := pk (rxBytes x) 0 1
      let c := pk (rxBytes x) 8 11
      takeData p m x h o (redPlace o c) fun n =>
        let me := myRank p n g
        let n := updOp n h fun y => { y with done := addOnce y.done c }
        if (me + 1) % g.size = c % g.size then n
        else sendColl p n h g op ((me + 1) % g.size)
          (collPacket h op.att kindAg g.epoch c me (1024 * c * redBytes o.redFmt) op.opseq op.opc
            (pkData (rxBytes x))) :=
  collData_takes htaken hwhole hready (if_pos hchunk)

end

section
variable {p : Part} {m : Mach} {x : RxPkt} {h off : Nat} {o : OpCtx} (done : Mach → Mach) {q : Mach × RxPkt}
  (hq : q = putFlits p m x o off) (hgood : opFailed q.1 o = false)
include hq hgood

/-- While a write of the packet's flits is out, the packet waits. -/
theorem takeData_writes (hwrites : txnsOut q.1 o.useW = true) : takeData p m x h o off done = q.1 := by
  subst hq
  simp [takeData, hgood, hwrites]

/-- With its writes over, the flits leave their input buffers, and the packet, being whole, is acknowledged and
counted. -/
theorem takeData_accepts (hwrites : txnsOut q.1 o.useW = false) {f : Mach × RxPkt}
    (hf : f = freeFlits q.1 q.2 q.2.put.contains) (hwhole : rxWhole f.2 = true) :
    takeData p m x h o off done = settleColl p (done (acceptAck p (crcPassed f.1 h x.src) f.2)) h := by
  subst hq hf
  simp only [takeData, hgood, hwrites, hwhole, Bool.false_eq_true, if_false, if_true]

end

/-! ### Counts (R333) -/

/-- A row of counts is kept under the rank that sent it. -/
theorem a2avCounts_keeps {p : Part} {m : Mach} {x : RxPkt} {g : Group} {o : OpCtx} {op : CollOp}
    (htaken : collTaken m kindCounts x g o op) (hwhole : rxWhole x = true) :
    a2avCounts p m =
      let h := pk (rxBytes x) 0 1
      let d := pkData (rxBytes x)
      let row := (List.range g.size).map fun i => pk d (4 * i) (4 * i + 3)
      let cap := pk d (4 * g.size) (4 * g.size + 3)
      settleColl p (acceptAck p (updOp (crcPassed m h x.src) h fun y =>
        { y with rows := Assoc.set y.rows (pk (rxBytes x) 12 13 % 4096) (row, cap) }) x) h :=
  collReceive_takes htaken hwhole rfl

/-! ### A relay's slots (R315 to R318, R338) -/

section
variable {p : Part} {m n : Mach} {x : RxPkt} {r : RedResv} (hrelay : p.relay = true) (hnew : isDuplicate m x = false)
  (hn : n = acceptAck p (crcPass m x.src) x) (hresv : resvOf m (pk (rxBytes x) 12 13 % 2048) = some r)
include hrelay hnew hresv

section
variable (hfind : findRed p m kindRedUp = some x)
include hfind

/-- A contribution that finds its slot free and is not the first child's waits in it for its turn (R317). -/
theorem redUp_opens (hcase : redCase m x = .fresh) (hlater : pk (rxBytes x) 14 14 ≠ 0) :
    redUp p m = setSlot m (pk (rxBytes x) 12 13 % 2048) (freshSlot (rxBytes x)) := by
  simp [redUp, hrelay, hfind, hnew, hresv, hcase, hlater]

include hn

/-- The first child's contribution that finds its slot free is folded at once. -/
theorem redUp_folds (hcase : redCase m x = .fresh) (hchild : pk (rxBytes x) 14 14 = 0) :
    redUp p m = foldOn p n r (pk (rxBytes x) 12 13 % 2048) (freshSlot (rxBytes x)) (redValues (rxBytes x)) := by
  subst hn
  simp [redUp, hrelay, hfind, hnew, hresv, hcase, hchild]

variable {z : RedSlot} (hcase : redCase m x = .more) (hslot : slotOf m (pk (rxBytes x) 12 13 % 2048) = some z)
include hcase hslot

/-- A contribution that its slot has folded before is acknowledged alone. -/
theorem redUp_again (hturn : pk (rxBytes x) 14 14 < z.folded) : redUp p m = n := by
  subst hn
  simp [redUp, hrelay, hfind, hnew, hresv, hcase, hslot, hturn]

/-- A contribution whose turn has come is folded. -/
theorem redUp_more (hturn : z.folded ≤ pk (rxBytes x) 14 14) :
    redUp p m = foldOn p n r (pk (rxBytes x) 12 13 % 2048) z (redValues (rxBytes x)) := by
  subst hn
  simp [redUp, hrelay, hfind, hnew, hresv, hcase, hslot, Nat.not_lt.mpr hturn]

end

section
variable (hfind : findRed p m kindRedDown = some x)
include hfind hn

/-- A result that finds its slot free is copied to the slot's children. -/
theorem redDown_opens (hcase : redCase m x = .fresh) :
    redDown p m = sendDown p n r (pk (rxBytes x) 12 13 % 2048) (freshSlot (rxBytes x)) (pkData (rxBytes x)) := by
  subst hn
  simp [redDown, redDownRelay, hrelay, hfind, hnew, hresv, hcase]

/-- A result of the slot's chunk is copied to its children once. -/
theorem redDown_copies {z : RedSlot} (hcase : redCase m x = .more)
    (hslot : slotOf m (pk (rxBytes x) 12 13 % 2048) = some z) (honce : z.downOut = none) :
    redDown p m = sendDown p n r (pk (rxBytes x) 12 13 % 2048) z (pkData (rxBytes x)) := by
  subst hn
  simp [redDown, redDownRelay, hrelay, hfind, hnew, hresv, hcase, hslot, honce]

end

end

/-- R317: a combine unit that is free takes the fold of a contribution. -/
theorem foldOn_placed {p : Part} {m : Mach} {r : RedResv} {n : Nat} {z : RedSlot} {v : List F32}
    (hplace : (placement p m .combine).isSome = true) :
    foldOn p m r n z v = slotComplete p (placeItem p m .combine 8 .none (foldCycles z.elems)) r n (foldSlot v z) :=
  onHearth_placed hplace rfl _

section
variable {p : Part} {m : Mach} {r : RedResv} {n : Nat} {z : RedSlot} (hall : z.folded = r.children.length)
  (honce : z.downOut = none)
include hall honce

/-- At the tree's root a slot with every contribution folded sends its result down. -/
theorem slotComplete_root (hroot : r.parent = none) : slotComplete p m r n z = sendDown p m r n z (partialBytes z) := by
  simp [slotComplete, hall, honce, hroot]

/-- Below the root a slot with every contribution folded sends its partial to its relay's parent. -/
theorem slotComplete_up {d : Nat} (hparent : r.parent = some d) :
    slotComplete p m r n z = sendFlow p (setSlot m n z) d 3 (redPacket r.handle z.att kindRedUp z.epoch z.chunk
      ((r.parentBase + (n - r.base)) % 2048) r.myChild z.fmt z.elems (partialBytes z)) 8 .none := by
  simp [slotComplete, hall, honce, hparent]

end

/-! ### The ring (R339) -/

/-- A partial to which the rank can add, and which no other goes before, gets the rank's contribution on a combine unit:
its owner has the result and passes it on, any other rank passes the partial on. -/
theorem ringRs_adds {p : Part} {m n : Mach} {x : RxPkt} {g : Group} {o : OpCtx} {op : CollOp} {w : XWin}
    {src : Nat × Nat} (htaken : collTaken m kindRs x g o op) (hwhole : rxWhole x = true)
    (hready : partialReady p m o op (rxBytes x) = true)
    (hfirst : ∀ a ∈ partialOps p m, opBefore p m a o = false) (hn : n = crcPassed m (pk (rxBytes x) 0 1) x.src)
    (hsrc : src = chunkSrc o op g.size (myRank p n g) (pk (rxBytes x) 8 11))
    (hwin : xfWin n o (o.winNo 0) = some w) (hgood : winBad n o.ctx w src.1 src.2 = none)
    (hplace : (placement p n .combine).isSome = true) :
    ringRs p m =
      let h := pk (rxBytes x) 0 1
      let c := pk (rxBytes x) 8 11
      let me := myRank p n g
      let k := placeItem p n .combine g.ctx (o.item n) (foldCycles (o.chunkElems c))
      let sum := redOut o.redFmt (((redElems o.redFmt (pkData (rxBytes x))).zip
        (redElems o.redFmt (ownChunk k o op g me c))).map fun q => addInto o.redFmt q.1 q.2)
      let pass := fun m kind => settleColl p (sendColl p m h g op ((me + 1) % g.size)
        (collPacket h op.att kind g.epoch c me (1024 * c * redBytes o.redFmt) op.opseq op.opc sum)) h
      let k := acceptAck p k x
      if me = c % g.size then
        pass (writeDst p (updOp k h fun y => { y with done := addOnce y.done c }) o (redPlace o c) sum) kindAg
      else pass k kindRs := by
  have hturn : ((partialOps p m).filter fun _ => true).any (fun a => opBefore p m a o) = false := by
    simpa using hfirst
  subst hn hsrc
  unfold ringRs ringRsOf
  rw [collReceive_takes htaken hwhole (by simp only [hready, hturn, Bool.and_self, Bool.not_false])]
  simp only [hwin, Option.bind_some, hgood]
  exact onHearth_placed hplace rfl _

/-! ### A filter entry found lost (R461) -/

/-- A row of VC3 packets that finds its packet's filter entry lost handles that first. -/
theorem collRead_filter {p : Part} {m : Mach} {kinds : List Nat} {x : RxPkt} {base : Part → Mach → Mach}
    (hfind : oldestColl m kinds = some x) (hup : storesUp p m = true) (hfresh : x.taken = false) :
    collRead kinds .filter base p m = base p (filterLost p m x.src x.vc) := by
  simp [collRead, packetRead, hfind, hup, hfresh]

/-! ### The commands -/

theorem gives_a2aData (f : StoreRead) (s : State) :
    Gives (.a2aData f) s (collRead [kindData] f a2aData s.part s.m) := rfl

theorem gives_a2avCounts (f : StoreRead) (s : State) :
    Gives (.a2avCounts f) s (collRead [kindCounts] f a2avCounts s.part s.m) := rfl

theorem gives_ringAg (f : StoreRead) (s : State) : Gives (.ringAg f) s (collRead [kindAg] f ringAg s.part s.m) := rfl

theorem gives_redDown (f : StoreRead) (s : State) :
    Gives (.redDown f) s (collRead [kindRedDown] f redDown s.part s.m) := rfl

theorem gives_redUp (s : State) : Gives .redUp s (redUp s.part s.m) :=
  Gives.trans_eq rfl (collRead_clean [kindRedUp] redUp s.part s.m)

theorem givesInTurn_ringRs (s : State) : GivesInTurn .ringRs s (ringRs s.part s.m) :=
  (givesInTurn_of_exec (go := collRead [kindRs] .clean ringRs s.part) rfl).trans_eq (collRead_clean ..)

/-- Settles O47: each command answers its meaning, which takes the branch that the packet's operation or slot
chooses. -/
theorem collectiveDataAnswers : Obligations.CollectiveDataAnswers := by
  refine ⟨?data, ?down, ?ag, ?write, ?counts, ?relay, ?fold, ?complete, ?ring, ?filter⟩
  case data =>
    intro s x g o op htaken hready hwhole h off hholds
    exact (gives_a2aData .clean s).trans_eq
      ((collRead_clean ..).trans (a2aData_takes hready hwhole htaken hholds))
  case down =>
    intro s x g o op hmember htaken hready hwhole h c hlo hhi
    exact (gives_redDown .clean s).trans_eq
      ((collRead_clean ..).trans (redDown_takes hready hwhole hmember htaken hlo hhi))
  case ag =>
    intro s x g o op htaken hready hwhole hchunk
    exact (gives_ringAg .clean s).trans_eq
      ((collRead_clean ..).trans (ringAg_takes hready hwhole htaken hchunk))
  case write =>
    intro p m x h off o done q hgood
    refine ⟨fun hwrites => ?_, fun hwrites hwhole => ?_⟩
    · exact takeData_writes done rfl hgood hwrites
    · exact takeData_accepts done rfl hgood hwrites rfl hwhole
  case counts =>
    intro s x g o op htaken hwhole
    exact (gives_a2avCounts .clean s).trans_eq ((collRead_clean ..).trans (a2avCounts_keeps htaken hwhole))
  case relay =>
    intro s x r hrelay hnew bs n k m hresv
    refine ⟨fun hfind hcase hchild => ?folds, fun hfind hcase hlater => ?waits,
      fun z hfind hcase hslot => ⟨fun hturn => ?again, fun hturn => ?more⟩, fun hfind hcase => ?copied,
      fun z hfind hcase hslot honce => ?copiedOnce⟩
    case folds => exact (gives_redUp s).trans_eq (redUp_folds hrelay hnew rfl hresv hfind hcase hchild)
    case waits => exact (gives_redUp s).trans_eq (redUp_opens hrelay hnew hresv hfind hcase hlater)
    case again => exact (gives_redUp s).trans_eq (redUp_again hrelay hnew rfl hresv hfind hcase hslot hturn)
    case more => exact (gives_redUp s).trans_eq (redUp_more hrelay hnew rfl hresv hfind hcase hslot hturn)
    case copied =>
      exact (gives_redDown .clean s).trans_eq
        ((collRead_clean ..).trans (redDown_opens hrelay hnew rfl hresv hfind hcase))
    case copiedOnce =>
      exact (gives_redDown .clean s).trans_eq
        ((collRead_clean ..).trans (redDown_copies hrelay hnew rfl hresv hfind hcase hslot honce))
  case fold => exact fun p m r n z v hplace => foldOn_placed hplace
  case complete =>
    intro p m r n z hall honce
    exact ⟨slotComplete_root hall honce, fun d hparent => slotComplete_up hall honce hparent⟩
  case ring =>
    intro s x g o op w htaken hwhole hready _ h bs c m me src hwin hgood hfirst hplace
    exact (givesInTurn_ringRs s).trans_eq
      (ringRs_adds htaken hwhole hready hfirst rfl rfl hwin hgood hplace)
  case filter =>
    intro s x c kinds base hrow hfind hup hfresh
    have hlost := collRead_filter (base := base) hfind hup hfresh
    simp only [List.mem_cons, List.not_mem_nil, or_false, Prod.mk.injEq] at hrow
    obtain ⟨rfl, rfl, rfl⟩ | ⟨rfl, rfl, rfl⟩ | ⟨rfl, rfl, rfl⟩ | ⟨rfl, rfl, rfl⟩ | ⟨rfl, rfl, rfl⟩ | ⟨rfl, rfl, rfl⟩ |
      ⟨rfl, rfl, rfl⟩ | ⟨rfl, rfl, rfl⟩ := hrow
    · exact (gives_a2aData .filter s).trans_eq hlost
    · exact (gives_a2avCounts .filter s).trans_eq hlost
    · exact (gives_ringAg .filter s).trans_eq hlost
    · exact (gives_redDown .filter s).trans_eq hlost
    · exact (gives_join .filter s).trans_eq hlost
    · exact (gives_treeAck .filter s).trans_eq hlost
    · exact (gives_treeSet .filter s).trans_eq hlost
    · exact (gives_treeFree .filter s).trans_eq hlost

end Sys2Proof.Machine
end

section
/-! FAB_BATCH, FENCE and the four requests (O48, R355, R366 to R368, R372, R373). -/

namespace Sys2Proof.Machine

section
variable {p : Part} {m : Mach} {w q : Nat} {r : Running}

/-! ### FAB_BATCH (R355) -/

section
variable {f : StoreRead} (hdue : dueCmd p m w q 0x20 = some r) (hcopies : groupCopies m w = false)
include hdue hcopies

/-- A batch whose list has been read takes its verbs, each a line of the list. -/
theorem fabBatch_begins (hstage : r.stage = 0) (hmem : r.memFail = false)
    (hread : txnsOut (readFinds p m f) (.cmdRead r.acc) = false) :
    fabBatch w q f p m =
      let n := bytesOf r.line 32 35
      let m := readFinds p m f
      let lines := (List.range n).map fun i => hostLine m (bytesOf r.line 16 23 % 2 ^ 42 + 64 * i)
      let b : Batch := { acc := r.acc, ctx := w, statusAddr := bytesOf r.line 24 31 % 2 ^ 42, wins := r.wins,
                         verbs := lines.zipIdx.map fun (l, i) => { idx := i, line := l } }
      let m := setRunning { m with cmd := { m.cmd with batches := m.cmd.batches ++ [b] } } { r with stage := 1 }
      batchSettle p (pumpVerbs p r.acc (n + 1) m) r.acc := by
  simp only [fabBatch, fabBatch.imageLines, hdue, hcopies, hstage, hmem, hread, Bool.false_eq_true, if_false, if_true]

/-- A batch that has begun goes on with the verbs that it has. -/
theorem fabBatch_goesOn (hstage : r.stage = 1) :
    fabBatch w q f p m =
      batchSettle p (pumpVerbs p r.acc (bytesOf r.line 32 35 + 1) (readFinds p m f)) r.acc := by
  simp only [fabBatch, hdue, hcopies, hstage, Bool.false_eq_true, if_false, Nat.one_ne_zero]

end

/-! ### FENCE (R366) -/

/-- The WRITE packets that a FENCE covers: its context's, issued before it started, to its node or to all. -/
def fenced (m : Mach) (w : Nat) (r : Running) : List WritePkt :=
  m.cmd.writes.filter fun k => k.ctx == w && decide (k.order < r.n) &&
    (bitOf r.line 143 || k.node == bytesOf r.line 16 17 % 4096)

section
variable (hdue : dueCmd p m w q 0x21 = some r)
include hdue

/-- With every packet that it covers failed, or none left, a FENCE completes with the first one's status. -/
theorem fence_completes (hsettled : ∀ k ∈ fenced m w r, k.failed ≠ none) :
    fence w q p m = complete m r ((((fenced m w r).head?).bind (·.failed)).getD stDone) := by
  have hnone : ((fenced m w r).any fun k => k.failed.isNone) = false := by simpa using hsettled
  unfold fenced at hnone ⊢
  simp only [fence, hdue, hnone, Bool.false_eq_true, if_false]

/-- While a packet that it covers is outstanding, a FENCE waits. -/
theorem fence_waits (hout : ∃ k ∈ fenced m w r, k.failed = none) : fence w q p m = m := by
  have hsome : ((fenced m w r).any fun k => k.failed.isNone) = true := by simpa using hout
  unfold fenced at hsome
  simp only [fence, hdue, hsome, if_true]

end

/-! ### SUBSCRIBE, PUBLISH_INVAL, OWN_ACQUIRE and OWN_RELEASE (R367, R368, R372, R373) -/

/-- A request is sent once, where this node's table has room for one more subscription. -/
theorem sendCmd_sends {op kind : Nat} (hdue : dueCmd p m w q op = some r) (hstage : r.stage = 0)
    (hroom : m.fab.subsOwn.length + subscribing m < 4096) :
    sendCmd w q op kind p m = sendFlow p (setRunning m { r with stage := 1 }) (bytesOf r.line 16 17 % 4096) 4
      (cmdPacket p m w r.line kind) w (.cmd r.acc w) := by
  simp only [sendCmd, hdue, hstage, ne_eq, not_true_eq_false, Nat.not_le.mpr hroom, and_false, if_false]

end

/-! ### The commands -/

theorem gives_fabBatch (w q : Nat) (f : StoreRead) (s : State) :
    Gives (.fabBatch w q f) s (fabBatch w q f s.part s.m) := rfl

theorem gives_fence (w q : Nat) (s : State) : Gives (.fence w q) s (fence w q s.part s.m) := rfl

theorem gives_subscribe (w q : Nat) (s : State) : Gives (.subscribe w q) s (sendCmd w q 0x22 kSub s.part s.m) := rfl

theorem gives_publishInval (w q : Nat) (s : State) :
    Gives (.publishInval w q) s (sendCmd w q 0x23 kPub s.part s.m) := rfl

theorem gives_ownAcquire (w q : Nat) (s : State) :
    Gives (.ownAcquire w q) s (sendCmd w q 0x24 kOwnReq s.part s.m) := rfl

theorem gives_ownRelease (w q : Nat) (s : State) :
    Gives (.ownRelease w q) s (sendCmd w q 0x25 kOwnRel s.part s.m) := rfl

/-- Settles O48: FAB_BATCH by its stage, FENCE by the packets that it covers, and the four requests by the one lemma
about their sending. -/
theorem fabricCommandsAnswer : Obligations.FabricCommandsAnswer := by
  refine ⟨fun s w q r f hdue hcopies => ⟨?begins, ?goesOn⟩, fun s w q r hdue => ⟨?completes, ?waits⟩, ?requests⟩
  case begins =>
    exact fun hstage hmem hread =>
      (gives_fabBatch w q f s).trans_eq (fabBatch_begins hdue hcopies hstage hmem hread)
  case goesOn => exact fun hstage => (gives_fabBatch w q f s).trans_eq (fabBatch_goesOn hdue hcopies hstage)
  case completes => exact fun hsettled => (gives_fence w q s).trans_eq (fence_completes hdue hsettled)
  case waits => exact fun hout => (gives_fence w q s).trans_eq (fence_waits hdue hout)
  case requests =>
    intro s w q r c opc kind hrow hdue hstage hroom
    have hsent := sendCmd_sends (kind := kind) hdue hstage hroom
    simp only [List.mem_cons, List.not_mem_nil, or_false, Prod.mk.injEq] at hrow
    obtain ⟨rfl, rfl, rfl⟩ | ⟨rfl, rfl, rfl⟩ | ⟨rfl, rfl, rfl⟩ | ⟨rfl, rfl, rfl⟩ := hrow
    · exact (gives_subscribe w q s).trans_eq hsent
    · exact (gives_publishInval w q s).trans_eq hsent
    · exact (gives_ownAcquire w q s).trans_eq hsent
    · exact (gives_ownRelease w q s).trans_eq hsent

end Sys2Proof.Machine
end

section
/-! The registers of fabric memory (O51, R351, R352, R361, R369, R373). -/

namespace Sys2Proof.Machine

section
variable {p : Part} {m : Mach}

/-! ### The lockout (R361) -/

/-- A locked source whose hold has passed is locked no more. -/
theorem lockoutHoldEnd_unlocks {n : Nat} (hlocked : (lockOf m n).locked = true)
    (hhold : rdF p m Reg.fabLockCtrl 47 32 ≠ 0)
    (hpassed : (lockOf m n).start + 1000000000000 * rdF p m Reg.fabLockCtrl 47 32 ≤ m.tick.time) :
    lockoutHoldEnd n p m = unlock m n :=
  if_pos ⟨hlocked, hhold, hpassed⟩

section
variable {src : Src} {v : Word} (hpass : writeGate p m src Reg.fabLockClr = .pass)
include hpass

theorem lockClr_all (hall : bitOf v 12 = true) :
    lockClr src v p m = { m with fab := { m.fab with locks := m.fab.locks.filter fun q => !q.2.locked } } :=
  (gated_pass _ hpass).trans (if_pos hall)

theorem lockClr_one (hone : bitOf v 12 = false) (hlocked : (lockOf m (bitsOf v 11 0)).locked = true) :
    lockClr src v p m = unlock m (bitsOf v 11 0) :=
  (gated_pass _ hpass).trans ((if_neg (by simp [hone])).trans (if_pos hlocked))

end

/-! ### DUX_FORCE (R373) -/

/-- An owned region passes on. -/
theorem duxForce_grants {src : Src} {v : Word} (hpass : writeGate p m src Reg.fabDuxForce = .pass)
    (howned : (regionOf m (bitsOf v 15 0)).owner ≠ none) :
    duxForce src v p m = grantNext p m (bitsOf v 15 0) :=
  (gated_pass _ hpass).trans (if_pos (Option.isSome_iff_ne_none.mpr howned))

/-! ### Region table entries (R350 to R352) -/

section
variable {src : Src} {addr : Nat} {v : Word} (hwin : inRegionWin addr = true)
  (hpass : writeGate p m src addr = .pass)
include hwin hpass

section
variable (hreg : (regionAt p m addr).2 = 0)
include hreg

theorem regionEntryWrite_ctrl (hallowed : ctrlRefused (regionOf m (regionAt p m addr).1) v = false) :
    regionEntryWrite src addr v p m =
      let n := setRegionCtrl p m (regionAt p m addr).1 v
      if bitOf v 57 then keygenRegion p n (regionAt p m addr).1 else n := by
  simp only [regionEntryWrite, hwin, gated_pass _ hpass, hreg, hallowed, if_true, Bool.false_eq_true, if_false]

/-- R351: an ignored write of CTRL. -/
theorem regionEntryWrite_ctrl_refused (href : ctrlRefused (regionOf m (regionAt p m addr).1) v = true) :
    regionEntryWrite src addr v p m = ignored p m src addr := by
  simp only [regionEntryWrite, hwin, gated_pass _ hpass, hreg, href, if_true]

end

section
variable (hoff : (regionOf m (regionAt p m addr).1).v = false)
include hoff

theorem regionEntryWrite_base (hreg : (regionAt p m addr).2 = 1) :
    regionEntryWrite src addr v p m =
      setRegion m (regionAt p m addr).1
        { regionOf m (regionAt p m addr).1 with base := v &&& 0x3FF_FFFF_FFC0 } := by
  simp only [regionEntryWrite, hwin, gated_pass _ hpass, hreg, hoff, if_true, Bool.false_eq_true, if_false]

theorem regionEntryWrite_len (hreg : (regionAt p m addr).2 = 2) :
    regionEntryWrite src addr v p m =
      setRegion m (regionAt p m addr).1
        { regionOf m (regionAt p m addr).1 with len := v &&& 0x7FF_FFFF_FFFF } := by
  simp only [regionEntryWrite, hwin, gated_pass _ hpass, hreg, hoff, if_true, Bool.false_eq_true, if_false]

end

theorem regionEntryWrite_key (hreg : (regionAt p m addr).2 = 3) :
    regionEntryWrite src addr v p m = setKey p m (regionAt p m addr).1 v := by
  simp only [regionEntryWrite, hwin, gated_pass _ hpass, hreg, if_true]

end

/-- KEYGEN is a write of CTRL. -/
theorem keygen_eq_regionEntryWrite {src : Src} {addr : Nat} {v : Word} (hwin : inRegionWin addr = true)
    (hctrl : addr % 32 = 0) (hgen : bitOf v 57 = true) :
    keygen src addr v p m = regionEntryWrite src addr v p m := by
  simp [keygen, hwin, hctrl, hgen]

/-! ### FAB_IRING_TAIL (R369) -/

theorem fabIringTailWrite_frees {src : Src} {c : Nat} {v : Word} (hctx : c < 8)
    (hpass : writeGate p m src (Reg.ctxFabIringTail c) = .pass) :
    fabIringTailWrite src c v p m =
      iringOverflow p (wr p m (Reg.ctxFabIringTail c) (wordOf (bitsOf v 31 0))) c :=
  (if_pos hctx).trans (gated_pass _ hpass)

end

/-! ### The commands -/

theorem gives_lockoutHoldEnd (n : Nat) (s : State) :
    Gives (.lockoutHoldEnd n) s (lockoutHoldEnd n s.part s.m) := rfl

section
variable (src : Src) (v : Word) (s : State)

theorem givesW_lockClr : GivesW src (.lockClr src v) s (lockClr src v s.part s.m) := rfl

theorem givesW_duxForce : GivesW src (.duxForce src v) s (duxForce src v s.part s.m) := rfl

theorem givesW_regionEntryWrite (addr : Nat) :
    GivesW src (.regionEntryWrite src addr v) s (regionEntryWrite src addr v s.part s.m) := rfl

theorem givesW_keygen (addr : Nat) : GivesW src (.keygen src addr v) s (keygen src addr v s.part s.m) := rfl

theorem givesW_fabIringTailWrite (c : Nat) :
    GivesW src (.fabIringTailWrite src c v) s (fabIringTailWrite src c v s.part s.m) := rfl

end

/-- Settles O51: each register command's write passes its gate, and does what its branch says. -/
theorem fabricRegistersAnswer : Obligations.FabricRegistersAnswer := by
  refine ⟨?hold, fun s src v hpass => ⟨?all, ?one⟩, ?force,
    fun s src addr v hwin hpass => ⟨?ctrl, ?refused, ?base, ?len, ?key, ?keygen⟩, ?tail⟩
  case hold =>
    intro s n hlocked hhold hpassed
    exact (gives_lockoutHoldEnd n s).trans_eq (lockoutHoldEnd_unlocks hlocked hhold hpassed)
  case all => exact fun hall => (givesW_lockClr src v s).trans_eq (lockClr_all hpass hall)
  case one => exact fun hone hlocked => (givesW_lockClr src v s).trans_eq (lockClr_one hpass hone hlocked)
  case force =>
    intro s src v hpass howned
    exact (givesW_duxForce src v s).trans_eq (duxForce_grants hpass howned)
  case ctrl =>
    intro hreg hallowed hplain
    exact (givesW_regionEntryWrite src v s addr).trans_eq
      ((regionEntryWrite_ctrl hwin hpass hreg hallowed).trans (if_neg (by simp [hplain])))
  case refused =>
    intro hreg href
    exact (givesW_regionEntryWrite src v s addr).trans_eq (regionEntryWrite_ctrl_refused hwin hpass hreg href)
  case base =>
    exact fun hreg hoff => (givesW_regionEntryWrite src v s addr).trans_eq (regionEntryWrite_base hwin hpass hoff hreg)
  case len =>
    exact fun hreg hoff => (givesW_regionEntryWrite src v s addr).trans_eq (regionEntryWrite_len hwin hpass hoff hreg)
  case key => exact fun hreg => (givesW_regionEntryWrite src v s addr).trans_eq (regionEntryWrite_key hwin hpass hreg)
  case keygen =>
    intro hreg hctrl hallowed hgen
    exact (givesW_keygen src v s addr).trans_eq ((keygen_eq_regionEntryWrite hwin hctrl hgen).trans
      ((regionEntryWrite_ctrl hwin hpass hreg hallowed).trans (if_pos hgen)))
  case tail =>
    intro s src c v hctx hpass
    exact (givesW_fabIringTailWrite src v s c).trans_eq (fabIringTailWrite_frees hctx hpass)

end Sys2Proof.Machine
end

section
/-! Requests of fabric memory (R222, R359, R360, R461): what the reads of their rows find, and the check of those that
are carried out at once. -/

namespace Sys2Proof.Machine

section
variable {p : Part} {m : Mach}

/-! ### The reads of a request's row (R222, R461) -/

/-- Where its reads find nothing amiss, a row that handles a packet does what it does without them. -/
theorem packetRead_clean (found : Option RxPkt) (base : Part → Mach → Mach) (p : Part) (m : Mach) :
    packetRead found .clean base p m = base p m := by
  unfold packetRead
  cases found with
  | none => rfl
  | some x => simp [storeCorrected]

section
variable {found : Option RxPkt} {reads : RxPkt → Bool} {lost : Mach → RxPkt → Mach} {base : Part → Mach → Mach}

theorem requestRead_clean : requestRead found reads .clean lost base p m = base p m := by
  unfold requestRead
  cases found with
  | none => rfl
  | some x => simp [storeCorrected]

/-- R461: the request whose region's entry is lost is answered as lost. -/
theorem requestRead_word {x : RxPkt} {n : Nat} (hup : storesUp p m = true) (hreads : reads x = true) :
    requestRead (some x) reads (.word n false) lost base p m =
      lost (regionLost p m (readFab (rxBytes x)).region) x := by
  simp [requestRead, hup, hreads]

/-- R461: a filter entry that is lost is not VALID when the request is handled. -/
theorem requestRead_filter {x : RxPkt} (hup : storesUp p m = true) (hfresh : x.taken = false) :
    requestRead (some x) reads .filter lost base p m = base p (filterLost p m x.src x.vc) := by
  simp [requestRead, hup, hfresh]

end

theorem otherRead_clean (kind : Nat) (base : Part → Mach → Mach) (p : Part) (m : Mach) :
    otherRead kind base .clean p m = base p m := requestRead_clean

theorem writeRead_clean (p : Part) (m : Mach) : writeRead .clean p m = fabWrite p m := requestRead_clean

theorem atomicRead_clean (hcopies : systemCopies p m = false) : atomicRead .clean p m = fabAtomic p m :=
  (if_neg (by simp [hcopies])).trans requestRead_clean

/-! ### Requests that are carried out at once (R360) -/

/-- A request that passes its checks is carried out. -/
theorem request_passes {kind : Nat} {x : RxPkt} {f : Mach → RxPkt → FabPkt → Mach} (hfind : findOther m kind = some x)
    (hchecks : (fabCheck p m x.src (rxBytes x)).1 = 0) : request p m kind f = f m x (readFab (rxBytes x)) := by
  simp only [request, hfind, hchecks, ne_eq, not_true_eq_false, if_false]

end

end Sys2Proof.Machine
end

section
/-! Notices, ownership and answers (O50, R358, R369, R372, R373). -/

namespace Sys2Proof.Machine

section
variable {p : Part} {m : Mach} {x : RxPkt}

/-! ### INVAL (R369) -/

section
variable (hfind : findOther m kInval = some x)
include hfind

/-- A notice whose record is written is acknowledged. -/
theorem inval_ends (htaken : x.taken = true) : inval p m = acceptAck p m x := by
  simp only [inval, hfind, htaken, if_true]

/-- A notice that no subscription ends puts its record into its context's ring, and is acknowledged unless the ring
holds it. -/
theorem inval_records (hfresh : x.taken = false) (hnew : isDuplicate m x = false)
    (hkept : (readFab (rxBytes x)).op % 2 = 0) :
    inval p m =
      let k := readFab (rxBytes x)
      let y := beginServe m x 1
      let n := iringWrite p y.1 (k.flags / 2 % 8) (iringRecord k.region x.src (k.op0 % 4096) 0 k.roff k.len)
        (some y.2.serve)
      if iringHolds n y.2.serve then n else acceptAck p n y.2 := by
  simp only [inval, hfind, hfresh, hnew, hkept, Nat.zero_ne_one, decide_false, Bool.false_and, Bool.false_eq_true,
    if_false]

end

/-! ### OWN_REQ, OWN_REL and OWN_GRANT (R372, R373) -/

section
variable (hfind : findOther m kOwnReq = some x) (hchecks : (fabCheck p m x.src (rxBytes x)).1 = 0)
include hfind hchecks

theorem ownReq_takes (hfree : (regionOf m (readFab (rxBytes x)).region).owner = none) :
    ownReq p m =
      let r := (readFab (rxBytes x)).region
      answer p (setRegion m r { regionOf m r with owner := some x.src }) x stDone 0 [] := by
  unfold ownReq
  rw [request_passes hfind hchecks]
  simp only [hfree]

/-- A node that neither owns the region nor waits for it joins its waiters, where there is room. -/
theorem ownReq_waits {n : Nat} (howner : (regionOf m (readFab (rxBytes x)).region).owner = some n) (hother : n ≠ x.src)
    (hnew : ∀ w ∈ m.fab.waiters, w.1 ≠ (readFab (rxBytes x)).region ∨ w.2.1 ≠ x.src)
    (hroom : m.fab.waiters.length < 1024) :
    ownReq p m =
      let k := readFab (rxBytes x)
      acceptAck p { m with fab := { m.fab with waiters := m.fab.waiters ++ [(k.region, x.src, k.job)] } } x := by
  have hnone : m.fab.waiters.any (fun w => w.1 == (readFab (rxBytes x)).region && w.2.1 == x.src) = false := by
    simpa [Classical.or_iff_not_imp_left] using hnew
  unfold ownReq
  rw [request_passes hfind hchecks]
  simp only [howner, hother, hnone, Nat.not_le.mpr hroom, Bool.false_eq_true, if_false]

end

section
variable (hfind : findOther m kOwnRel = some x) (hchecks : (fabCheck p m x.src (rxBytes x)).1 = 0)
include hfind hchecks

theorem ownRel_passesOn (howner : (regionOf m (readFab (rxBytes x)).region).owner = some x.src) :
    ownRel p m = answer p (grantNext p m (readFab (rxBytes x)).region) x stDone 0 [] := by
  unfold ownRel
  rw [request_passes hfind hchecks]
  simp only [howner, if_true]

/-- The release of a node that does not own the region takes it out of the waiters. -/
theorem ownRel_leaves (howner : (regionOf m (readFab (rxBytes x)).region).owner ≠ some x.src) :
    ownRel p m = answer p { m with fab := { m.fab with
      waiters := m.fab.waiters.filter fun w => !(w.1 == (readFab (rxBytes x)).region && w.2.1 == x.src) } }
      x stDone 0 [] := by
  unfold ownRel
  rw [request_passes hfind hchecks]
  simp only [howner, if_false]

end

theorem ownGrant_completes (hfind : m.net.rx.find? (fun x => isFab x kOwnGrant) = some x)
    (hnew : isDuplicate m x = false) :
    ownGrant p m =
      let n := acceptAck p m x
      (acquiring n x.src (readFab (rxBytes x)).region).foldl
        (fun n r => complete n r (readFab (rxBytes x)).status) n := by
  simp only [ownGrant, hfind, hnew, Bool.false_eq_true, if_false]

/-! ### RESP (R358) -/

/-- The first answer to a request that is out does what it does for what the request carries, unless it waits for a
group that is being copied. -/
theorem resp_settles {o : Outst} (hfind : m.net.rx.find? (fun x => isFab x kResp) = some x)
    (hout : findOut m x.src 4 (readFab (rxBytes x)).rfsn = some o) (hgoes : respWaits m o.use = false) :
    resp p m = respEffect p (settleFlow p (dropRx m x) x.src 4 (readFab (rxBytes x)).rfsn) o.use
      (readFab (rxBytes x)) := by
  simp only [resp, hfind, hout, hgoes, Bool.false_eq_true, if_false]

end

/-! ### The commands -/

section
variable (s : State)

theorem gives_inval : Gives .inval s (inval s.part s.m) :=
  Gives.trans_eq rfl (packetRead_clean (findOther s.m kInval) inval s.part s.m)

theorem gives_ownReq (f : StoreRead) : Gives (.ownReq f) s (otherRead kOwnReq ownReq f s.part s.m) := rfl

theorem gives_ownRel (f : StoreRead) : Gives (.ownRel f) s (otherRead kOwnRel ownRel f s.part s.m) := rfl

theorem gives_ownGrant : Gives .ownGrant s (ownGrant s.part s.m) :=
  Gives.trans_eq rfl (packetRead_clean (findOther s.m kOwnGrant) ownGrant s.part s.m)

theorem gives_resp : Gives .resp s (resp s.part s.m) := rfl

end

/-- Settles O50: each command answers its meaning, which takes the branch that the packet and its region's owner
choose. -/
theorem ownershipAndAnswers : Obligations.OwnershipAndAnswers := by
  refine ⟨fun s x hfind => ⟨?written, ?recorded⟩, fun s x hfind hchecks => ⟨?free, ?waits⟩,
    fun s x hfind hchecks => ⟨?owner, ?other⟩, ?grant, ?resp⟩
  case written => exact fun htaken => (gives_inval s).trans_eq (inval_ends hfind htaken)
  case recorded =>
    exact fun hfresh hnew hkept => (gives_inval s).trans_eq (inval_records hfind hfresh hnew hkept)
  case free =>
    exact fun hfree => (gives_ownReq s .clean).trans_eq ((otherRead_clean ..).trans (ownReq_takes hfind hchecks hfree))
  case waits =>
    intro n howner hother hnew hroom
    exact (gives_ownReq s .clean).trans_eq
      ((otherRead_clean ..).trans (ownReq_waits hfind hchecks howner hother hnew hroom))
  case owner =>
    exact fun howner =>
      (gives_ownRel s .clean).trans_eq ((otherRead_clean ..).trans (ownRel_passesOn hfind hchecks howner))
  case other =>
    exact fun howner =>
      (gives_ownRel s .clean).trans_eq ((otherRead_clean ..).trans (ownRel_leaves hfind hchecks howner))
  case grant =>
    intro s x hfind hnew
    exact (gives_ownGrant s).trans_eq (ownGrant_completes hfind hnew)
  case resp =>
    intro s x o hfind k hout m
    have hsettled := resp_settles (p := s.part) hfind hout
    refine ⟨fun acc c huse => ?command, fun acc c i j huse hcopies => ?verb⟩ <;> rw [huse] at hsettled
    case command => exact (gives_resp s).trans_eq (hsettled rfl)
    case verb => exact (gives_resp s).trans_eq (hsettled hcopies)

end Sys2Proof.Machine
end

section
/-! What a retirement leaves of fabric memory's tables (R222, R223, R292, R350): neither an uncorrectable line, with the
retirement, teardown or FATAL that it may bring, nor a packet sent changes a region's entry or a duplicate filter. -/

namespace Sys2Proof.Machine

/-- The region table and the duplicate filters of a machine. -/
def FabTables (rs : Assoc Region) (fs : Assoc Filter) (m : Mach) : Prop := m.fab.regions = rs ∧ m.net.filters = fs

/-- The entries that a machine's tables hold. -/
theorem FabTables.self (m : Mach) : FabTables m.fab.regions m.net.filters m := ⟨rfl, rfl⟩

section
variable {rs : Assoc Region} {fs : Assoc Filter} {p : Part} {m : Mach}

/-- Duplicates are told by the filters alone. -/
theorem FabTables.isDuplicate {n : Mach} (h : FabTables rs m.net.filters n) (x : RxPkt) :
    isDuplicate n x = isDuplicate m x := by
  obtain ⟨-, hfilters⟩ := h
  simp only [Machine.isDuplicate, filterOf, hfilters]

theorem FabTables.ite {n : Mach} {c : Prop} [Decidable c] (hm : FabTables rs fs m) (hn : FabTables rs fs n) :
    FabTables rs fs (if c then m else n) := by
  split
  · exact hm
  · exact hn

/-- A fold keeps the tables where each of its steps does. -/
theorem FabTables.foldl {α : Type} {f : Mach → α → Mach} {l : List α} (h : FabTables rs fs m)
    (hf : ∀ n x, FabTables rs fs n → FabTables rs fs (f n x)) : FabTables rs fs (l.foldl f m) := by
  induction l generalizing m with
  | nil => exact h
  | cons x l ih => exact ih (hf m x h)

theorem FabTables.setCache {l : List Reply} (h : FabTables rs fs m) :
    FabTables rs fs { m with fab := { m.fab with cache := l } } := h

/-! ### Registers and the log -/

theorem FabTables.wr {a : Nat} {v : Word} (h : FabTables rs fs m) : FabTables rs fs (wr p m a v) := h

theorem FabTables.orReg {a mask : Nat} (h : FabTables rs fs m) : FabTables rs fs (orReg p m a mask) := h

theorem FabTables.setEvt {page b : Nat} (h : FabTables rs fs m) : FabTables rs fs (setEvt p m page b) := h

theorem FabTables.setLastStatus {page st : Nat} (h : FabTables rs fs m) :
    FabTables rs fs (setLastStatus p m page st) := h

theorem FabTables.bump {a n : Nat} (h : FabTables rs fs m) : FabTables rs fs (bump p m a n) := .ite h h

theorem FabTables.wrAll {l : List (Nat × Word)} (h : FabTables rs fs m) : FabTables rs fs (wrAll p m l) := by
  induction l generalizing m with
  | nil => exact h
  | cons x l ih => exact ih h.wr

theorem FabTables.loseEntries {n : Nat} (h : FabTables rs fs m) : FabTables rs fs (loseEntries p m n) := .ite h h

theorem FabTables.pushEntry {e : LogEntry} (h : FabTables rs fs m) : FabTables rs fs (pushEntry p m e) :=
  .loseEntries h

theorem FabTables.captureEntry {page : Nat} {e : LogEntry} (h : FabTables rs fs m) :
    FabTables rs fs (captureEntry p m page e) :=
  h.wrAll.orReg

theorem FabTables.flushEntries (h : FabTables rs fs m) : FabTables rs fs (flushEntries p m) :=
  .foldl h fun _ _ h => .ite h.loseEntries h

theorem FabTables.report {r : Report} (h : FabTables rs fs m) : FabTables rs fs (report p m r) := by
  have hcounted : FabTables rs fs (match r.sev with
      | .corrected => Machine.bump p m (Reg.cntCorr r.page) 1
      | .transient => Machine.orReg p (Machine.bump p m (Reg.cntTrans r.page) 1) Reg.glbFaultStat 1
      | .permanent => Machine.orReg p m Reg.glbFaultStat 2
      | _ => m) := by
    split
    · exact h.bump
    · exact h.bump
    · exact h
    · exact h
  exact .ite (.ite hcounted.captureEntry hcounted) (.pushEntry (.ite hcounted.captureEntry hcounted))

theorem FabTables.reportOnly {r : Report} (h : FabTables rs fs m) : FabTables rs fs (reportOnly p m r) :=
  h.captureEntry.pushEntry

/-! ### Memory transactions and completions -/

theorem FabTables.issueTxn {t : Txn} (h : FabTables rs fs m) : FabTables rs fs (issueTxn p m t) := by
  obtain ⟨i, tag, n, rfl, hissued⟩ | hwaits := issueTxn_cases p m t
  · rw [hissued]
    unfold countStrided
    split
    · exact h.bump
    · exact h
  · rw [hwaits]
    exact h

theorem FabTables.startWrites {a : Nat} {bs : List Byte} {use : TxnUse} {strided : Option Nat}
    (h : FabTables rs fs m) : FabTables rs fs (startWrites p m a bs use strided) :=
  .foldl h fun _ _ h => .issueTxn h

theorem FabTables.signalOf {l : Line} {st : Nat} (h : FabTables rs fs m) : FabTables rs fs (signalOf m l st) := .ite h h

theorem FabTables.complete {r : Running} {st detail : Nat} (h : FabTables rs fs m) :
    FabTables rs fs (complete m r st detail) :=
  FabTables.signalOf (m := dropRunning m r.acc) h

theorem FabTables.completeStep {r : Running} {st detail step att : Nat} {nan : Bool} (h : FabTables rs fs m) :
    FabTables rs fs (completeStep m r st detail step att nan) :=
  FabTables.signalOf (m := dropRunning m r.acc) h

/-! ### Steps and buffers -/

theorem FabTables.setRun {x : RunSt} (h : FabTables rs fs m) : FabTables rs fs { m with run := x } := h

theorem FabTables.setCtx {c : Nat} {x : Ctx} (h : FabTables rs fs m) : FabTables rs fs (setCtx m c x) := h

theorem FabTables.removeStep {s : StepRun} (h : FabTables rs fs m) : FabTables rs fs (removeStep m s) := h

theorem FabTables.updStep {c : Nat} {f : StepRun → StepRun} (h : FabTables rs fs m) :
    FabTables rs fs (updStep m c f) := by
  unfold Machine.updStep
  split
  · exact .ite h h
  · exact h

theorem FabTables.updPhase {c : Nat} {k : Key} {f : LayerPhase → LayerPhase} (h : FabTables rs fs m) :
    FabTables rs fs (updPhase m c k f) :=
  h.updStep

theorem FabTables.freeBuf {c cls n : Nat} (h : FabTables rs fs m) : FabTables rs fs (freeBuf m c cls n) := by
  unfold Machine.freeBuf
  dsimp only
  split
  · exact h
  · exact h

/-! ### Own flits that leave or are lost -/

theorem FabTables.kindleGone {k : KindleOut} (h : FabTables rs fs m) : FabTables rs fs (kindleGone m k) := by
  unfold Machine.kindleGone
  split
  · split
    · exact .ite h.complete h
    · exact h
  · split
    · exact h
    · exact h

theorem FabTables.billetGone {c : Nat} {k : Key} {t : Nat} (h : FabTables rs fs m) :
    FabTables rs fs (billetGone m c k t) := by
  unfold Machine.billetGone
  dsimp only
  split
  · refine .ite ?_ h
    split
    · split
      · exact .ite h.updPhase.freeBuf h.updPhase
      · exact h.updPhase
    · exact h
  · exact h

theorem FabTables.tileGone {c : Nat} {k : Key} {buf : Nat} (h : FabTables rs fs m) :
    FabTables rs fs (tileGone m c k buf) := by
  unfold Machine.tileGone
  split
  · refine .ite ?_ h
    split
    · exact .ite h.updPhase.freeBuf h.updPhase
    · exact h
  · exact h

theorem FabTables.flitGone {o : Origin} (h : FabTables rs fs m) : FabTables rs fs (flitGone m o) := by
  cases o with
  | billet => exact h.billetGone
  | close => exact h.updPhase
  | tile => exact h.tileGone
  | records => exact .foldl h fun _ _ h => h.kindleGone
  | admitFlit | flow | none => exact h

theorem FabTables.failOrigin {o : Origin} {st : Nat} (h : FabTables rs fs m) :
    FabTables rs fs (failOrigin p m o st) := by
  cases o with
  | billet | close | admitFlit | tile => exact h.updStep
  | none | flow | records => exact h

theorem FabTables.countUnreach {c : Nat} {k : Key} {t d : Nat} (h : FabTables rs fs m) :
    FabTables rs fs (countUnreach p m c k t d) := by
  unfold Machine.countUnreach
  split
  · exact .ite h.updPhase.bump h
  · exact h

theorem FabTables.dropUnreachable {f : OwnFlit} (h : FabTables rs fs m) :
    FabTables rs fs (dropUnreachable p m f) := by
  have hcounted : FabTables rs fs (match f.origin with
      | .billet c k t d => Machine.countUnreach p m c k t d
      | _ => m) := by
    split
    · exact h.countUnreach
    · exact h
  exact .ite hcounted.failOrigin hcounted.failOrigin.flitGone

/-! ### Packets sent (R290, R304) -/

theorem FabTables.queueFlit {f : OwnFlit} (h : FabTables rs fs m) : FabTables rs fs (queueFlit p m f) := by
  unfold Machine.queueFlit
  split
  · split
    · exact h
    · exact h
  · exact h
  · exact h.dropUnreachable

theorem FabTables.queuePacket {vc dst : Nat} {mgmt : Bool} {fsn ctx : Nat} {o : Origin} {bytes : List Byte}
    (h : FabTables rs fs m) : FabTables rs fs (queuePacket p m vc dst mgmt fsn ctx o bytes) :=
  .ite h (.foldl h fun _ _ h => h.queueFlit)

theorem FabTables.noteWrite {d ctx : Nat} {body : List Byte} {use : FlowUse} (h : FabTables rs fs m) :
    FabTables rs fs (noteWrite m d ctx body use) := by
  unfold Machine.noteWrite
  split
  · exact .ite h h
  · exact h

theorem FabTables.sendFlow {d vc : Nat} {body : List Byte} {ctx : Nat} {use : FlowUse} {mgmt : Bool}
    (h : FabTables rs fs m) : FabTables rs fs (sendFlow p m d vc body ctx use mgmt) :=
  .ite (.queuePacket (.noteWrite h)) h

theorem FabTables.sendRecord {dst : Nat} {bytes : BitVec 128} (h : FabTables rs fs m) :
    FabTables rs fs (sendRecord p m dst bytes) := by
  exact .ite h h

/-! ### Transit flits (R305) -/

theorem FabTables.freeCredit {l vc : Nat} (h : FabTables rs fs m) : FabTables rs fs (freeCredit m l vc) := .ite h h

theorem FabTables.releaseTransit {t : TransitFlit} (h : FabTables rs fs m) : FabTables rs fs (releaseTransit p m t) :=
  .ite h (.ite (.freeCredit h) h)

theorem FabTables.dropPacket {counter ev : Nat} {f : Flit} (h : FabTables rs fs m) :
    FabTables rs fs (dropPacket p m counter ev f) := by
  unfold Machine.dropPacket
  split
  · exact h
  · exact h.bump

theorem FabTables.queueTransit {t : TransitFlit} (h : FabTables rs fs m) : FabTables rs fs (queueTransit p m t) := by
  unfold Machine.queueTransit
  split
  · split
    · exact h
    · exact h
  · exact h
  · exact h.releaseTransit.dropPacket

/-! ### Usable sets that change (R308, R369, R370) -/

theorem FabTables.iringNext {c k : Nat} (h : FabTables rs fs m) : FabTables rs fs (iringNext p c k m) := by
  induction k generalizing m with
  | zero => exact h
  | succ k ih =>
    unfold Machine.iringNext
    split
    · exact .ite h (.ite (ih h) (.ite (.startWrites h) (ih h)))
    · exact h

theorem FabTables.endSubscriptions {d : Nat} (h : FabTables rs fs m) : FabTables rs fs (endSubscriptions p m d) :=
  .foldl (.ite h h) fun _ _ h => .iringNext h

theorem FabTables.retryWaiting (h : FabTables rs fs m) : FabTables rs fs (retryWaiting p m) :=
  .foldl h fun _ _ h => h.queueFlit

theorem FabTables.retryTransit (h : FabTables rs fs m) : FabTables rs fs (retryTransit p m) :=
  .foldl h fun _ _ h => h.queueTransit

theorem FabTables.rerouted {before : List (Nat × Nat)} (h : FabTables rs fs m) :
    FabTables rs fs (rerouted p before m) :=
  .retryTransit (.retryWaiting (.foldl (.ite h h.setEvt) fun _ _ h => .ite h.report.endSubscriptions h))

theorem FabTables.withReroute {f : Mach → Mach} (h : FabTables rs fs m)
    (hf : ∀ n, FabTables rs fs n → FabTables rs fs (f n)) : FabTables rs fs (withReroute p m f) :=
  (hf _ h).rerouted

/-! ### Collectives and formations that end (R342) -/

theorem FabTables.updGroup {h' : Nat} {f : Group → Group} (h : FabTables rs fs m) :
    FabTables rs fs (updGroup m h' f) := by
  unfold Machine.updGroup
  split
  · exact h
  · exact h

theorem FabTables.sendAborts {h' att reason epoch opseq : Nat} {nodes : List Nat} (h : FabTables rs fs m) :
    FabTables rs fs (sendAborts p m h' att reason epoch opseq nodes) :=
  have hsent := h.foldl fun _ _ h => h.sendRecord
  .ite hsent hsent.bump

theorem FabTables.killColls {c reason : Nat} (h : FabTables rs fs m) : FabTables rs fs (killColls p m c reason) := by
  refine h.foldl fun n g hn => ?_
  split
  · split
    · exact .updGroup (.ite hn hn.sendAborts.updGroup)
    · exact hn
  · exact hn

theorem FabTables.killForming {c : Nat} (h : FabTables rs fs m) : FabTables rs fs (killForming p m c) := by
  refine h.foldl fun n g hn => ?_
  dsimp only
  split
  · exact .ite hn (.ite hn (.foldl hn.sendAborts fun _ _ h => h.sendFlow))
  · exact hn

/-! ### A context killed (R374, R420, R425) -/

theorem FabTables.killBatch {b : Batch} (h : FabTables rs fs m) : FabTables rs fs (killBatch p m b) :=
  h.foldl fun _ _ h => .ite h h.startWrites

theorem FabTables.killFab {c : Nat} (h : FabTables rs fs m) : FabTables rs fs (killFab p m c) := by
  unfold Machine.killFab
  extract_lets a b n
  have ha : FabTables rs fs a := h.foldl fun _ _ h => .ite h.killBatch h
  have hb : FabTables rs fs b := ha.foldl fun _ _ h => .ite h.startWrites h
  have hn : FabTables rs fs n := hb.foldl fun _ _ h => h
  exact hn.foldl fun _ _ h => .ite h.sendFlow h

theorem FabTables.dropKindles {pick : Option Nat → Bool} (h : FabTables rs fs m) :
    FabTables rs fs (dropKindles m pick) := h

theorem FabTables.dropStages {c : Nat} (h : FabTables rs fs m) : FabTables rs fs (dropStages m c) := h

theorem FabTables.dropTxns {keep : TxnUse → Bool} (h : FabTables rs fs m) : FabTables rs fs (dropTxns m keep) := h

theorem FabTables.writeBacks {c : Nat} (h : FabTables rs fs m) : FabTables rs fs (writeBacks m c) := h

theorem FabTables.stopItems {c : Nat} (h : FabTables rs fs m) : FabTables rs fs (stopItems m c) := by
  refine .writeBacks (.dropTxns (.dropStages (.setRun (.setRun (.setRun ?_)))))
  split
  · exact h.dropKindles
  · exact h

theorem FabTables.sendStepAbort {s : StepRun} {reason : Nat} (h : FabTables rs fs m) :
    FabTables rs fs (sendStepAbort p m s reason) :=
  h.foldl fun _ _ h => h.sendRecord

theorem FabTables.completeKilled {step : Option StepRun} {stepSt stepDetail : Nat} {r : Running} {detail : Nat}
    (h : FabTables rs fs m) : FabTables rs fs (completeKilled m step stepSt stepDetail r detail) := by
  unfold Machine.completeKilled
  split
  · exact h.completeStep
  · exact .ite h.completeStep h.complete

theorem FabTables.killContext {c reason stepSt stepDetail : Nat} (h : FabTables rs fs m) :
    FabTables rs fs (killContext p m c reason stepSt stepDetail) :=
  (h.killColls.killForming.killFab.stopItems.dropKindles.setCtx.foldl fun _ _ h => h.sendStepAbort.removeStep).foldl
    fun _ _ h => .ite h h.completeKilled

theorem FabTables.teardown {c cause low : Nat} (h : FabTables rs fs m) : FabTables rs fs (teardown p m c cause low) :=
  h.killContext.setCtx.wr.setEvt.reportOnly

/-! ### Links that retire (R296, R297) -/

theorem FabTables.setLink {l : Nat} {x : Link} (h : FabTables rs fs m) : FabTables rs fs (setLink m l x) := h

theorem FabTables.dropBound {l : Nat} (h : FabTables rs fs m) : FabTables rs fs (dropBound m l) := h

theorem FabTables.endMeas {l st : Nat} (h : FabTables rs fs m) : FabTables rs fs (endMeas m l st) := by
  unfold Machine.endMeas measPart
  dsimp only
  split
  · split
    · exact .ite (.complete h) h
    · exact h
  · exact h

theorem FabTables.respread {own : List OwnFlit} {transit : List TransitFlit} (h : FabTables rs fs m) :
    FabTables rs fs (respread p m own transit) :=
  .foldl (.foldl h fun _ _ h => h.queueFlit) fun _ _ h => h.queueTransit

theorem FabTables.requeueHeld {h' : Held} (h : FabTables rs fs m) : FabTables rs fs (requeueHeld p m h') := by
  unfold Machine.requeueHeld
  split
  · exact h.queueTransit
  · exact h.queueFlit

theorem FabTables.salvageLink {l rx : Nat} (h : FabTables rs fs m) : FabTables rs fs (salvageLink p m l rx) :=
  .foldl h fun _ _ h => h.requeueHeld

theorem FabTables.sendLinkDown {l : Nat} {x : Link} (h : FabTables rs fs m) :
    FabTables rs fs (sendLinkDown p m l x) := by
  unfold Machine.sendLinkDown
  split
  · exact h.sendRecord
  · exact h

theorem FabTables.retireLink {l cause : Nat} (h : FabTables rs fs m) : FabTables rs fs (retireLink p m l cause) := by
  unfold Machine.retireLink
  dsimp only
  refine .ite h ?_
  split
  · exact (h.dropBound.endMeas.withReroute fun _ h =>
      h.setLink.setLastStatus.setEvt.report).respread.sendLinkDown.salvageLink
  · exact (h.dropBound.endMeas.withReroute fun _ h => h.setLink.setLastStatus.setEvt.report).respread.sendLinkDown

/-! ### VC0 flits sent before the links retire (R289, R462) -/

/-- A flit of VC0 carries records and no packet, so that no filter takes it. -/
theorem FabTables.deliverFlit_vc0 {l : Nat} {t : TransitFlit} (h : FabTables rs fs m) (hvc : t.flit.vc = 0) :
    FabTables rs fs (deliverFlit p m l t) := by
  unfold Machine.deliverFlit
  dsimp only
  rw [if_pos hvc]
  have hfreed : ∀ c : Bool, FabTables rs fs (if c then m else Machine.freeCredit m l t.flit.vc) :=
    fun _ => .ite h h.freeCredit
  exact .ite (.ite (.report (hfreed _)) (hfreed _)) (hfreed _)

theorem FabTables.deliverFront_vc0 {l k : Nat} (h : FabTables rs fs m) : FabTables rs fs (deliverFront p l 0 k m) := by
  induction k generalizing m with
  | zero => exact h
  | succ k ih =>
    unfold Machine.deliverFront
    dsimp only
    split
    · next hfront => exact .ite (ih (.deliverFlit_vc0 h (by simpa using List.find?_some hfront))) h
    · exact h

theorem FabTables.sendData {l : Nat} {x : Link} {own : OwnFlit} {inLink : Option Nat} (h : FabTables rs fs m) :
    FabTables rs fs (sendData p m l x own inLink) :=
  have hsent := FabTables.bump (m := emitFlit m l _ _ own.flit) h
  .ite hsent.bump hsent

theorem FabTables.packetSent {o : Origin} (h : FabTables rs fs m) : FabTables rs fs (packetSent m o) := by
  unfold Machine.packetSent
  split
  · split
    · split
      · exact h
      · exact h
    · exact h
  · exact h

theorem FabTables.carry {l who : Nat} (h : FabTables rs fs m) : FabTables rs fs (carry m l who) := h

theorem FabTables.sendOwn {l : Nat} {f : OwnFlit} (h : FabTables rs fs m) : FabTables rs fs (sendOwn p m l f) :=
  .ite h.sendData.carry.packetSent h.sendData.carry.packetSent.flitGone

theorem FabTables.sendRecords {l : Nat} {rs' : List Rec0} (h : FabTables rs fs m) :
    FabTables rs fs (sendRecords p m l rs') :=
  .flitGone (.sendData (.ite h h))

theorem FabTables.sendTransit_vc0 {l : Nat} {t : TransitFlit} (h : FabTables rs fs m) (hvc : t.flit.vc = 0) :
    FabTables rs fs (sendTransit p m l t) := by
  unfold Machine.sendTransit
  dsimp only
  rw [hvc]
  exact h.sendData.carry.releaseTransit.deliverFront_vc0

/-- The transit flit that a link sends next on a channel is one of that channel. -/
theorem vc_of_nextTransit {x : Link} {vc : Nat} {t : TransitFlit} (h : nextTransit x vc = some t) : t.flit.vc = vc := by
  unfold nextTransit at h
  dsimp only at h
  split at h
  · simpa using (List.mem_filter.mp (List.mem_of_find?_eq_some h)).2
  · cases h

theorem FabTables.sendVc0 {l : Nat} (h : FabTables rs fs m) {n : Mach} (hsent : sendVc0 p m l .clean = some n) :
    FabTables rs fs n := by
  unfold Machine.sendVc0 at hsent
  dsimp only at hsent
  split at hsent
  · cases hsent
  · split at hsent <;> cases hsent
    · next ht _ _ => exact h.sendTransit_vc0 (vc_of_nextTransit ht)
    · next ht _ _ => exact .ite (h.sendTransit_vc0 (vc_of_nextTransit ht)) (.sendRecords h)
    · next ht _ => exact .ite (h.sendTransit_vc0 (vc_of_nextTransit ht)) h.sendOwn
    · exact h.sendOwn
    · exact h.sendRecords

theorem FabTables.drainVc0 {l k : Nat} (h : FabTables rs fs m) : FabTables rs fs (drainVc0 p l k m) := by
  induction k generalizing m with
  | zero => exact h
  | succ k ih =>
    unfold Machine.drainVc0
    split
    · next hsent => exact ih (h.sendVc0 hsent)
    · exact h

/-! ### FATAL and the retirement of kiln groups (R222, R223, R462) -/

theorem FabTables.fatal {cause unit : Nat} (h : FabTables rs fs m) : FabTables rs fs (fatal p m cause unit) :=
  .ite h (((h.flushEntries.report.flushEntries.orReg.orReg.foldl fun _ _ h => h.sendStepAbort).foldl fun _ _ h =>
    h.drainVc0).foldl fun _ _ h => h.retireLink)

theorem FabTables.endBist {acc st : Nat} {ran failed : Bool} (h : FabTables rs fs m) :
    FabTables rs fs (endBist p m acc st ran failed) := by
  unfold Machine.endBist
  split
  · exact .complete (.setEvt (.ite (.setEvt (.bump (.ite h.wr.bump h.wr))) (.ite h.wr.bump h.wr)))
  · exact h

theorem FabTables.retireGroup {g : Nat} (h : FabTables rs fs m) : FabTables rs fs (retireGroup p m g) := by
  have hnoted : FabTables rs fs (Machine.orReg p (kilnPageRetired p m) Reg.kilnGroupUnusable (2 ^ g)) := h
  unfold Machine.retireGroup
  dsimp only
  refine .ite (.report ?_) ?_
  · split
    · exact .endBist h
    · exact h
  · split
    · split
      · exact hnoted.report.teardown
      · exact hnoted.report
    · exact hnoted.report.fatal
    · exact hnoted.report.fatal
    · exact hnoted.report
    · exact hnoted.report
    · exact hnoted.report

theorem FabTables.lineNoted {line bank : Nat} {known : Option Nat} (h : FabTables rs fs m) :
    FabTables rs fs (lineNoted p m line bank known) :=
  h.wr.report.setRun

theorem FabTables.kilnNote {line : Nat} {known : Option Nat} (h : FabTables rs fs m) :
    FabTables rs fs (kilnNote p m line known) :=
  h.lineNoted.setRun

theorem FabTables.settleRetire (h : FabTables rs fs m) : FabTables rs fs (settleRetire p m) :=
  .foldl h fun _ _ h => h.retireGroup

theorem FabTables.kilnUe {line : Nat} {known : Option Nat} (h : FabTables rs fs m) :
    FabTables rs fs (kilnUe p m line known) :=
  h.kilnNote.settleRetire

end

end Sys2Proof.Machine
end

section
/-! Requests for this node's fabric memory (O49, R222, R352, R359, R362 to R364, R367, R368, R461). -/

namespace Sys2Proof.Machine

section
variable {p : Part} {m : Mach} {x : RxPkt}

/-! ### The one check of a WRITE or ATOMIC (R351, R360) -/

theorem seeRx_unseen (hseen : x.seen = none) :
    seeRx p m x = (putRx m x { x with seen := some (fabSee p m x) }, { x with seen := some (fabSee p m x) }) := by
  simp only [seeRx, hseen]

/-- The check of a packet leaves its source, its FSN and its bytes, and the duplicate filters and the reply cache. -/
theorem seeRx_keeps (p : Part) (m : Mach) (x : RxPkt) :
    (seeRx p m x).2.src = x.src ∧ (seeRx p m x).2.fsn = x.fsn ∧ rxBytes (seeRx p m x).2 = rxBytes x ∧
      isDuplicate (seeRx p m x).1 (seeRx p m x).2 = isDuplicate m x ∧
      ∀ src fsn, cacheLookup (seeRx p m x).1 src fsn = cacheLookup m src fsn := by
  cases hseen : x.seen with
  | some found =>
    have hsame : seeRx p m x = (m, x) := by simp only [seeRx, hseen]
    rw [hsame]
    exact ⟨rfl, rfl, rfl, rfl, fun _ _ => rfl⟩
  | none =>
    rw [seeRx_unseen hseen]
    exact ⟨rfl, rfl, rfl, rfl, fun _ _ => rfl⟩

/-! ### WRITE (R359, R362) -/

section
variable (hfind : findServe m kWrite = some x)
include hfind

/-- A new WRITE that passes its checks, and whose lines nothing holds, starts its transfer. -/
theorem fabWrite_starts {z : Mach × RxPkt} (hz : z = seeRx p m x) (hfresh : x.taken = false)
    (hnew : isDuplicate m x = false) (hchecks : (seenOf p z.1 z.2).reason = 0) (hfree : lineHeld z.1 z.2 = false) :
    fabWrite p m =
      let y := beginServe z.1 z.2 1
      startWrites p y.1 (seenOf p z.1 z.2).base (readFab (rxBytes x)).data (.serve y.2.serve) := by
  subst hz
  simp only [fabWrite, hfind, hfresh, hnew, hchecks, hfree, ne_eq, not_true_eq_false, Bool.false_eq_true, if_false]

theorem fabWrite_ends (htaken : x.taken = true) : fabWrite p m = writeEnds p m x := by
  simp only [fabWrite, hfind, htaken, if_true]

end

section
variable (hwritten : serveFailed m x = false)
include hwritten

/-- A WRITE whose bytes have been written raises the counter that its region names. -/
theorem writeEnds_counts {n : Nat} (hevt : (seenOf p m x).evt = some n) :
    writeEnds p m x = acceptAck p (release (addEvt m n 1)) x := by
  simp only [writeEnds, hwritten, hevt, Bool.false_eq_true, if_false]

theorem writeEnds_acknowledges (hevt : (seenOf p m x).evt = none) : writeEnds p m x = acceptAck p m x := by
  simp only [writeEnds, hwritten, hevt, Bool.false_eq_true, if_false]

end

/-! ### READ (R359) -/

section
variable (hfind : findOther m kRead = some x)
include hfind

theorem fabRead_starts (hfresh : x.taken = false) (hchecks : (fabSee p m x).reason = 0) :
    fabRead p m =
      let z := seeRx p m x
      let y := beginServe z.1 z.2 1
      startReads p y.1 (fabSee p m x).base (readFab (rxBytes x)).len (.serve y.2.serve) := by
  simp only [fabRead, hfind, hfresh, hchecks, ne_eq, not_true_eq_false, Bool.false_eq_true, if_false]

theorem fabRead_answers (htaken : x.taken = true) (hread : serveFailed m x = false) :
    fabRead p m = answer p m x stDone 0 (hostBytes m (seenOf p m x).base (readFab (rxBytes x)).len) := by
  simp only [fabRead, hfind, htaken, hread, Bool.false_eq_true, if_false, if_true]

end

/-! ### ATOMIC (R362 to R364) -/

section
variable (hfind : findServe m kAtomic = some x)
include hfind

section
variable (htaken : x.taken = true) (hmoved : serveFailed m x = false)
include htaken hmoved

/-- An ATOMIC whose old value has been read writes the new one. -/
theorem fabAtomic_writes (hstage : x.stage = 1) :
    fabAtomic p m =
      let k := readFab (rxBytes x)
      let span := fabSpan m x
      let old := leNat (hostBytes m span.1 span.2)
      let z : RxPkt := { x with rxOld := old }
      let y := beginServe (putRx m x z) z 2
      startWrites p y.1 span.1 (leBytes span.2 (atomicNew k.op old k.op0 k.op1)) (.serve y.2.serve) := by
  simp only [fabAtomic, hfind, htaken, hmoved, hstage, Bool.not_true, Bool.false_eq_true, if_false, if_true]

/-- An ATOMIC whose new value has been written answers with the old one. -/
theorem fabAtomic_answers (hstage : x.stage = 2) : fabAtomic p m = atomicAnswer p m x stDone 0 x.rxOld true := by
  simp only [fabAtomic, hfind, htaken, hmoved, hstage, Bool.not_true, Bool.false_eq_true, if_false,
    OfNat.ofNat_ne_one]

end

/-- An ATOMIC whose line nothing holds comes to its first handling, checked. -/
theorem fabAtomic_arrives {z : Mach × RxPkt} (hz : z = seeRx p m x) (hfresh : x.taken = false)
    (hfree : lineHeld z.1 z.2 = false) : fabAtomic p m = atomicArrives p z.1 z.2 := by
  subst hz
  simp only [fabAtomic, hfind, hfresh, hfree, Bool.not_false, Bool.false_and, Bool.false_eq_true, if_false, if_true]

end

/-- R364: a duplicate ATOMIC without a cached answer has an outcome that is not known. -/
theorem atomicArrives_unknown (hmember : p.relay = false) (hagain : isDuplicate m x = true)
    (hlost : cacheLookup m x.src x.fsn = none) :
    atomicArrives p m x =
      respond p (noteFail p (dropRx m x) x.src (readFab (rxBytes x)) 0x09 true) x stUnknown 0x09 0 [] := by
  simp only [atomicArrives, atomicAgain, hmember, hagain, hlost, Bool.false_eq_true, if_false, if_true]

/-! ### A region's entry that is lost (R352, R461) -/

/-- The effects of R352 clear the owner in the region's entry, and leave the other entries and the filters. -/
theorem fabTables_endRegion (p : Part) (m : Mach) (r : Nat) :
    FabTables (Assoc.set m.fab.regions r { regionOf m r with owner := none }) m.net.filters (endRegion p m r) := by
  have hcleared : FabTables (Assoc.set m.fab.regions r { regionOf m r with owner := none }) m.net.filters
      (setRegion m r { regionOf m r with owner := none }) := .self _
  exact .foldl (.foldl (.ite hcleared hcleared) fun _ _ h => h.sendFlow) fun _ _ h => h.sendFlow

theorem regionOf_endRegion (p : Part) (m : Mach) (r : Nat) :
    regionOf (endRegion p m r) r = { regionOf m r with owner := none } := by
  obtain ⟨hregions, -⟩ := fabTables_endRegion p m r
  rw [regionOf, hregions]
  exact Assoc.get_set_eq ..

/-- A write of CTRL stores its writable bits. -/
theorem ctrl_setRegionCtrl (p : Part) (m : Mach) (r : Nat) (v : Word) :
    (regionOf (setRegionCtrl p m r v) r).ctrl = v &&& regionCtrlBits := by
  unfold setRegionCtrl
  dsimp only
  split
  · rw [regionOf_endRegion, regionOf_setRegion_eq]
  · rw [regionOf_setRegion_eq]

theorem v_regionLost (p : Part) (m : Mach) (r : Nat) : (regionOf (regionLost p m r) r).v = false := by
  rw [Region.v, regionLost, ctrl_setRegionCtrl]
  simp [bitOf]

section
variable {n : Nat} (hup : storesUp p m = true) (hreads : readsEntry p m x = true)
include hup hreads

theorem writeRead_word (hfind : findServe m kWrite = some x) (hnew : isDuplicate m x = false) :
    writeRead (.word n false) p m =
      let k := regionLost p m (readFab (rxBytes x)).region
      respond p (noteLost p (dropRx k x) x) x stUncorrectable 0x08 0 [] := by
  unfold writeRead
  rw [hfind, requestRead_word hup (by simp [hreads, hnew])]

theorem otherRead_word {kind : Nat} {base : Part → Mach → Mach} (hfind : findOther m kind = some x) :
    otherRead kind base (.word n false) p m =
      let k := regionLost p m (readFab (rxBytes x)).region
      answer p (noteLost p k x) x stUncorrectable 0x08 [] := by
  unfold otherRead
  rw [hfind, requestRead_word hup hreads]

/-- An ATOMIC comes to the region's entry after the checks of R364, and its answer is cached. -/
theorem atomicRead_word (hcopies : systemCopies p m = false) (hfind : findServe m kAtomic = some x)
    (hchecks : atomicChecks m x = true) :
    atomicRead (.word n false) p m =
      let k := regionLost p m (readFab (rxBytes x)).region
      atomicAnswer p (markFilter k x.src x.vc x.fsn) x stUncorrectable 0x08 0 true := by
  simp only [atomicRead, hcopies, Bool.false_eq_true, if_false, hfind]
  exact requestRead_word hup (by simp [hreads, hchecks])

end

/-! ### A cached answer that is lost (R222, R364) -/

theorem cacheLookup_replyLost (p : Part) (m : Mach) (src fsn n : Nat) :
    cacheLookup (replyLost p m src fsn n) src fsn = none := by
  unfold cacheLookup replyLost
  generalize kilnUe p m n (some 4) = k
  refine List.find?_eq_none.mpr fun e he => ?_
  obtain ⟨d, -, rfl⟩ := List.mem_map.mp he
  split
  · simp
  · next hother => simpa using fun hsrc hfsn => absurd ⟨hsrc, hfsn⟩ hother

/-- The loss of a cached answer leaves the region table and the duplicate filters. -/
theorem fabTables_replyLost (p : Part) (m : Mach) (src fsn n : Nat) :
    FabTables m.fab.regions m.net.filters (replyLost p m src fsn n) :=
  (FabTables.self m).kilnUe.setCache

theorem atomicRead_line {n : Nat} (hcopies : systemCopies p m = false) (hup : storesUp p m = true)
    (hfind : findServe m kAtomic = some x) (hfresh : x.taken = false) (hagain : isDuplicate m x = true) :
    atomicRead (.line n false) p m = fabAtomic p (replyLost p m x.src x.fsn n) := by
  simp [atomicRead, hcopies, hfind, hup, hfresh, hagain]

/-- A retried ATOMIC that finds its cached answer lost is answered ERR_OUTCOME_UNKNOWN. -/
theorem fabAtomic_replyLost {n : Nat} {k : Mach} (hk : k = replyLost p m x.src x.fsn n) {z : Mach × RxPkt}
    (hz : z = seeRx p k x) (hfresh : x.taken = false) (hagain : isDuplicate m x = true)
    (hfind : findServe k kAtomic = some x) (hmember : p.relay = false) (hfree : lineHeld z.1 z.2 = false) :
    fabAtomic p k =
      respond p (noteFail p (dropRx z.1 z.2) x.src (readFab (rxBytes x)) 0x09 true) z.2 stUnknown 0x09 0 [] := by
  obtain ⟨hsrc, hfsn, hbytes, hdup, hcache⟩ := hz ▸ seeRx_keeps p k x
  have hstill : isDuplicate k x = true := hk ▸ ((fabTables_replyLost p m x.src x.fsn n).isDuplicate x).trans hagain
  have hlost : cacheLookup z.1 z.2.src z.2.fsn = none := by
    rw [hcache, hsrc, hfsn, hk, cacheLookup_replyLost]
  rw [fabAtomic_arrives hfind hz hfresh hfree, atomicArrives_unknown hmember (hdup.trans hstill) hlost, hsrc, hbytes]

/-! ### SUB and PUB (R367, R368) -/

section
variable (hfind : findOther m kSub = some x) (hchecks : (fabCheck p m x.src (rxBytes x)).1 = 0)
  {e : Subscription}
  (he : e = { node := x.src, ctx := (readFab (rxBytes x)).flags / 2 % 8, region := (readFab (rxBytes x)).region,
              roff := (readFab (rxBytes x)).roff, len := (readFab (rxBytes x)).len })
include hfind hchecks he

theorem sub_cancels (hop : (readFab (rxBytes x)).op = 1) :
    sub p m = answer p { m with fab := { m.fab with subsHome := m.fab.subsHome.erase e } } x stDone 0 [] := by
  unfold sub
  rw [request_passes hfind hchecks, he]
  simp only [hop, if_true]

theorem sub_enters (hop : (readFab (rxBytes x)).op ≠ 1) (hnew : e ∉ m.fab.subsHome)
    (hroom : m.fab.subsHome.length < 4096) :
    sub p m = answer p { m with fab := { m.fab with subsHome := m.fab.subsHome ++ [e] } } x stDone 0 [] := by
  have hnone : m.fab.subsHome.contains e = false := by simpa using hnew
  unfold sub
  rw [request_passes hfind hchecks]
  subst he
  simp only [hop, hnone, Nat.not_le.mpr hroom, Bool.false_eq_true, if_false]

end

/-- A publication notifies the other subscribers whose ranges it meets, and is answered when their notices are
settled. -/
theorem pub_notifies (hfind : findOther m kPub = some x) (hchecks : (fabCheck p m x.src (rxBytes x)).1 = 0) :
    pub p m =
      let k := readFab (rxBytes x)
      let hit := m.fab.subsHome.filter fun e =>
        e.meets k.region k.roff k.len && !(e.node == x.src && e.ctx == k.flags / 2 % 8)
      let id := m.fab.nextPub
      let n := dropRx m x
      let q : Pub := { id := id, src := x.src, fsn := x.fsn, region := k.region, job := k.job, left := hit.length }
      let n := { n with fab := { n.fab with nextPub := id + 1, pubs := n.fab.pubs ++ [q] } }
      pubSettle p (hit.foldl (fun n e =>
        sendInval p n e false x.src k.roff k.len (.inval id e.node e.ctx e.region e.roff e.len)) n) id :=
  request_passes hfind hchecks

end

/-! ### The commands -/

section
variable (f : StoreRead) (s : State)

theorem gives_fabWrite : Gives (.fabWrite f) s (writeRead f s.part s.m) := rfl

theorem gives_fabRead : Gives (.fabRead f) s (otherRead kRead fabRead f s.part s.m) := rfl

theorem gives_fabAtomic : Gives (.fabAtomic f) s (atomicRead f s.part s.m) := rfl

theorem gives_sub : Gives (.sub f) s (otherRead kSub sub f s.part s.m) := rfl

theorem gives_pub : Gives (.pub f) s (otherRead kPub pub f s.part s.m) := rfl

end

theorem storesUp_of_up {p : Part} {m : Mach} (hup : engineUp m = true) (hfatal : isFatal p m = false) :
    storesUp p m = true := by
  simp [storesUp, hup, hfatal]

/-- Settles O49: each command answers its meaning, which takes the branch that the packet's checks and transfer, and
what its reads find, choose. That a retried ATOMIC is still a duplicate when its cached answer is lost rests on
`FabTables`: a retirement that the lost line brings leaves the filters. -/
theorem fabricServiceAnswers : Obligations.FabricServiceAnswers := by
  refine ⟨?check, fun s x hfind => ⟨?writeStarts, fun htaken hwritten => ⟨?writeCounts, ?writeEnds⟩⟩,
    fun s x hfind => ⟨?readStarts, ?readAnswers⟩,
    fun s x hcopies hfind htaken hmoved => ⟨?atomicWrites, ?atomicAnswers⟩, ?lostEntry, ?lostReply, ?lostFilter,
    fun s x hfind hchecks => ⟨?cancels, ?enters⟩, ?publishes⟩
  case check => exact fun p m x hseen => ⟨seeRx_unseen hseen, rfl, rfl⟩
  case writeStarts =>
    intro hfresh hnew hchecks hfree
    exact (gives_fabWrite .clean s).trans_eq
      ((writeRead_clean ..).trans (fabWrite_starts hfind rfl hfresh hnew hchecks hfree))
  case writeCounts =>
    intro n hevt
    exact (gives_fabWrite .clean s).trans_eq
      ((writeRead_clean ..).trans ((fabWrite_ends hfind htaken).trans (writeEnds_counts hwritten hevt)))
  case writeEnds =>
    intro hevt
    exact (gives_fabWrite .clean s).trans_eq
      ((writeRead_clean ..).trans ((fabWrite_ends hfind htaken).trans (writeEnds_acknowledges hwritten hevt)))
  case readStarts =>
    intro hfresh hchecks
    exact (gives_fabRead .clean s).trans_eq ((otherRead_clean ..).trans (fabRead_starts hfind hfresh hchecks))
  case readAnswers =>
    intro htaken hread
    exact (gives_fabRead .clean s).trans_eq ((otherRead_clean ..).trans (fabRead_answers hfind htaken hread))
  case atomicWrites =>
    intro hstage
    exact (gives_fabAtomic .clean s).trans_eq
      ((atomicRead_clean hcopies).trans (fabAtomic_writes hfind htaken hmoved hstage))
  case atomicAnswers =>
    intro hstage
    exact (gives_fabAtomic .clean s).trans_eq
      ((atomicRead_clean hcopies).trans (fabAtomic_answers hfind htaken hmoved hstage))
  case lostEntry =>
    intro s x n hengine hfatal hreads m
    have hup := storesUp_of_up hengine hfatal
    refine ⟨v_regionLost .., fun hfind hnew => ?write, fun c kind hrow hfind => ?others,
      fun hcopies hfind hchecks => ?atomic⟩
    case write => exact (gives_fabWrite ..).trans_eq (writeRead_word hup hreads hfind hnew)
    case others =>
      simp only [List.mem_cons, List.not_mem_nil, or_false, Prod.mk.injEq] at hrow
      obtain ⟨rfl, rfl⟩ | ⟨rfl, rfl⟩ | ⟨rfl, rfl⟩ | ⟨rfl, rfl⟩ | ⟨rfl, rfl⟩ := hrow
      · exact (gives_fabRead ..).trans_eq (otherRead_word hup hreads hfind)
      · exact (gives_sub ..).trans_eq (otherRead_word hup hreads hfind)
      · exact (gives_pub ..).trans_eq (otherRead_word hup hreads hfind)
      · exact (gives_ownReq s _).trans_eq (otherRead_word hup hreads hfind)
      · exact (gives_ownRel s _).trans_eq (otherRead_word hup hreads hfind)
    case atomic => exact (gives_fabAtomic ..).trans_eq (atomicRead_word hup hreads hcopies hfind hchecks)
  case lostReply =>
    intro s x n hengine hfatal hcopies hfind hfresh hagain m z
    refine ⟨cacheLookup_replyLost .., fun hstill hmember hfree => ?_⟩
    exact (gives_fabAtomic ..).trans_eq
      ((atomicRead_line hcopies (storesUp_of_up hengine hfatal) hfind hfresh hagain).trans
        (fabAtomic_replyLost rfl rfl hfresh hagain hstill hmember hfree))
  case lostFilter =>
    intro s x hengine hfatal hfind hfresh
    refine (gives_fabWrite .filter s).trans_eq ?_
    unfold writeRead
    rw [hfind]
    exact requestRead_filter (storesUp_of_up hengine hfatal) hfresh
  case cancels =>
    exact fun hop => (gives_sub .clean s).trans_eq ((otherRead_clean ..).trans (sub_cancels hfind hchecks rfl hop))
  case enters =>
    intro hop hnew hroom
    exact (gives_sub .clean s).trans_eq ((otherRead_clean ..).trans (sub_enters hfind hchecks rfl hop hnew hroom))
  case publishes =>
    intro s x hfind hchecks
    exact (gives_pub .clean s).trans_eq ((otherRead_clean ..).trans (pub_notifies hfind hchecks))

end Sys2Proof.Machine
end

section
/-! What a step does to the part: fuses only blow (O5, R473 to R477, R550), the configuration stays, and the straps change
at POWER_ON_RESET alone (O6, R21, R503). -/

namespace Sys2Proof.Machine

/-! ### Blown words (R550, R477) -/

theorem fuseWord_blow (p : Part) (w bits v : Nat) :
    fuseWord (blow p w bits) v = if v = w then fuseWord p v ||| BitVec.ofNat 32 bits else fuseWord p v := by
  unfold blow
  by_cases hbits : bits = 0
  · simp [hbits]
  · rw [if_neg hbits]
    by_cases hv : v = w
    · subst hv
      rw [if_pos rfl]
      exact Assoc.get_set_eq ..
    · rw [if_neg hv]
      exact Assoc.get_set_ne _ _ _ hv

/-- The words 1 to n, each blown with its own bits. -/
theorem fuseWord_blowKey (p : Part) (f : Nat → Nat) (n v : Nat) :
    fuseWord ((List.range n).foldl (fun p w => blow p (1 + w) (f w)) p) v =
      if 1 ≤ v ∧ v ≤ n then fuseWord p v ||| BitVec.ofNat 32 (f (v - 1)) else fuseWord p v := by
  induction n with
  | zero => rw [if_neg (by omega)]; rfl
  | succ n ih =>
    rw [List.range_succ, List.foldl_append]
    simp only [List.foldl_cons, List.foldl_nil]
    rw [fuseWord_blow, ih]
    by_cases hv : v = 1 + n
    · subst hv
      rw [if_pos rfl, if_neg (by omega), if_pos (by omega), Nat.add_sub_cancel_left]
    · rw [if_neg hv]
      exact if_congr (by omega) rfl rfl

/-- What each word reads after a key has been burned. -/
theorem fuseWord_burnKey (p : Part) (key v : Nat) :
    fuseWord (burnKey p key) v =
      if v = 0 then fuseWord p 0 ||| BitVec.ofNat 32 (2 ^ 20 + 2 ^ 21)
      else if v = 9 then fuseWord p 9 ||| BitVec.ofNat 32 (keyParity key)
      else if v ≤ 8 then fuseWord p v ||| BitVec.ofNat 32 (key >>> (32 * (v - 1)) % 2 ^ 32)
      else fuseWord p v := by
  unfold burnKey
  dsimp only
  rw [fuseWord_blow, fuseWord_blow, fuseWord_blowKey]
  by_cases h0 : v = 0
  · subst h0; rfl
  by_cases h9 : v = 9
  · subst h9; rfl
  · simp only [h0, h9, if_false]
    exact if_congr (by omega) rfl rfl

/-! ### What fuses keep (R473, R477) -/

theorem fusesKept_refl (p : Part) : fusesKept p p := ⟨fun _ _ h => h, fun _ _ _ _ => rfl, fun _ _ => rfl⟩

/-- A key that is fused stays so. -/
theorem fusesKept_keyFused {p q : Part} (h : fusesKept p q) (hk : keyFused p = true) : keyFused q = true := by
  obtain ⟨hbits, -, -⟩ := h
  simp only [Machine.keyFused, Bool.or_eq_true] at hk ⊢
  exact hk.imp (hbits 0 20) (hbits 0 21)

/-- A key that is killed stays so. -/
theorem fusesKept_keyKilled {p q : Part} (h : fusesKept p q) (hk : keyKilled p = true) : keyKilled q = true := by
  obtain ⟨hbits, -, -⟩ := h
  simp only [Machine.keyKilled, Bool.or_eq_true] at hk ⊢
  exact hk.imp (hbits 0 16) (hbits 0 17)

theorem fusesKept_trans {p q r : Part} (hpq : fusesKept p q) (hqr : fusesKept q r) : fusesKept p r := by
  have hfused := fusesKept_keyFused hpq
  obtain ⟨hbits, hkey, hhigh⟩ := hpq
  obtain ⟨hbits', hkey', hhigh'⟩ := hqr
  refine ⟨fun w b h => hbits' w b (hbits w b h), fun hf w h1 h9 => ?_, fun w hw => ?_⟩
  · rw [hkey' (hfused hf) w h1 h9, hkey hf w h1 h9]
  · rw [hhigh' w hw, hhigh w hw]

theorem getLsbD_or_of_left {x y : BitVec 32} {b : Nat} (h : x.getLsbD b = true) : (x ||| y).getLsbD b = true := by
  rw [BitVec.getLsbD_or, h, Bool.true_or]

/-- Word 0, of the life cycle and of the key's flags, may be blown at any time. -/
theorem fusesKept_blow (p : Part) (bits : Nat) : fusesKept p (blow p 0 bits) := by
  refine ⟨fun w b h => ?_, fun _ w h1 _ => ?_, fun w hw => ?_⟩
  · rw [fuseWord_blow]
    split
    · exact getLsbD_or_of_left h
    · exact h
  · rw [fuseWord_blow, if_neg (by omega)]
  · rw [fuseWord_blow, if_neg (by omega)]

/-- A key is burned where none is fused. -/
theorem fusesKept_burnKey {p : Part} (hk : keyFused p = false) (key : Nat) : fusesKept p (burnKey p key) := by
  refine ⟨fun w b h => ?_, fun hf => absurd hf (by rw [hk]; decide), fun w hw => ?_⟩
  · rw [fuseWord_burnKey]
    split
    next h0 => exact getLsbD_or_of_left (h0 ▸ h)
    split
    next h9 => exact getLsbD_or_of_left (h9 ▸ h)
    split
    · exact getLsbD_or_of_left h
    · exact h
  · rw [fuseWord_burnKey, if_neg (by omega), if_neg (by omega), if_neg (by omega)]

/-! ### What a command does to the part -/

/-- q is the same part as p, with more fuses blown. -/
structure PartGrows (p q : Part) : Prop where
  conf : q.conf = p.conf
  stepping : q.stepping = p.stepping
  relay : q.relay = p.relay
  tref : q.tref = p.tref
  fuses : fusesKept p q

namespace PartGrows

variable {p q r : Part}

theorem refl (p : Part) : PartGrows p p := ⟨rfl, rfl, rfl, rfl, fusesKept_refl p⟩

/-- A part that differs in its fuses alone. -/
theorem of_fuses {f : Assoc (BitVec 32)} (h : fusesKept p { p with fuses := f }) : PartGrows p { p with fuses := f } :=
  ⟨rfl, rfl, rfl, rfl, h⟩

end PartGrows

/-- Blowing bits changes the fuses alone. -/
theorem blow_eq_fuses (p : Part) (w bits : Nat) : blow p w bits = { p with fuses := (blow p w bits).fuses } := by
  unfold blow
  split <;> rfl

theorem partGrows_blow (p : Part) (bits : Nat) : PartGrows p (blow p 0 bits) := by
  have hkept := fusesKept_blow p bits
  rw [blow_eq_fuses] at hkept ⊢
  exact .of_fuses hkept

/-- Burning a key changes the fuses alone. -/
theorem burnKey_eq_fuses (p : Part) (key : Nat) : burnKey p key = { p with fuses := (burnKey p key).fuses } := by
  have hstep : ∀ (q : Part) (w bits : Nat), q = { p with fuses := q.fuses } →
      blow q w bits = { p with fuses := (blow q w bits).fuses } := by
    intro q w bits hq
    rw [blow_eq_fuses]
    rw [hq]
  exact hstep _ _ _ (hstep _ _ _
    (List.foldlRecOn (motive := fun q => q = { p with fuses := q.fuses }) _ _ rfl fun q hq w _ => hstep q _ _ hq))

theorem partGrows_burnKey {p : Part} (hk : keyFused p = false) (key : Nat) : PartGrows p (burnKey p key) := by
  have hkept := fusesKept_burnKey hk key
  rw [burnKey_eq_fuses] at hkept ⊢
  exact .of_fuses hkept

/-- R477: KEY_COMMIT burns a key where none is fused, and else leaves the fuses. -/
theorem keyCommit_partGrows (src : Src) (v : Word) (p : Part) (m : Mach) : PartGrows p (keyCommit src v p m).1 := by
  unfold keyCommit
  split
  · split
    · exact .refl p
    · next hmay =>
      split
      · exact .refl p
      · next hbit =>
        refine partGrows_burnKey ?_ _
        by_contra hk
        exact hmay (.inr ⟨by simpa using hbit, by simpa using hk⟩)
  · exact .refl p
  · exact .refl p

theorem routeWrite_partGrows (src : Src) (addr : Nat) (v : Word) (p : Part) (m : Mach) :
    PartGrows p (routeWrite src addr v p m).1 := by
  unfold routeWrite
  dsimp only
  split
  · exact keyCommit_partGrows src v p m
  · split
    · exact .refl p
    · exact .refl p

theorem regWrite_partGrows (src : Src) (addr : Nat) (be : BitVec 8) (v : Word) (p : Part) (m : Mach) :
    PartGrows p (regWrite src addr be v p m).1 := by
  unfold regWrite
  dsimp only
  split
  · exact routeWrite_partGrows ..
  · exact .refl p

/-- A burn that ends blows bits of word 0. -/
theorem lcBurnDone_partGrows (p : Part) (m : Mach) : PartGrows p (lcBurnDone p m).1 := by
  unfold lcBurnDone
  split
  · next t _ =>
    have hburnt : PartGrows p (burnFuse p t) := partGrows_blow p (lcBits t)
    dsimp only
    split
    · exact hburnt
    · split
      · exact hburnt
      · exact hburnt
  · exact .refl p

/-- A burn that is cut short blows some of its bits of word 0. -/
theorem cutBurn_partGrows (p : Part) (m : Mach) : PartGrows p (cutBurn p m).1 := by
  unfold cutBurn
  split
  · exact partGrows_blow ..
  · exact .refl p

theorem mgRegWrite_partGrows (p : Part) (m : Mach) : PartGrows p (mgRegWrite p m).1 := by
  unfold mgRegWrite mgServe
  dsimp only
  split
  · exact .refl p
  · split
    · split
      · split
        · exact routeWrite_partGrows ..
        · exact .refl p
      · exact .refl p
    · exact .refl p

theorem mgRead_mgRegWrite_partGrows (f : StoreRead) (p : Part) (m : Mach) : PartGrows p (mgRead f mgRegWrite p m).1 := by
  unfold mgRead
  split
  · exact mgRegWrite_partGrows ..
  · split
    · exact .refl p
    · exact mgRegWrite_partGrows ..
  · exact mgRegWrite_partGrows ..

theorem wrapAccess_partGrows (write : Bool) (addr : Nat) (v : Word) (p : Part) (m : Mach) :
    PartGrows p (wrapAccess write addr v p m).1 := by
  unfold wrapAccess
  dsimp only
  split
  · exact .refl p
  · split
    · exact routeWrite_partGrows ..
    · exact .refl p

theorem tapInstr_partGrows (write : Bool) (addr : Nat) (v : Word) (ir : BitVec 8) (dr : Word) (mfr : BitVec 11)
    (p : Part) (m : Mach) : PartGrows p (tapInstr write addr v ir dr mfr p m).1 := by
  unfold tapInstr
  split
  case h_4 => exact wrapAccess_partGrows ..
  all_goals exact .refl p

theorem wrapReg_partGrows (write : Bool) (addr : Nat) (v : Word) (tap : TapOp) (p : Part) (m : Mach) :
    PartGrows p (wrapReg write addr v tap p m).1 := by
  unfold wrapReg
  split
  · exact .refl p
  · split
    case h_1 => exact wrapAccess_partGrows ..
    case h_2 => exact tapInstr_partGrows ..
    all_goals exact .refl p

/-- An outcome that is a next state has a part related to p. -/
def PartOutcome (R : Part → Part → Prop) (p : Part) : Host.Outcome State Fault Refusal → Prop
  | .next t => R p t.part
  | .fault _ | .refused _ => True

/-- Of the commands but POWER_ON_RESET seven reach the fuses; every other leaves the part as it is. -/
theorem exec_partGrows (s : State) (c : Instr) (hc : ∀ r f g, c ≠ .powerOnReset r f g) :
    PartOutcome PartGrows s.part (exec c s) := by
  cases c
  case powerOnReset r f g => exact absurd rfl (hc r f g)
  case registerWrite src addr be v read =>
    cases read
    · exact regWrite_partGrows ..
    · exact .refl _
  case lcBurnDone => exact lcBurnDone_partGrows ..
  case keyCommit => exact keyCommit_partGrows ..
  case mgRegWrite => exact mgRead_mgRegWrite_partGrows ..
  case wrapReg => exact wrapReg_partGrows ..
  case powerRemoved => exact cutBurn_partGrows ..
  case scrubRead line f =>
    change PartOutcome PartGrows s.part (execScrubRead line f s)
    unfold execScrubRead
    split
    · exact PartGrows.refl _
    · trivial
  all_goals exact PartGrows.refl _

/-- POWER_ON_RESET samples the straps; a burn that it cuts short blows some of its bits. -/
theorem exec_powerOnReset_part (r f : Bool) (g : Findings) (s : State) :
    ∃ q m, PartGrows s.part q ∧ exec (.powerOnReset r f g) s = .next { s with part := { q with relay := r, tref := f }, m := m } :=
  ⟨_, _, cutBurn_partGrows .., rfl⟩

/-- The part of a next state. -/
theorem exec_next_partGrows {c : Instr} {s t : State} (hc : ∀ r f g, c ≠ .powerOnReset r f g)
    (h : exec c s = .next t) : PartGrows s.part t.part := by
  have hpart := exec_partGrows s c hc
  rwa [h] at hpart

/-- A step is POWER_ON_RESET, with the straps that it samples, or lets the part grow. -/
theorem step_part_cases {s t : State} (h : step s = .next t) :
    (∃ r f g rest q, s.pending = .powerOnReset r f g :: rest ∧ PartGrows s.part q ∧
      t.part = { q with relay := r, tref := f }) ∨
    ((∀ r f g rest, s.pending ≠ .powerOnReset r f g :: rest) ∧ PartGrows s.part t.part) := by
  unfold step at h
  split at h
  next c rest hpend =>
    by_cases hc : ∃ r f g, c = .powerOnReset r f g
    · obtain ⟨r, f, g, rfl⟩ := hc
      obtain ⟨q, m, hq, hexec⟩ := exec_powerOnReset_part r f g { s with pending := rest }
      cases hexec.symm.trans h
      exact .inl ⟨r, f, g, rest, q, hpend, hq, rfl⟩
    · push Not at hc
      refine .inr ⟨fun r f g rest' heq => ?_, exec_next_partGrows (s := { s with pending := rest }) hc h⟩
      rw [hpend] at heq
      cases heq
      exact hc r f g rfl
  next hpend =>
    cases h
    exact .inr ⟨fun r f g rest heq => by simp [hpend] at heq, .refl _⟩

/-- What the fuses held before a step they hold after it. -/
theorem step_fusesKept {s t : State} (h : step s = .next t) : fusesKept s.part t.part := by
  obtain ⟨r, f, g, rest, q, -, hq, ht⟩ | ⟨-, ht⟩ := step_part_cases h
  · rw [ht]
    exact hq.fuses
  · exact ht.fuses

/-- Settles O5: a command blows bits of word 0, or a whole key where none is fused, and nothing else. -/
theorem fusesOnlyBlow : Obligations.FusesOnlyBlow := fun _ _ _ hF h => fusesKept_trans hF (step_fusesKept h)

/-- Settles O6: the part grows by fuses alone, but for the straps that POWER_ON_RESET samples. -/
theorem partAndStrapsStay : Obligations.PartAndStrapsStay := by
  intro s t h
  obtain ⟨r, f, g, rest, q, hpend, hq, ht⟩ | ⟨hno, ht⟩ := step_part_cases h
  · rw [ht]
    refine ⟨hq.conf, hq.stepping, fun hno => absurd hpend (hno r f g rest), fun r' f' g' rest' hpend' => ?_⟩
    cases hpend.symm.trans hpend'
    exact ⟨rfl, rfl⟩
  · exact ⟨ht.conf, ht.stepping, fun _ => ⟨ht.relay, ht.tref⟩, fun r f g rest heq => absurd heq (hno r f g rest)⟩

end Sys2Proof.Machine
end

section
/-! The block as a whole: what a step is (O1, O2, R431), what reset leaves (O3, R503), the halt of the command records (O7,
R462) and the capture of a fault (O10, R466). -/

namespace Sys2Proof.Machine

/-! ### Steps (O1, O2, R431) -/

/-- Settles O1: a step takes the front command off the queue and carries it out. -/
theorem stepRunsFront : Obligations.StepRunsFront := by
  intro c rest s hpend
  unfold step
  rw [hpend]

/-- With no item placed, none leaves its hearth and none looks for another. -/
theorem endItems_of_none {p : Part} {m : Mach} (h : m.run.placed = []) : endItems p m = m := by
  have hun : unplace m (fun x => !stillPlaced m x) = m := by
    unfold unplace
    rw [h, List.filter_nil, ← h]
  unfold endItems
  rw [hun]
  unfold seatMoved
  simp [h]

/-- R502, R540: with no action of the debug window held back, a report that has been sampled is built, and the window's
actions have ended. -/
theorem endActions_notHeld {p : Part} {m : Mach} (hup : portUp m = true) (hlit : m.sec.power = .lit)
    (hheld : m.sec.memHeld = false) :
    endActions p m = attestDone p { m with sec := { m.sec with memRead := false, memWrite := false } } := by
  unfold endActions
  simp [hup, hlit, hheld]

/-- A window whose actions have ended. -/
theorem memActions_eq_self {m : Mach} (hread : m.sec.memRead = false) (hwrite : m.sec.memWrite = false) :
    { m with sec := { m.sec with memRead := false, memWrite := false } } = m := by
  have hsec : ∀ r w, m.sec.memRead = r → m.sec.memWrite = w →
      { m with sec := { m.sec with memRead := r, memWrite := w } } = m := by
    rintro _ _ rfl rfl
    rfl
  exact hsec _ _ hread hwrite

/-- With no action of the security unit or the debug window under way, none ends. -/
theorem endActions_of_none {p : Part} {m : Mach} (hread : m.sec.memRead = false) (hwrite : m.sec.memWrite = false)
    (hheld : m.sec.memHeld = false) (hattest : m.sec.attest = none) : endActions p m = m := by
  by_cases h : portUp m = true ∧ m.sec.power = .lit
  · obtain ⟨hup, hlit⟩ := h
    rw [endActions_notHeld hup hlit hheld, memActions_eq_self hread hwrite]
    unfold attestDone
    rw [hattest]
  · unfold endActions
    exact if_neg (by simpa using h)

/-- With no zeroisation under way, none completes. -/
theorem finishZeroise_of_none {p : Part} {m : Mach} (h : m.sec.zeroing = none) : finishZeroise p m = m := by
  unfold finishZeroise
  rw [h]
  simp

/-- R431: what a core cycle does to time. -/
theorem tickOn_of_runs {p : Part} {m : Mach} (h : coreRuns m = true) :
    tickOn p m = { m with tick := { m.tick with
      time := m.tick.time + ((m.tick.frac + (1000000000 + timeRate p m).toNat) / max 1 (coreMhz p m) : Nat)
      frac := (m.tick.frac + (1000000000 + timeRate p m).toNat) % max 1 (coreMhz p m)
      cycle := m.tick.cycle + 1 } } := if_pos h

/-- Settles O2: halted by FATAL and with nothing under way, of the parts of a cycle only that of time acts. -/
theorem idleStepIsOneCycle : Obligations.IdleStepIsOneCycle := by
  intro s hpend
  refine ⟨?_, fun hruns hzero hfatal hplaced hread hwrite hheld hattest => ?_⟩
  · unfold step
    rw [hpend]
  · have htick := tickOn_of_runs (p := s.part) hruns
    rw [← htick]
    have hsec : (tickOn s.part s.m).sec = s.m.sec := by rw [htick]
    have hitems : endItems s.part (tickOn s.part s.m) = tickOn s.part s.m :=
      endItems_of_none (by rw [htick]; exact hplaced)
    have hactions : endActions s.part (tickOn s.part s.m) = tickOn s.part s.m :=
      endActions_of_none (hsec ▸ hread) (hsec ▸ hwrite) (hsec ▸ hheld) (hsec ▸ hattest)
    have hdone : finishZeroise s.part (tickOn s.part s.m) = tickOn s.part s.m := finishZeroise_of_none (hsec ▸ hzero)
    have hstill : isFatal s.part (tickOn s.part s.m) = true := by
      rw [htick]
      exact hfatal
    unfold idleCycle
    simp only [hfatal, Bool.not_true, Bool.and_false, Bool.false_eq_true, if_false, hitems, hactions, hdone, hstill]

/-! ### Reset (O3, R503) -/

/-- The two registers that the power-on sequence leaves other than at their reset values are all that reset lists. -/
theorem rd_reset {a : Nat} (hboot : a ≠ Reg.glbBootStat) (hhead : a ≠ Reg.logHead) :
    rd State.reset.part State.reset.m a = regReset State.reset.part.conf State.reset.part.relay a := by
  have hnone : Assoc.find? Mach.reset.regs a = none := by
    have hb : 0x1A8 ≠ a := Ne.symm hboot
    have hh : 0xB108 ≠ a := Ne.symm hhead
    simp [Mach.reset, Assoc.find?, hb, hh]
  show (Assoc.find? Mach.reset.regs a).getD _ = _
  rw [hnone]
  rfl

theorem canonical_reset : Canonical State.reset := ⟨rfl, rfl, rfl, by decide⟩

/-- Settles O3: each part of the state, read off the reset state. -/
theorem resetLeaves : Obligations.ResetLeaves :=
  ⟨rfl, rfl, rfl, rfl, rfl, fun _ => rd_reset, fun _ => ⟨rfl, rfl, rfl⟩, canonical_reset, fun _ => rfl, rfl, rfl, rfl, rfl⟩

/-! ### The halt of the command records (O7, R462, R487) -/

section
variable {p : Part} {m : Mach} (h : isFatal p m = true ∨ engineUp m = false)
include h

/-- R462: halted or not running, the engine has no command record due. -/
theorem dueCmd_halted (w q op : Nat) : dueCmd p m w q op = none := by
  unfold dueCmd
  rcases h with h | h <;> simp [h]

/-- R462: halted or not running, the engine writes no completion record. -/
theorem completionWrite_halted (r : Nat) : completionWrite r p m = m := by
  have hno : ¬(engineUp m = true ∧ isFatal p m = false) := by rcases h with h | h <;> simp [h]
  unfold completionWrite
  split
  · exact if_neg fun ⟨_, hup, hfatal, _⟩ => hno ⟨hup, hfatal⟩
  · rfl

end

/-- A command whose meaning leaves the machine leaves the state. -/
theorem next_same {s : State} {m : Mach} (h : m = s.m) :
    (Host.Outcome.next { s with m := m } : Host.Outcome State Fault Refusal) = .next s := by rw [h]

/-- Settles O7: a row that carries a record on first looks for its record among those due, and there is none. -/
theorem haltedCommandsStay : Obligations.HaltedCommandsStay := by
  intro c s hrow hhalt
  have hdue := dueCmd_halted hhalt
  cases c
  case stepRun => exact next_same (by unfold stepRun; rw [hdue])
  case layerRun => exact next_same (by unfold layerRun; rw [hdue])
  case groupForm => exact next_same (by unfold groupForm formCmd; rw [hdue])
  case groupReform => exact next_same (by unfold groupReform formCmd; rw [hdue])
  case fabBatch => exact next_same (by unfold fabBatch; rw [hdue])
  case fence => exact next_same (by unfold fence; rw [hdue])
  case subscribe => exact next_same (by unfold subscribe sendCmd; rw [hdue])
  case publishInval => exact next_same (by unfold publishInval sendCmd; rw [hdue])
  case ownAcquire => exact next_same (by unfold ownAcquire sendCmd; rw [hdue])
  case ownRelease => exact next_same (by unfold ownRelease sendCmd; rw [hdue])
  case tableLoad => exact next_same (by unfold tableLoad; rw [hdue])
  case tableLoadRoute => exact next_same (by unfold tableLoadRoute; rw [hdue])
  case progLoad => exact next_same (by unfold progLoad; rw [hdue])
  case biasUpdate => exact next_same (by unfold biasUpdate; rw [hdue])
  case hint => exact next_same (by unfold hint; rw [hdue])
  case eventSignal => exact next_same (by unfold signalRead; rw [hdue])
  case eventWait => exact next_same (by unfold eventWait; rw [hdue])
  case semAcq => exact next_same (by unfold semAcqRead; rw [hdue])
  case semRel => exact next_same (by unfold semRelRead; rw [hdue])
  case ctxSave => exact next_same (by unfold ctxSave; rw [hdue])
  case ctxRestore => exact next_same (by unfold ctxRestore; rw [hdue])
  case ctxKill => exact next_same (by unfold ctxKill; rw [hdue])
  case queueFlush => exact next_same (by unfold queueFlush; rw [hdue])
  case bistRunHearth => exact next_same (by unfold bistRunHearth; rw [hdue])
  case bistRunKiln => exact next_same (by unfold bistRunKiln; rw [hdue])
  case calMeasure => exact next_same (by unfold calMeasure; rw [hdue])
  case logSnapshot => exact next_same (by unfold logSnapshot; rw [hdue])
  case nop => exact next_same (by unfold nop; rw [hdue])
  case completionWrite r => exact next_same (completionWrite_halted hhalt r)
  all_goals cases hrow

/-! ### The capture of a fault (O10, R466) -/

/-- The address of a register in a page's header tells its offset. -/
theorem pg_mod {page off : Nat} (h : off < 4096) : pg page off % 4096 = off := by
  unfold pg
  omega

theorem errCap_mod (page : Nat) {k : Nat} (h : k < 4) : (Reg.errCap0 page + 8 * k) % 4096 = 0x40 + 8 * k := by
  unfold Reg.errCap0 pg
  omega

/-- A register at another offset of its page is not one of ERR_CAP0 to ERR_CAP3. -/
theorem errCap_ne {page k a : Nat} (h : k < 4) (ha : a % 4096 < 0x40 ∨ 0x60 ≤ a % 4096) : Reg.errCap0 page + 8 * k ≠ a := by
  intro heq
  have := errCap_mod page h
  rw [heq] at this
  omega

/-- The capture of an entry leaves its doublewords in the page's ERR_CAP0 to ERR_CAP3. -/
theorem rd_captureEntry (p : Part) (m : Mach) (page : Nat) (e : LogEntry) {k : Nat} (hk : k < 4) :
    rd p (captureEntry p m page e) (Reg.errCap0 page + 8 * k) = wordOf (bitsOf e (64 * k + 63) (64 * k)) := by
  unfold captureEntry
  dsimp only
  have hstat : Reg.errCap0 page + 8 * k ≠ Reg.pageStat page :=
    errCap_ne hk (.inl (by rw [Reg.pageStat, pg_mod (by decide)]; decide))
  rw [rd_orReg_ne _ _ _ hstat]
  have hlist : (List.range 4) = [0, 1, 2, 3] := rfl
  rw [hlist]
  simp only [List.map_cons, List.map_nil, wrAll]
  obtain rfl | rfl | rfl | rfl : k = 0 ∨ k = 1 ∨ k = 2 ∨ k = 3 := by omega
  · rw [rd_wr_ne _ _ _ (by omega), rd_wr_ne _ _ _ (by omega), rd_wr_ne _ _ _ (by omega), rd_wr_eq]
  · rw [rd_wr_ne _ _ _ (by omega), rd_wr_ne _ _ _ (by omega), rd_wr_eq]
  · rw [rd_wr_ne _ _ _ (by omega), rd_wr_eq]
  · rw [rd_wr_eq]

/-- What the log does with an entry writes LOG.LOST at most. -/
theorem rd_pushEntry_ne (p : Part) (m : Mach) (e : LogEntry) {a : Nat} (h : a ≠ Reg.logLost) :
    rd p (pushEntry p m e) a = rd p m a := by
  unfold pushEntry loseEntries
  dsimp only
  split
  · rfl
  · exact rd_wr_ne _ _ _ h

/-- Settles O10: the entry is captured after its class is counted, and the log that then takes it writes elsewhere. -/
theorem errCapHoldsLatestFault : Obligations.ErrCapHoldsLatestFault := by
  intro p m r k hk hsev
  have hlost : Reg.errCap0 r.page + 8 * k ≠ Reg.logLost := errCap_ne hk (.inr (by decide))
  have hlogged : r.sev ≠ .corrected := fun h => by rw [h] at hsev; exact absurd hsev (by decide)
  unfold report
  dsimp only
  rw [if_neg fun h => hlogged h.1, rd_pushEntry_ne _ _ _ hlost, if_pos hsev, rd_captureEntry _ _ _ _ hk]

end Sys2Proof.Machine
end

section
/-! The identity key: no register read shows it (O9, R477, R478), and what KEY_KILL does to its use (O23, R475). -/

namespace Sys2Proof.Machine

/-! ### What the fuses show (O9) -/

/-- R552: a calibration item's word lies above the key's. -/
theorem itemWord_gt (item : Nat) : 9 < itemWord item := by
  unfold itemWord
  split <;> omega

section
variable (p : Part) (f : Assoc (BitVec 32)) (m : Mach)

theorem readPageHeader_fuses (page off : Nat) :
    readPageHeader { p with fuses := f } m page off = readPageHeader p m page off := rfl

theorem readRoute_fuses (off : Nat) : readRoute { p with fuses := f } m off = readRoute p m off := rfl

theorem readMap_fuses (off : Nat) : readMap { p with fuses := f } m off = readMap p m off := rfl

theorem readRegion_fuses (src : Src) (addr : Nat) :
    readRegion { p with fuses := f } m src addr = readRegion p m src addr := rfl

end

section
variable {p : Part} {f : Assoc (BitVec 32)} (h : ∀ w, w = 0 ∨ 9 < w → fuseWord { p with fuses := f } w = fuseWord p w)
include h

theorem keyFused_congr : keyFused { p with fuses := f } = keyFused p := by
  unfold keyFused
  rw [h 0 (.inl rfl)]

theorem keyKilled_congr : keyKilled { p with fuses := f } = keyKilled p := by
  unfold keyKilled
  rw [h 0 (.inl rfl)]

theorem lcFuse_congr : lcFuse { p with fuses := f } = lcFuse p := by
  unfold lcFuse
  rw [h 0 (.inl rfl)]

theorem keyUsable_congr (m : Mach) : keyUsable { p with fuses := f } m = keyUsable p m := by
  unfold keyUsable
  rw [keyFused_congr h, keyKilled_congr h]

theorem lcsStat_congr (m : Mach) : lcsStat { p with fuses := f } m = lcsStat p m := by
  unfold lcsStat
  rw [keyFused_congr h, keyKilled_congr h, lcFuse_congr h, keyUsable_congr h]

theorem itemData_congr (item : Nat) : itemData { p with fuses := f } item = itemData p item := by
  unfold itemData
  rw [h _ (.inr (itemWord_gt item))]

theorem itemParity_congr (item : Nat) : itemParity { p with fuses := f } item = itemParity p item := by
  unfold itemParity
  rw [h _ (.inr (itemWord_gt item)), h 57 (.inr (by decide))]

theorem itemBad_congr (item : Nat) : itemBad { p with fuses := f } item = itemBad p item := by
  unfold itemBad
  rw [itemData_congr h, itemParity_congr h]
  rfl

theorem fuseStat_congr : fuseStat { p with fuses := f } = fuseStat p := by
  unfold fuseStat
  simp only [itemBad_congr h]

theorem factoryWord_congr (item : Nat) : factoryWord { p with fuses := f } item = factoryWord p item := by
  unfold factoryWord
  rw [itemBad_congr h, itemData_congr h]
  rfl

theorem caluReg_congr (m : Mach) (item user : Nat) :
    caluReg { p with fuses := f } m item user = caluReg p m item user := by
  unfold caluReg effective factory
  rw [factoryWord_congr h]
  rfl

theorem calReg_congr (m : Mach) (calu : Bool) (off : Nat) :
    calReg { p with fuses := f } m calu off = calReg p m calu off := by
  unfold calReg
  simp only [caluReg_congr h, factoryWord_congr h, fuseStat_congr h]
  rfl

/-- Of the registers that mirror other state LCS.STAT alone shows fuses. -/
theorem mirror_congr (m : Mach) (k : PageKind) (i off : Nat) :
    mirror { p with fuses := f } m k i off = mirror p m k i off := by
  unfold mirror
  simp only [lcsStat_congr h]
  rfl

theorem readBlock_congr (m : Mach) (page off : Nat) :
    readBlock { p with fuses := f } m page off = readBlock p m page off := by
  unfold readBlock
  simp only [calReg_congr h, lcsStat_congr h, mirror_congr h]
  rfl

theorem regValue_congr (m : Mach) (src : Src) (addr : Nat) :
    regValue { p with fuses := f } m src addr = regValue p m src addr := by
  unfold regValue
  refine if_congr Iff.rfl rfl (if_congr Iff.rfl (if_congr Iff.rfl (readPageHeader_fuses ..) rfl) (if_congr Iff.rfl rfl ?_))
  rw [readRoute_fuses, readMap_fuses, readRegion_fuses]
  simp only [readBlock_congr h]

end

/-- Settles O9: a register shows of the fuses at most word 0 and the words above 9. -/
theorem noReadShowsKey : Obligations.NoReadShowsKey := by
  intro p f m src addr h
  unfold readReg
  rw [regValue_congr h]
  rfl

/-! ### KEY_KILL (O23, R474, R475) -/

/-- A killed key is not usable. -/
theorem keyUsable_killed {p : Part} (h : keyKilled p = true) (m : Mach) : keyUsable p m = false := by
  unfold keyUsable
  rw [h]
  simp

/-- The last clause of O23 does hold: no step makes a killed key usable again. -/
theorem step_keyKilled {s t : State} (hk : keyKilled s.part = true) (h : step s = .next t) :
    keyKilled t.part = true ∧ keyUsable t.part t.m = false := by
  have hkilled := fusesKept_keyKilled (step_fusesKept h) hk
  exact ⟨hkilled, keyUsable_killed hkilled _⟩

/-- A machine with a burn under way whose number, 9, is no life-cycle state: its bit in the second copy of LC_FUSE would be
bit 16, the first of KEY_KILL, and `lcBits` adds the two. -/
def burnOfNine : State := { pending := [], part := {}, m := { sec := { burning := some 9 } } }

/-- The burn of 9 blows bits 8 and 18, and neither of KEY_KILL. -/
theorem burnOfNine_leaves_key : keyKilled (burnFuse burnOfNine.part 9) = false := rfl

/-- Refutes O23: the statement is about every number of a burn from 4 up, and the burn of 9, which no advance starts, ends
with KEY_KILL unblown. For RETURN and SCRAPPED themselves, 4 and 5, the sums do not overlap. -/
theorem not_keyKillIsForGood : ¬ Obligations.KeyKillIsForGood := by
  unfold Obligations.KeyKillIsForGood
  rintro ⟨-, hburn, -⟩
  obtain ⟨hkilled, -⟩ := hburn burnOfNine _ 9 rfl (by decide) (.inl rfl) rfl
  exact Bool.noConfusion (burnOfNine_leaves_key.symm.trans hkilled)

end Sys2Proof.Machine
end

section
/-! Register writes that their gate does not let through (O8, R476, R491, R504, R532). -/

namespace Sys2Proof.Machine

/-! ### What a write leaves where no gate opens -/

section
variable {p : Part} {m : Mach} {Q : Mach → Prop}
  (hself : Q m) (hgated : ∀ src a f, Q (gated p m src a f)) (hshut : ∀ src a, writeGate p m src a ≠ .pass)

section
include hgated

theorem pageCtrlWrite_shut (src : Src) (g : Nat) (v : Word) : Q (pageCtrlWrite src g v p m) :=
  hgated ..

end

section
include hself hgated

theorem commandStage_shut (src : Src) (w k : Nat) (v : Word) : Q (commandStage src w k v p m) := by
  unfold commandStage
  split
  · exact hgated ..
  · exact hself

theorem commandSubmit_shut (src : Src) (w : Nat) (v : Word) : Q (commandSubmit src w v p m) := by
  unfold commandSubmit
  split
  · exact hgated ..
  · exact hself

theorem cmdSeqWrite_shut (src : Src) (w : Nat) (v : Word) : Q (cmdSeqWrite src w v p m) := by
  unfold cmdSeqWrite
  split
  · exact hgated ..
  · exact hself

theorem ringTailWrite_shut (src : Src) (r : Nat) (v : Word) : Q (ringTailWrite src r v p m) := by
  unfold ringTailWrite
  split
  · exact hgated ..
  · exact hself

theorem ringWrite_shut (src : Src) (r : Nat) (v : Word) : Q (ringWrite src r v p m) := by
  unfold ringWrite
  split
  · exact hgated ..
  · exact hself

theorem seedDraw_shut (src : Src) (c : Nat) (v : Word) : Q (seedDraw src c v p m) := by
  unfold seedDraw
  split
  · exact hself
  · exact hgated ..

theorem ctlWrite_shut (src : Src) (c : Nat) (v : Word) : Q (ctlWrite src c v p m) := by
  unfold ctlWrite
  split
  · exact hself
  · exact hgated ..

theorem replayTailWrite_shut (src : Src) (c : Nat) (v : Word) : Q (replayTailWrite src c v p m) := by
  unfold replayTailWrite
  split
  · exact hself
  · exact hgated ..

theorem fabIringTailWrite_shut (src : Src) (c : Nat) (v : Word) : Q (fabIringTailWrite src c v p m) := by
  unfold fabIringTailWrite
  split
  · exact hgated ..
  · exact hself

theorem regionEntryWrite_shut (src : Src) (a : Nat) (v : Word) : Q (regionEntryWrite src a v p m) := by
  unfold regionEntryWrite
  split
  · exact hgated ..
  · exact hself

theorem keygen_shut (src : Src) (a : Nat) (v : Word) : Q (keygen src a v p m) := by
  unfold keygen
  split
  · exact regionEntryWrite_shut hself hgated src a v
  · exact hself

theorem linkEnable_shut (src : Src) (l : Nat) (v : Word) : Q (linkEnable src l v p m) := by
  unfold linkEnable
  split
  · exact hgated ..
  · exact hself

theorem linkRetrainRequest_shut (src : Src) (l : Nat) (v : Word) : Q (linkRetrainRequest src l v p m) := by
  unfold linkRetrainRequest
  split
  · exact hgated ..
  · exact hself

/-- A request for a power state: the write of PWR.CTRL, where it asks for that state. -/
theorem pwrCtrlWrite_shut (c : Prop) [Decidable c] (src : Src) (v : Word) : Q (if c then pwrCtrlWrite src v p m else m) := by
  split
  · exact hgated ..
  · exact hself

theorem rwsWrite_shut (src : Src) (a : Nat) (v : Word) : Q (rwsWrite src a v p m) := by
  unfold rwsWrite
  dsimp only
  split
  · exact hself
  · exact hgated ..

theorem windowWrite_shut (src : Src) (w off : Nat) (v : Word) : Q (windowWrite src w off v p m) := by
  unfold windowWrite
  split
  · exact commandSubmit_shut hself hgated src w v
  · split
    · exact cmdSeqWrite_shut hself hgated src w v
    · exact commandStage_shut hself hgated src w _ v

theorem ctxPageWrite_shut (src : Src) (c a : Nat) (v : Word) : Q (ctxPageWrite src c a v p m) := by
  unfold ctxPageWrite
  dsimp only
  split
  · exact windowWrite_shut hself hgated src c _ v
  · split
    · exact seedDraw_shut hself hgated src c v
    · exact fabIringTailWrite_shut hself hgated src c v
    · exact ctlWrite_shut hself hgated src c v
    · exact replayTailWrite_shut hself hgated src c v
    · exact hgated ..

theorem blockWrite_shut (src : Src) (a : Nat) (v : Word) : Q (blockWrite src a v p m) := by
  unfold blockWrite
  dsimp only
  split
  case h_13 => exact linkRetrainRequest_shut hself hgated src _ v
  case h_16 =>
    split
    · exact windowWrite_shut hself hgated src 8 _ v
    · exact hgated ..
  case h_17 =>
    split
    · exact ringTailWrite_shut hself hgated src _ v
    · exact hgated ..
  case h_18 =>
    split
    · exact ringWrite_shut hself hgated src _ v
    · exact hgated ..
  case h_19 => exact ctxPageWrite_shut hself hgated src _ a v
  case h_20 => exact regionEntryWrite_shut hself hgated src a v
  all_goals exact hgated ..

end

include hshut

/-- KEY_COMMIT behind a gate that does not open: the part stays, and the gate answers as for any register. -/
theorem keyCommit_shut (src : Src) (v : Word) :
    keyCommit src v p m = (p, gated p m src Reg.lcsKeyCommit fun m => m) := by
  unfold keyCommit gated
  split
  · next hpass => exact absurd hpass (hshut src _)
  · rfl
  · rfl

include hself hgated

theorem routeWrite_shut (src : Src) (a : Nat) (v : Word) :
    (routeWrite src a v p m).1 = p ∧ Q (routeWrite src a v p m).2 := by
  unfold routeWrite
  dsimp only
  split
  · rw [keyCommit_shut hshut]
    exact ⟨rfl, hgated src Reg.lcsKeyCommit fun m => m⟩
  · split
    · refine ⟨rfl, ?_⟩
      dsimp only
      split
      · exact hgated ..
      · split
        · exact hgated ..
        · exact hgated ..
    · exact ⟨rfl, blockWrite_shut hself hgated src a v⟩

/-- A write with some byte enables 0 is answered by the gate, or refused. -/
theorem regWrite_shut (hrefuse : ∀ src a, (∃ k, writeGate p m src a = .refuse k) → Q (accErr p m src a 1))
    (src : Src) (a : Nat) (be : BitVec 8) (v : Word) :
    (regWrite src a be v p m).1 = p ∧ Q (regWrite src a be v p m).2 := by
  unfold regWrite
  dsimp only
  split
  · exact routeWrite_shut hself hgated hshut src _ v
  · refine ⟨rfl, ?_⟩
    dsimp only
    split
    · exact hself
    · next hopen =>
      cases hgate : writeGate p m src (alignAddr a) with
      | pass => exact absurd hgate (hshut _ _)
      | closed => exact absurd hgate hopen
      | refuse k => exact hrefuse _ _ ⟨k, hgate⟩

end

/-- A register command behind gates that do not open: the part stays, and its machine n, the port's answer apart, is one of
those that the gates leave. -/
theorem exec_regTarget_shut {c : Instr} {s : State} {src : Src} {a : Nat} {Q : Mach → Prop}
    (htarget : regTarget c = some (src, a)) (hself : Q s.m) (hgated : ∀ src a f, Q (gated s.part s.m src a f))
    (hshut : ∀ src a, writeGate s.part s.m src a ≠ .pass)
    (hrefuse : ∀ src a, (∃ k, writeGate s.part s.m src a = .refuse k) → Q (accErr s.part s.m src a 1)) :
    ∃ d n, exec c s = .next { s with m := responded s.m src d n } ∧ Q n := by
  unfold regTarget at htarget
  split at htarget <;> cases htarget
  case h_4.refl a be v read =>
    cases read
    · obtain ⟨hpart, hmach⟩ := regWrite_shut hself hgated hshut hrefuse src a be v
      refine ⟨none, _, ?_, hmach⟩
      change Host.Outcome.next _ = _
      rw [hpart]
    · exact ⟨some _, s.m, rfl, hself⟩
  case h_5.refl a v => exact ⟨none, _, rfl, rwsWrite_shut hself hgated src a v⟩
  case h_6.refl w k v => exact ⟨none, _, rfl, commandStage_shut hself hgated src w k v⟩
  case h_7.refl w v => exact ⟨none, _, rfl, commandSubmit_shut hself hgated src w v⟩
  case h_8.refl w v => exact ⟨none, _, rfl, cmdSeqWrite_shut hself hgated src w v⟩
  case h_10.refl r v => exact ⟨none, _, rfl, ringTailWrite_shut hself hgated src r v⟩
  case h_12.refl c v => exact ⟨none, _, rfl, seedDraw_shut hself hgated src c v⟩
  case h_13.refl c v => exact ⟨none, _, rfl, ctlWrite_shut hself hgated src c v⟩
  case h_14.refl c v => exact ⟨none, _, rfl, ctlWrite_shut hself hgated src c v⟩
  case h_15.refl r v => exact ⟨none, _, rfl, ringWrite_shut hself hgated src r v⟩
  case h_16.refl l v => exact ⟨none, _, rfl, linkEnable_shut hself hgated src l v⟩
  case h_17.refl l v => exact ⟨none, _, rfl, linkRetrainRequest_shut hself hgated src l v⟩
  case h_18.refl g v => exact ⟨none, _, rfl, pageCtrlWrite_shut hgated src g v⟩
  case h_19.refl g v => exact ⟨none, _, rfl, pageCtrlWrite_shut hgated src g v⟩
  case h_20.refl g v => exact ⟨none, _, rfl, pageCtrlWrite_shut hgated src g v⟩
  case h_25.refl v => exact ⟨none, _, rfl, regionEntryWrite_shut hself hgated src a v⟩
  case h_26.refl v => exact ⟨none, _, rfl, keygen_shut hself hgated src a v⟩
  case h_27.refl c v => exact ⟨none, _, rfl, fabIringTailWrite_shut hself hgated src c v⟩
  case h_30.refl v =>
    refine ⟨none, _, ?_, hgated src Reg.lcsKeyCommit fun m => m⟩
    change Host.Outcome.next _ = _
    rw [keyCommit_shut hshut]
  case h_33.refl v => exact ⟨none, _, rfl, pwrCtrlWrite_shut hself hgated _ src v⟩
  case h_34.refl v => exact ⟨none, _, rfl, pwrCtrlWrite_shut hself hgated _ src v⟩
  case h_35.refl v => exact ⟨none, _, rfl, pwrCtrlWrite_shut hself hgated _ src v⟩
  case h_36.refl c v => exact ⟨none, _, rfl, replayTailWrite_shut hself hgated src c v⟩
  all_goals exact ⟨none, _, rfl, hgated ..⟩

/-! ### A port that is not open (O8) -/

/-- Two machines that differ in ACC_ERR and GLB EVT_STAT at most. -/
def RecordFrame (p : Part) (m n : Mach) : Prop :=
  n = { m with regs := n.regs } ∧ ∀ a, a ≠ Reg.glbAccErr → a ≠ Reg.evtStat Reg.glbPage → rd p n a = rd p m a

theorem recordFrame_accErr (p : Part) (m : Mach) (src : Src) (a k : Nat) : RecordFrame p m (accErr p m src a k) := by
  refine ⟨?_, fun _ h1 h2 => rd_accErr_ne p m src a k h1 h2⟩
  unfold accErr setEvt orReg wr
  rfl

section
variable {p : Part} {m : Mach}

/-- R476, R491: held in reset or without power nothing takes a write. -/
theorem writeGate_closed (h : m.sec.held = true ∨ m.sec.power = .off) (src : Src) (a : Nat) :
    writeGate p m src a = .closed := by
  unfold writeGate
  dsimp only
  exact if_pos (by tauto)

/-- R504: before DONE no write is let through. -/
theorem writeGate_notBooted (h : m.sec.booted = false) (src : Src) (a : Nat) : writeGate p m src a ≠ .pass := by
  unfold writeGate
  dsimp only
  split
  · simp
  · rw [if_pos (.inl h)]
    simp

theorem gated_notBooted (h : m.sec.booted = false) (src : Src) (a : Nat) (f : Mach → Mach) :
    RecordFrame p m (gated p m src a f) := by
  obtain ⟨hpass, -⟩ | hsame | ⟨k, hrec⟩ := gated_cases p m src a f
  · exact absurd hpass (writeGate_notBooted h src a)
  · rw [hsame]
    exact ⟨rfl, fun _ _ _ => rfl⟩
  · rw [hrec]
    exact recordFrame_accErr ..

end

/-- Settles O8: before DONE each gate answers with a record at most, and closed it answers nothing. -/
theorem closedPortIgnoresWrites : Obligations.ClosedPortIgnoresWrites := by
  refine ⟨fun c s src a htarget hboot => ?record, fun c s src a htarget hclosed => ?nothing⟩
  case record =>
    obtain ⟨d, n, hexec, hsame, hregs⟩ := exec_regTarget_shut (Q := RecordFrame s.part s.m) htarget
      ⟨rfl, fun _ _ _ => rfl⟩ (gated_notBooted hboot) (writeGate_notBooted hboot)
      (fun src a _ => recordFrame_accErr s.part s.m src a 1)
    have hresp := responded_eq_out s.m src d n
    refine ⟨_, hexec, rfl, rfl, ?_, fun b h1 h2 => ?_⟩
    · dsimp only
      rw [hresp]
      exact congrArg (fun x : Mach => { x with out := (responded s.m src d n).out }) hsame
    · have hregsEq : (responded s.m src d n).regs = n.regs := by rw [hresp]
      exact (rd_congr hregsEq b).trans (hregs b h1 h2)
  case nothing =>
    have hshut := writeGate_closed (p := s.part) (m := s.m) hclosed
    obtain ⟨d, n, hexec, rfl⟩ := exec_regTarget_shut (Q := fun n => n = s.m) htarget rfl
      (fun src a f => gated_closed f (hshut src a)) (fun src a => by simp [hshut])
      (fun src a hrefuse => by simp [hshut] at hrefuse)
    have hresp : responded s.m src d s.m = s.m := by
      unfold responded
      rcases hclosed with h | h <;> simp [h]
    rw [hexec, hresp]

end Sys2Proof.Machine
end

section
/-! Command windows: staging and submission (O20, R376), acceptance and gap reports (O21, R378, R395, R398), CMD_SEQ (O19,
R400); and EVT_FORCE (O18, R490). -/

namespace Sys2Proof.Machine

/-! ### Staged doublewords (R376) -/

/-- The doubleword that a window has staged in a place; 0 where there is none. -/
def stagedWord (m : Mach) (w k : Nat) : Word := Assoc.get 0 (Assoc.get ({} : Window) m.cmd.windows w).staged k

theorem stagedWord_stageWord_eq (m : Mach) (w k : Nat) (v : Word) : stagedWord (stageWord m w k v) w k = v := by
  unfold stagedWord stageWord
  simp

theorem stagedWord_stageWord_ne (m : Mach) (w : Nat) {j k : Nat} (v : Word) (h : j ≠ k) :
    stagedWord (stageWord m w k v) w j = stagedWord m w j := by
  unfold stagedWord stageWord
  simp [Assoc.get_set_ne _ _ _ h]

theorem stagedWord_clearStaged (m : Mach) (w j : Nat) : stagedWord (clearStaged m w) w j = 0 := by
  unfold stagedWord clearStaged
  simp only [Assoc.get, Assoc.find_erase_eq]
  rfl

/-- The digit of a number in the base of its digits. -/
theorem sum_digits_div_mod {B : Nat} (n j : Nat) (d : Nat → Nat) (hd : ∀ k, d k < B) (hj : j < n) :
    (∑ k ∈ Finset.range n, d k * B ^ k) / B ^ j % B = d j := by
  induction j generalizing n d with
  | zero =>
    obtain ⟨n, rfl⟩ := Nat.exists_eq_succ_of_ne_zero (Nat.ne_of_gt hj)
    rw [Finset.sum_range_succ', pow_zero, Nat.div_one, mul_one]
    simp only [pow_succ, ← mul_assoc, ← Finset.sum_mul]
    rw [Nat.add_comm, Nat.add_mul_mod_self_right, Nat.mod_eq_of_lt (hd 0)]
  | succ j ih =>
    obtain ⟨n, rfl⟩ := Nat.exists_eq_succ_of_ne_zero (Nat.ne_of_gt (Nat.lt_of_le_of_lt (Nat.zero_le _) hj))
    have hB : 0 < B := Nat.lt_of_le_of_lt (Nat.zero_le _) (hd 0)
    rw [Finset.sum_range_succ', pow_zero, mul_one, Nat.pow_succ', ← Nat.div_div_eq_div_mul]
    simp only [pow_succ, ← mul_assoc, ← Finset.sum_mul]
    rw [Nat.add_div_of_dvd_right (Dvd.intro_left _ rfl), Nat.mul_div_cancel _ hB, Nat.div_eq_of_lt (hd 0), add_zero]
    exact ih n (fun k => d (k + 1)) (fun k => hd (k + 1)) (Nat.lt_of_succ_lt_succ hj)

theorem foldl_add_range (f : Nat → Nat) (b n : Nat) :
    (List.range n).foldl (fun a k => a + f k) b = (∑ k ∈ Finset.range n, f k) + b := by
  induction n with
  | zero => simp
  | succ n ih => rw [List.range_succ, List.foldl_append, ih, Finset.sum_range_succ, List.foldl_cons, List.foldl_nil]; ring

section
variable (m : Mach) (w : Nat) (w7 : Word)

/-- Doubleword k of the record that a submission makes. -/
def recordDigit (k : Nat) : Nat := if k < 7 then (stagedWord m w k).toNat else w7.toNat

theorem recordDigit_lt (k : Nat) : recordDigit m w w7 k < 2 ^ 64 := by
  unfold recordDigit
  split
  · exact (stagedWord m w k).isLt
  · exact w7.isLt

theorem at_doubleword (k v : Nat) : at_ (64 * k) v = v * (2 ^ 64) ^ k := by
  unfold at_
  rw [Nat.shiftLeft_eq, pow_mul]

/-- A record as the number of its eight doublewords. -/
theorem stagedRecord_eq :
    stagedRecord m w w7 = BitVec.ofNat 512 (∑ k ∈ Finset.range 8, recordDigit m w w7 k * (2 ^ 64) ^ k) := by
  have hlast : at_ 448 w7.toNat = recordDigit m w w7 7 * (2 ^ 64) ^ 7 := at_doubleword 7 _
  have hstaged : ∀ k ∈ Finset.range 7, at_ (64 * k) (stagedWord m w k).toNat = recordDigit m w w7 k * (2 ^ 64) ^ k := by
    intro k hk
    rw [at_doubleword, recordDigit, if_pos (Finset.mem_range.mp hk)]
  rw [Finset.sum_range_succ, ← hlast, ← Finset.sum_congr rfl hstaged, ← foldl_add_range]
  rfl

/-- Bytes 8j to 8j + 7 of a record are its doubleword j. -/
theorem bytesOf_recordDigit {j : Nat} (hj : j < 8) :
    bytesOf (stagedRecord m w w7) (8 * j) (8 * j + 7) = recordDigit m w w7 j := by
  have hexp : 512 = 64 * j + 64 * (8 - j) := by omega
  have hpow : 2 ^ 512 = 2 ^ (64 * j) * 2 ^ (64 * (8 - j)) := (congrArg (2 ^ ·) hexp).trans (pow_add ..)
  have hdvd : 2 ^ 64 ∣ 2 ^ (64 * (8 - j)) := pow_dvd_pow 2 (by omega)
  unfold bytesOf bitsOf
  rw [Nat.shiftRight_eq_div_pow, show 8 * (8 * j + 7) + 7 + 1 - 8 * (8 * j) = 64 by omega,
    show 8 * (8 * j) = 64 * j by ring, stagedRecord_eq, BitVec.toNat_ofNat, hpow, Nat.mod_mul_right_div_self,
    Nat.mod_mod_of_dvd _ hdvd, pow_mul]
  exact sum_digits_div_mod 8 j _ (recordDigit_lt m w w7) hj

theorem bytesOf_stagedRecord {j : Nat} (hj : j < 7) :
    bytesOf (stagedRecord m w w7) (8 * j) (8 * j + 7) = (stagedWord m w j).toNat :=
  (bytesOf_recordDigit m w w7 (Nat.lt_succ_of_lt hj)).trans (if_pos hj)

theorem bytesOf_stagedRecord_last : bytesOf (stagedRecord m w w7) 56 63 = w7.toNat :=
  bytesOf_recordDigit m w w7 (j := 7) (by decide)

end

/-! ### The window's registers (R376) -/

section
variable {w k : Nat} (hw : w ≤ 8)
include hw

theorem pageKind_winPage (conf : Conf) : pageKind conf (winPage w) = if w = 8 then (.cmd, 0) else (.ctx, w) := by
  unfold winPage
  split
  · rfl
  · exact pageKind_ctxPage (by omega) conf

variable (hk : k < 8)
include hk

omit hw in
theorem addrPage_winAddr : addrPage (winAddr w k) = winPage w := by
  unfold addrPage winAddr pg
  omega

omit hw in
theorem addrOff_winAddr : addrOff (winAddr w k) = 0x100 + 8 * k := by
  unfold addrOff winAddr pg
  omega

/-- R531: a window's doublewords are write-only. -/
theorem regRow_winAddr (conf : Conf) : ∃ r, regRow (pageKind conf (addrPage (winAddr w k))).1 (addrOff (winAddr w k)) = some r ∧
    r.wo = 2 ^ 64 - 1 := by
  rw [addrPage_winAddr hk, addrOff_winAddr hk, pageKind_winPage hw]
  split
  · interval_cases k <;> exact ⟨_, rfl, rfl⟩
  · interval_cases k <;> exact ⟨_, rfl, rfl⟩

theorem regValue_winAddr (p : Part) (m : Mach) (src : Src) : regValue p m src (winAddr w k) = 0 := by
  obtain ⟨r, hrow, hwo⟩ := regRow_winAddr hw hk p.conf
  have hkind : (pageKind p.conf (addrPage (winAddr w k))).1 = .cmd ∨ (pageKind p.conf (addrPage (winAddr w k))).1 = .ctx := by
    rw [addrPage_winAddr hk, pageKind_winPage hw]
    split
    · exact .inl rfl
    · exact .inr rfl
  have hzero : ∀ x : Word, x &&& ~~~(wordOf (2 ^ 64 - 1)) = 0 := by
    intro x
    rw [show ~~~(wordOf (2 ^ 64 - 1)) = 0 from rfl]
    exact BitVec.and_zero
  have hoff : ¬ addrOff (winAddr w k) < 0x100 := by
    rw [addrOff_winAddr hk]
    omega
  unfold regValue
  dsimp only
  split
  · rfl
  · rw [if_neg (by simp [hoff])]
    split
    · rfl
    · rcases hkind with hkind | hkind
      all_goals
        rw [hkind] at hrow ⊢
        dsimp only
        rw [hrow]
        dsimp only
        rw [hwo, hzero]

end

/-- Settles O20: each doubleword of a record is the one staged in its place, and the window's registers are write-only. -/
theorem windowStagesAndSubmits : Obligations.WindowStagesAndSubmits := by
  refine ⟨fun s src w k v hw hk hreach => ?stages, fun s src w v hw hreach => ?submits, fun m w k j v w7 hk hj => ?latest,
    bytesOf_stagedRecord_last, fun m w j w7 hj => ?absent, fun p m src w k hw hk => ?reads, fun w k => ?place⟩
  case stages =>
    have hgives : GivesW src (.commandStage src w k v) s (commandStage src w k v s.part s.m) := rfl
    refine hgives.trans_eq ?_
    unfold commandStage
    rw [if_pos ⟨hw, hk⟩, gated_pass _ hreach]
  case submits =>
    have hgives : GivesW src (.commandSubmit src w v) s (commandSubmit src w v s.part s.m) := rfl
    refine hgives.trans_eq ?_
    unfold commandSubmit
    rw [if_pos hw, gated_pass _ hreach]
  case latest =>
    rw [bytesOf_stagedRecord _ _ _ hj]
    split
    next heq => rw [heq, stagedWord_stageWord_eq]
    next hne => rw [stagedWord_stageWord_ne _ _ _ hne, bytesOf_stagedRecord _ _ _ hj]
  case absent =>
    rw [bytesOf_stagedRecord _ _ _ hj, stagedWord_clearStaged]
    rfl
  case reads =>
    unfold readReg
    rw [regValue_winAddr hw hk]
    simp
  case place =>
    unfold winAddr winPage pg Reg.ctxPage Reg.cmdPage
    split <;> omega

/-! ### Acceptance and gap reports (R378, R395, R398) -/

section
variable {p : Part} {m : Mach} {src : Src} {w : Nat} {l : Line} (hup : isFatal p m = false)
include hup

theorem submitRecord_undefined (hw : w < 8) (hdef : ctxDefined p m w = false) :
    submitRecord src w l p m = accErr p (orReg p m (winStat w) (2 ^ 17)) src (winAddr w 7) 2 := by
  have hcase : submitCase p m w l = .undefined := if_pos ⟨hw, hdef⟩
  unfold submitRecord
  rw [hup, hcase]
  rfl

variable (hdef : w < 8 → ctxDefined p m w = true) (hroom : windowFull p m w = false)
include hdef hroom

omit hup in
/-- R378: a defined window with room looks at the record's SEQ. -/
theorem submitCase_seq : submitCase p m w l = if recSeq l ≠ rdF p m (winSeq w) 31 0 then .gap else .accepted := by
  have hno : ¬(w < 8 ∧ ctxDefined p m w = false) := fun ⟨hw, hfalse⟩ => by simp [hdef hw] at hfalse
  unfold submitCase
  rw [if_neg hno, hroom]
  rfl

theorem submitRecord_gap (hseq : recSeq l ≠ rdF p m (winSeq w) 31 0) :
    submitRecord src w l p m = gapReport p m w l := by
  unfold submitRecord
  rw [hup, submitCase_seq hdef hroom, if_pos hseq]
  rfl

theorem submitRecord_accepted (hseq : recSeq l = rdF p m (winSeq w) 31 0) :
    submitRecord src w l p m = enterQueue p { wr p m (winSeq w) (wordOf ((recSeq l + 1) % 2 ^ 32)) with
      cmd := { m.cmd with nextAcc := m.cmd.nextAcc + 1 } } w
      { line := l, win := w, acc := m.cmd.nextAcc, hseq := recSeq l } := by
  unfold submitRecord
  rw [hup, submitCase_seq hdef hroom, if_neg (not_not.mpr hseq)]
  rfl

end

/-- R395: a gap report that its hold has room for. -/
theorem gapReport_room {p : Part} {m : Mach} {w : Nat} {l : Line}
    (hgaps : ((holdOf m w).filter fun c => c.gap).length < 32) (hhold : (holdOf m w).length < 64) :
    gapReport p m w l = pushHold (bump p m (winGap w) 1) w
      { hseq := recSeq l, opcode := recOp l, status := stSeqGap,
        detail := rdF p (bump p m (winGap w) 1) (winSeq w) 31 0, gap := true } := by
  have hsame : holdOf (bump p m (winGap w) 1) w = holdOf m w := by
    obtain h | h := bump_cases p m (winGap w) 1 <;> rw [h]
    rfl
  unfold gapReport
  dsimp only
  rw [hsame, if_neg (by simp; omega)]

theorem winSeq_ne_winGap (w : Nat) : winSeq w ≠ winGap w := by
  unfold winSeq winGap pg
  omega

/-- Settles O21: the cases of R378 in their order, on the machine whose staged doublewords are taken. -/
theorem submissionAcceptsOrReportsGap : Obligations.SubmissionAcceptsOrReportsGap := by
  intro s src w v hw hreach hfatal m l
  have hgives : GivesW src (.commandSubmit src w v) s (submitRecord src w l s.part m) := by
    have hrow : GivesW src (.commandSubmit src w v) s (commandSubmit src w v s.part s.m) := rfl
    refine hrow.trans_eq ?_
    unfold commandSubmit
    rw [if_pos hw, gated_pass _ hreach]
  have hup : isFatal s.part m = false := hfatal
  refine ⟨fun hdef hroom hseq hgaps hhold => ⟨?gap, ?counted⟩, fun hdef hroom hseq => ?accepted, fun hw8 hdef => ?undefined⟩
  case gap => exact hgives.trans_eq ((submitRecord_gap hup hdef hroom hseq).trans (gapReport_room hgaps hhold))
  case counted => exact rd_bump_ne _ _ _ (winSeq_ne_winGap w)
  case accepted => exact hgives.trans_eq (submitRecord_accepted hup hdef hroom hseq)
  case undefined => exact hgives.trans_eq (submitRecord_undefined hup hw8 hdef)

/-! ### CMD_SEQ (R400) and EVT_FORCE (R490) -/

/-- Settles O19: behind the gate the window's idleness decides, and a refusal writes two other registers. -/
theorem cmdSeqNeedsIdleWindow : Obligations.CmdSeqNeedsIdleWindow := by
  intro s src w v hw hreach
  have hgives : GivesW src (.cmdSeqWrite src w v) s
      (if windowIdle s.m w then wr s.part s.m (winSeq w) (wordOf (bitsOf v 31 0)) else ignored s.part s.m src (winSeq w)) := by
    have hrow : GivesW src (.cmdSeqWrite src w v) s (cmdSeqWrite src w v s.part s.m) := rfl
    refine hrow.trans_eq ?_
    unfold cmdSeqWrite
    rw [if_pos hw, gated_pass _ hreach]
  refine ⟨fun hidle => hgives.trans_eq (if_pos hidle), fun hbusy => ⟨hgives.trans_eq (by simp [hbusy]), ?_⟩⟩
  have hoff : winSeq w % 4096 = 0x140 := pg_mod (by decide)
  refine rd_ignored_ne _ _ _ _ (fun heq => ?_) (fun heq => ?_)
  · rw [heq] at hoff
    exact absurd hoff (by decide)
  · rw [heq] at hoff
    exact absurd hoff (by decide)

/-- Settles O18: behind the gate the debug level decides. -/
theorem evtForceNeedsInvasive : Obligations.EvtForceNeedsInvasive := by
  intro s src page v hreach
  have hgives : GivesW src (.evtForce src page v) s
      (if s.m.sec.debug < 2 then ignored s.part s.m src (Reg.evtForce page)
       else orReg s.part s.m (Reg.evtStat page) (v.toNat &&& eventMask (pageKind s.part.conf page).1)) := by
    have hrow : GivesW src (.evtForce src page v) s (evtForce src page v s.part s.m) := rfl
    refine hrow.trans_eq ?_
    unfold evtForce
    rw [gated_pass _ hreach]
  exact ⟨fun hlow => hgives.trans_eq (if_pos hlow), fun hhigh => hgives.trans_eq (if_neg (Nat.not_lt.mpr hhigh))⟩

end Sys2Proof.Machine
end

section
/-! Writes of the tick's registers that the engine ignores (O17, R451), and register writes, PAGE_CTRL and LINKn.CTRL (O36,
R273, R274, R528, R531). -/

namespace Sys2Proof.Machine

/-! ### Whole writes by REGISTER_WRITE (R531, R534) -/

section
variable {s : State} {src : Src} {a : Nat} {v : Word}

/-- A whole write of an aligned address answers what its register's write leaves. -/
theorem givesW_registerWrite {m : Mach} (halign : alignAddr a = a) (hroute : routeWrite src a v s.part s.m = (s.part, m)) :
    GivesW src (.registerWrite src a 0xFF v) s m := by
  change Host.Outcome.next _ = _
  rw [regWrite_whole v _ _ halign, hroute]

theorem refuses_registerWrite (halign : alignAddr a = a)
    (hroute : routeWrite src a v s.part s.m = (s.part, plainWrite src a v s.part s.m))
    (hpass : writeGate s.part s.m src a = .pass) (href : writeRefused s.part s.m a v = true) :
    Refuses (.registerWrite src a 0xFF v) s src a :=
  (givesW_registerWrite halign hroute).trans_eq (plainWrite_refused hpass href)

end

/-! ### TICK.CTRL (R451) -/

/-- Bits lo to hi of two words agree where the words differ in none of a mask that holds those bits. -/
theorem bitsOf_eq_of_masked {a b mask : Word} {hi lo : Nat} (h : (a ^^^ b) &&& mask = 0)
    (hmask : ∀ i, lo ≤ i → i ≤ hi → mask.getLsbD i = true) : bitsOf a hi lo = bitsOf b hi lo := by
  have hext : a.extractLsb' lo (hi + 1 - lo) = b.extractLsb' lo (hi + 1 - lo) := by
    refine BitVec.eq_of_getLsbD_eq fun i hi' => ?_
    have hbit : ((a ^^^ b) &&& mask).getLsbD (lo + i) = false := by rw [h]; exact BitVec.getLsbD_zero
    rw [BitVec.getLsbD_and, BitVec.getLsbD_xor, hmask (lo + i) (by omega) (by omega), Bool.and_true,
      bne_eq_false_iff_eq] at hbit
    rw [BitVec.getLsbD_extractLsb', BitVec.getLsbD_extractLsb', hbit]
  simpa [bitsOf, BitVec.extractLsb'_toNat] using congrArg BitVec.toNat hext

/-- R451: a write of TICK.CTRL that the engine ignores. -/
theorem tickCtrlRefused_of {p : Part} {m : Mach} {v : Word}
    (h : (tickRuns p m = true ∧
        (bitsOf v 2 2 ≠ rdF p m Reg.tickCtrl 2 2 ∨ bitsOf v 15 10 ≠ rdF p m Reg.tickCtrl 15 10 ∨
         bitsOf v 23 18 ≠ rdF p m Reg.tickCtrl 23 18 ∨ bitsOf v 17 17 ≠ rdF p m Reg.tickCtrl 17 17)) ∨
      (bitOf v 3 = true ∧ p.tref = false) ∨ bitsOf v 47 32 < 8) : tickCtrlRefused p m v = true := by
  have hfield : ∀ hi lo, bitsOf v hi lo ≠ rdF p m Reg.tickCtrl hi lo →
      (∀ i, lo ≤ i → i ≤ hi → (0xFEFC04 : Word).getLsbD i = true) →
      (rd p m Reg.tickCtrl ^^^ v) &&& 0xFEFC04 ≠ 0 :=
    fun hi lo hne hmask hsame => hne (bitsOf_eq_of_masked hsame hmask).symm
  unfold tickCtrlRefused
  simp only [Bool.or_eq_true, Bool.and_eq_true, bne_iff_ne, Bool.not_eq_true', decide_eq_true_eq]
  obtain ⟨hruns, hfields⟩ | hstrap | hsync := h
  · refine .inl (.inl ⟨hruns, ?_⟩)
    obtain hne | hne | hne | hne := hfields
    · exact hfield _ _ hne fun i h1 h2 => by (interval_cases i; rfl)
    · exact hfield _ _ hne fun i h1 h2 => by interval_cases i <;> rfl
    · exact hfield _ _ hne fun i h1 h2 => by interval_cases i <;> rfl
    · exact hfield _ _ hne fun i h1 h2 => by (interval_cases i; rfl)
  · exact .inl (.inr hstrap)
  · exact .inr hsync

theorem tickRun_refused {p : Part} {m : Mach} {src : Src} {v : Word} (hpass : writeGate p m src Reg.tickCtrl = .pass)
    (href : tickCtrlRefused p m v = true) : tickRun src v p m = ignored p m src Reg.tickCtrl := by
  unfold tickRun
  rw [gated_pass _ hpass]
  exact if_pos href

/-- Settles O17: TICK.CTRL by its own rule, the other registers by the rules of plain writes. -/
theorem tickRegistersRefuse : Obligations.TickRegistersRefuse := by
  refine ⟨fun s src v => ⟨fun hreach hbad => ?ctrl, fun hreach hout => ?period, fun hreach hruns => ?step,
    fun hreach hruns => ?master, fun hreach hsmall => ?slip, fun hreach hzero => ?barrier⟩,
    fun p m src addr a h1 h2 => rd_ignored_ne p m src addr h1 h2⟩
  case ctrl =>
    have hrefused := tickRun_refused hreach (tickCtrlRefused_of hbad)
    have hgives : GivesW src (.tickRun src v) s (tickRun src v s.part s.m) := rfl
    have hwhole : GivesW src (.registerWrite src Reg.tickCtrl 0xFF v) s (tickRun src v s.part s.m) :=
      givesW_registerWrite rfl rfl
    exact ⟨hgives.trans_eq hrefused, hwhole.trans_eq hrefused⟩
  case period =>
    have href : writeRefused s.part s.m Reg.tickPeriod v = true := by
      change (decide (bitsOf v 23 0 < 8000) || decide (8400000 < bitsOf v 23 0)) = true
      simpa using hout
    intro c hc
    refine refuses_wholeWrites rfl rfl ?_ hreach href hc
    change (0xFFFFFF : Nat) ≠ 0
    decide
  case step => exact refuses_registerWrite rfl rfl hreach hruns
  case master => exact refuses_registerWrite rfl rfl hreach hruns
  case slip =>
    refine refuses_registerWrite rfl rfl hreach ?_
    change (decide (bitsOf v 15 0 < 64) || bitsOf v 23 16 == 0) = true
    simpa using hsmall
  case barrier =>
    refine refuses_registerWrite rfl rfl hreach ?_
    change (bitsOf v 15 0 == 0) = true
    simpa using hzero

/-! ### EVT_EN and EVT_STAT (R530, R531) -/

/-- An address in a page's header. -/
theorem addrPage_pg {page off : Nat} (h : off < 4096) : addrPage (pg page off) = page := by
  unfold addrPage pg
  omega

theorem addrOff_pg {page off : Nat} (h : off < 4096) : addrOff (pg page off) = off := by
  unfold addrOff pg
  omega

theorem alignAddr_pg {page off : Nat} (hpage : page < 256) (hoff : off < 4096) (h8 : off % 8 = 0) :
    alignAddr (pg page off) = pg page off := by
  unfold alignAddr pg
  omega

section
variable {s : State} {src : Src} {v : Word} {page off : Nat} {r : RegRow} (hpage : page < 256)
  (hhead : hasHeader (pageKind s.part.conf page).1 = true) (hoff : off < 0x100) (h8 : off % 8 = 0)
  (hctrl : off ≠ 0x10) (hforce : off ≠ 0x38)
include hhead hoff hctrl hforce

/-- A register of a page's header but PAGE_CTRL and EVT_FORCE is one without behaviour of its own. -/
theorem routeWrite_header :
    routeWrite src (pg page off) v s.part s.m = (s.part, plainWrite src (pg page off) v s.part s.m) := by
  have hne : pg page off ≠ Reg.lcsKeyCommit := fun heq => by
    have := congrArg (· % 4096) heq
    simp only [pg_mod (show off < 4096 by omega)] at this
    rw [this] at hoff
    exact absurd hoff (by decide)
  unfold routeWrite
  dsimp only
  rw [if_neg hne, addrPage_pg (by omega), addrOff_pg (by omega), if_pos ⟨hhead, hoff⟩, if_neg hctrl, if_neg hforce]

include hpage h8

/-- No rule of a header's register ignores a write, and nothing follows one. -/
theorem givesW_header (hreach : writeGate s.part s.m src (pg page off) = .pass)
    (hrow : regRow (pageKind s.part.conf page).1 off = some r) (hrws : r.rws = 0) :
    GivesW src (.registerWrite src (pg page off) 0xFF v) s
      (wr s.part s.m (pg page off) (plainValue r (rd s.part s.m (pg page off)) v)) := by
  refine (givesW_registerWrite (alignAddr_pg hpage (by omega) h8)
    (routeWrite_header hhead hoff hctrl hforce)).trans_eq ?_
  have hnot : writeRefused s.part s.m (pg page off) v = false := by
    unfold writeRefused
    dsimp only
    rw [addrOff_pg (by omega), if_pos hoff]
  have hafter : ∀ (m : Mach) (old : Word), afterWrite s.part m (pg page off) old v = m := by
    intro m old
    unfold afterWrite
    dsimp only
    rw [addrOff_pg (by omega), if_pos hoff]
  unfold plainWrite
  rw [gated_pass _ hreach, hnot, addrPage_pg (by omega), addrOff_pg (by omega), hrow]
  simp only [Bool.false_eq_true, if_false, hrws, ne_eq, not_true_eq_false]
  exact hafter _ _

end

section
variable {k : PageKind} (hhead : hasHeader k = true)
include hhead

theorem regRow_evtEn : regRow k 0x28 = some { off := 0x28, rw := eventMask k } := by
  unfold regRow pageRows
  rw [if_pos hhead]
  rfl

theorem regRow_evtStat : regRow k 0x20 = some { off := 0x20, w1c := eventMask k } := by
  unfold regRow pageRows
  rw [if_pos hhead]
  rfl

end

/-- R531: a RW register takes the written value in its field. -/
theorem plainValue_rw (off mask : Nat) (old v : Word) :
    plainValue { off := off, rw := mask } old v = (old &&& ~~~(wordOf mask)) ||| (v &&& wordOf mask) := by
  have hnone : wordOf 0 = 0 := rfl
  have hkeep : ∀ x : Word, x &&& 18446744073709551615#64 = x := fun _ => BitVec.and_allOnes
  unfold plainValue
  simp [hnone, hkeep]

/-- R531: a W1C register clears the bits written as 1. -/
theorem plainValue_w1c (off mask : Nat) (old v : Word) :
    plainValue { off := off, w1c := mask } old v = old &&& ~~~(v &&& wordOf mask) := by
  have hnone : wordOf 0 = 0 := rfl
  have hkeep : ∀ x : Word, x &&& 18446744073709551615#64 = x := fun _ => BitVec.and_allOnes
  unfold plainValue
  simp [hnone, hkeep]

/-! ### PAGE_CTRL (R528, R273) -/

/-- QUIESCE as it stands in PAGE_CTRL, and ENABLE. -/
theorem rdF_testBit (p : Part) (m : Mach) (a : Nat) {i : Nat} (hi : i < 2) : (rdF p m a 1 0).testBit i = rdB p m a i := by
  unfold rdF rdB bitsOf bitOf
  rw [Nat.testBit_mod_two_pow, Nat.shiftRight_zero, BitVec.testBit_toNat]
  simp [hi]

section
variable {s : State} {src : Src} {v : Word} {page : Nat} (hreach : Reaches s src (Reg.pageCtrl page))
include hreach

theorem pageCtrlWrite_ignored (h : pageCtrlIgnored s page v = true) :
    pageCtrlWrite src page v s.part s.m = ignored s.part s.m src (Reg.pageCtrl page) := by
  unfold pageCtrlIgnored at h
  unfold pageCtrlWrite
  rw [gated_pass _ hreach]
  dsimp only
  rw [rdF_testBit _ _ _ (by decide)]
  by_cases hkind : ((bitOf v 1 || bitOf v 2) && !retirable (pageKind s.part.conf page).1) = true
  · rw [if_pos hkind]
  · rw [if_neg hkind]
    rw [Bool.not_eq_true] at hkind
    rw [hkind, Bool.false_or] at h
    rw [if_pos h]

/-- R528, R273: a write that R528 does not ignore; a link's sets ENABLE too, unless the node has no id. -/
theorem pageCtrlWrite_taken (h : pageCtrlIgnored s page v = false) :
    pageCtrlWrite src page v s.part s.m =
      if (pageKind s.part.conf page).1 = .link ∧ bitOf v 0 = true ∧ nodeId s.part s.m = 0xFFF then
        ignored s.part s.m src (Reg.pageCtrl page)
      else if (pageKind s.part.conf page).1 = .link then
        linkEnabled s.part (pageCtrlTaken s page v) (pageKind s.part.conf page).2
          (rdB s.part s.m (Reg.pageCtrl page) 0) (bitOf v 0)
      else pageCtrlTaken s page v := by
  unfold pageCtrlIgnored at h
  obtain ⟨hkind, hlast⟩ := Bool.or_eq_false_iff.mp h
  unfold pageCtrlWrite
  rw [gated_pass _ hreach]
  dsimp only
  rw [rdF_testBit _ _ _ (by decide), rdF_testBit _ _ _ (by decide), hkind, hlast]
  rfl

end

/-- Each command that writes PAGE_CTRL answers its write. -/
theorem givesW_pageCtrlWrites {s : State} {src : Src} {v : Word} {page : Nat} {c : Instr}
    (hc : c ∈ pageCtrlWrites src page v) : GivesW src c s (pageCtrlWrite src page v s.part s.m) := by
  simp only [pageCtrlWrites, List.mem_cons, List.not_mem_nil, or_false] at hc
  rcases hc with rfl | rfl | rfl
  · rfl
  · rfl
  · rfl

theorem givesW_linkPageCtrl {s : State} {src : Src} {v : Word} {l : Nat} (hl : l < linkCount s.part.conf) {c : Instr}
    (hc : c ∈ .linkEnable src l v :: pageCtrlWrites src (Reg.linkPage l) v) :
    GivesW src c s (pageCtrlWrite src (Reg.linkPage l) v s.part s.m) := by
  rcases List.mem_cons.mp hc with rfl | hc
  · have hgives : GivesW src (.linkEnable src l v) s (linkEnable src l v s.part s.m) := rfl
    exact hgives.trans_eq (if_pos hl)
  · exact givesW_pageCtrlWrites hc

/-- Settles O36: each kind of write by its own rule, behind the gate that lets it through. -/
theorem registerWritesAnswer : Obligations.RegisterWritesAnswer := by
  refine ⟨fun s src v page hpage hhead => ⟨fun hreach => ?evtEn, fun hreach => ?evtStat⟩,
    fun s src v addr be hbe hreach => ?partial_, fun s addr be v hheld hpow => ?read,
    fun s src v page hreach c hc => ⟨fun hign => ?ignored, fun hnot hkind => ?taken⟩,
    fun s src v l hl hkind hreach c hc => ⟨fun hign => ?linkIgnored, fun hnot hid => ?linkTaken⟩,
    fun s src v l hl hreach => ?retrain⟩
  case evtEn =>
    refine (givesW_header hpage hhead (by decide) (by decide) (by decide) (by decide) hreach
      (regRow_evtEn hhead) rfl).trans_eq ?_
    rw [plainValue_rw]
    rfl
  case evtStat =>
    refine (givesW_header hpage hhead (by decide) (by decide) (by decide) (by decide) hreach
      (regRow_evtStat hhead) rfl).trans_eq ?_
    rw [plainValue_w1c]
    rfl
  case partial_ =>
    change Host.Outcome.next _ = _
    have hwrite : regWrite src addr be v s.part s.m = (s.part, accErr s.part s.m src (alignAddr addr) 1) := by
      unfold regWrite
      dsimp only
      rw [if_neg hbe, hreach]
    rw [hwrite]
  case read =>
    have hresp : responded s.m .host (some (readReg s.part s.m .host (alignAddr addr))) s.m =
        { s.m with out := s.m.out ++ [.response (some (readReg s.part s.m .host (alignAddr addr)))] } :=
      if_pos ⟨rfl, hheld, hpow⟩
    change Host.Outcome.next _ = _
    rw [hresp]
  case ignored => exact (givesW_pageCtrlWrites hc).trans_eq (pageCtrlWrite_ignored hreach hign)
  case taken =>
    refine (givesW_pageCtrlWrites hc).trans_eq ((pageCtrlWrite_taken hreach hnot).trans ?_)
    rw [if_neg (fun h => hkind h.1), if_neg hkind]
  case linkIgnored =>
    refine (givesW_linkPageCtrl hl hc).trans_eq ?_
    cases hR528 : pageCtrlIgnored s (Reg.linkPage l) v with
    | true => exact pageCtrlWrite_ignored hreach hR528
    | false =>
      rw [hR528] at hign
      have hnoId : bitOf v 0 = true ∧ nodeId s.part s.m = 0xFFF := hign.resolve_left (by decide)
      rw [pageCtrlWrite_taken hreach hR528, hkind]
      exact if_pos ⟨rfl, hnoId⟩
  case linkTaken =>
    refine (givesW_linkPageCtrl hl hc).trans_eq ?_
    rw [pageCtrlWrite_taken hreach hnot, hkind, if_neg (fun h => hid h.2.1 h.2.2), if_pos rfl]
  case retrain =>
    have hgives : GivesW src (.linkRetrainRequest src l v) s (linkRetrainRequest src l v s.part s.m) := rfl
    refine hgives.trans_eq ?_
    unfold linkRetrainRequest
    rw [if_pos hl, gated_pass _ hreach]

end Sys2Proof.Machine
end

section
/-! Resets (O30, R481, R496, R503), the power handshake (O31, R492 to R495) and the life cycle (O32, R474 to R477). -/

namespace Sys2Proof.Machine

/-! ### Resets -/

theorem cutBurn_none {m : Mach} (h : m.sec.burning = none) (p : Part) : cutBurn p m = (p, m) := by
  unfold cutBurn
  rw [h]

/-- R503: a warm reset that is due, in a part whose power-on sequence has run. -/
theorem warmReset_due {p : Part} {m : Mach} {pin : Bool} {f : Findings} (hpow : m.sec.power = .lit)
    (hheld : m.sec.held = false) (hruns : powerOnRuns m = none) (hwake : m.sec.wakeCold = false)
    (hdue : (pin || m.sec.warmDue.any fun t => decide (t ≤ m.tick.cycle)) = true) :
    warmReset pin f p m = runSequence p (warmBase (flushEntries p m)) (if pin then 2 else 3) f := by
  have hgo : ¬ (m.sec.power ≠ .lit ∨ m.sec.held = true ∨
      (pin || m.sec.warmDue.any fun t => decide (t ≤ m.tick.cycle)) = false) := by
    rw [hpow, hheld, hdue]
    decide
  unfold warmReset
  dsimp only
  rw [if_neg hgo, hruns]
  exact if_neg (by rw [hwake]; decide)

/-- Settles O30: each reset with its condition met. -/
theorem resetsAnswer : Obligations.ResetsAnswer := by
  refine ⟨fun s relay tref f hburn => ?powerOn, fun s f hpow hheld hruns hwake => ⟨?pin, fun t ht hle => ?due⟩,
    fun s src v hreach hbit => ?request, fun s hburn => ?removed, fun s n level hzero => ?zeroFail⟩
  case powerOn =>
    change Host.Outcome.next _ = _
    unfold powerOnReset
    rw [cutBurn_none hburn]
  case pin =>
    have hgives : Gives (.warmReset true f) s (warmReset true f s.part s.m) := rfl
    exact hgives.trans_eq (warmReset_due hpow hheld hruns hwake rfl)
  case due =>
    have hgives : Gives (.warmReset false f) s (warmReset false f s.part s.m) := rfl
    refine hgives.trans_eq (warmReset_due hpow hheld hruns hwake ?_)
    rw [ht]
    exact decide_eq_true hle
  case request =>
    have hgives : GivesW src (.resetCtrlWarm src v) s (resetCtrlWarm src v s.part s.m) := rfl
    refine hgives.trans_eq ?_
    unfold resetCtrlWarm
    rw [gated_pass _ hreach, if_pos hbit]
  case removed =>
    change Host.Outcome.next _ = _
    unfold powerRemoved
    rw [cutBurn_none hburn]
  case zeroFail =>
    have hgives : Gives (.zeroFail n) s (zeroFail n s.part s.m) := rfl
    refine hgives.trans_eq ?_
    unfold zeroFail
    rw [hzero]

/-! ### Power requests (R493 to R495) -/

section
variable {s : State} {src : Src} {v : Word} (hreach : Reaches s src Reg.pwrCtrl)
include hreach

/-- R493: a request for Banked in Lit, no other change of the power state under way. -/
theorem pwrCtrlWrite_banked (ht : bitsOf v 1 0 = 1) (hpow : s.m.sec.power = .lit) (hidle : pcIdle s.m = true)
    (hcold : s.m.sec.thenCold = false) (hzero : s.m.sec.zeroing ≠ some .cold) :
    pwrCtrlWrite src v s.part s.m =
      if bankedCheck s.part (wr s.part s.m Reg.pwrCtrl 1) ≠ 0 then
        refusePower s.part (wr s.part s.m Reg.pwrCtrl 1) (bankedCheck s.part (wr s.part s.m Reg.pwrCtrl 1))
      else requestState (wr s.part s.m Reg.pwrCtrl 1) 1 := by
  have hgo : ¬ ((wr s.part s.m Reg.pwrCtrl 1).sec.power ≠ .lit ∨ (wr s.part s.m Reg.pwrCtrl 1).sec.thenCold = true ∨
      (wr s.part s.m Reg.pwrCtrl 1).sec.zeroing = some .cold ∨ pcIdle (wr s.part s.m Reg.pwrCtrl 1) = false) := by
    unfold pcIdle at *
    simp [hpow, hcold, hzero, hidle]
  unfold pwrCtrlWrite
  rw [gated_pass _ hreach, ht]
  dsimp only
  rw [if_neg (by decide), if_pos rfl]
  exact if_neg hgo

/-- R495: a request for Cold in Lit at a debug level below INVASIVE, no change to Cold under way. -/
theorem pwrCtrlWrite_cold (ht : bitsOf v 1 0 = 2) (hpow : s.m.sec.power = .lit) (hdebug : s.m.sec.debug < 2)
    (hzero : s.m.sec.zeroing ≠ some .cold) (hcold : s.m.sec.thenCold = false) (hreq : s.m.sec.pcReq ≠ 2) :
    pwrCtrlWrite src v s.part s.m = startCold s.part (wr s.part s.m Reg.pwrCtrl 2) := by
  have hgo : ¬ ((wr s.part s.m Reg.pwrCtrl 2).sec.power = .cold ∨ (wr s.part s.m Reg.pwrCtrl 2).sec.thenCold = true ∨
      (wr s.part s.m Reg.pwrCtrl 2).sec.zeroing = some .cold ∨ (wr s.part s.m Reg.pwrCtrl 2).sec.pcReq = 2) := by
    simp [hpow, hcold, hzero, hreq]
  have hlow : ¬ 2 ≤ (wr s.part s.m Reg.pwrCtrl 2).sec.debug := by
    rw [wr_sec]
    omega
  unfold pwrCtrlWrite
  rw [gated_pass _ hreach, ht]
  dsimp only
  rw [if_neg (by decide), if_neg (by decide), if_pos rfl]
  exact (if_neg hgo).trans (if_neg hlow)

/-- R494: a request for Lit elsewhere, the handshake at rest. -/
theorem pwrCtrlWrite_lit (ht : bitsOf v 1 0 = 0) (hpow : s.m.sec.power ≠ .lit) (hidle : pcIdle s.m = true) :
    pwrCtrlWrite src v s.part s.m = requestState (wr s.part s.m Reg.pwrCtrl 0) 0 := by
  have hgo : (wr s.part s.m Reg.pwrCtrl 0).sec.power ≠ .lit ∧ pcIdle (wr s.part s.m Reg.pwrCtrl 0) = true := by
    unfold pcIdle at *
    rw [wr_sec]
    exact ⟨hpow, hidle⟩
  unfold pwrCtrlWrite
  rw [gated_pass _ hreach, ht]
  dsimp only
  rw [if_neg (by decide), if_neg (by decide), if_neg (by decide)]
  exact if_pos hgo

end

/-- R495: the entry to Cold from Lit, no burn and no transition in progress. -/
theorem startCold_of_lit {p : Part} {m : Mach} (hburn : m.sec.burning = none) (hidle : pcIdle m = true)
    (hpow : (loseLinks (discardAll p m)).sec.power = .lit) :
    startCold p m =
      (let n := zeroise p (loseLinks (discardAll p m))
       { n with sec := { n.sec with thenCold := false, keyCleared := true, zeroing := some .cold } }) := by
  have hgo : ¬ (m.sec.burning.isSome || !pcIdle m) = true := by
    rw [hburn, hidle]
    decide
  unfold startCold
  rw [if_neg hgo]
  dsimp only
  exact if_neg (by rw [hpow]; decide)

/-- R476: an engine that is not held and has no scrapping due wakes for none. -/
theorem wakeHeld_of_free {m : Mach} (hscrap : m.sec.scrapDue = false) (hheld : m.sec.held = false) : wakeHeld m = m :=
  if_neg (by rw [hscrap, hheld]; simp)

/-- R492: the acknowledgement of the state requested, with the supplies on, is taken. -/
theorem powerAck_taken {m : Mach} {n : Nat} (hpow : m.sec.power ≠ .off) (hidle : pcIdle m = false)
    (hreq : m.sec.pcReq = n) : ¬ (m.sec.power = .off ∨ pcIdle m = true ∨ n ≠ m.sec.pcReq) := by
  rw [hidle, hreq]
  simp [hpow]

theorem gives_powerAck (s : State) (n : Nat) : Gives (.powerAck n) s (powerAck n s.part s.m) := rfl

/-- Settles O31: each request and each acknowledgement by its own rule. -/
theorem powerAnswers : Obligations.PowerAnswers := by
  refine ⟨fun s src v hreach ht hpow hidle hcold hzero => ⟨fun hcheck => ?banked, fun hcheck => ?refused⟩,
    fun s src v hreach ht hpow hdebug hzero hburn hidle hcold hreq hlit => ?cold,
    fun s src v hreach ht hpow hidle => ?lit, fun s hpow hidle hreq hscrap hcold hheld => ?ackBanked,
    fun s hpow hidle hreq hscrap hheld => ?ackCold, fun s hpow hidle hreq => ?ackLit⟩
  case banked =>
    have hgives : GivesW src (.powerReqBanked src v) s (powerReqBanked src v s.part s.m) := rfl
    refine hgives.trans_eq ((if_pos ht).trans ((pwrCtrlWrite_banked hreach ht hpow hidle hcold hzero).trans ?_))
    exact if_neg (fun h => h hcheck)
  case refused =>
    have hgives : GivesW src (.powerReqBanked src v) s (powerReqBanked src v s.part s.m) := rfl
    refine hgives.trans_eq ((if_pos ht).trans ((pwrCtrlWrite_banked hreach ht hpow hidle hcold hzero).trans ?_))
    exact if_pos hcheck
  case cold =>
    have hgives : GivesW src (.powerReqCold src v) s (powerReqCold src v s.part s.m) := rfl
    refine hgives.trans_eq ((if_pos ht).trans
      ((pwrCtrlWrite_cold hreach ht hpow hdebug hzero hcold hreq).trans ?_))
    refine startCold_of_lit ?_ ?_ hlit
    · rw [wr_sec]
      exact hburn
    · unfold pcIdle at *
      rw [wr_sec]
      exact hidle
  case lit =>
    have hgives : GivesW src (.powerReqLit src v) s (powerReqLit src v s.part s.m) := rfl
    exact hgives.trans_eq ((if_pos ht).trans (pwrCtrlWrite_lit hreach ht hpow hidle))
  case ackBanked =>
    refine (gives_powerAck s 1).trans_eq ((if_neg (powerAck_taken (by rw [hpow]; decide) hidle hreq)).trans ?_)
    refine (if_neg ?_).trans ?_
    · rw [setEvt_sec]
      exact Bool.eq_false_iff.mp hcold
    exact wakeHeld_of_free (by rw [setEvt_sec]; exact hscrap) (by rw [setEvt_sec]; exact hheld)
  case ackCold =>
    refine (gives_powerAck s 2).trans_eq ((if_neg (powerAck_taken (by rw [hpow]; decide) hidle hreq)).trans ?_)
    exact wakeHeld_of_free (by rw [setEvt_sec]; exact hscrap) (by rw [setEvt_sec]; exact hheld)
  case ackLit => exact (gives_powerAck s 0).trans_eq (if_neg (powerAck_taken (by rw [hpow]; decide) hidle hreq))

/-! ### The life cycle (R474 to R477) -/

theorem wrAll_map (p : Part) (f : Nat → Nat × Word) (m : Mach) (l : List Nat) :
    wrAll p m (l.map f) = l.foldl (fun m k => wr p m (f k).1 (f k).2) m := by
  induction l generalizing m with
  | nil => rfl
  | cons k l ih => exact ih _

section
variable {p : Part} {m : Mach} {src : Src} {v : Word}

/-- R474: what becomes of an advance that reaches its register. -/
theorem lcAdvance_reached (hreach : writeGate p m src Reg.lcsAdvance = .pass) :
    lcAdvance src v p m =
      if bitsOf v 31 16 = 0x5EA1 ∧ lcMay p m.sec.lcState (bitsOf v 2 0) = true ∧ m.sec.burning.isNone = true then
        { m with sec := { m.sec with burning := some (bitsOf v 2 0) } }
      else setEvt p (ignored p m src Reg.lcsAdvance) Reg.lcsPage 1 := by
  unfold lcAdvance
  rw [gated_pass _ hreach]

variable (hreach : writeGate p m src Reg.lcsKeyCommit = .pass)
include hreach

/-- R477: in TEST, with no key fused, a commit burns the key and clears KEY_PROG. -/
theorem keyCommit_commits (htest : m.sec.lcState = 1) (hfused : keyFused p = false) (hbit : bitOf v 0 = true) :
    keyCommit src v p m =
      (burnKey p (((List.range 4).map fun k => at_ (64 * k) (rd p m (Reg.lcsKeyProg k)).toNat).sum),
        wrAll p m ((List.range 4).map fun k => (Reg.lcsKeyProg k, 0))) := by
  have hgo : ¬ (m.sec.lcState ≠ 1 ∨ (bitOf v 0 = true ∧ keyFused p = true)) := by
    rw [htest, hfused]
    simp
  unfold keyCommit
  rw [hreach]
  dsimp only
  rw [if_neg hgo, hbit, wrAll_map]
  rfl

theorem keyCommit_ignored (hbad : m.sec.lcState ≠ 1 ∨ (bitOf v 0 = true ∧ keyFused p = true)) :
    keyCommit src v p m = (p, ignored p m src Reg.lcsKeyCommit) := by
  unfold keyCommit
  rw [hreach]
  dsimp only
  rw [if_pos hbad]

end

/-- R477: a burned key is fused. -/
theorem keyFused_burnKey (p : Part) (key : Nat) : keyFused (burnKey p key) = true := by
  unfold keyFused
  rw [fuseWord_burnKey, if_pos rfl, Bool.or_eq_true]
  refine .inl ?_
  rw [BitVec.getLsbD_or, Bool.or_eq_true]
  exact .inr rfl

/-- R477: the words of a burned key. -/
theorem fuseWord_burnKey_key (p : Part) (key : Nat) {w : Nat} (hw : w < 8) :
    fuseWord (burnKey p key) (1 + w) = fuseWord p (1 + w) ||| BitVec.ofNat 32 (key >>> (32 * w)) := by
  rw [fuseWord_burnKey, if_neg (by omega), if_neg (by omega), if_pos (by omega), Nat.add_sub_cancel_left]
  congr 1
  exact BitVec.eq_of_toNat_eq (by simp)

/-- R476: scrapping in Lit holds the engine in reset and starts the burn at once. -/
theorem lcScrap_lit {m : Mach} (hpow : m.sec.power = .lit) (hburn : m.sec.burning = none) (p : Part) :
    lcScrap 0x5EA1 p m = { heldMach m with sec := { (heldMach m).sec with burning := some 5 } } := by
  have hgo : ¬ ((0x5EA1 : Nat) ≠ 0x5EA1 ∨ m.sec.power = .off) := by
    rw [hpow]
    decide
  unfold lcScrap
  rw [if_neg hgo]
  exact if_pos ⟨hpow, by rw [show (heldMach m).sec.burning = m.sec.burning from rfl, hburn]; rfl⟩

/-- Settles O32: the advance and the commit by their tables, the scrapping by the held machine. -/
theorem lifeCycleAnswers : Obligations.LifeCycleAnswers := by
  refine ⟨fun s src v hreach => ⟨fun hconf hmay hburn => ?advance, fun hbad => ?refused⟩,
    fun s src v hreach => ⟨fun htest hfused hbit => ?commit, fun hbad => ?commitRefused⟩,
    fun p key => ⟨keyFused_burnKey p key, fun w hw => fuseWord_burnKey_key p key hw⟩,
    fun s hpow hburn => ?scrap, fun m => ⟨rfl, rfl, rfl⟩⟩
  case advance =>
    have hgives : GivesW src (.lcAdvance src v) s (lcAdvance src v s.part s.m) := rfl
    exact hgives.trans_eq ((lcAdvance_reached hreach).trans (if_pos ⟨hconf, hmay, by rw [hburn]; rfl⟩))
  case refused =>
    have hgives : GivesW src (.lcAdvance src v) s (lcAdvance src v s.part s.m) := rfl
    refine hgives.trans_eq ((lcAdvance_reached hreach).trans (if_neg ?_))
    rintro ⟨hconf, hmay, hburn⟩
    obtain hne | hnot | hsome := hbad
    · exact hne hconf
    · exact absurd hmay (by rw [hnot]; decide)
    · exact hsome (Option.isNone_iff_eq_none.mp hburn)
  case commit =>
    change Host.Outcome.next _ = _
    rw [keyCommit_commits hreach htest hfused hbit]
  case commitRefused =>
    change Host.Outcome.next _ = _
    rw [keyCommit_ignored hreach hbad]
  case scrap =>
    have hgives : Gives (.lcScrap 0x5EA1) s (lcScrap 0x5EA1 s.part s.m) := rfl
    exact hgives.trans_eq (lcScrap_lit hpow hburn s.part)

end Sys2Proof.Machine
end

section
/-! Debug levels, the debug memory window and attested reports (O33, R488, R502, R540), the test ports and the management
requests (O34, R484, R485, R538), the host watchdog and the sensors (O35, R463, R498, R513). -/

namespace Sys2Proof.Machine

/-! ### Debug level requests (R488) -/

/-- Whether a request is refused rests on the security unit alone. -/
theorem debugRefused_congr {m n : Mach} (h : n.sec = m.sec) (level : Nat) : debugRefused n level = debugRefused m level := by
  unfold debugRefused powerMoves
  rw [h]

/-- R489: a request that is not refused raises to INVASIVE or SCAN from below, and else sets the level. -/
theorem requestLevel_taken {p : Part} {m : Mach} {level : Nat} (h : debugRefused m level = false) :
    requestLevel p m level =
      if 2 ≤ level ∧ m.sec.debug < level then startRaise p (clrReg p m Reg.dbgStat 0x100) level
      else setLevel p (clrReg p m Reg.dbgStat 0x100) level := by
  unfold requestLevel
  rw [h, if_neg (by decide)]
  dsimp only
  rw [clrReg_sec]

theorem givesW_dbgReq_tap {s : State} {level : Nat} (hlevel : level < 4) (hup : portUp s.m = true)
    (hpow : s.m.sec.power = .lit) : GivesW .ieee1500 (.dbgReq .ieee1500 level) s (requestLevel s.part s.m level) := by
  have hgives : GivesW .ieee1500 (.dbgReq .ieee1500 level) s (dbgReq .ieee1500 level s.part s.m) := rfl
  refine hgives.trans_eq ?_
  unfold dbgReq
  dsimp only
  rw [Nat.mod_eq_of_lt hlevel, hup, hpow]
  rfl

theorem givesW_dbgReq_host {s : State} {level : Nat} (hlevel : level < 4) (hreach : Reaches s .host Reg.dbgCtrl) :
    GivesW .host (.dbgReq .host level) s
      (requestLevel s.part (wr s.part s.m Reg.dbgCtrl (wordOf level)) level) := by
  have hgives : GivesW .host (.dbgReq .host level) s (dbgCtrlWrite .host (wordOf (level % 4)) s.part s.m) := rfl
  have hmask : wordOf level &&& 3 = wordOf level := by (interval_cases level <;> rfl)
  have hbits : bitsOf (wordOf level) 1 0 = level := by (interval_cases level <;> rfl)
  refine hgives.trans_eq ?_
  unfold dbgCtrlWrite
  rw [gated_pass _ hreach, Nat.mod_eq_of_lt hlevel, hmask, hbits]
  exact if_pos rfl

/-! ### The debug memory window (R540) -/

section
variable {s : State} {src : Src} {v : Word} (hreach : Reaches s src Reg.dbgMemCtrl)
include hreach

theorem dbgMemAccess_ignored
    (h : s.m.sec.debug < 2 ∨ (bitOf v 0 = true ∧ s.m.sec.memRead = true) ∨ (bitOf v 1 = true ∧ s.m.sec.memWrite = true)) :
    dbgMemAccess src v s.part s.m = ignored s.part s.m src Reg.dbgMemCtrl := by
  unfold dbgMemAccess
  rw [gated_pass _ hreach]
  refine if_pos ?_
  rwa [Bool.and_eq_true, Bool.and_eq_true]

/-- At INVASIVE or SCAN with no action running, and no copy of the addressed group: the READ, then the WRITE. -/
theorem dbgMemAccess_idle (hdebug : 2 ≤ s.m.sec.debug) (hread : s.m.sec.memRead = false) (hwrite : s.m.sec.memWrite = false)
    (hcopy : rdF s.part s.m Reg.dbgMemAddr 63 60 = 1 → copyBusy s.m (64 * rdF s.part s.m Reg.dbgMemAddr 19 0) = false) :
    dbgMemAccess src v s.part s.m =
      (let m := { s.m with sec := { s.m.sec with memRead := bitOf v 0, memWrite := bitOf v 1 } }
       let m := if bitOf v 0 then dbgRead s.part m else m
       if bitOf v 1 then dbgWrite s.part m else m) := by
  have hgo : ¬ (s.m.sec.debug < 2 ∨ (bitOf v 0 && s.m.sec.memRead) = true ∨ (bitOf v 1 && s.m.sec.memWrite) = true) := by
    rw [hread, hwrite, Bool.and_false, Bool.and_false]
    simp only [Bool.false_eq_true, or_false]
    omega
  unfold dbgMemAccess
  rw [gated_pass _ hreach, if_neg hgo, hread, hwrite, Bool.false_or, Bool.false_or]
  refine if_neg ?_
  rintro ⟨hkiln, hbusy⟩
  exact Bool.false_ne_true ((hcopy hkiln).symm.trans hbusy)

end

/-- MEM_CTRL.WRITE of a kiln line that there is. -/
theorem dbgWrite_kiln {p : Part} {m : Mach} (hkiln : rdF p m Reg.dbgMemAddr 63 60 = 1)
    (hline : rdF p m Reg.dbgMemAddr 19 0 < kilnLines p) :
    dbgWrite p m =
      (let line := rdF p m Reg.dbgMemAddr 19 0
       let k := m.run.kilnSt
       let n := putKiln m (64 * line) (dbgData p m)
       { n with run := { n.run with kilnSt := { k with badLines := k.badLines.filter (· != line) } } }) := by
  unfold dbgWrite
  dsimp only
  rw [hkiln]
  exact if_neg (by omega)

/-! ### Attested reports (R502) -/

theorem attestGo_go {s : State} {src : Src} {v : Word} (hreach : Reaches s src Reg.secAttestCtrl) (hbit : bitOf v 0 = true) :
    attestGo src v s.part s.m =
      if s.m.sec.attest.isSome then ignored s.part s.m src Reg.secAttestCtrl
      else { s.m with sec := { s.m.sec with attest := some (attest s.part s.m
        ((List.range 4).flatMap fun k => leBytes 8 (rd s.part s.m (Reg.secNonce k)).toNat)) } } := by
  unfold attestGo
  rw [gated_pass _ hreach, hbit]
  rfl

/-- R502: a report that has been sampled is built once the engine's clock runs. -/
theorem endActions_attest {p : Part} {m : Mach} {bs : List Byte} (hreport : m.sec.attest = some bs)
    (hup : portUp m = true) (hpow : m.sec.power = .lit) (hheld : m.sec.memHeld = false) :
    endActions p m = setEvt p (wrAll p
      { m with sec := { m.sec with attest := none, memRead := false, memWrite := false } }
      ((List.range 16).map fun k => (Reg.secReport k, wordOf (leNat ((bs.drop (8 * k)).take 8))))) Reg.secPage 0 := by
  unfold endActions
  rw [hup, hpow, hheld]
  unfold attestDone
  simp only [Bool.true_and, decide_true, if_true, Bool.false_eq_true, if_false, hheld, hreport]

/-- Settles O33: each request behind its gate, and the end of what takes a cycle. -/
theorem debugAndAttestAnswer : Obligations.DebugAndAttestAnswer := by
  refine ⟨fun s level hlevel hup hpow hok => ⟨fun hset => ?set, fun hhigh hraise => ?raise⟩,
    fun s level hlevel hreach hok hlow => ?host,
    fun s src v hreach => ⟨fun hdebug hread hwrite hcopy => ⟨fun h0 h1 hkiln hline => ?write, fun h0 h1 => ?read,
      fun h0 h1 => ?both⟩, fun hbad => ?refused⟩,
    fun s src v hreach hbit => ⟨fun hnone => ?go, fun hsome => ?again⟩,
    fun p m bs hreport hup hpow hheld => endActions_attest hreport hup hpow hheld⟩
  case set =>
    refine (givesW_dbgReq_tap hlevel hup hpow).trans_eq ((requestLevel_taken hok).trans (if_neg ?_))
    omega
  case raise => exact (givesW_dbgReq_tap hlevel hup hpow).trans_eq ((requestLevel_taken hok).trans (if_pos ⟨hhigh, hraise⟩))
  case host =>
    have hok' := (debugRefused_congr (wr_sec s.part s.m Reg.dbgCtrl (wordOf level)) level).trans hok
    refine (givesW_dbgReq_host hlevel hreach).trans_eq ((requestLevel_taken hok').trans (if_neg ?_))
    omega
  case write =>
    have hgives : GivesW src (.dbgMemAccess src v) s (dbgMemAccess src v s.part s.m) := rfl
    refine hgives.trans_eq ((dbgMemAccess_idle hreach hdebug hread hwrite hcopy).trans ?_)
    rw [h0, h1]
    exact dbgWrite_kiln hkiln hline
  case read =>
    have hgives : GivesW src (.dbgMemAccess src v) s (dbgMemAccess src v s.part s.m) := rfl
    refine hgives.trans_eq ((dbgMemAccess_idle hreach hdebug hread hwrite hcopy).trans ?_)
    rw [h0, h1]
    rfl
  case both =>
    have hgives : GivesW src (.dbgMemAccess src v) s (dbgMemAccess src v s.part s.m) := rfl
    refine hgives.trans_eq ((dbgMemAccess_idle hreach hdebug hread hwrite hcopy).trans ?_)
    rw [h0, h1]
    rfl
  case refused =>
    have hgives : GivesW src (.dbgMemAccess src v) s (dbgMemAccess src v s.part s.m) := rfl
    exact hgives.trans_eq (dbgMemAccess_ignored hreach hbad)
  case go =>
    have hgives : GivesW src (.attestGo src v) s (attestGo src v s.part s.m) := rfl
    exact hgives.trans_eq ((attestGo_go hreach hbit).trans (if_neg (by rw [hnone]; decide)))
  case again =>
    have hgives : GivesW src (.attestGo src v) s (attestGo src v s.part s.m) := rfl
    exact hgives.trans_eq ((attestGo_go hreach hbit).trans (if_pos (Option.isSome_iff_ne_none.mpr hsome)))

/-! ### The test ports (R538, R556) -/

/-- R556: the identification code's 32 bits hold its three fields and their fixed 1. -/
theorem idcode_toNat (p : Part) (mfr : BitVec 11) :
    (idcode p mfr).toNat = 2 ^ 28 * (p.stepping % 16) + 2 ^ 12 * partNumber p.conf + 2 * mfr.toNat + 1 := by
  have hpart : partNumber p.conf ≤ 0x1A36 := by
    cases p.conf
    · decide
    · decide
    · decide
  unfold idcode
  rw [BitVec.toNat_ofNat, Nat.mod_eq_of_lt]
  omega

/-- R556: a code that the list does not name is BYPASS. -/
theorem tapInstr_other {ir : BitVec 8} (h : ir ∉ [0x00, 0x01, 0x02, 0x10, 0x11, 0x12, 0x13]) (write : Bool) (addr : Nat)
    (v dr : Word) (mfr : BitVec 11) (p : Part) (m : Mach) : tapInstr write addr v ir dr mfr p m = (p, bypass m ir) := by
  unfold tapInstr
  split
  case h_8 => rfl
  all_goals exact absurd (by decide) h

/-- R499: with a supply, the test ports answer. -/
theorem gives_wrapReg {s : State} {write : Bool} {addr : Nat} {v : Word} {tap : TapOp} {q : Part × Mach}
    (h : wrapReg write addr v tap s.part s.m = q) : GivesPart (.wrapReg write addr v tap) s q.1 q.2 := by
  rw [← h]
  rfl

theorem wrapReg_tap {m : Mach} (hpow : m.sec.power ≠ .off) (write : Bool) (addr : Nat) (v : Word) (ir : BitVec 8) (dr : Word)
    (mfr : BitVec 11) (p : Part) :
    wrapReg write addr v (.shift ir dr mfr) p m = tapInstr write addr v ir dr mfr p m := if_neg hpow

theorem wrapReg_access {m : Mach} (hpow : m.sec.power ≠ .off) (hheld : m.sec.held = false) (write : Bool) (addr : Nat)
    (v : Word) (p : Part) :
    wrapReg write addr v .access p m =
      if write then routeWrite .ieee1500 (alignAddr addr) v p m
      else (p, { m with out := m.out ++ [.wrapRead (alignAddr addr) (readReg p m .ieee1500 (alignAddr addr))] }) :=
  (if_neg hpow).trans (if_neg (by rw [hheld]; decide))

/-- R487: at INVASIVE a debugger's request takes effect. -/
theorem debugHalt_invasive {m : Mach} (hup : portUp m = true) (hdebug : m.sec.debug = 2) (halted stepOnce : Bool) :
    debugHalt m halted stepOnce = { m with sec := { m.sec with halted := halted, stepOnce := stepOnce } } :=
  if_pos (by rw [hup, hdebug]; rfl)

/-! ### The management requests (R484, R485) -/

/-- A management row whose reads find nothing amiss does as it does without them. -/
theorem mgRead_clean (base : Part → Mach → Part × Mach) (p : Part) (m : Mach) : mgRead .clean base p m = base p m := by
  unfold mgRead
  simp [storeCorrected]

section
variable {s : State} {e : Entry} {bs : List Byte} (hup : engineUp (takeMgmt s.part s.m) = true)
  (hfatal : isFatal s.part (takeMgmt s.part s.m) = false) (hcopies : systemCopies s.part (takeMgmt s.part s.m) = false)
  (hhead : mgmtHead (takeMgmt s.part s.m) = some (e, bs))
include hup hfatal hcopies hhead

/-- R485: a row whose kind the packet at PQ4's head has, allowed, carries the request out. -/
theorem mgServe_allowed {kind : Nat} (hkind : mgKind bs = kind)
    (hallow : mgRefusal s.part (popMgmt (takeMgmt s.part s.m) bs) bs = stDone)
    (f : Entry → List Byte → Mach → Part × Mach) :
    mgServe kind s.part (s.part, s.m) f = f e bs (popMgmt (takeMgmt s.part s.m) bs) := by
  unfold mgServe
  dsimp only
  rw [hup, hfatal, hcopies, hhead]
  simp only [Bool.not_true, Bool.or_false, Bool.false_eq_true, if_false]
  rw [if_pos (.inl hkind), if_pos hallow]

theorem mgResp_head (hkind : mgKind bs = 0x74) :
    mgResp s.part s.m =
      (let m := popMgmt (takeMgmt s.part s.m) bs
       { m with sec := { m.sec with answers := m.sec.answers ++ [(e.src, bs)] } }) := by
  unfold mgResp
  dsimp only
  rw [hup, hfatal, hcopies, hhead]
  simp only [Bool.not_true, Bool.or_false, Bool.false_eq_true, if_false]
  rw [if_pos hkind]

end

/-- Settles O34: the ports by their instructions, the management rows by the packet at PQ4's head. -/
theorem wrapperAndManagementAnswer : Obligations.WrapperAndManagementAnswer := by
  refine ⟨fun s addr v hpow hheld => ⟨?wrapRead, ?wrapWrite⟩,
    fun s w addr v dr mfr hpow => ⟨?idcode, ?dbgReq, ?lcScrap, fun ir hir => ?bypass⟩,
    fun s w addr v hpow hup hdebug => ⟨?halt, ?resume, ?singleStep⟩,
    fun s e bs hup hfatal hcopies hhead => ?requests, fun s e bs hup hfatal hcopies hhead hkind => ?answer⟩
  case wrapRead => exact gives_wrapReg (wrapReg_access hpow hheld false addr v s.part)
  case wrapWrite => exact gives_wrapReg (wrapReg_access hpow hheld true addr v s.part)
  case idcode =>
    refine Gives.trans_eq (gives_wrapReg (wrapReg_tap hpow w addr v 0x01 dr mfr s.part)) ?_
    change shiftOut s.m 0x01 32 (wordOf (idcode s.part mfr).toNat) = _
    rw [idcode_toNat]
    rfl
  case dbgReq => exact gives_wrapReg (wrapReg_tap hpow w addr v 0x11 dr mfr s.part)
  case lcScrap => exact gives_wrapReg (wrapReg_tap hpow w addr v 0x12 dr mfr s.part)
  case bypass =>
    exact gives_wrapReg ((wrapReg_tap hpow w addr v ir dr mfr s.part).trans (tapInstr_other hir w addr v dr mfr s.part s.m))
  case halt =>
    exact gives_wrapReg (tap := .halt) ((if_neg hpow).trans (congrArg (Prod.mk s.part) (debugHalt_invasive hup hdebug true false)))
  case resume =>
    exact gives_wrapReg (tap := .resume) ((if_neg hpow).trans (congrArg (Prod.mk s.part) (debugHalt_invasive hup hdebug false false)))
  case singleStep =>
    exact gives_wrapReg (tap := .singleStep) ((if_neg hpow).trans (congrArg (Prod.mk s.part) (debugHalt_invasive hup hdebug true s.m.sec.halted)))
  case requests =>
    intro m hallow
    refine ⟨fun hkind => ?regRead, fun hkind => ?regWrite, fun hkind => ?cmd, fun hkind => ?attest⟩
    case regRead =>
      have hgives : Gives .mgRegRead s (mgRead .clean (fun p m => (p, mgRegRead p m)) s.part s.m).2 := rfl
      refine hgives.trans_eq ?_
      rw [mgRead_clean]
      exact congrArg Prod.snd (mgServe_allowed hup hfatal hcopies hhead hkind hallow _)
    case regWrite =>
      change Host.Outcome.next _ = _
      rw [mgRead_clean]
      unfold mgRegWrite
      rw [mgServe_allowed hup hfatal hcopies hhead hkind hallow]
    case cmd =>
      have hgives : Gives .mgCmd s (mgRead .clean (fun p m => (p, mgCmd p m)) s.part s.m).2 := rfl
      refine hgives.trans_eq ?_
      rw [mgRead_clean]
      exact congrArg Prod.snd (mgServe_allowed hup hfatal hcopies hhead hkind hallow _)
    case attest =>
      have hgives : Gives .mgAttest s (mgRead .clean (fun p m => (p, mgAttest p m)) s.part s.m).2 := rfl
      refine hgives.trans_eq ?_
      rw [mgRead_clean]
      exact congrArg Prod.snd (mgServe_allowed hup hfatal hcopies hhead hkind hallow _)
  case answer =>
    have hgives : Gives .mgResp s (mgRead .clean (fun p m => (p, mgResp p m)) s.part s.m).2 := rfl
    refine hgives.trans_eq ?_
    rw [mgRead_clean]
    exact mgResp_head hup hfatal hcopies hhead hkind

/-! ### The host watchdog and the sensors (R463, R498, R513) -/

section
variable {s : State} (hup : engineUp s.m = true) (hdue : wdogDue s.part s.m = true)
include hup hdue

/-- R463: a period has passed without a kick. -/
theorem hostLost_due :
    hostLost s.part s.m =
      (let m := report s.part (orReg s.part { s.m with sec := { s.m.sec with kicked := s.m.tick.time } } Reg.glbFaultStat 4)
        { code := 0xF0, page := Reg.glbPage, sev := .transient }
       if s.part.relay || isFatal s.part m then m
       else settleLost s.part { m with sec := { m.sec with lost := true } }) := by
  unfold hostLost
  rw [hup, hdue]
  rfl

end

/-- Settles O35: each watch where its condition holds. -/
theorem hostWatchAndSensorsAnswer : Obligations.HostWatchAndSensorsAnswer := by
  refine ⟨fun s src v hreach hbit => ?kick, fun s hup hdue hrelay hfatal => ?lost, fun s hup hdue hrelay => ?lostRelay,
    fun s n raw hn hup => ?temp, fun s n hn hpow hup heff => ?droop, fun s t ht hle => ?droopEnd⟩
  case kick =>
    have hgives : GivesW src (.hostKick src v) s (hostKick src v s.part s.m) := rfl
    refine hgives.trans_eq ?_
    unfold hostKick
    rw [gated_pass _ hreach, if_pos hbit]
  case lost =>
    have hgives : Gives .hostLost s (hostLost s.part s.m) := rfl
    refine hgives.trans_eq ((hostLost_due hup hdue).trans (if_neg ?_))
    rw [hrelay, Bool.false_or]
    exact Bool.eq_false_iff.mp hfatal
  case lostRelay =>
    have hgives : Gives .hostLost s (hostLost s.part s.m) := rfl
    refine hgives.trans_eq ((hostLost_due hup hdue).trans (if_pos ?_))
    rw [hrelay]
    rfl
  case temp =>
    have hgives : Gives (.tempSample n raw) s (tempSample n raw s.part s.m) := rfl
    exact hgives.trans_eq (if_pos ⟨hn, hup⟩)
  case droop =>
    have hgives : Gives (.droop n) s (droop n s.part s.m) := rfl
    exact hgives.trans_eq (if_pos ⟨hn, hpow, hup, heff⟩)
  case droopEnd =>
    have hgives : Gives .droopEnd s (droopEnd s.part s.m) := rfl
    refine hgives.trans_eq (if_pos ?_)
    rw [ht]
    exact decide_eq_true hle

end Sys2Proof.Machine
end

section
/-! Event counters and semaphores (R384 to R387, R391, R461): what their commands leave alone (O12) and what each does
(O39). -/

namespace Sys2Proof.Machine

/-! ### What the signal rows change -/

/-- n's running commands, event counters, holds, memory transactions and contexts in m. -/
def signalFramed (m n : Mach) : Mach :=
  { m with
    cmd := { m.cmd with running := n.cmd.running, events := n.cmd.events, holds := n.cmd.holds }
    mem := { m.mem with txns := n.mem.txns, waiting := n.mem.waiting, ports := n.mem.ports }
    run := { m.run with ctxs := n.run.ctxs } }

/-- From m to n nothing changes but what the signal rows may change, and of a context its semaphores alone. -/
def SignalFrame (m n : Mach) : Prop :=
  n = signalFramed m n ∧ ∀ c, { ctxOf n c with sems := (ctxOf m c).sems } = ctxOf m c

namespace SignalFrame

theorem refl (m : Mach) : SignalFrame m m := ⟨rfl, fun _ => rfl⟩

theorem trans {m n k : Mach} (hmn : SignalFrame m n) (hnk : SignalFrame n k) : SignalFrame m k := by
  obtain ⟨hmach, hctx⟩ := hmn
  obtain ⟨hmach', hctx'⟩ := hnk
  have hbase : signalFramed n k = signalFramed (signalFramed m n) k := congrArg (fun x => signalFramed x k) hmach
  refine ⟨hmach'.trans hbase, fun c => ?_⟩
  exact (congrArg (fun x : Ctx => { x with sems := (ctxOf m c).sems }) (hctx' c)).trans (hctx c)

/-- A change of the commands that run, the event counters and the holds alone. -/
theorem of_cmd {m n : Mach} (h : n = signalFramed m n) (hctxs : n.run.ctxs = m.run.ctxs) : SignalFrame m n :=
  ⟨h, fun c => by
    have hctx : ctxOf n c = ctxOf m c := by
      unfold ctxOf
      rw [hctxs]
    rw [hctx]⟩

theorem setEvtCnt (m : Mach) (e v : Nat) : SignalFrame m (setEvtCnt m e v) := of_cmd rfl rfl

theorem signalOf (m : Mach) (l : Line) (st : Nat) : SignalFrame m (signalOf m l st) := by
  obtain h | h := signalOf_cases m l st
  · rw [h]
    exact refl m
  · rw [h]
    exact setEvtCnt ..

theorem complete (m : Mach) (r : Running) (st : Nat) : SignalFrame m (complete m r st) :=
  have hdrop : SignalFrame m (dropRunning m r.acc) := of_cmd rfl rfl
  have hhold : ∀ (n : Mach) (c : Completion), SignalFrame n (pushHold n r.win c) := fun _ _ => of_cmd rfl rfl
  (hdrop.trans (signalOf _ r.line st)).trans (hhold _ _)

theorem setSem (m : Mach) (c i v : Nat) : SignalFrame m (setSem m c i v) := by
  refine ⟨rfl, fun d => ?_⟩
  unfold Machine.setSem
  by_cases hd : d = c
  · rw [hd, ctxOf_setCtx_eq]
  · rw [ctxOf_setCtx_ne _ _ hd]

theorem finishAcq (m : Mach) (r : Running) : SignalFrame m (finishAcq m r) := (setSem ..).trans (complete ..)

theorem releaseWaiters (k : Nat) (m : Mach) : SignalFrame m (releaseWaiters k m) := by
  induction k generalizing m with
  | zero => exact refl m
  | succ k ih =>
    unfold Machine.releaseWaiters
    split
    next r _ =>
      by_cases hwait : recOp r.line = 0x51
      · rw [if_pos hwait]
        exact (complete m r stDone).trans (ih _)
      · rw [if_neg hwait]
        exact (finishAcq m r).trans (ih _)
    next => exact refl m

theorem release (m : Mach) : SignalFrame m (release m) := releaseWaiters ..

end SignalFrame

/-! ### The commands of R386, R387 and R391, by their waiting command -/

theorem nop_frame (w q : Nat) (p : Part) (m : Mach) : SignalFrame m (nop w q p m) := by
  unfold nop
  split
  · exact .complete ..
  · exact .refl m

/-- A clean read of the counter is none. -/
theorem signalRead_clean (w q : Nat) (p : Part) (m : Mach) : signalRead w q .clean p m = eventSignal w q p m := by
  unfold signalRead
  cases hdue : dueCmd p m w q 0x50 with
  | some r => rfl
  | none =>
    unfold eventSignal
    rw [hdue]

theorem semAcqRead_clean (w q : Nat) (p : Part) (m : Mach) : semAcqRead w q .clean p m = semAcq w q p m := by
  unfold semAcqRead
  cases hdue : dueCmd p m w q 0x52 with
  | some r => rfl
  | none =>
    unfold semAcq
    rw [hdue]

theorem semRelRead_clean (w q : Nat) (p : Part) (m : Mach) : semRelRead w q .clean p m = semRel w q p m := by
  unfold semRelRead
  cases hdue : dueCmd p m w q 0x53 with
  | some r => rfl
  | none =>
    unfold semRel
    rw [hdue]

theorem gives_eventSignal (w q : Nat) (s : State) : Gives (.eventSignal w q .clean) s (eventSignal w q s.part s.m) :=
  Gives.trans_eq (m := signalRead w q .clean s.part s.m) rfl (signalRead_clean ..)

theorem gives_semAcq (w q : Nat) (s : State) : Gives (.semAcq w q .clean) s (semAcq w q s.part s.m) :=
  Gives.trans_eq (m := semAcqRead w q .clean s.part s.m) rfl (semAcqRead_clean ..)

theorem gives_semRel (w q : Nat) (s : State) : Gives (.semRel w q .clean) s (semRel w q s.part s.m) :=
  Gives.trans_eq (m := semRelRead w q .clean s.part s.m) rfl (semRelRead_clean ..)

theorem eventSignal_frame (w q : Nat) (p : Part) (m : Mach) : SignalFrame m (eventSignal w q p m) := by
  have hcount : ∀ (b : Prop) [Decidable b] (e v : Nat),
      SignalFrame m (if b then setEvtCnt m e v else addEvt m e v) := fun b _ e v => by
    by_cases hb : b
    · rw [if_pos hb]
      exact .setEvtCnt ..
    · rw [if_neg hb]
      exact .setEvtCnt ..
  unfold eventSignal
  split
  · exact (hcount _ _ _).trans ((SignalFrame.complete ..).trans (.release _))
  · exact .refl m

theorem eventWait_frame (w q : Nat) (p : Part) (m : Mach) : SignalFrame m (eventWait w q p m) := by
  unfold eventWait
  split
  · split
    · exact .complete ..
    · exact .refl m
  · exact .refl m

theorem semAcq_frame (w q : Nat) (p : Part) (m : Mach) : SignalFrame m (semAcq w q p m) := by
  unfold semAcq
  split
  · split
    · exact .finishAcq ..
    · exact .refl m
  · exact .refl m

theorem semRel_frame (w q : Nat) (p : Part) (m : Mach) : SignalFrame m (semRel w q p m) := by
  unfold semRel
  split
  · exact (SignalFrame.setSem ..).trans ((SignalFrame.complete ..).trans (.release _))
  · exact .refl m

/-- Settles O12: each row's machine lies in the frame, and its part and pending commands are those it met. -/
theorem signalRowsFrame : Obligations.SignalRowsFrame := by
  have hrow : ∀ {c : Instr} {s t : State} {m : Mach}, Gives c s m → SignalFrame s.m m → exec c s = .next t →
      t.part = s.part ∧ t.pending = s.pending ∧ t.m = signalFramed s.m t.m ∧
        (∀ n, { ctxOf t.m n with sems := (ctxOf s.m n).sems } = ctxOf s.m n) := by
    intro c s t m hgives hframe hexec
    obtain rfl : { s with m := m } = t := Host.Outcome.next.inj (hgives.symm.trans hexec)
    exact ⟨rfl, rfl, hframe.1, hframe.2⟩
  intro c s t hc hexec
  unfold signalRow at hc
  split at hc
  case h_1 w q =>
    have hgives : Gives (.nop w q) s (nop w q s.part s.m) := rfl
    exact hrow hgives (nop_frame ..) hexec
  case h_2 w q => exact hrow (gives_eventSignal w q s) (eventSignal_frame ..) hexec
  case h_3 w q =>
    have hgives : Gives (.eventWait w q) s (eventWait w q s.part s.m) := rfl
    exact hrow hgives (eventWait_frame ..) hexec
  case h_4 w q => exact hrow (gives_semAcq w q s) (semAcq_frame ..) hexec
  case h_5 w q => exact hrow (gives_semRel w q s) (semRel_frame ..) hexec
  case h_6 => exact absurd hc (by decide)

/-! ### Registers beside a report's page (R452, R466, R469) -/

/-- An event captured on a page changes registers of that page's header alone. -/
theorem rd_captureEntry_other (p : Part) (m : Mach) {page : Nat} (e : LogEntry) {a : Nat} (h : addrPage a ≠ page) :
    rd p (captureEntry p m page e) a = rd p m a := by
  have hstat : a ≠ Reg.pageStat page := fun heq => h (by rw [heq]; exact addrPage_pg (by decide))
  have hcap : ∀ k, k < 4 → a ≠ Reg.errCap0 page + 8 * k := fun k hk heq => h (by
    rw [heq]
    unfold Reg.errCap0 pg addrPage
    omega)
  unfold captureEntry
  dsimp only
  rw [rd_orReg_ne _ _ _ hstat, wrAll_map]
  simp only [List.range_succ, List.range_zero, List.nil_append, List.foldl_append, List.foldl_cons, List.foldl_nil]
  rw [rd_wr_ne _ _ _ (hcap 3 (by decide)), rd_wr_ne _ _ _ (hcap 2 (by decide)), rd_wr_ne _ _ _ (hcap 1 (by decide)),
    rd_wr_ne _ _ _ (hcap 0 (by decide))]

/-- R461: a lost word's report changes registers of the GLB page and the log alone. -/
theorem rd_wordLost (p : Part) (m : Mach) (c : Nat) {a : Nat} (hglb : addrPage a ≠ Reg.glbPage) (hlost : a ≠ Reg.logLost) :
    rd p (wordLost p m c) a = rd p m a := by
  have hfault : a ≠ Reg.glbFaultStat := fun heq => hglb (by rw [heq]; exact addrPage_pg (by decide))
  have hcnt : a ≠ Reg.cntTrans Reg.glbPage := fun heq => hglb (by rw [heq]; exact addrPage_pg (by decide))
  unfold wordLost report
  simp only [Sev.code, reduceCtorEq, false_and, if_false]
  rw [rd_pushEntry_ne _ _ _ hlost]
  refine (rd_captureEntry_other _ _ _ hglb).trans ?_
  rw [rd_orReg_ne _ _ _ hfault, rd_bump_ne _ _ _ hcnt]

/-- Registers of a context's page stand on no other page. -/
theorem evtInRange_wordLost (p : Part) (m : Mach) (c e d : Nat) (hd : d < 8) :
    evtInRange p (wordLost p m c) d e = evtInRange p m d e := by
  have hrd : rd p (wordLost p m c) (Reg.ctxEvtRange d) = rd p m (Reg.ctxEvtRange d) := by
    refine rd_wordLost p m c ?_ ?_
    · interval_cases d <;> decide
    · interval_cases d <;> decide
  unfold evtInRange rdF
  rw [hrd]

/-- R461: a lost counter in no context's range is 0. -/
theorem evtOf_counterLost {p : Part} {m : Mach} {e : Nat} (h : ∀ c, c < 8 → evtInRange p m c e = false) :
    evtOf (counterLost p m e) e = 0 := by
  have hnone : (List.range 8).filter (fun c => evtInRange p (wordLost p m 0xFF) c e) = [] := by
    rw [List.filter_eq_nil_iff]
    intro c hc
    have hc8 : c < 8 := List.mem_range.mp hc
    rw [evtInRange_wordLost p m _ e c hc8, h c hc8]
    decide
  unfold counterLost
  dsimp only
  rw [hnone]
  exact evtOf_setEvtCnt_eq ..

/-! ### What each command does (R387, R391) -/

section
variable {s : State} {w q : Nat} {r : Running}

theorem eventSignal_due (hdue : dueCmd s.part s.m w q 0x50 = some r) :
    eventSignal w q s.part s.m = release (complete
      (if bytesOf r.line 18 18 = 1 then setEvtCnt s.m (bytesOf r.line 16 17 % 4096) (bytesOf r.line 20 23 % 2 ^ 28)
       else addEvt s.m (bytesOf r.line 16 17 % 4096) (bytesOf r.line 20 23 % 2 ^ 28)) r stDone) := by
  unfold eventSignal
  rw [hdue]

/-- A lost counter is settled first, and then the command signals (R461). -/
theorem gives_eventSignal_lost (hdue : dueCmd s.part s.m w q 0x50 = some r) (n : Nat) :
    Gives (.eventSignal w q (.word n false)) s
      (eventSignal w q s.part (counterLost s.part s.m (bytesOf r.line 16 17 % 4096))) := by
  have hgives : Gives (.eventSignal w q (.word n false)) s (signalRead w q (.word n false) s.part s.m) := rfl
  refine hgives.trans_eq ?_
  unfold signalRead
  rw [hdue]

/-- A started command of an opcode has that opcode. -/
theorem dueCmd_op {p : Part} {m : Mach} {op : Nat} (hdue : dueCmd p m w q op = some r) : recOp r.line = op := by
  unfold dueCmd startedCmd at hdue
  split at hdue
  · split at hdue
    · split at hdue
      next h => exact Option.some.inj hdue ▸ h
      next => exact absurd hdue (by simp)
    · exact absurd hdue (by simp)
  · exact absurd hdue (by simp)

theorem waitDue_iff {m : Mach} (hop : recOp r.line = 0x51) :
    waitDue m r = true ↔ bytesOf r.line 20 23 % 2 ^ 28 ≤ evtOf m (bytesOf r.line 16 17 % 4096) := by
  unfold waitDue
  rw [hop]
  exact decide_eq_true_iff

theorem eventWait_due (hdue : dueCmd s.part s.m w q 0x51 = some r) :
    eventWait w q s.part s.m = if waitDue s.m r then complete s.m r stDone else s.m := by
  unfold eventWait
  rw [hdue]
  rfl

/-- A semaphore's lost word tears its context down (R461). -/
theorem gives_sem_lost {n : Nat} {c : Instr} {op : Nat}
    (hc : (c, op) ∈ [(Instr.semAcq w q (.word n false), 0x52), (Instr.semRel w q (.word n false), 0x53)])
    (hdue : dueCmd s.part s.m w q op = some r) : Gives c s (semLost s.part s.m w (semIdx r.line)) := by
  simp only [List.mem_cons, List.not_mem_nil, or_false, Prod.mk.injEq] at hc
  obtain ⟨rfl, rfl⟩ | ⟨rfl, rfl⟩ := hc
  · have hgives : Gives (.semAcq w q (.word n false)) s (semAcqRead w q (.word n false) s.part s.m) := rfl
    refine hgives.trans_eq ?_
    unfold semAcqRead
    rw [hdue]
  · have hgives : Gives (.semRel w q (.word n false)) s (semRelRead w q (.word n false) s.part s.m) := rfl
    refine hgives.trans_eq ?_
    unfold semRelRead
    rw [hdue]

/-- R387: an acquisition is granted where its count is there and no earlier one waits. -/
theorem acqDue_of_first {m : Mach} (hop : recOp r.line = 0x52) (hcount : semCount r.line ≤ semOf m r.win (semIdx r.line))
    (hfirst : ∀ x ∈ m.cmd.running, x.win = r.win → recOp x.line = 0x52 → semIdx x.line = semIdx r.line → r.acc ≤ x.acc) :
    acqDue m r = true := by
  have hnone : (runningOf m r.win).any (fun x => recOp x.line == 0x52 && semIdx x.line == semIdx r.line &&
      decide (x.acc < r.acc)) = false := by
    rw [List.any_eq_false]
    intro x hx hearlier
    obtain ⟨hmem, hwin⟩ := List.mem_filter.mp hx
    simp only [Bool.and_eq_true, beq_iff_eq, decide_eq_true_eq] at hearlier hwin
    obtain ⟨⟨hxop, hxidx⟩, hlt⟩ := hearlier
    have := hfirst x hmem hwin hxop hxidx
    omega
  unfold acqDue
  rw [hop, hnone, decide_eq_true hcount]
  rfl

theorem acqDue_short {m : Mach} (hcount : semOf m r.win (semIdx r.line) < semCount r.line) : acqDue m r = false := by
  unfold acqDue
  rw [decide_eq_false (by omega), Bool.and_false, Bool.false_and]

theorem semAcq_due (hdue : dueCmd s.part s.m w q 0x52 = some r) :
    semAcq w q s.part s.m = if acqDue s.m r then finishAcq s.m r else s.m := by
  unfold semAcq
  rw [hdue]

theorem semRel_due (hdue : dueCmd s.part s.m w q 0x53 = some r) :
    semRel w q s.part s.m = release (complete (setSem s.m w (semIdx r.line)
      (min 0xFFFFFFFF (semOf s.m w (semIdx r.line) + semCount r.line))) r stDone) := by
  unfold semRel
  rw [hdue]

end

/-- Settles O39: each command where it is due, and what its lost word does. -/
theorem eventsAndSemaphoresAnswer : Obligations.EventsAndSemaphoresAnswer := by
  refine ⟨fun s w q r hdue => ⟨fun hset => ⟨?set, evtOf_setEvtCnt_eq ..⟩, fun hadd => ⟨?add, ?sum⟩,
      fun n => ⟨gives_eventSignal_lost hdue n, evtOf_counterLost⟩⟩,
    fun s w q r hdue => ⟨fun hle => ?wait, fun hlt => ?waits⟩,
    fun s w q n r c op hc hdue => gives_sem_lost hc hdue,
    fun s w q r hdue => ⟨fun hcount hfirst => ?acq, fun hshort => ?acqWaits⟩,
    fun s w q r hdue => (gives_semRel w q s).trans_eq (semRel_due hdue)⟩
  case set =>
    refine (gives_eventSignal w q s).trans_eq ((eventSignal_due hdue).trans ?_)
    rw [if_pos hset]
  case add =>
    refine (gives_eventSignal w q s).trans_eq ((eventSignal_due hdue).trans ?_)
    rw [if_neg hadd]
  case sum =>
    unfold addEvt
    rw [evtOf_setEvtCnt_eq]
    rfl
  case wait =>
    have hgives : Gives (.eventWait w q) s (eventWait w q s.part s.m) := rfl
    exact hgives.trans_eq ((eventWait_due hdue).trans (if_pos ((waitDue_iff (dueCmd_op hdue)).mpr hle)))
  case waits =>
    refine next_same (m := eventWait w q s.part s.m) ((eventWait_due hdue).trans (if_neg ?_))
    rw [waitDue_iff (dueCmd_op hdue)]
    omega
  case acq =>
    exact (gives_semAcq w q s).trans_eq ((semAcq_due hdue).trans (if_pos (acqDue_of_first (dueCmd_op hdue) hcount hfirst)))
  case acqWaits =>
    refine (gives_semAcq w q s).trans ?_
    rw [semAcq_due hdue, acqDue_short hshort]
    rfl

end Sys2Proof.Machine
end

section
/-! The front of the command engine: commands start, their records are written, rings take their values (O37, R222, R240,
R383, R394, R395, R461, R536). -/

namespace Sys2Proof.Machine

/-! ### COMMAND_START (R383, R406) -/

theorem commandStart_pick {q : Nat} {p : Part} {m : Mach} (h : r406Pick p m = some q) :
    commandStart q p m = stepped (serveHead p m q) := if_pos h

section
variable {p : Part} {m : Mach} {q w : Nat} {e : Entry} (hhead : headEntry m q = some e) (hwin : winOfQueue m q = some w)
include hhead hwin

/-- The head of a queue that passes every check starts. -/
theorem serveHead_starts (hcheck : checkRecord p m w e.line = none) : serveHead p m q = startCommand p m q w e := by
  unfold serveHead
  rw [hhead, hwin]
  dsimp only
  rw [hcheck]

theorem serveHead_fails {st : Nat} (hcheck : checkRecord p m w e.line = some st) :
    serveHead p m q = completeLine (popHead m q w) w (unstarted p m w e.line) e.hseq st 0 := by
  unfold serveHead
  rw [hhead, hwin]
  dsimp only
  rw [hcheck]

/-- R222: a command's entry that cannot be read completes. -/
theorem entryLost_command (hkind : e.kind = .command) (hstart : windowMayStart p m w = true) :
    entryLost p m q = completeLine (popHead m q w) w (unstarted p m w e.line) e.hseq stUncorrectable 0 := by
  unfold entryLost
  rw [hhead, hwin]
  dsimp only
  exact if_pos (by rw [hkind, hstart]; rfl)

end

theorem gives_commandStart (q : Nat) (f : StoreRead) (s : State) :
    Gives (.commandStart q f) s (startRead q f s.part s.m) := rfl

section
variable {p : Part} {m : Mach} (hcopies : systemCopies p m = false) (q : Nat)
include hcopies

/-- With no group of the system region being copied a row's clean read finds nothing. -/
theorem startRead_clean : startRead q .clean p m = commandStart q p m := by
  unfold startRead
  rw [hcopies]
  simp [storeCorrected]

theorem startRead_control (hup : storesUp p m = true) : startRead q .control p m = fatal p m 4 0 := by
  unfold startRead
  rw [hcopies]
  exact if_pos hup

theorem startRead_corrected (hup : storesUp p m = true) (n : Nat) :
    startRead q (.line n true) p m = commandStart q p (kilnCorrected p m n) := by
  unfold startRead
  rw [hcopies, hup]
  rfl

theorem startRead_lost (hup : storesUp p m = true) (n : Nat) :
    startRead q (.line n false) p m = entryLost p (kilnUe p m n (some 5)) q := by
  unfold startRead
  rw [hcopies]
  exact if_pos hup

end

/-! ### Completion records and rings (R240, R394, R395) -/

theorem completionWrite_open {p : Part} {m : Mach} {r : Nat} {c : Completion} {cs : List Completion} (hr : r ≤ 8)
    (hhold : holdOf m r = c :: cs) (hup : engineUp m = true) (hfatal : isFatal p m = false)
    (hopen : ringOpen p m r = true) (hout : recordOut m r = false) : completionWrite r p m = writeRecord p m r c := by
  unfold completionWrite
  rw [hhold]
  exact if_pos ⟨hr, hup, hfatal, hopen, hout⟩

theorem recordDone_held {p : Part} {m : Mach} {r a n : Nat} {c : Completion} {cs : List Completion}
    (hfatal : isFatal p m = false) (hhold : holdOf m r = c :: cs) :
    recordDone p m r a n =
      (let k := startWrites p (setHold m r cs) a (leBytes 4 n) .other
       let k := setLastStatus p (wr p k (Reg.cplRingHead r) (wordOf n)) (winPage r) c.status
       completionWrite r p (if c.irq || rdB p k (Reg.cplRingCtrl r) 9 then setEvt p k Reg.cplPage r else k)) := by
  unfold recordDone
  rw [hfatal, if_neg (by decide), hhold]

theorem ringWrite_reached {p : Part} {m : Mach} {src : Src} {r : Nat} {v : Word} (hr : r ≤ 8)
    (hreach : writeGate p m src (Reg.kilnRing r) = .pass) :
    ringWrite src r v p m =
      if (ringOf m r).blocks = [] then setRing (wr p m (Reg.kilnRing r) (v &&& 0x3FFFFFFF3FFFFFFF)) r {}
      else ignored p m src (Reg.kilnRing r) := by
  unfold ringWrite
  rw [if_pos hr, gated_pass _ hreach]
  by_cases hempty : (ringOf m r).blocks = []
  · rw [if_pos hempty, hempty]
    exact if_neg (by decide)
  · have hused : (!(ringOf m r).blocks.isEmpty) = true := by simpa using hempty
    rw [if_neg hempty, if_pos hused]

/-- Settles O37: each command with its condition met, COMMAND_START with each finding of its reads. -/
theorem commandEngineAnswers : Obligations.CommandEngineAnswers := by
  refine ⟨fun s src v hreach => ?evtVal,
    fun s q w e hpick hhead hwin hcopies => ⟨fun hcheck => ?starts, fun st hcheck => ?fails⟩,
    fun s q w n e hup hfatal hcopies => ?reads,
    fun s r c cs hr hhold hup hfatal hopen hout => ?record,
    fun p m t r a n c cs _ hfatal hhold => recordDone_held hfatal hhold,
    fun s src r v hr hreach => ?tail, fun s src r v hr hreach => ⟨fun hempty => ?ring, fun hused => ?ringRefused⟩⟩
  case evtVal =>
    have hgives : GivesW src (.evtValWrite src v) s (evtValWrite src v s.part s.m) := rfl
    exact hgives.trans_eq (gated_pass _ hreach)
  case starts =>
    refine (gives_commandStart q .clean s).trans_eq ((startRead_clean hcopies q).trans ?_)
    rw [commandStart_pick hpick, serveHead_starts hhead hwin hcheck]
  case fails =>
    refine (gives_commandStart q .clean s).trans_eq ((startRead_clean hcopies q).trans ?_)
    rw [commandStart_pick hpick, serveHead_fails hhead hwin hcheck]
  case reads =>
    have hstores := storesUp_of_up hup hfatal
    refine ⟨(gives_commandStart q .control s).trans_eq (startRead_control hcopies q hstores),
      (gives_commandStart q (.line n true) s).trans_eq (startRead_corrected hcopies q hstores n), ?_⟩
    intro m hhead hwin hkind hstart
    exact (gives_commandStart q (.line n false) s).trans_eq
      ((startRead_lost hcopies q hstores n).trans (entryLost_command hhead hwin hkind hstart))
  case record =>
    have hgives : Gives (.completionWrite r) s (completionWrite r s.part s.m) := rfl
    exact hgives.trans_eq (completionWrite_open hr hhold hup hfatal hopen hout)
  case tail =>
    have hgives : GivesW src (.ringTailWrite src r v) s (ringTailWrite src r v s.part s.m) := rfl
    exact hgives.trans_eq ((if_pos hr).trans (gated_pass _ hreach))
  case ring =>
    have hgives : GivesW src (.ringWrite src r v) s (ringWrite src r v s.part s.m) := rfl
    exact hgives.trans_eq ((ringWrite_reached hr hreach).trans (if_pos hempty))
  case ringRefused =>
    have hgives : GivesW src (.ringWrite src r v) s (ringWrite src r v s.part s.m) := rfl
    exact hgives.trans_eq ((ringWrite_reached hr hreach).trans (if_neg hused))

end Sys2Proof.Machine
end

section
/-! Steps and their edges (O40, R25, R47, R50, R51, R222, R390), and what stands beside a step: remote abandonment, snapshots,
seed draws, entropy, the replay tail (O41, R95, R423, R450, R541, R553). -/

namespace Sys2Proof.Machine

/-! ### STEP_RUN and the tick edge (R25, R26) -/

theorem stepRun_started {s : State} {w q : Nat} {r : Running} (hdue : dueCmd s.part s.m w q 0x01 = some r)
    (hphase : r.phase = .started) :
    stepRun w q s.part s.m = settleStopped s.part (setRunning s.m { r with phase := .handed s.m.tick.cycle }) := by
  unfold stepRun
  rw [hdue]
  exact if_pos hphase

/-- R25: an edge that is due, no snapshot being taken at it. -/
theorem tickEdge_due {p : Part} {m : Mach} {e : Int} (hdue : edgeDue p m = some e)
    (hsnap : rdB p m Reg.perfPerfCtrl 0 = false) :
    tickEdge p m =
      (let n := advanceEdge p (chargeTick p (applyShadows p (settleEdge p m) true fun _ => true)) e
       beginTick p (if isMaster p n then announce p n else n)) := by
  unfold tickEdge
  rw [hdue]
  dsimp only
  rw [hsnap, Bool.false_and]
  rfl

/-! ### The running step (R47, R50, R51, R222) -/

section
variable {p : Part} {m : Mach} {x : StepRun} (hlive : liveStep m = some x) (hup : engineUp m = true)
  (hfatal : isFatal p m = false)
include hlive hup hfatal

theorem bundleComplete_due (hended : x.ended = false) (hdone : bundleDone p m x = true) :
    bundleComplete p m =
      if (finishBundle p m x).run.step.isNone then settleStopped p (finishBundle p m x) else finishBundle p m x := by
  unfold bundleComplete
  rw [hlive]
  dsimp only
  rw [hup, hfatal, hended, hdone]
  exact if_pos rfl

/-- R51: a bundle of a step that is stretched beyond STRETCH_LIMIT. -/
theorem stretchLimitExpiry_due (hended : x.ended = false) (hstalled : x.stalled = false)
    (hopen : bundleDone p m x = false)
    (hlate : x.bundleCycle + bunDur (curBundle x) + rdF p m (Reg.ctxStretchLimit x.ctx) 31 0 < m.tick.cycle) :
    stretchLimitExpiry p m = settleStopped p (abandonStep p m x.ctx 1 stTimeout) := by
  unfold stretchLimitExpiry
  rw [hlive]
  dsimp only
  rw [hup, hfatal, hended, hstalled, hopen, decide_eq_true hlate]
  exact if_pos rfl

/-- R50: a slip that is due is asked for while the limit allows one more quantum; beyond it the step is abandoned. -/
theorem slipRequest_due (hdue : slipDue p m x = true) :
    slipRequest p m =
      if rdF p m Reg.tickSlip 23 16 < x.slips + 1 then
        settleStopped p (setEvt p (abandonStep p m x.ctx 2 stTimeout) Reg.tickPage 5)
      else
        let n := setStep m { x with slips := x.slips + 1 }
        let n := { n with tick := { n.tick with
          ownEdge := n.tick.edge.map fun e => e + (x.slips + 1 : Nat) * quantumFs p n } }
        let n := bump p (bump p n Reg.tickSlipCnt 1) (Reg.ctxSlipReqCnt x.ctx) 1
        setEvt p (sendRecord p n (rdF p n Reg.tickMasterId 11 0)
          (slipRecord (stepNow p n) (x.slips + 1) (ctxJob p n x.ctx))) Reg.tickPage 2 := by
  unfold slipRequest
  rw [hlive]
  dsimp only
  rw [hup, hfatal, hdue]
  exact if_neg (by decide)

end

/-- A clean read of the program store is none. -/
theorem bundleRead_clean (p : Part) (m : Mach) : bundleRead .clean p m = bundleComplete p m :=
  congrArg (bundleComplete p) (ite_self m)

/-- R222: a line of the program store that cannot be read, while a step runs. -/
theorem bundleRead_lost {p : Part} {m : Mach} (hlive : (liveStep m).isSome = true) (hstores : storesUp p m = true) (n : Nat) :
    bundleRead (.line n false) p m = programLost p m n :=
  if_pos (by rw [hlive, hstores]; rfl)

/-- R222: the step whose program is lost is abandoned, and its context has no program. -/
theorem programLost_step {p : Part} {m : Mach} {n : Nat} {x : StepRun}
    (hlive : liveStep (kilnUe p m n (some (if groupUse p (n / 32768) = .system then 2 else 1))) = some x)
    (hfatal : isFatal p (kilnUe p m n (some (if groupUse p (n / 32768) = .system then 2 else 1))) = false)
    (hended : x.ended = false) :
    programLost p m n =
      settleStopped p (installProgram p (abandonStep p (kilnUe p m n (some (if groupUse p (n / 32768) = .system then 2 else 1)))
        x.ctx 1 stUncorrectable) x.ctx none) := by
  unfold programLost
  dsimp only
  rw [hlive]
  dsimp only
  rw [hfatal, hended]
  exact if_neg (by decide)

/-- Settles O40: each command of a step where it is due. -/
theorem stepsAnswer : Obligations.StepsAnswer := by
  refine ⟨fun s w q r hdue hphase => ?run, fun s e hdue hsnap => ?edge,
    fun s x hlive hup hfatal hended hdone => ?bundle, fun s x n hlive hup hfatal => ?lost,
    fun s x hlive hup hfatal hdue => ⟨fun hle => ?slip, fun hlt => ?overLimit⟩,
    fun s x hlive hup hfatal hended hstalled hopen hlate => ?stretch⟩
  case run =>
    have hgives : Gives (.stepRun w q) s (stepRun w q s.part s.m) := rfl
    exact hgives.trans_eq (stepRun_started hdue hphase)
  case edge =>
    have hgives : Gives .tickEdge s (tickEdge s.part s.m) := rfl
    exact hgives.trans_eq (tickEdge_due hdue hsnap)
  case bundle =>
    have hgives : Gives (.bundleComplete .clean) s (bundleRead .clean s.part s.m) := rfl
    exact hgives.trans_eq ((bundleRead_clean ..).trans (bundleComplete_due hlive hup hfatal hended hdone))
  case lost =>
    intro m hstep hnotFatal hended
    have hgives : Gives (.bundleComplete (.line n false)) s (bundleRead (.line n false) s.part s.m) := rfl
    exact hgives.trans_eq ((bundleRead_lost hlive (storesUp_of_up hup hfatal) n).trans (programLost_step hstep hnotFatal hended))
  case slip =>
    have hgives : Gives .slipRequest s (slipRequest s.part s.m) := rfl
    exact hgives.trans_eq ((slipRequest_due hlive hup hfatal hdue).trans (if_neg (by omega)))
  case overLimit =>
    have hgives : Gives .slipRequest s (slipRequest s.part s.m) := rfl
    exact hgives.trans_eq ((slipRequest_due hlive hup hfatal hdue).trans (if_pos hlt))
  case stretch =>
    have hgives : Gives .stretchLimitExpiry s (stretchLimitExpiry s.part s.m) := rfl
    exact hgives.trans_eq (stretchLimitExpiry_due hlive hup hfatal hended hstalled hopen hlate)

/-! ### Beside a step (R95, R423, R450, R541, R553) -/

/-- R423: a STEP_ABORT for the step and attempt that run here. -/
theorem stepAbort_runs {p : Part} {m n : Mach} {r : In0} {c : Nat} {x : StepRun} (htake : takeRecord m 0x41 = some (r, n))
    (hctx : ctxOfJob p n (bytesOf r.bytes 7 7) = some c)
    (hstep : stepOfCtx (dropFor n c r.src (bytesOf r.bytes 0 5) (bytesOf r.bytes 6 6 % 16)) c = some x)
    (hnum : x.step = bytesOf r.bytes 0 5) (hatt : x.att = bytesOf r.bytes 6 6 % 16) :
    stepAbort p m = settleStopped p (abandonStep p (dropFor n c r.src (bytesOf r.bytes 0 5) (bytesOf r.bytes 6 6 % 16)) c 3
      stAbortedRemote) := by
  unfold stepAbort
  rw [htake]
  dsimp only
  rw [hctx]
  dsimp only
  rw [hstep]
  refine if_pos ?_
  rw [Bool.and_eq_true, beq_iff_eq, beq_iff_eq]
  exact ⟨hnum, hatt⟩

theorem seedDraw_draw {p : Part} {m : Mach} {src : Src} {c : Nat} {v : Word} (hc : c < 8)
    (hreach : writeGate p m src (Reg.ctxSeedCtrl c) = .pass) (hbit : bitOf v 0 = true) :
    seedDraw src c v p m =
      if (ctxOf m c).seedPending then ignored p m src (Reg.ctxSeedCtrl c)
      else serveDraw p (setCtx m c { ctxOf m c with seedPending := true }) (.seed c) := by
  unfold seedDraw
  rw [if_neg (by omega), gated_pass _ hreach, hbit]
  exact if_neg (by decide)

section
variable {p : Part} {m : Mach} (hup : engineUp m = true) (hneeds : drbgNeeds m = true)
include hup hneeds

/-- R553: a word of the twelve. -/
theorem entropyWord_needed (x : BitVec 32) :
    entropyWord x p m =
      if (m.sec.entropy ++ [x]).length < 12 then
        { m with sec := { m.sec with entropy := m.sec.entropy ++ [x], entropyAt := m.tick.time } }
      else serveDraws p { m with sec := { m.sec with entropy := [], drbgReady := true, draws := 0 } } := by
  unfold entropyWord
  rw [hup, hneeds]
  rfl

theorem entropyStall_needed (hlate : m.sec.entropyAt + 1000000 * fsPerNs ≤ m.tick.time) :
    entropyStall p m = setEvt p m Reg.secPage 3 := by
  unfold entropyStall
  rw [hup, hneeds, decide_eq_true hlate]
  exact if_pos rfl

end

/-- R450: REPLAY_TAIL frees room of the ring, and in CHECK mode the host's entries are read. -/
theorem replayTailWrite_reached {p : Part} {m : Mach} {src : Src} {c : Nat} {v : Word} (hc : c < 8)
    (hreach : writeGate p m src (Reg.ctxReplayTail c) = .pass) :
    replayTailWrite src c v p m =
      (let old := rd p m (Reg.ctxReplayTail c)
       let m := wr p m (Reg.ctxReplayTail c) v
       if replayMode p m c = 3 then
         let size := replaySize p m c
         let n := min size (v - old).toNat
         let off := old.toNat % size
         let base := (rd p m (Reg.ctxReplayBase c)).toNat
         let m := startReads p m (base + off) (min n (size - off)) (.replay c)
         retryCommit p (startReads p m base (n - (size - off)) (.replay c))
       else drainAllIn p (pumpReplay p c (ctxOf m c).replayWait.length m)) := by
  unfold replayTailWrite
  rw [if_neg (by omega), gated_pass _ hreach]

/-- Settles O41: each row where its condition holds. -/
theorem stepHelpersAnswer : Obligations.StepHelpersAnswer := by
  refine ⟨fun s r m c x htake hctx hstep hnum hatt => ?abort, fun s src v hreach h0 h1 => ?snap,
    fun s src c v hc hreach hbit => ⟨fun hfree => ?draw, fun hpending => ?drawRefused⟩,
    fun s x hup hneeds => ⟨fun hfew => ?keep, fun htwelve => ?seeded, fun hlate => ?stall⟩,
    fun s src c v hc hreach => ?tail⟩
  case abort =>
    have hgives : Gives .stepAbort s (stepAbort s.part s.m) := rfl
    exact hgives.trans_eq (stepAbort_runs htake hctx hstep hnum hatt)
  case snap =>
    have hgives : GivesW src (.perfSnap src v) s (perfSnap src v s.part s.m) := rfl
    refine hgives.trans_eq ((gated_pass _ hreach).trans ?_)
    exact if_pos (by rw [h0, h1]; rfl)
  case draw =>
    have hgives : GivesW src (.seedDraw src c v) s (seedDraw src c v s.part s.m) := rfl
    exact hgives.trans_eq ((seedDraw_draw hc hreach hbit).trans (if_neg (by rw [hfree]; decide)))
  case drawRefused =>
    have hgives : GivesW src (.seedDraw src c v) s (seedDraw src c v s.part s.m) := rfl
    exact hgives.trans_eq ((seedDraw_draw hc hreach hbit).trans (if_pos hpending))
  case keep =>
    have hgives : Gives (.entropyWord x) s (entropyWord x s.part s.m) := rfl
    refine hgives.trans_eq ((entropyWord_needed hup hneeds x).trans (if_pos ?_))
    rw [List.length_append, List.length_singleton]
    omega
  case seeded =>
    have hgives : Gives (.entropyWord x) s (entropyWord x s.part s.m) := rfl
    refine hgives.trans_eq ((entropyWord_needed hup hneeds x).trans (if_neg ?_))
    rw [List.length_append, List.length_singleton]
    omega
  case stall =>
    have hgives : Gives .entropyStall s (entropyStall s.part s.m) := rfl
    exact hgives.trans_eq (entropyStall_needed hup hneeds hlate)
  case tail =>
    intro m
    have hgives : GivesW src (.replayTailWrite src c v) s (replayTailWrite src c v s.part s.m) := rfl
    refine ⟨fun hmode => ?_, fun hmode => ?_⟩
    · exact hgives.trans_eq ((replayTailWrite_reached hc hreach).trans (if_neg hmode))
    · exact hgives.trans_eq ((replayTailWrite_reached hc hreach).trans (if_pos hmode))

end Sys2Proof.Machine
end

section
/-! Barrier records and aborts of collectives (O46, R343 to R346, R443, R444), and the messages of the tick (O60, R432 to
R440). -/

namespace Sys2Proof.Machine

/-! ### Barriers (R443, R444) -/

/-- A barrier is at no distance from itself. -/
theorem bseqDist_self (b : Nat) : bseqDist b b = 0 := by
  unfold bseqDist
  rw [Nat.add_sub_cancel_left, Nat.mod_self]

/-- R443: at the root an arrival at the barrier in force is counted. -/
theorem barArrive_current {p : Part} {m n : Mach} {r : In0} {g : Group} {rank : Nat} (htake : takeRecord m 0x62 = some (r, n))
    (hgroup : groupOf n (bytesOf r.bytes 0 1) = some g) (hrank : g.rank r.src = some rank)
    (hepoch : bytesOf r.bytes 4 7 = g.epoch) (hroot : myRank p n g = 0) (hseq : bitsOf r.bytes 83 64 = g.bar.bseq) :
    barArrive p m = countArrival p n (bytesOf r.bytes 0 1) rank (bitsOf r.bytes 87 84) := by
  have hmine : ¬ (bytesOf r.bytes 4 7 ≠ g.epoch ∨ myRank p n g ≠ 0) := by
    rw [hepoch, hroot]
    simp
  unfold barArrive
  rw [htake]
  dsimp only
  rw [hgroup]
  dsimp only
  rw [hrank]
  dsimp only
  rw [if_neg hmine, hseq, if_pos (bseqDist_self _)]

/-- R444: a release of the barrier at which this node has arrived is scheduled. -/
theorem barRelease_here {p : Part} {m n : Mach} {r : In0} {g : Group} (htake : takeRecord m 0x63 = some (r, n))
    (hgroup : groupOf n (bytesOf r.bytes 0 1) = some g) (hepoch : bytesOf r.bytes 4 7 = g.epoch)
    (hseq : bitsOf r.bytes 83 64 = g.bar.bseq) (hhere : g.bar.here = some (bitsOf r.bytes 87 84)) :
    barRelease p m = setRelease p n (bytesOf r.bytes 0 1)
      (10000 * r.at10 + leadFs (bytesOf r.bytes 2 3)
        - 10000 * ((bytesOf r.bytes 12 15 : Nat) + if r.src = nodeId p n then 0 else linkDelay p n r.link)) := by
  have hmine : ¬ (bytesOf r.bytes 4 7 ≠ g.epoch ∨ 2 ^ 19 ≤ bseqDist (bitsOf r.bytes 83 64) g.bar.bseq) := by
    rw [hepoch, hseq, bseqDist_self]
    simp
  unfold barRelease
  rw [htake]
  dsimp only
  rw [hgroup]
  dsimp only
  rw [if_neg hmine, if_pos ⟨hseq, hhere⟩]

theorem barrierRelease_due {p : Part} {m : Mach} {h : Nat} {g : Group} {t : Int} (hgroup : groupOf m h = some g)
    (hhere : g.bar.here ≠ none) (hat : g.bar.releaseAt = some t) (hle : t ≤ m.tick.time) :
    barrierRelease h p m = settleColl p (afterRelease (nextBarrier p m h) h g) h := by
  unfold barrierRelease
  rw [hgroup]
  dsimp only
  refine if_pos ?_
  rw [hat, Option.isSome_iff_ne_none.mpr hhere, Bool.and_true]
  exact decide_eq_true hle

/-! ### Aborts, stalls and deferrals (R343, R345, R346) -/

section
variable {p : Part} {m : Mach} {h : Nat} {g : Group} {op : CollOp}

/-- R343: a terminal abort of the operation that runs here, of no later attempt, ends it. -/
theorem collAbort_running {n : Mach} {r : In0} (htake : takeRecord m 0x40 = some (r, n))
    (hgroup : groupOf (setEvt p (bump p n Reg.collAbortRx 1) Reg.collPage 0) (bytesOf r.bytes 0 1) = some g)
    (hepoch : bytesOf r.bytes 4 7 = g.epoch) (hforming : g.forming = none) (hop : g.op = some op)
    (hseq : op.opseq = bytesOf r.bytes 12 15) (hterminal : isRerun (bytesOf r.bytes 3 3) = false)
    (hatt : bitsOf r.bytes 19 16 ≤ op.att) :
    collAbort p m =
      endColl (leaveBarrier (raiseAtt (setEvt p (bump p n Reg.collAbortRx 1) Reg.collPage 0) (bytesOf r.bytes 0 1)
        (bitsOf r.bytes 19 16)) (bytesOf r.bytes 0 1)) (bytesOf r.bytes 0 1) (remoteStatus (bytesOf r.bytes 3 3)) := by
  have hthis : g.op.filter (fun op => op.opseq == bytesOf r.bytes 12 15) = some op := by
    rw [hop, hseq.symm]
    simp
  unfold collAbort
  rw [htake]
  dsimp only
  rw [hgroup]
  dsimp only
  rw [if_neg (fun hne => hne hepoch), hforming, if_neg (by decide), hthis]
  dsimp only
  rw [hterminal, if_neg (by decide), if_pos hatt]

variable (hgroup : groupOf m h = some g) (hop : g.op = some op)
include hgroup hop

theorem collStall_due (hgoes : op.suspended = false) (hopen : op.entered = false)
    (hlate : op.lastAt + 1000 * fsPerNs * rdF p m Reg.collTmo 31 16 ≤ m.tick.time) :
    collStall h p m = abortColl p m h reTimeout stTimeout := by
  unfold collStall
  rw [hgroup]
  dsimp only
  rw [hop]
  refine if_pos ?_
  unfold stallDue
  rw [hgoes, hopen, decide_eq_true hlate]
  rfl

theorem collDefer_due (hphase : (ctxOf m g.ctx).phase = 1)
    (hlate : (ctxOf m g.ctx).saveAt + 1000 * fsPerNs * rdF p m Reg.collTmo 15 0 ≤ m.tick.time) :
    collDefer h p m = preemptColl p m h g op := by
  unfold collDefer
  rw [hgroup]
  refine (if_pos ⟨hphase, decide_eq_true hlate⟩).trans ?_
  unfold deferOver
  rw [hop]

end

/-- Settles O46: each record and each timer where it is this group's. -/
theorem barriersAndAbortsAnswer : Obligations.BarriersAndAbortsAnswer := by
  refine ⟨fun s r m g rank htake hgroup hrank hepoch hroot hseq => ?arrive,
    fun s r m g htake hgroup hepoch hseq hhere => ?release, fun s h g hgroup hhere t hat hle => ?released,
    fun s r m' g op htake => ?abort, fun s h g op hgroup hop => ⟨fun hgoes hopen hlate => ?stall, fun hphase hlate => ?defer⟩⟩
  case arrive =>
    have hgives : Gives .barArrive s (barArrive s.part s.m) := rfl
    exact hgives.trans_eq (barArrive_current htake hgroup hrank hepoch hroot hseq)
  case release =>
    have hgives : Gives .barRelease s (barRelease s.part s.m) := rfl
    exact hgives.trans_eq (barRelease_here htake hgroup hepoch hseq hhere)
  case released =>
    have hgives : Gives (.barrierRelease h) s (barrierRelease h s.part s.m) := rfl
    exact hgives.trans_eq (barrierRelease_due hgroup hhere hat hle)
  case abort =>
    intro m h hgroup hepoch hforming hop hseq hterminal hatt
    have hgives : Gives .collAbort s (collAbort s.part s.m) := rfl
    exact hgives.trans_eq (collAbort_running htake hgroup hepoch hforming hop hseq hterminal hatt)
  case stall =>
    have hgives : Gives (.collStall h) s (collStall h s.part s.m) := rfl
    exact hgives.trans_eq (collStall_due hgroup hop hgoes hopen hlate)
  case defer =>
    have hgives : Gives (.collDefer h) s (collDefer h s.part s.m) := rfl
    exact hgives.trans_eq (collDefer_due hgroup hop hphase hlate)

/-! ### Tick records (R433 to R437) -/

section
variable {p : Part} {m n : Mach} {r : In0} (htake : takeRecord m 0x60 = some (r, n))
include htake

theorem tickRecord_ignored (h : isMaster p n = true ∨ r.link ≠ uplink p n) : tickRecord p m = n := by
  unfold tickRecord
  rw [htake]
  refine if_pos ?_
  rwa [Bool.or_eq_true, bne_iff_ne]

/-- R435: a record of the uplink is passed down, disciplines the node's time and has its edge noted. -/
theorem tickRecord_uplink (hmaster : isMaster p n = false) (hlink : r.link = uplink p n) :
    tickRecord p m =
      (let resid := bytesOf r.bytes 4 7 + (linkDelay p n r.link).toNat
       let m := toDownlinks p n (tickBytes (bytesOf r.bytes 0 3) (resid % 2 ^ 32) (bytesOf r.bytes 8 9)
         ((bytesOf r.bytes 10 10 + 1) % 256) (bytesOf r.bytes 12 15)) r.at10
       let e := nearest 32 (time10 m) (bytesOf r.bytes 0 3) + resid - r.at10
       let iv := (m.tick.lastRec.map (r.at10 - ·)).getD 1
       let m := { m with tick := { m.tick with lastRec := some (if edgesTaken p m then r.at10 else r.at10 + e) } }
       noteEdge p (judgeOffset p (discipline p m e iv) e) (bytesOf r.bytes 8 9) (bytesOf r.bytes 12 15)) := by
  have hgo : ¬ (isMaster p n || r.link != uplink p n) = true := by
    rw [hmaster, hlink]
    simp
  unfold tickRecord
  rw [htake]
  refine (if_neg hgo).trans ?_
  dsimp only
  cases (toDownlinks p n _ r.at10).tick.lastRec with
  | none => rfl
  | some t => rfl

end

theorem tickLost_due {p : Part} {m : Mach} {t : Int} (hrec : m.tick.lastRec = some t) (hup : engineUp m = true)
    (hmaster : isMaster p m = false) (hlate : 10000 * t + 4 * syncFs p m ≤ m.tick.time) :
    tickLost p m = loseAlignment p m 2 (signed 32 (rdF p m Reg.tickStat 63 32)) := by
  unfold tickLost
  rw [hrec]
  refine if_pos ?_
  rw [hup, hmaster, decide_eq_true hlate]
  rfl

/-! ### RUN (R438) -/

theorem tickRun_taken {p : Part} {m : Mach} {src : Src} {v : Word} (hreach : writeGate p m src Reg.tickCtrl = .pass)
    (htake : tickCtrlRefused p m v = false) :
    tickRun src v p m =
      if tickRuns p m && !bitOf v 0 then stopTick p (wr p m Reg.tickCtrl (v &&& 0xFFFF00FEFC0D))
      else if !tickRuns p m && bitOf v 0 then startTick p (wr p m Reg.tickCtrl (v &&& 0xFFFF00FEFC0D))
      else wr p m Reg.tickCtrl (v &&& 0xFFFF00FEFC0D) := by
  unfold tickRun
  rw [gated_pass _ hreach, htake, if_neg (by decide)]

/-! ### Slip requests at the master (R440) -/

section
variable {p : Part} {m n : Mach} {r : In0} (htake : takeRecord m 0x61 = some (r, n))
include htake

/-- A request that gains nothing, or for a step before the last, is dropped. -/
theorem slipReq_dropped
    (hdrop : min (rdF p n Reg.tickSlip 23 16) (bytesOf r.bytes 6 6) ≤ grantOf n (bytesOf r.bytes 0 5) ∨
      bytesOf r.bytes 0 5 + 1 < stepNow p n) : slipReq p m = n := by
  have hor : (decide (min (rdF p n Reg.tickSlip 23 16) (bytesOf r.bytes 6 6) ≤ grantOf n (bytesOf r.bytes 0 5)) ||
      decide (bytesOf r.bytes 0 5 + 1 < stepNow p n)) = true := by
    rwa [Bool.or_eq_true, decide_eq_true_eq, decide_eq_true_eq]
  unfold slipReq
  rw [htake]
  dsimp only
  rw [Bool.or_assoc, hor, Bool.or_true]
  exact if_pos rfl

/-- A running master keeps a request that gains for the step in force, one to come, or the last, whose edge it moves. -/
theorem slipReq_kept (hup : engineUp n = true) (hruns : tickRuns p n = true) (hmaster : isMaster p n = true)
    (hgain : grantOf n (bytesOf r.bytes 0 5) < min (rdF p n Reg.tickSlip 23 16) (bytesOf r.bytes 6 6))
    (hstep : stepNow p n ≤ bytesOf r.bytes 0 5 + 1) :
    slipReq p m =
      (let i := bytesOf r.bytes 0 5
       let q := min (rdF p n Reg.tickSlip 23 16) (bytesOf r.bytes 6 6)
       let kept := { n with tick := { n.tick with grants := Assoc.set n.tick.grants i q } }
       if i + 1 = stepNow p n ∧ edgesTaken p kept then
         let c := countSlip p kept (q - grantOf n i)
         announce p { c with tick := { c.tick with
           edge := c.tick.edge.map fun e => e + (q - grantOf n i : Nat) * quantumFs p c } }
       else kept) := by
  unfold slipReq
  rw [htake]
  dsimp only
  rw [hup, hruns, hmaster, decide_eq_false (by omega), decide_eq_false (by omega)]
  exact if_neg (by decide)

end

/-- Settles O60: each message and each timer of the tick, and RUN, where its condition holds. -/
theorem tickMessagesAnswer : Obligations.TickMessagesAnswer := by
  refine ⟨fun s r m htake => ⟨fun hother => ?ignored, fun hmaster hlink => ?record⟩,
    fun s hup hruns hmaster hlate => ?sync, fun s t hrec hup hmaster hlate => ?lost, fun s hup hmaster href => ?pps,
    fun s src v hreach htake => ?run, fun s r m htake hup hruns hmaster => ?slip⟩
  case ignored =>
    have hgives : Gives .tickRecord s (tickRecord s.part s.m) := rfl
    exact hgives.trans_eq (tickRecord_ignored htake hother)
  case record =>
    have hgives : Gives .tickRecord s (tickRecord s.part s.m) := rfl
    exact hgives.trans_eq (tickRecord_uplink htake hmaster hlink)
  case sync =>
    have hgives : Gives .tickSync s (tickSync s.part s.m) := rfl
    exact hgives.trans_eq (if_pos (by rw [hup, hruns, hmaster, decide_eq_true hlate]; rfl))
  case lost =>
    have hgives : Gives .tickLost s (tickLost s.part s.m) := rfl
    exact hgives.trans_eq (tickLost_due hrec hup hmaster hlate)
  case pps =>
    have hgives : Gives .refPps s (refPps s.part s.m) := rfl
    exact hgives.trans_eq (if_pos (by rw [hup, hmaster, href]; rfl))
  case run =>
    have hgives : GivesW src (.tickRun src v) s (tickRun src v s.part s.m) := rfl
    refine ⟨fun hstopped hbit => ?_, fun hruns hbit => ?_, fun hsame => ?_⟩
    · refine hgives.trans_eq ((tickRun_taken hreach htake).trans ?_)
      rw [hstopped, hbit]
      rfl
    · refine hgives.trans_eq ((tickRun_taken hreach htake).trans ?_)
      rw [hruns, hbit]
      rfl
    · refine hgives.trans_eq ((tickRun_taken hreach htake).trans ?_)
      rw [hsame, Bool.and_not_self, Bool.not_and_self]
      rfl
  case slip =>
    have hgives : Gives .slipReq s (slipReq s.part s.m) := rfl
    refine ⟨fun hgain hlater => ?_, fun hgain hlast htaken => ?_, fun hdrop => hgives.trans_eq (slipReq_dropped htake hdrop)⟩
    · refine hgives.trans_eq ((slipReq_kept htake hup hruns hmaster hgain (by omega)).trans (if_neg ?_))
      rintro ⟨hlast, -⟩
      omega
    · exact hgives.trans_eq ((slipReq_kept htake hup hruns hmaster hgain (by omega)).trans (if_pos ⟨hlast, htaken⟩))

end Sys2Proof.Machine
end

section
/-! Self-tests, link measurement and the log's copy (O53, R294, R471, R518 to R520). -/

namespace Sys2Proof.Machine

/-! ### Self-tests (R518 to R520) -/

section
variable {p : Part} {m : Mach} {w q : Nat} {r : Running} (hdue : dueCmd p m w q 0x70 = some r) (hstage : r.stage = 0)
include hdue hstage

/-- A hearth's test that passes its checks, no other hearth under test, takes the hearth. -/
theorem bistRunHearth_takes (hunit : bistUnit r.line = 1) (hcheck : bistHearthCheck p m (bistIndex r.line) = none)
    (hfree : ∀ i, i < hearthCount p.conf → (hearthOf m i).bist = false) :
    bistRunHearth w q p m =
      moveItems (setHearth (setRunning m { r with stage := 1 }) (bistIndex r.line)
        { hearthOf m (bistIndex r.line) with bist := true, bistAcc := r.acc, bistAt := m.tick.cycle }) (bistIndex r.line) := by
  have hmine : ¬ (bistUnit r.line ≠ 1 ∨ r.stage ≠ 0) := by simp [hunit, hstage]
  have hnone : ¬ ((List.range (hearthCount p.conf)).any fun i => (hearthOf m i).bist) = true := by
    rw [List.any_eq_true]
    rintro ⟨i, hi, hbist⟩
    rw [hfree i (List.mem_range.mp hi)] at hbist
    exact absurd hbist (by decide)
  unfold bistRunHearth
  rw [hdue]
  refine (if_neg hmine).trans ?_
  rw [hcheck]
  exact if_neg hnone

theorem bistRunHearth_fails (hunit : bistUnit r.line = 1) {st : Nat}
    (hcheck : bistHearthCheck p m (bistIndex r.line) = some st) : bistRunHearth w q p m = bistRefused p m r st := by
  have hmine : ¬ (bistUnit r.line ≠ 1 ∨ r.stage ≠ 0) := by simp [hunit, hstage]
  unfold bistRunHearth
  rw [hdue]
  refine (if_neg hmine).trans ?_
  rw [hcheck]

/-- A kiln group's test that passes its checks, none under way, takes the group. -/
theorem bistRunKiln_takes (hunit : bistUnit r.line = 2) (hcheck : bistKilnCheck p m (bistIndex r.line) = none)
    (hfree : m.run.kilnSt.bist = none) :
    bistRunKiln w q p m =
      (let n := setRunning m { r with stage := 1 }
       { n with run := { n.run with kilnSt := { n.run.kilnSt with
         bist := some (bistIndex r.line), bistAcc := r.acc, bistAt := n.tick.cycle } } }) := by
  have hmine : ¬ (bistUnit r.line ≠ 2 ∨ r.stage ≠ 0) := by simp [hunit, hstage]
  unfold bistRunKiln
  rw [hdue]
  refine (if_neg hmine).trans ?_
  rw [hcheck]
  exact if_neg (by rw [hfree]; decide)

end

theorem bistTestEnd_hearth {p : Part} {m : Mach} (hup : engineUp m = true) (n : Nat) (pass : Bool) :
    bistTestEnd false n pass p m = hearthTestEnd p m n pass := if_pos hup

theorem bistTestEnd_kiln {p : Part} {m : Mach} (hup : engineUp m = true) (g : Nat) (pass : Bool) :
    bistTestEnd true g pass p m = kilnTestEnd p m g pass := if_pos hup

/-- The cycles of a test are those of its parts, one after another. -/
theorem not_lt_hearthTestCycles {a c : Nat} (h : a + 512 + 147456 + 512 ≤ c) : ¬ c < a + hearthTestCycles true := by
  rw [show hearthTestCycles true = 512 + 147456 + 512 from rfl, ← Nat.add_assoc, ← Nat.add_assoc]
  exact Nat.not_lt.mpr h

theorem not_lt_hearthTestCycles_fail {a c : Nat} (h : a + 512 + 147456 ≤ c) : ¬ c < a + hearthTestCycles false := by
  rw [show hearthTestCycles false = 512 + 147456 from rfl, ← Nat.add_assoc]
  exact Nat.not_lt.mpr h

theorem not_lt_kilnTestCycles {a c : Nat} (h : a + 4096 + 49152 + 4096 ≤ c) : ¬ c < a + kilnTestCycles true := by
  rw [show kilnTestCycles true = 4096 + 49152 + 4096 from rfl, ← Nat.add_assoc, ← Nat.add_assoc]
  exact Nat.not_lt.mpr h

theorem not_lt_kilnTestCycles_fail {a c : Nat} (h : a + 4096 + 49152 ≤ c) : ¬ c < a + kilnTestCycles false := by
  rw [show kilnTestCycles false = 4096 + 49152 from rfl, ← Nat.add_assoc]
  exact Nat.not_lt.mpr h

section
variable {p : Part} {m : Mach} {n : Nat}

/-- R518: a hearth's test that passes gives the hearth back once its cycles have passed. -/
theorem hearthTestEnd_passes (hbist : (hearthOf m n).bist = true)
    (hlate : (hearthOf m n).bistAt + 512 + 147456 + 512 ≤ m.tick.cycle) :
    hearthTestEnd p m n true =
      endBist p (setHearth m n { hearthOf m n with bist := false }) (hearthOf m n).bistAcc stDone true false := by
  have hgo : ¬ ((!(hearthOf m n).bist) = true ∨ m.tick.cycle < (hearthOf m n).bistAt + hearthTestCycles true) := by
    rw [hbist]
    simp only [Bool.not_true, Bool.false_eq_true, false_or]
    exact not_lt_hearthTestCycles hlate
  unfold hearthTestEnd
  dsimp only
  rw [if_neg hgo, if_pos rfl]

/-- R518: a hearth's test that fails retires the hearth once its cycles have passed. -/
theorem hearthTestEnd_fails (hbist : (hearthOf m n).bist = true)
    (hlate : (hearthOf m n).bistAt + 512 + 147456 ≤ m.tick.cycle) :
    hearthTestEnd p m n false =
      endBist p (retireHearth p (setHearth m n { hearthOf m n with bist := false }) n 3) (hearthOf m n).bistAcc
        stChannelRetired true true := by
  have hgo : ¬ ((!(hearthOf m n).bist) = true ∨ m.tick.cycle < (hearthOf m n).bistAt + hearthTestCycles false) := by
    rw [hbist]
    simp only [Bool.not_true, Bool.false_eq_true, false_or]
    exact not_lt_hearthTestCycles_fail hlate
  unfold hearthTestEnd
  dsimp only
  rw [if_neg hgo, if_neg Bool.false_ne_true]

/-- R519: a kiln group's test that passes gives the group back once its cycles have passed. -/
theorem kilnTestEnd_passes (hbist : m.run.kilnSt.bist = some n)
    (hlate : m.run.kilnSt.bistAt + 4096 + 49152 + 4096 ≤ m.tick.cycle) :
    kilnTestEnd p m n true =
      endBist p { m with run := { m.run with kilnSt := { m.run.kilnSt with bist := none } } } m.run.kilnSt.bistAcc
        stDone true false := by
  have hgo : ¬ (m.run.kilnSt.bist ≠ some n ∨ m.tick.cycle < m.run.kilnSt.bistAt + kilnTestCycles true) := by
    rw [hbist]
    simp only [ne_eq, not_true_eq_false, false_or]
    exact not_lt_kilnTestCycles hlate
  unfold kilnTestEnd
  dsimp only
  rw [if_neg hgo, if_pos rfl]

/-- R519: a kiln group whose test fails stays on the spare once its cycles have passed. -/
theorem kilnTestEnd_fails (hbist : m.run.kilnSt.bist = some n)
    (hlate : m.run.kilnSt.bistAt + 4096 + 49152 ≤ m.tick.cycle) :
    kilnTestEnd p m n false =
      endBist p (report p (kilnPageRetired p
          { m with run := { m.run with kilnSt := { m.run.kilnSt with bist := none, served := some n } } })
        { code := 0x12, page := Reg.kilnPage, sev := .permanent, detail := [BitVec.ofNat 8 n, 1] })
        m.run.kilnSt.bistAcc stChannelRetired true true := by
  have hgo : ¬ (m.run.kilnSt.bist ≠ some n ∨ m.tick.cycle < m.run.kilnSt.bistAt + kilnTestCycles false) := by
    rw [hbist]
    simp only [ne_eq, not_true_eq_false, false_or]
    exact not_lt_kilnTestCycles_fail hlate
  unfold kilnTestEnd
  dsimp only
  rw [if_neg hgo, if_neg Bool.false_ne_true]

end

/-! ### CAL_MEASURE and LOG_SNAPSHOT (R294, R471) -/

theorem calMeasure_starts {p : Part} {m : Mach} {w q : Nat} {r : Running} (hdue : dueCmd p m w q 0x71 = some r)
    (hstage : r.stage = 0) (hfree : ∀ l ∈ maskList (bytesOf r.line 24 31 % 2 ^ 36) 36, (linkOf m l).meas = none) :
    calMeasure w q p m = startMeas p m r (maskList (bytesOf r.line 24 31 % 2 ^ 36) 36) (bytesOf r.line 32 33) := by
  have hnone : ¬ ((maskList (bytesOf r.line 24 31 % 2 ^ 36) 36).any fun l => (linkOf m l).meas.isSome) = true := by
    rw [List.any_eq_true]
    rintro ⟨l, hl, hmeas⟩
    rw [hfree l hl] at hmeas
    exact absurd hmeas (by decide)
  unfold calMeasure
  rw [hdue]
  exact (if_neg (fun hne => hne hstage)).trans (if_neg hnone)

section
variable {p : Part} {m : Mach} {w q : Nat} {r : Running} (hdue : dueCmd p m w q 0x78 = some r)
include hdue

theorem logSnapshot_starts (hstage : r.stage = 0) :
    logSnapshot w q p m =
      startWrites p (setRunning m { r with stage := 1 }) (bytesOf r.line 16 23 % 2 ^ 42)
        (snapshotHeader p m r.n ++ r.entries.flatMap fun e => leBytes 32 e.toNat) (.cmdWrite r.acc) := by
  unfold logSnapshot
  rw [hdue]
  dsimp only
  rw [if_pos hstage]

theorem logSnapshot_ends (hstage : r.stage = 1) (hok : r.memFail = false) (hwritten : txnsOut m (.cmdWrite r.acc) = false) :
    logSnapshot w q p m = complete m r stDone := by
  unfold logSnapshot
  rw [hdue]
  have hlater : ¬ r.stage = 0 := by
    rw [hstage]
    decide
  dsimp only
  rw [if_neg hlater, hok, hwritten, if_neg Bool.false_ne_true, if_neg Bool.false_ne_true]

end

/-- Settles O53: each test, measurement and copy where its command is due. -/
theorem selfTestsAnswer : Obligations.SelfTestsAnswer := by
  refine ⟨fun s w q r hdue hstage hunit => ⟨fun hcheck hfree => ?hearth, fun st hcheck => ?hearthFails⟩,
    fun s w q r hdue hstage hunit hcheck hfree => ?kiln,
    fun s n hup hbist => ⟨fun hlate => ?hearthPasses, fun hlate => ?hearthRetires⟩,
    fun s n hup hbist => ⟨fun hlate => ?kilnPasses, fun hlate => ?kilnRetires⟩,
    fun s w q r hdue hstage hfree => ?measure,
    fun s w q r hdue => ⟨fun hstage => ?snapshot, fun hstage hok hwritten => ?snapshotEnds⟩⟩
  case hearth =>
    have hgives : Gives (.bistRunHearth w q) s (bistRunHearth w q s.part s.m) := rfl
    exact hgives.trans_eq (bistRunHearth_takes hdue hstage hunit hcheck hfree)
  case hearthFails =>
    have hgives : Gives (.bistRunHearth w q) s (bistRunHearth w q s.part s.m) := rfl
    exact hgives.trans_eq (bistRunHearth_fails hdue hstage hunit hcheck)
  case kiln =>
    have hgives : Gives (.bistRunKiln w q) s (bistRunKiln w q s.part s.m) := rfl
    exact hgives.trans_eq (bistRunKiln_takes hdue hstage hunit hcheck hfree)
  case hearthPasses =>
    have hgives : Gives (.bistTestEnd false n true) s (bistTestEnd false n true s.part s.m) := rfl
    exact hgives.trans_eq ((bistTestEnd_hearth hup n true).trans
      (hearthTestEnd_passes hbist hlate))
  case hearthRetires =>
    have hgives : Gives (.bistTestEnd false n false) s (bistTestEnd false n false s.part s.m) := rfl
    exact hgives.trans_eq ((bistTestEnd_hearth hup n false).trans
      (hearthTestEnd_fails hbist hlate))
  case kilnPasses =>
    have hgives : Gives (.bistTestEnd true n true) s (bistTestEnd true n true s.part s.m) := rfl
    exact hgives.trans_eq ((bistTestEnd_kiln hup n true).trans
      (kilnTestEnd_passes hbist hlate))
  case kilnRetires =>
    have hgives : Gives (.bistTestEnd true n false) s (bistTestEnd true n false s.part s.m) := rfl
    exact hgives.trans_eq ((bistTestEnd_kiln hup n false).trans
      (kilnTestEnd_fails hbist hlate))
  case measure =>
    have hgives : Gives (.calMeasure w q) s (calMeasure w q s.part s.m) := rfl
    exact hgives.trans_eq (calMeasure_starts hdue hstage hfree)
  case snapshot =>
    have hgives : Gives (.logSnapshot w q) s (logSnapshot w q s.part s.m) := rfl
    exact hgives.trans_eq (logSnapshot_starts hdue hstage)
  case snapshotEnds =>
    have hgives : Gives (.logSnapshot w q) s (logSnapshot w q s.part s.m) := rfl
    exact hgives.trans_eq (logSnapshot_ends hdue hstage hok hwritten)

end Sys2Proof.Machine
end

section
/-! Contexts: saves, restores, kills, CTL and swap advice (O52, R401, R402, R412, R416, R417, R420, R426, R428). -/

namespace Sys2Proof.Machine

/-! ### Saves (R412, R416) -/

section
variable {p : Part} {m : Mach} {w q : Nat} {r : Running} {f : StoreRead} (hdue : dueCmd p m w q 0x60 = some r)
include hdue

/-- A save of a resident context that no swap holds begins. -/
theorem ctxSave_begins (hstage : r.stage = 0) (hdef : ctxDefined p (readFinds p m f) (swapCtx r.line) = true)
    (hres : (ctxOf (readFinds p m f) (swapCtx r.line)).resident = true)
    (hphase : (ctxOf (readFinds p m f) (swapCtx r.line)).phase = 0) :
    ctxSave w q f p m = startSave p (setRunning (readFinds p m f) { r with stage := 1 }) (swapCtx r.line) := by
  unfold ctxSave
  rw [hdue]
  dsimp only
  rw [if_pos hstage, hdef, hres, if_neg (by decide), if_neg (fun hne => hne hphase)]

theorem ctxSave_refused (hstage : r.stage = 0)
    (hbad : ctxDefined p (readFinds p m f) (swapCtx r.line) = false ∨
      (ctxOf (readFinds p m f) (swapCtx r.line)).resident = false) :
    ctxSave w q f p m = swapDone p (readFinds p m f) r stFormat := by
  have hnot : (!ctxDefined p (readFinds p m f) (swapCtx r.line) ||
      !(ctxOf (readFinds p m f) (swapCtx r.line)).resident) = true := by
    rw [Bool.or_eq_true, Bool.not_eq_true', Bool.not_eq_true']
    exact hbad
  unfold ctxSave
  rw [hdue]
  dsimp only
  rw [if_pos hstage, if_pos hnot]

section
variable (hstage : r.stage = 2) (hcopies : groupCopies (readFinds p m f) (swapCtx r.line) = false)
  (hwritten : txnsOut (readFinds p m f) (.cmdWrite r.acc) = false) {n : Mach}
include hstage hcopies hwritten

omit hdue in
/-- Past its drain, with nothing copied and its writes ended, a save is not held. -/
theorem save_notHeld : ¬ (r.stage = 1 ∨ groupCopies (readFinds p m f) (swapCtx r.line) = true ∨
    txnsOut (readFinds p m f) (.cmdWrite r.acc) = true) := by simp [hstage, hcopies, hwritten]

/-- A phase that does not end the save leaves it to wait for what it has written. -/
theorem ctxSave_goesOn
    (hnext : saveStage p (readFinds p m f) (swapCtx r.line) (swapArea r.line) (.cmdWrite r.acc) r.memFail = (none, n)) :
    ctxSave w q f p m = n := by
  unfold ctxSave
  rw [hdue]
  dsimp only
  rw [if_neg (by rw [hstage]; decide), if_neg (save_notHeld hstage hcopies hwritten), hnext]

/-- R416: a phase that fails ends the command with its status. -/
theorem ctxSave_fails
    (hnext : saveStage p (readFinds p m f) (swapCtx r.line) (swapArea r.line) (.cmdWrite r.acc) r.memFail = (some true, n)) :
    ctxSave w q f p m = swapDone p n r stUncorrectable := by
  unfold ctxSave
  rw [hdue]
  dsimp only
  rw [if_neg (by rw [hstage]; decide), if_neg (save_notHeld hstage hcopies hwritten), hnext]

/-- R412: the last phase ends the command. -/
theorem ctxSave_ends
    (hnext : saveStage p (readFinds p m f) (swapCtx r.line) (swapArea r.line) (.cmdWrite r.acc) r.memFail = (some false, n)) :
    ctxSave w q f p m = swapDone p n r stDone := by
  unfold ctxSave
  rw [hdue]
  dsimp only
  rw [if_neg (by rw [hstage]; decide), if_neg (save_notHeld hstage hcopies hwritten), hnext]

end

end

section
variable {p : Part} {m : Mach} {c area : Nat} {use : TxnUse}

/-- The image is written once the queue's blocks are. -/
theorem saveStage_image {n : Mach} (hphase : (ctxOf m c).phase = 2) (hspilled : spillsOut m c = false)
    (himage : imageOut p m c area use = (false, n)) : saveStage p m c area use false = (none, n) := by
  simp only [saveStage, hphase, hspilled, himage, Bool.false_eq_true, if_false]

theorem saveStage_written (hphase : (ctxOf m c).phase = 3) :
    saveStage p m c area use false = (none, releaseOut m c) := by
  unfold saveStage
  rw [hphase]
  exact if_neg Bool.false_ne_true

theorem saveStage_released (failed : Bool) (hphase : (ctxOf m c).phase = 4) :
    saveStage p m c area use failed = (some false, saveEnds p m c area) := by
  unfold saveStage
  rw [hphase]
  rfl

/-- R416: a write that failed ends a save that has not released its context. -/
theorem saveStage_failed (hphase : ((ctxOf m c).phase = 2 ∧ spillsOut m c = false) ∨ (ctxOf m c).phase = 3) :
    saveStage p m c area use true = (some true, saveFails p m c) := by
  obtain ⟨hqueue, hspilled⟩ | himage := hphase
  · simp only [saveStage, hqueue, hspilled, Bool.false_eq_true, if_false, if_true]
  · simp only [saveStage, himage, if_true]

end

/-- R412: the drain of a CTX_SAVE is over and its ring has room for the queue. -/
theorem ctxSaveDrainEnd_command {p : Part} {m : Mach} {c : Nat} {r : Running} (hup : engineUp m = true)
    (hfatal : isFatal p m = false) (hphase : (ctxOf m c).phase = 1) (hdrained : drained m c = true)
    (hfits : queueFits p m (ctxOf m c).slot c = true) (hcmd : savingCmd m c = some r) (hstage : r.stage = 1) :
    ctxSaveDrainEnd c p m = queueOut p (setRunning m { r with stage := 2 }) c := by
  have hgo : ¬ (!engineUp m || isFatal p m || decide ((ctxOf m c).phase ≠ 1) || !drained m c ||
      !queueFits p m (ctxOf m c).slot c) = true := by
    rw [hup, hfatal, hphase, hdrained, hfits]
    decide
  unfold ctxSaveDrainEnd
  refine (if_neg hgo).trans ?_
  rw [hcmd]
  exact if_pos hstage

/-! ### Restores (R417, R418) -/

section
variable {p : Part} {m : Mach} {w q : Nat} {r : Running} (hdue : dueCmd p m w q 0x61 = some r)
  (hcopies : partCopies p m (swapCtx r.line) = false)
include hdue hcopies

/-- A restore with AREA 0, no other restore of its context under way. -/
theorem ctxRestore_empty (hphase : (ctxOf m (swapCtx r.line)).phase ≠ 5) (harea : swapArea r.line = 0) :
    ctxRestore w q p m =
      swapDone p
        (if restoreCheck p m (swapCtx r.line) none = 0 then
          restoreEmpty p (takeParts p m (swapCtx r.line) 0 0) (swapCtx r.line)
         else restoreFails p m (swapCtx r.line) (restoreCheck p m (swapCtx r.line) none))
        r (restoreStatus (restoreCheck p m (swapCtx r.line) none)) := by
  unfold ctxRestore
  rw [hdue]
  dsimp only
  rw [if_neg (fun h => hphase h.2), hcopies, if_neg Bool.false_ne_true, if_pos harea]

/-- A restore whose image has been read whole. -/
theorem ctxRestore_body (hstage : r.stage = 1) (harea : swapArea r.line ≠ 0) (hread : txnsOut m (.cmdRead r.acc) = false) :
    ctxRestore w q p m =
      swapDone p (restoreBody p m (swapCtx r.line) (swapArea r.line) r.memFail).2 r
        (restoreStatus (restoreBody p m (swapCtx r.line) (swapArea r.line) r.memFail).1) := by
  have hlater : ¬ r.stage = 0 := by
    rw [hstage]
    decide
  unfold ctxRestore
  rw [hdue]
  dsimp only
  rw [if_neg (fun h => hlater h.1), hcopies, if_neg Bool.false_ne_true, if_neg harea, hread,
    if_neg Bool.false_ne_true, if_neg hlater]

end

/-! ### Kills (R420, R421) -/

section
variable {p : Part} {m : Mach} {w q : Nat} {r : Running} (hdue : dueCmd p m w q 0x62 = some r)
include hdue

/-- A kill takes effect on a defined context that no swap past its drain holds. -/
theorem ctxKill_begins (hstage : r.stage = 0) (hdef : ctxDefined p m (swapCtx r.line) = true)
    (hswap : m.run.autoSwap = none) (hphase : (ctxOf m (swapCtx r.line)).phase < 2) :
    ctxKill w q p m =
      (let c := swapCtx r.line
       let n := killAny p m c
       let n := if (ctxOf n c).phase = 0 then setCtx n c { ctxOf n c with phase := 6 } else n
       settleStopped p (killSettles p (setRunning n { r with stage := 1 }) { r with stage := 1 } c)) := by
  have hgo : ¬ (m.run.autoSwap.isSome || decide (2 ≤ (ctxOf m (swapCtx r.line)).phase ∧
      (ctxOf m (swapCtx r.line)).phase ≤ 5)) = true := by
    rw [hswap, decide_eq_false (by omega)]
    decide
  unfold ctxKill
  rw [hdue]
  dsimp only
  rw [if_pos hstage, hdef, if_neg (by decide), if_neg hgo]

/-- A kill whose write-backs have ended waits for the records of what it ended. -/
theorem ctxKill_settles (hstage : r.stage = 1) (hback : writeBackRuns m (swapCtx r.line) = false) :
    ctxKill w q p m = setRunning m { r with stage := 2, n := holdEnd p m (swapCtx r.line) } := by
  unfold ctxKill
  rw [hdue]
  dsimp only
  rw [if_neg (by rw [hstage]; decide), if_pos hstage]
  unfold killSettles
  rw [hback, if_neg Bool.false_ne_true]

/-- A kill whose commands have all their records is done. -/
theorem ctxKill_ends (hstage : r.stage = 2) (hhead : headReached p m (swapCtx r.line) r.n = true) :
    ctxKill w q p m =
      (let c := swapCtx r.line
       let n := if (ctxOf m c).phase = 6 then setCtx m c { ctxOf m c with phase := 0 } else m
       settleStopped p (complete n r stDone)) := by
  unfold ctxKill
  rw [hdue]
  dsimp only
  rw [if_neg (by rw [hstage]; decide), if_neg (by rw [hstage]; decide), if_pos hhead]

end

/-! ### CTL and swap advice (R401, R402, R426, R428) -/

section
variable {p : Part} {m : Mach} {src : Src} {c : Nat} {v : Word} (hc : c < 8)
  (hreach : writeGate p m src (Reg.ctxCtl c) = .pass)
include hc hreach

theorem ctlWrite_refused (href : ctlRefused p m c v = true) : ctlWrite src c v p m = ignored p m src (Reg.ctxCtl c) := by
  unfold ctlWrite
  rw [if_neg (by omega), gated_pass _ hreach, if_pos href]

theorem ctlWrite_taken (href : ctlRefused p m c v = false) :
    ctlWrite src c v p m =
      (let n := wr p m (Reg.ctxCtl c) (v &&& 0xE0FF00FF)
       let n := if !ctxDefined p m c && bitOf v 31 then defineCtx p n c else n
       if bitOf v 28 then clearFault p n c else n) := by
  unfold ctlWrite
  rw [if_neg (by omega), gated_pass _ hreach, href, if_neg Bool.false_ne_true]

end

/-- R428: the condition has held for HOLD_US, for the first time in its episode. -/
theorem swapAdvice_due {p : Part} {m : Mach} {t : Int} (hsince : (trackAdvice p m).run.adviceSince = some t)
    (hnew : (trackAdvice p m).run.adviceGiven = false) (hup : engineUp (trackAdvice p m) = true)
    (hfatal : isFatal p (trackAdvice p m) = false)
    (hheld : t + 1000 * fsPerNs * rdF p (trackAdvice p m) Reg.schedCtrl 23 8 ≤ (trackAdvice p m).tick.time) :
    swapAdvice p m =
      (let n := trackAdvice p m
       startAutoSwap p (setEvt p { n with run := { n.run with adviceGiven := true } } Reg.schedPage 0)) := by
  have hadvice : adviceDue p (trackAdvice p m) = true := by
    unfold adviceDue
    rw [hsince]
    exact decide_eq_true hheld
  unfold swapAdvice
  dsimp only
  rw [hup, hfatal, hnew, hadvice]
  exact if_pos rfl

/-- Settles O52: each row by its stage and phase, CTL behind its gate. -/
theorem swapsAnswer : Obligations.SwapsAnswer := by
  refine ⟨fun s w q r f hdue => ?save, fun s c r hup hfatal hphase hdrained hfits hcmd hstage => ?drainEnd,
    fun s w q r hdue => ⟨fun hstage hphase hcopies harea => ⟨fun hcheck => ?empty, fun hcheck => ?emptyFails⟩,
      fun hstage harea hcopies hread => ?body⟩,
    fun s w q r hdue => ⟨fun hstage hdef hswap hphase => ?kill, fun hstage hback => ?killSettles,
      fun hstage hhead => ?killEnds⟩,
    fun s src c v hc hreach => ⟨fun href => ⟨?ctlRefused, ?faultRefused⟩, fun href hclear => ?ctl,
      fun href hclear hdef => ?faultClr⟩,
    fun s t hsince hnew hup hfatal hheld => ?advice⟩
  case save =>
    have hgives : Gives (.ctxSave w q f) s (ctxSave w q f s.part s.m) := rfl
    intro m c
    refine ⟨fun hstage hdef hres hphase => hgives.trans_eq (ctxSave_begins hdue hstage hdef hres hphase),
      fun hstage hbad => hgives.trans_eq (ctxSave_refused hdue hstage hbad), fun hstage hcopies hwritten => ?_⟩
    refine ⟨fun n hphase hspilled hok himage => hgives.trans_eq (ctxSave_goesOn hdue hstage hcopies hwritten ?_),
      fun hphase hok => hgives.trans_eq (ctxSave_goesOn hdue hstage hcopies hwritten ?_),
      fun hphase => hgives.trans_eq (ctxSave_ends hdue hstage hcopies hwritten (saveStage_released _ hphase)),
      fun hphase hfail => hgives.trans_eq (ctxSave_fails hdue hstage hcopies hwritten ?_)⟩
    · rw [hok]
      exact saveStage_image hphase hspilled himage
    · rw [hok]
      exact saveStage_written hphase
    · rw [hfail]
      exact saveStage_failed hphase
  case drainEnd =>
    have hgives : Gives (.ctxSaveDrainEnd c) s (ctxSaveDrainEnd c s.part s.m) := rfl
    exact hgives.trans_eq (ctxSaveDrainEnd_command hup hfatal hphase hdrained hfits hcmd hstage)
  case empty =>
    have hgives : Gives (.ctxRestore w q) s (ctxRestore w q s.part s.m) := rfl
    refine hgives.trans_eq ((ctxRestore_empty hdue hcopies hphase harea).trans ?_)
    rw [if_pos hcheck, hcheck]
  case emptyFails =>
    have hgives : Gives (.ctxRestore w q) s (ctxRestore w q s.part s.m) := rfl
    refine hgives.trans_eq ((ctxRestore_empty hdue hcopies hphase harea).trans ?_)
    rw [if_neg hcheck]
  case body =>
    have hgives : Gives (.ctxRestore w q) s (ctxRestore w q s.part s.m) := rfl
    exact hgives.trans_eq (ctxRestore_body hdue hcopies hstage harea hread)
  case kill =>
    have hgives : Gives (.ctxKill w q) s (ctxKill w q s.part s.m) := rfl
    exact hgives.trans_eq (ctxKill_begins hdue hstage hdef hswap hphase)
  case killSettles =>
    have hgives : Gives (.ctxKill w q) s (ctxKill w q s.part s.m) := rfl
    exact hgives.trans_eq (ctxKill_settles hdue hstage hback)
  case killEnds =>
    have hgives : Gives (.ctxKill w q) s (ctxKill w q s.part s.m) := rfl
    exact hgives.trans_eq (ctxKill_ends hdue hstage hhead)
  case ctlRefused =>
    have hgives : GivesW src (.ctlWrite src c v) s (ctlWrite src c v s.part s.m) := rfl
    exact hgives.trans_eq (ctlWrite_refused hc hreach href)
  case faultRefused =>
    have hgives : GivesW src (.faultClr src c v) s (ctlWrite src c v s.part s.m) := rfl
    exact hgives.trans_eq (ctlWrite_refused hc hreach href)
  case ctl =>
    have hgives : GivesW src (.ctlWrite src c v) s (ctlWrite src c v s.part s.m) := rfl
    refine hgives.trans_eq ((ctlWrite_taken hc hreach href).trans ?_)
    dsimp only
    rw [hclear, if_neg Bool.false_ne_true]
  case faultClr =>
    have hgives : GivesW src (.faultClr src c v) s (ctlWrite src c v s.part s.m) := rfl
    refine hgives.trans_eq ((ctlWrite_taken hc hreach href).trans ?_)
    dsimp only
    rw [hclear, hdef, Bool.not_true, Bool.false_and, if_neg Bool.false_ne_true, if_pos rfl]
  case advice =>
    have hgives : Gives .swapAdvice s (swapAdvice s.part s.m) := rfl
    exact hgives.trans_eq (swapAdvice_due hsince hnew hup hfatal hheld)

end Sys2Proof.Machine
end
